-- ==== Sys2Proof/Word.lean ====
section
/-! DEFINITION. Words of the module: bytes, binary words and the little-endian order of R8. -/

namespace Sys2Proof

/-- One byte of a datagram, a DOMAIN block or a stored record (R8). -/
abbrev Byte := BitVec 8

/-- The bits of an IEEE 754 binary32 value (Table 0.2, F32). -/
abbrev F32 := BitVec 32

/-- The bits of an IEEE 754 binary16 value (Table 0.2, F16). -/
abbrev F16 := BitVec 16

/-- The bits of an IEEE 754 binary64 value (R184 computes in binary64). -/
abbrev F64 := BitVec 64

/-- The low `k` bytes of `n`, least significant byte first (R8). -/
def leBytes : Nat → Nat → List Byte
  | 0, _ => []
  | k + 1, n => BitVec.ofNat 8 n :: leBytes k (n / 256)

/-- The number whose bytes, least significant first, are the given ones (R8). -/
def ofLeBytes : List Byte → Nat
  | [] => 0
  | b :: bs => b.toNat + 256 * ofLeBytes bs

end Sys2Proof
end

