-- ==== Sys2Proof/Syntax.lean ====
section
/-! DEFINITION. The commands of the module: one constructor of `Instr` for each row of spec/opcode_table.json.
The table gives its rows no bits, so the operands are what the row's rule says the event carries: the bytes of a
datagram or block, the value of a write, the unit concerned, and what a sensor or a bus delivers with the event. -/

namespace Sys2Proof

/-- Where a write comes from: the kinds of LW_KIND (Table 2.14). A forwarded datagram carries its original
source (R362). -/
inductive Origin where
  | jop (addr : BitVec 32) (port : BitVec 16)
  | sdo
  | tile
deriving DecidableEq, Repr

/-- What the dies report at an edge for the epoch just ended. -/
structure EdgeMeas where
  /-- Group supplies, V (0x3450+g:04). -/
  groups : List (Fin 3 × F32) := []
  /-- DXI field supplies, V (0x3680+g:03). -/
  fields : List (Fin 8 × F32) := []
  /-- The load of the backbone over the last 100 ms, %, and its longest unreserved wait, ns (R460, Table 19.5). -/
  backbone : Option (Nat × Nat) := none
  /-- LOGIC_W and STAGE_W, means over the last second (R482). -/
  power : Option (F32 × F32) := none
deriving DecidableEq, Repr

/-- How CLE-A and CLE-B behave on one update (R130). -/
inductive LockFault where
  /-- They disagree, no residue check fires, and the retry agrees. -/
  | disagree
  /-- They disagree and disagree again in the retry. -/
  | disagreeAgain
  /-- They disagree and the residue check of CLE-A (false) or CLE-B (true) fires. -/
  | residue (sideB : Bool)
deriving DecidableEq, Repr

/-- What the work of a KINDLING step finds (Table 3.5). -/
structure KindlingFinding where
  /-- A detector of the step reports a permanent fault: its code and unit ID (R88). -/
  fault : Option (Nat × Nat) := none
  /-- Copies whose digest does not verify at K3: region, and false for the active copy (R375). -/
  badCopies : List (Fin 10 × Bool) := []
  /-- A piece of a COMPLETE build does not verify again at K3 (R375). -/
  badBuild : Bool := false
  /-- CLE instances that fail their self-test at K5, false for CLE-A (R132). -/
  selfTest : List Bool := []
  /-- Shaper programs whose stored words were altered since the last check (R211). -/
  badPrograms : List (Fin 128) := []
  /-- Stored lines that fail their CHECK at K7 (R195). -/
  badLines : List (Fin 64) := []
  /-- Recorder records with no valid copy at K2: a measure, or 0x10000 + a fault code (R394). -/
  lostRecords : List Nat := []
  /-- Newest housekeeping temperatures by which coil models start at K6, per channel, °C (R217). -/
  ambient : List (Fin 48 × F32) := []
deriving DecidableEq, Repr

/-- One raw measurement (Table 9.3). -/
structure RawRec where
  signal : Nat
  sv : Nat
  ant : Nat
  cn0 : Nat
  pseudorange : Nat
  carrier : Int
  doppler : Int
  lockMs : Nat
  flags : Nat
deriving DecidableEq, Repr

/-- A signal in view of an antenna: what a channel can track (R257). CN0 is in 0.25 dB-Hz. -/
structure GnssSignal where
  ant : Fin 2
  signal : Fin 15
  sv : Nat
  elevation : F32
  cn0 : Nat
deriving DecidableEq, Repr

/-- The heading part of a solution (R265). -/
structure HeadingSol where
  heading : F32
  tilt : F32
  rate : F32
  baseline : F32
  sd : F32
  /-- Satellites common to both antennas with resolved ambiguities. -/
  resolved : Nat
deriving DecidableEq, Repr

/-- A PVT and heading solution as the solution software hands it over (R263, R270). -/
structure Solution where
  /-- Table 9.4. -/
  kind : Fin 6
  /-- Measurement edge, the source epoch (R260). -/
  edge : Nat
  lat : Int
  lon : Int
  hgt : Int
  velN : F32
  velE : F32
  velU : F32
  speed : F32
  course : F32
  hAcc : F32
  pdop : F32
  /-- The GPS week is known (R270). -/
  weekKnown : Bool
  /-- Estimated time error, ns (R270). -/
  timeErrNs : Nat
  /-- Offset o, module time minus GPS time at the edge, before the correction for ANT0_DELAY, ps (R270). While module time has no
  label, `gpsMs` stands for it. -/
  offsetPs : Int
  /-- GPS millisecond of the measurement edge by this solution (R27). -/
  gpsMs : Nat
  /-- Age of the corrections used, ms; none without corrections. -/
  corrAge : Option Nat
  heading : Option HeadingSol
deriving DecidableEq, Repr

/-- A decoded navigation word (R262). -/
structure NavWord where
  signal : Fin 15
  sv : Nat
  ant : Fin 2
  /-- The last two bits of the word before it, which the parity of LNAV needs; none where that word was lost. -/
  before : Option (Bool × Bool)
  bits : Nat
  data : List Byte
  /-- Leap seconds, where the word carries them. -/
  leap : Option Int
deriving DecidableEq, Repr

/-- The format fields a stream or a port shows with a frame (R284, R285). -/
structure FrameFormat where
  width : Nat
  lines : Nat
  bits : Nat
  cfa : Nat
  /-- Progressive, not interlaced; a raw pixel format, not YUV, RGB or a compressed one. -/
  progressive : Bool
  raw : Bool
deriving DecidableEq, Repr

/-- One RVF packet of CAM1–CAM7 (R285). -/
structure RvfPacket where
  streamId : BitVec 64
  format : FrameFormat
  /-- First packet of its frame, with its AVTP timestamp: the low 32 bits of the 802.1AS time in ns (R286). -/
  first : Option (BitVec 32)
  last : Bool
  /-- A packet before this one was lost. -/
  gap : Bool
  /-- The lines carried, raw codes. -/
  rows : List (List Nat)
deriving DecidableEq, Repr

/-- What the encoder makes of a picture (R295, R296): its H.265 bytes at each QP, and those of a skipped picture. -/
structure CodedPicture where
  codes : List (Nat × List Byte)
  skip : List Byte
  /-- Completed within Table 10.8 step 6. -/
  inTime : Bool
deriving DecidableEq, Repr

/-- One detection or cluster offered to fusion, machine frame (R308, R314). -/
structure Detection where
  x : F32
  y : F32
  length : F32
  width : F32
  /-- Table 11.2. -/
  cls : Fin 5
deriving DecidableEq, Repr

/-- A CAN frame (R328). -/
structure CanFrame where
  id : BitVec 29
  ext : Bool
  fdf : Bool
  brs : Bool
  esi : Bool
  rtr : Bool
  data : List Byte
deriving DecidableEq, Repr

/-- How one transmission attempt of the offered frame ends (R339, R340, R344). -/
inductive TxEnd where
  /-- Sent; SOF as module time in ns, and the loop delay measured in mtq where a data phase was sent (R332). -/
  | sent (sofNs : Nat) (loopMtq : Option Nat)
  /-- An error frame ended the attempt. -/
  | error
deriving DecidableEq, Repr

/-- An IPv4 UDP datagram or the frame that carried it (R348, R349). -/
structure UdpIn where
  port : Fin 12
  src : BitVec 32
  dst : BitVec 32
  srcPort : BitVec 16
  dstPort : BitVec 16
  /-- An IP fragment or a header with options. -/
  irregular : Bool
  data : List Byte
deriving DecidableEq, Repr

/-- A module record carried in a HELLO (R357). -/
structure HelloRec where
  identity : Nat
  number : Nat
  state : Nat
  n0 : Nat
  n1 : Nat
  seq : Nat
deriving DecidableEq, Repr

/-- A HELLO (R357). -/
structure Hello where
  identity : Nat
  numberKind : Nat
  fix : Nat
  tErr : Nat
  t1 : Nat
  t2 : Nat
  t3 : Nat
  /-- PHY timestamp of its arrival. -/
  t4 : Nat
  records : List HelloRec
deriving DecidableEq, Repr

/-- A fabric JOP frame (Table 13.1). -/
structure FabFrame where
  src : Nat
  dst : Nat
  hops : Nat
  origAddr : BitVec 32
  origPort : BitVec 16
  payload : List Byte
deriving DecidableEq, Repr

/-- What stands at the pin of an isolated channel: its voltage in mV, and the instant of the epoch in µs (R244, R245). -/
structure PinSample where
  mV : Int
  atUs : Fin 1000
deriving DecidableEq, Repr

/-- A burst in BANKED: the signals at the antennas and the solution (R277). -/
structure GnssBurst where
  signals : List GnssSignal
  sol : Solution
deriving DecidableEq, Repr

/-- A housekeeping reading (R424–R428). [DESIGN CHOICE: log 86] -/
inductive HkReading where
  /-- A temperature in °C, or an invalid reading: 1 OPEN, 2 SHORT, 3 RANGE. -/
  | diode (v8 : F32) (v128 : F32)
  | ntc (ohm : F32)
  | temp (t : F32)
  | invalid (status : Fin 4)
  /-- A supply or rail, V. -/
  | volts (v : F32)
  /-- A reference of the measuring chain, and whether it is within 0.2 %. -/
  | reference (ok : Bool)
deriving DecidableEq, Repr

/-- The commands. [DESIGN CHOICE: log 86] -/
inductive Instr where
  -- epochs and links (01)
  | epochEdge (m : EdgeMeas)
  | applicationSetClose
  | copyServable
  | epochCounterSave
  | driveLinkFrame (link : Fin 18) (toDxc : Bool) (good : Bool) (dxa : List (Fin 16 × List Int))
  | driveLinkFail (link : Fin 18)
  | linkSilenceSafe (link : Fin 18)
  | edgeMarkerFrame (link : Fin 18) (lost : Fin 8)
  -- object dictionary (02)
  | jopDatagram (addr : BitVec 32) (port : BitVec 16) (ahead : Nat) (data : List Byte)
  | read (org : Origin) (copy : Nat) (index : BitVec 16) (sub : BitVec 8) (type : BitVec 8)
  | write (org : Origin) (index : BitVec 16) (sub : BitVec 8) (type : BitVec 8) (data : List Byte)
  | snapshot (org : Origin) (target : Nat) (entries : List (BitVec 16 × BitVec 8))
  | snapshotCapture (slot : Fin 8)
  | snapRelease (org : Origin) (slot : Fin 8) (value : Byte)
  | snapshotExpiry (slot : Fin 8)
  | cordOpen (org : Origin)
  | cordAdd (org : Origin) (handle : BitVec 16) (index : BitVec 16) (sub : BitVec 8) (type : BitVec 8) (data : List Byte)
  | cordCommit (handle : BitVec 16) (epoch : Nat)
  | cordAbort (handle : BitVec 16)
  | cordExpired (slot : Fin 32)
  | domainSegRead (org : Origin) (copy : Nat) (index : BitVec 16) (sub : BitVec 8) (offset : Nat) (maxLen : Nat)
  | domainSegWrite (org : Origin) (index : BitVec 16) (sub : BitVec 8) (offset : Nat) (data : List Byte) (last : Bool)
  | frozenReadExpiry (org : Origin) (index : BitVec 16) (sub : BitVec 8)
  | domainTransferIdle (index : BitVec 16) (sub : BitVec 8)
  | sdoUploadInitiate (index : BitVec 16) (sub : BitVec 8)
  | sdoUploadSegment (toggle : Bool)
  | sdoDownloadInitiate (index : BitVec 16) (sub : BitVec 8) (expedited : Option (List Byte)) (size : Option Nat)
  | sdoDownloadSegment (toggle : Bool) (data : List Byte) (last : Bool)
  | sdoSegmentTimeout
  | heartbeat (org : Origin) (value : BitVec 32)
  | hbTimeout (org : Origin) (value : BitVec 16)
  | lwQuery (org : Origin) (value : BitVec 32)
  -- modes (03)
  | modeRequest (org : Origin) (value : Byte)
  /-- `tenVolts`: the feed stands at 10 V or more. -/
  | feedOn (keyActive tenVolts : Bool)
  | feedLow
  | feedLoss
  | feedRestored
  | kindlingStepEnd (f : KindlingFinding)
  | heartbeatMiss
  | keyInputChange (active : Bool)
  | keyOffDelayExpiry
  | can0WakePattern
  | wakeTimerExpiry
  | thermalResume
  -- control engine (04)
  | wheelSlot (slot : Fin 200) (faults : List (Fin 768 × LockFault))
  | structuralWrite (org : Origin) (writes : List (BitVec 16 × BitVec 8 × Nat))
  | faultInjection (org : Origin) (index : BitVec 16) (sub : BitVec 8) (value : Nat)
  | ashClear (org : Origin) (unit : BitVec 32)
  -- machine functions (05)
  | modeReq (org : Origin) (slot : Fin 30) (value : Byte)
  | slotBindingWrite (org : Origin) (writes : List (BitVec 16 × BitVec 8 × Nat))
  | canMapCompose (slot : Fin 30)
  | slopeCapCycle
  | slopeCapComplete
  | yieldRecordComplete
  | deferredRecordFlush
  | mapNumber (org : Origin) (value : BitVec 16)
  | crop (org : Origin) (value : Byte)
  | mapDelete (org : Origin) (value : BitVec 16)
  -- guidance (06)
  | guidanceCycle
  | guidanceCycleComplete
  | guidanceCycleLost
  | engageCmd (org : Origin) (value : Byte)
  | guideEnable (org : Origin) (value : Byte)
  | lineData (org : Origin) (block : List Byte)
  | lineDelete (org : Origin) (value : Byte)
  | opPresentChange (active : Bool)
  | speedOutOfRangeExpiry
  | coastExpiry
  -- valve drive (07)
  | valveCommand (ch : Fin 48) (value : F32)
  | shaperTick (currents : List (Fin 48 × F32))
  | seti (ch : Fin 48) (operand : BitVec 12)
  | ramp (ch : Fin 48) (operand : BitVec 12)
  | wait (ch : Fin 48) (operand : BitVec 12)
  | dither (ch : Fin 48) (operand : BitVec 12)
  | loop (ch : Fin 48) (operand : BitVec 12)
  | mark (ch : Fin 48) (operand : BitVec 12)
  | peakwin (ch : Fin 48) (operand : BitVec 12)
  | quench (ch : Fin 48) (operand : BitVec 12)
  | endProgram (ch : Fin 48)
  | peakTimeExpiry (ch : Fin 48)
  | overlapWinExpiry (ch : Fin 48)
  | quenchComplete (bank : Fin 12) (clampJ : F32)
  | code (org : Origin) (program : Fin 128) (block : List Byte)
  | lowSideHardCut (ch : Fin 48)
  | bankSwitchTrip (bank : Fin 12)
  | bankReclose (bank : Fin 12)
  -- load switches and isolated I/O (08)
  | loadSwitchCommand (ch : Fin 48) (value : F32)
  | wireCurveUpdate (sec : Fin 6) (spacing : Fin 101) (samples : List (List F32))
  | hardShortCutoff (ch : Fin 48)
  | inrushWindowEnd (ch : Fin 48)
  | lsRetry (ch : Fin 48)
  | sectionRestore (sec : Fin 6)
  | junctionLatchSet (ch : Fin 48)
  | junctionLatchClear (ch : Fin 48)
  | lampPeriodStart (ch : Fin 48)
  | sectionVoltageFilter (sec : Fin 6) (vMs : F32)
  | openLoadDetect (ch : Fin 48)
  | dioInputEdge (ch : Fin 128) (pin : PinSample) (overrun : Bool)
  | doCmd (ch : Fin 128) (value : Bool)
  | dioOutputOverload (ch : Fin 128)
  | dioOverloadRetry (target : Fin 128 ⊕ Fin 8)
  | dioGroupOvercurrent (grp : Fin 8)
  | dioMismatchDetect (ch : Fin 128)
  | barrierFrame (grp : Fin 8) (good : Bool)
  | groupSilence (grp : Fin 8)
  -- GNSS and time (09)
  | measurementEdge (noiseRise : F32) (signals : List GnssSignal)
  | rawSetComplete (records : List RawRec)
  | solutionComplete (sol : Solution)
  | navWordDecoded (word : NavWord)
  | rtcmFrame (udp : Bool) (frame : List Byte)
  | rtcmIn (org : Origin) (block : List Byte)
  | rtcmDatagram (data : List Byte)
  | correctionsLapse
  | clockCorrectionUpdate (ppt : Int)
  | timeSolutionLoss
  | ppsLeadingEdge (p : Fin 2)
  | ppsTrailingEdge (p : Fin 2)
  | antennaBiasOpen (ant : Fin 2)
  | antennaBiasShort (ant : Fin 2)
  | antennaBiasRetry (ant : Fin 2) (holds : Bool)
  | gnssBurst (burst : GnssBurst)
  -- vision (10)
  | cam0FrameStart (vsyncNs : Nat)
  | cam0FrameEnd (format : FrameFormat) (rows : List (List Nat))
  | rvfPacket (cam : Fin 7) (p : RvfPacket)
  | memoryPipeTake
  | frameProcessed (cam : Fin 8)
  | cameraLost (cam : Fin 8)
  | pictureCoded (cam : Fin 8) (p : CodedPicture)
  | codedRecordFlush
  -- fusion (11)
  | fusionCycle
  | fusionCycleComplete (ego : Bool)
  | fusionCycleLost
  | lidarDatagram (n : Fin 4) (data : List Byte)
  | egoCoastExpiry
  | tileDetectionsComplete (src : Fin 16) (sourceEpoch : Nat) (found : List Detection)
  -- CAN and Ethernet (12)
  /-- `sofNs`: module time of the SOF, ns. -/
  | canFrameReceived (port : Fin 12) (frame : CanFrame) (sofNs : Nat)
  | canFrameTransmitted (port : Fin 12) (outcome : TxEnd)
  | canFrameLifetimeExpiry (port : Fin 12)
  | txSubmit (org : Origin) (port : Fin 12) (block : List Byte)
  | addressClaimReceived (port : Fin 12) (name : BitVec 64) (addr : Byte)
  | claimSettleExpiry (port : Fin 12)
  | busOff (port : Fin 12) (tec : Nat) (rec : Nat)
  | recover (org : Origin) (port : Fin 12) (value : Byte)
  | recoveryComplete (port : Fin 12)
  | timeReferenceMessage (port : Fin 12)
  | canTimingWrite (org : Origin) (port : Fin 12) (writes : List (BitVec 8 × Nat))
  | filterList (org : Origin) (port : Fin 12) (block : List Byte)
  | ethLinkChange (port : Fin 14) (up : Bool)
  | udpDatagram (d : UdpIn)
  | arpRequest (port : Fin 12) (target : BitVec 32)
  | icmpEchoRequest (port : Fin 12) (src : BitVec 32) (dst : BitVec 32) (data : List Byte)
  | gptpSync (port : Fin 12)
  | gptpPeerDelayRequest (port : Fin 12) (rxNs : Nat)
  | foreignAnnounce (port : Fin 12)
  | ethFrameDiscarded (port : Fin 12)
  -- fabric (13)
  | helloSend
  | helloReceived (f : Fin 2) (h : Hello)
  | fabricLinkTimeout (f : Fin 2)
  | moduleRecordTimeout (identity : Nat)
  | settlingEnd
  | numberHoldExpiry (m : Fin 16)
  | jopRequestFrame (f : Fin 2) (frame : FabFrame)
  | jopResponseFrame (f : Fin 2) (frame : FabFrame)
  | otherFabricPortFrame (f : Fin 2)
  -- field update (14)
  | updPkg (org : Origin) (block : List Byte)
  | buildComplete (b : Fin 4)
  | buildHeld (b : Fin 4)
  | buildResume (b : Fin 4)
  | abort (org : Origin) (b : Fin 4) (value : Byte)
  | healthConfirm
  | trialWindowEnd
  | updAccept (org : Origin) (value : Byte)
  | profileSelect (org : Origin) (value : Byte)
  | buildWriteError (b : Fin 4)
  -- recorder (15)
  | measureSample (m : Fin 256)
  | recorderCommit
  | commitNow (org : Origin) (value : Byte)
  | commitComplete (rec : Nat)
  | recClear (org : Origin) (value : BitVec 16)
  /-- The writes as SUB and value bytes. -/
  | measureConfigWrite (org : Origin) (writes : List (BitVec 8 × List Byte))
  | faultBinH (org : Origin) (value : BitVec 16)
  -- service face (16)
  | faceUpdate (org : Origin) (block : List Byte)
  | panelRailsUp (panel : Fin 2)
  | panelFrame (panel : Fin 2)
  | railIdleExpiry (panel : Fin 2)
  | dxp60Detected (vcomMv : BitVec 16)
  | dxp60Lost
  -- clocks, power, temperature (17)
  | pllWindow (pll : Fin 4) (driftPs : Int)
  | pllReturn (pll : Fin 4)
  | hearthPpbMeasurement (ppb : F32)
  | gateEnable (org : Origin) (node : Fin 21) (value : Byte)
  | gateClosed (node : Fin 21)
  | housekeepingSlot (slot : Fin 128) (r : HkReading)
  | derateStep
  | emberSensorRead (hearth : HkReading) (mram : HkReading)
  | fnDemandEvaluation
  -- faults (18)
  | faultDetected (fcode : BitVec 16) (unit : BitVec 32)
  | faultHandlerTake
  | retryOutcome (fcode : BitVec 16) (unit : BitVec 32)
deriving DecidableEq, Repr

end Sys2Proof
end

