-- ==== Sys2Proof/Machine/Crc.lean ====
section
/-! DEFINITION. Cyclic redundancy checks the rules name by polynomial, and the checks of navigation words. -/

namespace Sys2Proof.Machine

/-- `n` steps of a reflected CRC. -/
def crcReflStep (poly : Nat) : Nat → Nat → Nat
  | 0, r => r
  | n + 1, r => crcReflStep poly n (if r % 2 = 1 then (r / 2) ^^^ poly else r / 2)

/-- CRC-32 with the IEEE 802.3 polynomial (R180): reflected, all ones in, inverted out. -/
def crc32 (b : List Byte) : Nat :=
  (b.foldl (fun r x => crcReflStep 0xEDB88320 8 (r ^^^ x.toNat)) 0xFFFFFFFF) ^^^ 0xFFFFFFFF

/-- `n` steps of CRC-24Q, most significant bit first. -/
def crc24Step : Nat → Nat → Nat
  | 0, r => r
  | n + 1, r => crc24Step n (if 0x800000 ≤ r then (2 * r) ^^^ 0x1864CFB else 2 * r)

/-- CRC-24Q of RTCM 3 frames and navigation words (R255, R266). [PRESUMED: log 66] -/
def crc24q (b : List Byte) : Nat := b.foldl (fun r x => crc24Step 8 (r ^^^ (x.toNat * 65536))) 0

/-! ## Navigation words (R255) -/

/-- The first bits of a word, first received bit first. -/
def wordBits (data : List Byte) (bits : Nat) : List Bool :=
  (List.range bits).map fun i => (data[i / 8]?.getD 0).toNat / 2 ^ (7 - i % 8) % 2 = 1

/-- The parity of the bits at places counted from 1. -/
def xorAt (w : List Bool) (places : List Nat) : Bool := places.foldl (fun x i => x != w[i - 1]?.getD false) false

/-- A word's data and check bits together leave no remainder under CRC-24Q. [PRESUMED: log 66] -/
def crc24Word (w : List Bool) : Bool :=
  24 ≤ w.length && w.foldl (fun r b => crc24Step 1 (if b then r ^^^ 0x800000 else r)) 0 = 0

/-- The six parity bits of an LNAV word, from its 24 data bits and the last two bits of the word before it (IS-GPS-200):
per parity bit, whether the last but one of those two enters (else the last one), and the data bits.
[PRESUMED: log 66] -/
def lnavRows : List (Bool × List Nat) :=
  [(true, [1, 2, 3, 5, 6, 10, 11, 12, 13, 14, 17, 18, 20, 23]),
    (false, [2, 3, 4, 6, 7, 11, 12, 13, 14, 15, 18, 19, 21, 24]),
    (true, [1, 3, 4, 5, 7, 8, 12, 13, 14, 15, 16, 19, 20, 22]),
    (false, [2, 4, 5, 6, 8, 9, 13, 14, 15, 16, 17, 20, 21, 23]),
    (false, [1, 3, 5, 6, 7, 9, 10, 14, 15, 16, 17, 18, 21, 22, 24]),
    (true, [3, 5, 6, 8, 9, 10, 11, 13, 15, 19, 22, 23, 24])]

/-- An LNAV word of 30 bits keeps its parity; the data bits are sent inverted after a word that ends in a one.
[PRESUMED: log 66] -/
def lnavOk (before : Bool × Bool) (w : List Bool) : Bool :=
  let d := (w.take 24).map (· != before.2)
  w.length = 30 && (lnavRows.zip (w.drop 24)).all fun r =>
    r.2 = ((if r.1.1 then before.1 else before.2) != xorAt d r.1.2)

/-- The bits that each checksum of a GLONASS string covers beside its own check bit, by their numbers, bit 85 received
first. [PRESUMED: log 66] -/
def glonassSums : List (List Nat) :=
  [[9, 10, 12, 13, 15, 17, 19, 20, 22, 24, 26, 28, 30, 32, 34, 35, 37, 39, 41, 43, 45, 47, 49, 51, 53, 55, 57, 59, 61, 63,
      65, 66, 68, 70, 72, 74, 76, 78, 80, 82, 84],
    [9, 11, 12, 14, 15, 18, 19, 21, 22, 25, 26, 29, 30, 33, 34, 36, 37, 40, 41, 44, 45, 48, 49, 52, 53, 56, 57, 60, 61, 64,
      65, 67, 68, 71, 72, 75, 76, 79, 80, 83, 84],
    [10, 11, 12, 16, 17, 18, 19, 23, 24, 25, 26, 31, 32, 33, 34, 38, 39, 40, 41, 46, 47, 48, 49, 54, 55, 56, 57, 62, 63, 64,
      65, 69, 70, 71, 72, 77, 78, 79, 80, 85],
    (List.range 7).map (· + 13) ++ (List.range 8).map (· + 27) ++ (List.range 8).map (· + 42) ++ (List.range 8).map (· + 58)
      ++ (List.range 8).map (· + 73),
    (List.range 15).map (· + 20) ++ (List.range 16).map (· + 50) ++ (List.range 5).map (· + 81),
    (List.range 31).map (· + 35), (List.range 20).map (· + 66)]

/-- A GLONASS string of 85 bits passes its Hamming check: no checksum fails, or one check bit alone is wrong.
[PRESUMED: log 66] -/
def glonassOk (w : List Bool) : Bool :=
  let b := w.reverse
  let fails := ((List.range 7).filter fun i => xorAt b ((i + 1) :: (glonassSums[i]?.getD []))).length
  let total := xorAt b ((List.range 85).map (· + 1))
  w.length = 85 && ((fails = 0 && !total) || (fails = 1 && total))

/-- 15 bits are a code word of BCH (15, 11), whose generator is x⁴ + x + 1. [PRESUMED: log 66] -/
def bchOk (w : List Bool) : Bool :=
  w.foldl (fun r b => let x := 2 * r + (if b then 1 else 0); if 16 ≤ x then x ^^^ 0x13 else x) 0 = 0

/-- A BeiDou word of 30 bits: two code words interleaved bit by bit, or, in the word that begins a subframe with its
preamble, 15 bits without a code and one code word. [PRESUMED: log 66] -/
def beidouOk (w : List Bool) : Bool :=
  let at_ := fun r : Nat => (List.range 15).map fun i => w[2 * i + r]?.getD false
  let preamble := [true, true, true, false, false, false, true, false, false, true, false]
  w.length = 30 && (if w.take 11 = preamble then bchOk (w.drop 15) else bchOk (at_ 0) && bchOk (at_ 1))

/-- CHECK of a word (R255, R262): 0 PASS, 1 FAIL, 2 NOT_CHECKABLE. -/
def navCheck (signal : Nat) (before : Option (Bool × Bool)) (w : List Bool) : Nat :=
  let code := fun ok : Bool => if ok then 0 else 1
  if signal = 0 || signal = 12 then
    match before with
    | none => 2
    | some b => code (lnavOk b w)
  else if signal = 7 || signal = 8 then code (glonassOk w)
  else if signal = 9 then code (beidouOk w)
  else code (crc24Word w)

end Sys2Proof.Machine
end

