-- ==== Sys2Proof/Machine/Float.lean ====
section
/-! DEFINITION. IEEE 754 arithmetic on bit patterns held as numbers: binary16, binary32 and binary64 (Table 0.2,
R104, R184). Results are rounded to nearest, ties to even. -/

namespace Sys2Proof.Machine

/-- A binary format: `p` bits of significand, the hidden one included, and `w` bits of exponent. -/
structure Fmt where
  p : Nat
  w : Nat
deriving DecidableEq, Repr

/-- binary16, the F16 of Table 0.2. -/
def fmt16 : Fmt := ⟨11, 5⟩
/-- binary32, the F32 of Table 0.2. -/
def fmt32 : Fmt := ⟨24, 8⟩
/-- binary64, in which guidance computes (R184). -/
def fmt64 : Fmt := ⟨53, 11⟩

/-- Exponent of the lowest significand bit of the smallest values of a format. -/
def Fmt.emin (f : Fmt) : Int := 3 - (2 : Int) ^ (f.w - 1) - (f.p : Int)

/-- The bits of +∞. -/
def Fmt.inf (f : Fmt) : Nat := (2 ^ f.w - 1) * 2 ^ (f.p - 1)

/-- The weight of the sign bit. -/
def Fmt.signBit (f : Fmt) : Nat := 2 ^ (f.w + f.p - 1)

/-- The quiet NaN a format's invalid operations give. [DEDUCED: log 74] -/
def Fmt.nan (f : Fmt) : Nat := f.inf + 2 ^ (f.p - 2)

/-- A value taken apart: (−1)^neg · m · 2^e. -/
inductive FVal where
  | nan
  | inf (neg : Bool)
  | fin (neg : Bool) (m : Nat) (e : Int)
deriving DecidableEq, Repr

/-- Whether the sign bit is set. -/
def fNeg (f : Fmt) (b : Nat) : Bool := b / f.signBit % 2 = 1

/-- The bits without the sign. -/
def fMag (f : Fmt) (b : Nat) : Nat := b % f.signBit

/-- Takes bits apart. -/
def fUnpack (f : Fmt) (b : Nat) : FVal :=
  let neg := fNeg f b
  let mag := fMag f b
  let ex := mag / 2 ^ (f.p - 1)
  let fr := mag % 2 ^ (f.p - 1)
  if mag > f.inf then .nan
  else if mag = f.inf then .inf neg
  else if ex = 0 then .fin neg fr f.emin
  else .fin neg (fr + 2 ^ (f.p - 1)) (f.emin + ex - 1)

/-- Sets a sign. -/
def fSign (f : Fmt) (neg : Bool) (mag : Nat) : Nat := if neg then f.signBit + mag else mag

/-- Rounds m · 2^e, with `sticky` standing for a remainder below the last bit of `m`, to nearest even.
[DEDUCED: log 74] -/
def fRound (f : Fmt) (neg : Bool) (m : Nat) (e : Int) (sticky : Bool) : Nat :=
  if m = 0 then fSign f neg 0
  else
    let len := Nat.log2 m + 1
    let sh : Int := max ((len : Int) - f.p) (f.emin - e)
    let q :=
      if sh ≤ 0 then m * 2 ^ (-sh).toNat
      else
        let s := sh.toNat
        let lo := m % 2 ^ s
        let half := 2 ^ (s - 1)
        let q0 := m / 2 ^ s
        if lo > half || (lo = half && (sticky || q0 % 2 = 1)) then q0 + 1 else q0
    let ex := e + sh
    let mag := if q < 2 ^ (f.p - 1) then q else (ex - f.emin + 1).toNat * 2 ^ (f.p - 1) + (q - 2 ^ (f.p - 1))
    fSign f neg (min mag f.inf)

/-- Adds two values. [DEDUCED: log 74] -/
def fAdd (f : Fmt) (a b : Nat) : Nat :=
  match fUnpack f a, fUnpack f b with
  | .nan, _ => f.nan
  | _, .nan => f.nan
  | .inf x, .inf y => if x = y then fSign f x f.inf else f.nan
  | .inf x, _ => fSign f x f.inf
  | _, .inf y => fSign f y f.inf
  | .fin x mx ex, .fin y my ey =>
    let e := min ex ey
    let va : Int := (if x then -1 else 1) * ((mx * 2 ^ (ex - e).toNat : Nat) : Int)
    let vb : Int := (if y then -1 else 1) * ((my * 2 ^ (ey - e).toNat : Nat) : Int)
    let v := va + vb
    if v = 0 then fSign f (x && y) 0 else fRound f (v < 0) v.natAbs e false

/-- Changes the sign. -/
def fOpp (f : Fmt) (a : Nat) : Nat := fSign f (!fNeg f a) (fMag f a)

/-- Subtracts. [DEDUCED: log 74] -/
def fSub (f : Fmt) (a b : Nat) : Nat := fAdd f a (fOpp f b)

/-- Multiplies. [DEDUCED: log 74] -/
def fMul (f : Fmt) (a b : Nat) : Nat :=
  let s := fNeg f a != fNeg f b
  match fUnpack f a, fUnpack f b with
  | .nan, _ => f.nan
  | _, .nan => f.nan
  | .inf _, .inf _ => fSign f s f.inf
  | .inf _, .fin _ m _ => if m = 0 then f.nan else fSign f s f.inf
  | .fin _ m _, .inf _ => if m = 0 then f.nan else fSign f s f.inf
  | .fin _ mx ex, .fin _ my ey => fRound f s (mx * my) (ex + ey) false

/-- Divides. [DEDUCED: log 74] -/
def fDiv (f : Fmt) (a b : Nat) : Nat :=
  let s := fNeg f a != fNeg f b
  match fUnpack f a, fUnpack f b with
  | .nan, _ => f.nan
  | _, .nan => f.nan
  | .inf _, .inf _ => f.nan
  | .inf _, .fin _ _ _ => fSign f s f.inf
  | .fin _ _ _, .inf _ => fSign f s 0
  | .fin _ mx ex, .fin _ my ey =>
    if my = 0 then (if mx = 0 then f.nan else fSign f s f.inf)
    else
      let k := 2 * f.p + 2 + Nat.log2 my
      let n := mx * 2 ^ k
      fRound f s (n / my) (ex - ey - k) (n % my != 0)

/-- The order of values that are not NaN, as integers; the two zeros are equal. -/
def fOrd (f : Fmt) (a : Nat) : Int := if fNeg f a then -(fMag f a : Int) else fMag f a

/-- Whether the bits are a NaN. -/
def fIsNan (f : Fmt) (a : Nat) : Bool := fMag f a > f.inf

/-- Whether the bits are finite. -/
def fFinite (f : Fmt) (a : Nat) : Bool := fMag f a < f.inf

/-- a ≤ b; false where either is a NaN. -/
def fLe (f : Fmt) (a b : Nat) : Bool := !fIsNan f a && !fIsNan f b && fOrd f a ≤ fOrd f b

/-- a < b; false where either is a NaN. -/
def fLt (f : Fmt) (a b : Nat) : Bool := !fIsNan f a && !fIsNan f b && fOrd f a < fOrd f b

/-- a = b; false where either is a NaN. -/
def fEq (f : Fmt) (a b : Nat) : Bool := !fIsNan f a && !fIsNan f b && fOrd f a = fOrd f b

/-- The lesser of two values. -/
def fMin (f : Fmt) (a b : Nat) : Nat := if fLt f b a then b else a

/-- The greater of two values. -/
def fMax (f : Fmt) (a b : Nat) : Nat := if fLt f a b then b else a

/-- Clamps to a range. -/
def fClamp (f : Fmt) (lo hi a : Nat) : Nat := if fLt f a lo then lo else if fLt f hi a then hi else a

/-- The magnitude. -/
def fAbs (f : Fmt) (a : Nat) : Nat := fMag f a

/-- The nearest value to a ratio of integers, `d` above zero. -/
def fRatio (f : Fmt) (n : Int) (d : Nat) : Nat :=
  let k := f.p + 2 + Nat.log2 d
  fRound f (n < 0) (n.natAbs * 2 ^ k / d) (-(k : Int)) (n.natAbs * 2 ^ k % d != 0)

/-- The nearest value to an integer. -/
def fInt (f : Fmt) (n : Int) : Nat := fRound f (n < 0) n.natAbs 0 false

/-- The nearest value to a natural number. -/
def fNat (f : Fmt) (n : Nat) : Nat := fRound f false n 0 false

/-- Changes format. -/
def fConv (f g : Fmt) (a : Nat) : Nat :=
  match fUnpack f a with
  | .nan => g.nan
  | .inf s => fSign g s g.inf
  | .fin s m e => fRound g s m e false

/-- The integer part below or at a finite value; zero for others. -/
def fFloor (f : Fmt) (a : Nat) : Int :=
  match fUnpack f a with
  | .fin s m e =>
    let v : Int := (if s then -1 else 1) * (m : Int)
    if 0 ≤ e then v * 2 ^ e.toNat else v / (2 ^ (-e).toNat : Nat)
  | _ => 0

/-- The nearest integer, halves away from zero, of a finite value; zero for others. -/
def fNearest (f : Fmt) (a : Nat) : Int :=
  match fUnpack f a with
  | .fin s m e =>
    let v : Nat := if 0 ≤ e then m * 2 ^ e.toNat else (2 * m + 2 ^ (-e).toNat) / (2 * 2 ^ (-e).toNat)
    if s then -(v : Int) else v
  | _ => 0

/-- The nearest integer, halves to even, of a finite value; zero for others. -/
def fNearestEven (f : Fmt) (a : Nat) : Int :=
  match fUnpack f a with
  | .fin s m e =>
    let v : Nat :=
      if 0 ≤ e then m * 2 ^ e.toNat
      else
        let d := 2 ^ (-e).toNat
        let q := m / d
        if 2 * (m % d) > d || (2 * (m % d) = d && q % 2 = 1) then q + 1 else q
    if s then -(v : Int) else v
  | _ => 0

/-- The exact value of finite bits as numerator and denominator; zero for others. -/
def fExact (f : Fmt) (a : Nat) : Int × Nat :=
  match fUnpack f a with
  | .fin s m e =>
    let v : Int := (if s then -1 else 1) * (m : Int)
    if 0 ≤ e then (v * 2 ^ e.toNat, 1) else (v, 2 ^ (-e).toNat)
  | _ => (0, 1)

/-- Digit by digit integer square root: `k` result bits still to find, `r` found so far. -/
def isqrtGo (n : Nat) : Nat → Nat → Nat
  | 0, r => r
  | k + 1, r => if (r + 2 ^ k) * (r + 2 ^ k) ≤ n then isqrtGo n k (r + 2 ^ k) else isqrtGo n k r

/-- The integer square root. -/
def isqrt (n : Nat) : Nat := isqrtGo n (Nat.log2 n / 2 + 1) 0

/-- Square root; NaN below zero. -/
def fSqrt (f : Fmt) (a : Nat) : Nat :=
  match fUnpack f a with
  | .nan => f.nan
  | .inf s => if s then f.nan else f.inf
  | .fin s m e =>
    if m = 0 then fSign f s 0
    else if s then f.nan
    else
      let k := 2 * f.p + 4 + (if e % 2 = 0 then 0 else 1)
      let n := m * 2 ^ k
      let r := isqrt n
      fRound f false r ((e - k) / 2) (r * r != n)

/-- A subnormal result replaced by a zero of its sign (R104). -/
def fFlush (f : Fmt) (a : Nat) : Nat := if fMag f a < 2 ^ (f.p - 1) then fSign f (fNeg f a) 0 else a

/-- Interpolates linearly from `a` to `b` by the fraction n/d, in binary32 of the exact value; finite ends. -/
def fLerp (f : Fmt) (a b : Nat) (n d : Nat) : Nat :=
  let (na, da) := fExact f a
  let (nb, db) := fExact f b
  let num : Int := na * db * ((d : Int) - n) + nb * da * n
  fRatio f num (da * db * d)

end Sys2Proof.Machine
end

