-- ==== Sys2Proof/Machine/Elem.lean ====
section
/-! DEFINITION. Elementary functions the rules name without stating their precision: computed in fixed point with 96
fractional bits and rounded once. The precision is the model's choice. -/

namespace Sys2Proof.Machine

/-- One in fixed point. [DESIGN CHOICE: log 73] -/
abbrev fxOne : Nat := 2 ^ 96

/-- Σ xⁱ/i! with alternating signs from the term `t` of index `i` on: e^(−x) for a small x. [DESIGN CHOICE: log 73] -/
def expTaylor (x : Nat) : Nat → Nat → Int → Int
  | 0, _, _ => 0
  | fuel + 1, i, t => t + expTaylor x fuel (i + 1) (-(t * x) / ((fxOne * i : Nat) : Int))

/-- Squares a fixed-point number `k` times. -/
def fxSquare : Nat → Nat → Nat
  | 0, y => y
  | k + 1, y => fxSquare k (y * y / fxOne)

/-- e^(−n/d) in fixed point: the argument is halved sixteen times, summed and squared back; 0 beyond 64. -/
def expNeg (n d : Nat) : Nat :=
  if d = 0 ∨ 64 * d ≤ n then 0
  else fxSquare 16 (expTaylor (n * fxOne / (d * 2 ^ 16)) 14 1 fxOne).toNat

/-- e^(−n/d) in a format. [DESIGN CHOICE: log 73] -/
def fExpNeg (f : Fmt) (n d : Nat) : Nat := fRatio f (expNeg n d) fxOne

/-- 1 − e^(−n/d) in a format. [DESIGN CHOICE: log 73] -/
def fExpRest (f : Fmt) (n d : Nat) : Nat := fRatio f ((fxOne : Int) - expNeg n d) fxOne

/-- π in fixed point. -/
abbrev fxPi : Int := 248902613312231085230521944622

/-- Σ of the series xⁱ/i! with signs alternating every second term, from the term `t` of index `i` on. -/
def sinTaylor (x : Int) : Nat → Nat → Int → Int
  | 0, _, _ => 0
  | fuel + 1, i, t => t + sinTaylor x fuel (i + 2) (-(t * x / fxOne * x) / ((fxOne * ((i + 1) * (i + 2)) : Nat) : Int))

/-- Sine and cosine of an angle in degrees given as an exact ratio, in fixed point: the angle is reduced to within a
half turn and the series are summed. [DESIGN CHOICE: log 73] -/
def fxSinCos (n : Int) (d : Nat) : Int × Int :=
  let turn : Int := 360 * d
  let r := n % turn
  let r := if turn < 2 * r then r - turn else r
  let x := r * fxPi / ((180 * d : Nat) : Int)
  (sinTaylor x 36 1 x, sinTaylor x 36 0 fxOne)

/-- Σ (−1)ⁱ x^(2i+1)/(2i+1), from the power `p` on. -/
def atanTaylor (x2 : Int) : Nat → Nat → Int → Int
  | 0, _, _ => 0
  | fuel + 1, i, p => p / ((2 * i + 1 : Nat) : Int) + atanTaylor x2 fuel (i + 1) (-(p * x2) / fxOne)

/-- Halves an angle by its tangent, `k` times: x / (1 + √(1 + x²)). -/
def atanHalve : Nat → Int → Int
  | 0, x => x
  | k + 1, x =>
    let root : Int := isqrt (fxOne * fxOne + (x * x).toNat)
    atanHalve k (x * fxOne / (fxOne + root))

/-- Arctangent of a ratio in degrees, fixed point. [DESIGN CHOICE: log 73] -/
def fxAtanDeg (n : Int) (d : Nat) : Int :=
  let m := n.natAbs
  let big := d < m
  let x : Int := if big then d * fxOne / m else m * fxOne / max d 1
  let h := atanHalve 5 x
  let a := 32 * atanTaylor (h * h / fxOne) 14 0 h
  let a := if big then fxPi / 2 - a else a
  let deg := a * 180 * fxOne / fxPi
  if n < 0 then -deg else deg

/-- Σ x^(2i+1)/(2i+1), from the power `p` on: the inverse hyperbolic tangent of x ≤ 1/3, with x² given. -/
def atanhSeries (x2 : Nat) : Nat → Nat → Nat → Nat
  | 0, _, _ => 0
  | fuel + 1, i, p => p / (2 * i + 1) + atanhSeries x2 fuel (i + 1) (p * x2 / fxOne)

/-- The inverse hyperbolic tangent of a fraction up to 1/3, in fixed point. -/
def fxAtanh (n d : Nat) : Nat :=
  let x := n * fxOne / d
  atanhSeries (x * x / fxOne) 32 0 x

/-- The natural logarithm of a positive ratio, in fixed point; 0 for none. [DESIGN CHOICE: log 73] -/
def fxLn (n d : Nat) : Int :=
  if n = 0 ∨ d = 0 then 0
  else
    let k : Int := (Nat.log2 n : Int) - Nat.log2 d
    let n' := if 0 ≤ k then n else n * 2 ^ (-k).toNat
    let d' := if 0 ≤ k then d * 2 ^ k.toNat else d
    let up := 2 * d' ≤ n'
    let low := n' < d'
    let k := if up then k + 1 else if low then k - 1 else k
    let d2 := if up then 2 * d' else d'
    let n2 := if low then 2 * n' else n'
    2 * (fxAtanh (n2 - d2) (n2 + d2) : Int) + k * (2 * (fxAtanh 1 3 : Int))

/-- Sine and cosine of an angle in degrees, rounded to a format; NaN of no finite angle. [DESIGN CHOICE: log 73] -/
def fSinDeg (f : Fmt) (a : Nat) : Nat :=
  if fFinite f a then let x := fExact f a; fRatio f (fxSinCos x.1 x.2).1 fxOne else f.nan

/-- [DESIGN CHOICE: log 73] -/
def fCosDeg (f : Fmt) (a : Nat) : Nat :=
  if fFinite f a then let x := fExact f a; fRatio f (fxSinCos x.1 x.2).2 fxOne else f.nan

/-- Arctangent in degrees, rounded to a format. [DESIGN CHOICE: log 73] -/
def fAtanDeg (f : Fmt) (a : Nat) : Nat :=
  if fFinite f a then let x := fExact f a; fRatio f (fxAtanDeg x.1 x.2) fxOne
  else if fIsNan f a then f.nan
  else fRatio f (if fNeg f a then -90 else 90) 1

/-- The direction of a vector in degrees, clockwise from north: east and north components as exact ratios over one
denominator; 0 for no vector. -/
def fxAzimuth (e n : Int) : Int :=
  if n = 0 then (if 0 < e then 90 * fxOne else if e < 0 then 270 * fxOne else 0)
  else
    let a := fxAtanDeg (if n < 0 then -e else e) n.natAbs
    let a := if n < 0 then a + 180 * fxOne else a
    if a < 0 then a + 360 * fxOne else a

end Sys2Proof.Machine
end

