-- ==== Sys2Proof/Machine/State.lean ====
section
/-! DEFINITION. The state of the module. Every object of the dictionary has one home, the object store `Chip.od`;
the structures below hold what the spec gives the module beside its objects. -/

namespace Sys2Proof.Machine

/-- The operating modes (Table 3.1). -/
inductive Mode where
  | off | banked | kindling | service | road | field | harvest | safe
deriving DecidableEq, Repr

/-- Object types (Table 0.2). -/
inductive Ty where
  | bool | u8 | u16 | u32 | u64 | i8 | i16 | i32 | f16 | f32 | vstr | domain
deriving DecidableEq, Repr

/-- Access codes (Table 0.3); only RW carries the suffix C in the object tables. -/
inductive Acc where
  | ro | rw | wo | rws | rwc
deriving DecidableEq, Repr

/-- The value of an object: the bits of a number, or the bytes of a VSTR or DOMAIN. [DESIGN CHOICE: log 24] -/
inductive Val where
  | num (n : Nat)
  | blob (b : List Byte)
deriving DecidableEq, Repr

/-- Object values by key INDEX × 256 + SUB, keys strictly rising, no entry equal to its object's default.
[DESIGN CHOICE: log 24] -/
abbrev OD := List (Nat × Val)

/-- A latched copy of the published state (R34). -/
structure Copy where
  epoch : Nat
  od : OD
deriving DecidableEq, Repr

/-- The epoch keeper of PD00 and the copies it names (R24, R34, R35). -/
structure Keeper where
  /-- The counter of R24. -/
  epoch : Nat := 0
  /-- The application set of the next edge has closed (R29). -/
  setClosed : Bool := false
  /-- The retained copies, newest first (R35). -/
  copies : List Copy := []
  /-- The newest copy that reads may be served from (Table 1.3, step 7). -/
  servable : Option Nat := none
deriving DecidableEq, Repr

/-- A write that is due at an edge (R29). -/
structure Write where
  due : Nat
  org : Origin
  key : Nat
  val : Val
deriving DecidableEq, Repr

/-- A kept member of a cord: its position, object and value (R68). -/
structure Member where
  pos : Nat
  key : Nat
  val : Val
deriving DecidableEq, Repr

/-- What a cord slot holds beside its objects of Table 2.12. -/
structure CordX where
  members : List Member := []
  /-- The next member position. -/
  next : Nat := 0
  /-- First refused add: its code, position and object (R68). -/
  poison : Option (Nat × Nat × Nat) := none
  /-- Who opened the cord (R67). -/
  owner : Origin := .sdo
  /-- Epoch of CORD_OPEN. -/
  opened : Nat := 0
  /-- Order in which slots reached a final state: the lowest has been longest in one (R67). -/
  stamp : Nat := 0
  /-- Arrival order of its CORD_COMMIT (R30). -/
  seq : Nat := 0
deriving DecidableEq, Repr

/-- What a snapshot slot holds beside its objects of Table 2.8. -/
structure SnapX where
  entries : List (BitVec 16 × BitVec 8) := []
  /-- Whether an entry's unit was ashed when the snapshot was asked for. -/
  ashed : List Bool := []
  /-- Epoch of capture. -/
  taken : Nat := 0
deriving DecidableEq, Repr

/-- Content frozen for a source by an offset-0 read (R62). -/
structure Frozen where
  org : Origin
  key : Nat
  bytes : List Byte
  /-- Epoch of the last segment. -/
  last : Nat
deriving DecidableEq, Repr

/-- An open DOMAIN write transfer (R63). -/
structure Transfer where
  org : Origin
  key : Nat
  bytes : List Byte
  last : Nat
deriving DecidableEq, Repr

/-- The response kept for a JOP source (R55). -/
structure Kept where
  addr : BitVec 32
  port : BitVec 16
  seq : Nat
  resp : Option (List Byte)
deriving DecidableEq, Repr

/-- The open transfer of the SDO server (R65). -/
inductive SdoX where
  | idle
  /-- A segmented upload: the bytes still to send, the toggle expected next, the object and its copy's epoch. -/
  | up (key : Nat) (rest : List Byte) (toggle : Bool) (copy : Nat) (last : Nat)
  /-- A segmented download: the bytes received, the size the initiate announced, the toggle expected next. -/
  | down (key : Nat) (got : List Byte) (size : Option Nat) (toggle : Bool) (last : Nat)
deriving DecidableEq, Repr

/-- A last-writer record (R74). -/
structure LastWriter where
  key : Nat
  org : Origin
  epoch : Nat
  viaCord : Bool
deriving DecidableEq, Repr

/-- The object dictionary's own state (02). [DESIGN CHOICE: log 23] -/
structure DictS where
  /-- Ordinary writes due at an edge, in arrival order (R30). -/
  pend : List Write := []
  /-- Tile-produced values due at an edge, in production order (R30). -/
  tile : List Write := []
  cords : List CordX := List.replicate 32 {}
  /-- The next stamp for `CordX.stamp` and `CordX.seq`. -/
  stamp : Nat := 0
  snaps : List SnapX := List.replicate 8 {}
  frozen : List Frozen := []
  transfers : List Transfer := []
  kept : List Kept := []
  sdo : SdoX := .idle
  writers : List LastWriter := []
  /-- The SDO server's node-ID in use, taken at KINDLING (R64), and the one written since, which the next KINDLING takes. -/
  node : Nat := 32
  nodeNext : Option Nat := none
deriving DecidableEq, Repr

/-- A SAFE entry decided for an edge (R94). -/
structure SafeDue where
  edge : Nat
  cause : Nat
  fault : Nat := 0
  stop : Bool := false
deriving DecidableEq, Repr

/-- Operating modes (03). [DESIGN CHOICE: log 23] -/
structure ModesS where
  /-- The feed stands at 10 V or more. -/
  feedGood : Bool := false
  /-- The filtered key input (R98). -/
  key : Bool := false
  /-- Epoch at which the key input last became inactive. -/
  keyOff : Nat := 0
  /-- A wake-up pattern has completed on CAN0 since the feed reached 8 V (R98). -/
  can0 : Bool := false
  /-- Wake events held, in order, by their KINDLING_WAKE codes: BANKED waits for a feed of 10 V (R98). -/
  held : List Nat := []
  /-- The edge X at which KINDLING handed over (R89). -/
  handover : Nat := 0
  /-- The supervision deadline, an edge (R89). -/
  deadline : Option Nat := none
  /-- A heartbeat has been processed since supervision started (R89). -/
  beaten : Bool := false
  /-- A heartbeat has been processed since SAFE was entered (Table 3.3). -/
  beatSafe : Bool := false
  safeDue : List SafeDue := []
  /-- BANKED is entered at this edge (R95). -/
  bankDue : Option Nat := none
  /-- Epoch at which KINDLING began (W of Table 3.5). -/
  start : Nat := 0
  /-- KINDLING was entered from OFF. -/
  fromOff : Bool := false
  /-- The highest KINDLING step begun since the wake, 10 once the exit mode has applied: it tells which domains are up. -/
  reached : Nat := 0
  /-- K9 has ended: the exit mode applies at the next edge (K10). -/
  exitDue : Bool := false
  /-- KINDLING restarts at this edge for a thermal resume (Table 3.3). -/
  resumeDue : Option Nat := none
  /-- The arrangement the tiles were booted in at K4: 0 SPLIT, 1 LOCKSTEP (R88). -/
  tiles : Nat := 1
  /-- Epoch at which the coil and wire models last stood (R217, R235). -/
  stood : Nat := 0
  /-- The first KINDLING after manufacture has begun (R24). -/
  born : Bool := false
  /-- The epoch value last written to MRAM (R25), and a save that waits for MRAM writes to be permitted (R434). -/
  saved : Nat := 0
  saveDue : Bool := false
  /-- PD13 and PD14 power the drive dies: their outputs may be on. `cold` while they came up in this KINDLING. -/
  drives : Bool := false
  cold : Bool := false
  /-- The edge at which the domains of BANKED's entry are down (Table 3.8, step 4). -/
  bankDown : Option Nat := none
deriving DecidableEq, Repr

/-- An event on its way through the handler (R443, R444). -/
structure Event where
  code : Nat
  unit : Nat
  sev : Nat
  injected : Bool
  /-- Detection instant, µs of module time. -/
  at_ : Nat
  /-- Permanent, once known. -/
  perm : Bool
deriving DecidableEq, Repr

/-- An ash (R446, Table 18.7). -/
structure Ash where
  unit : Nat
  code : Nat
  injected : Bool
  /-- Edge at which it applied. -/
  epoch : Nat
  /-- It holds an entry in ASH_TABLE (R454). -/
  entry : Bool
deriving DecidableEq, Repr

/-- An ash decided for an edge (Table 18.2, step 4). -/
structure AshDue where
  edge : Nat
  unit : Nat
  code : Nat
  injected : Bool
deriving DecidableEq, Repr

/-- An armed injection: its object's key, the number written, and how long it still acts, where it acts for a time (an epoch). -/
structure Armed where
  key : Nat
  value : Nat
  until_ : Nat
deriving DecidableEq, Repr

/-- The fault handler (18). [DESIGN CHOICE: log 23] -/
structure FltS where
  /-- The handling that occupies the handler. -/
  cur : Option Event := none
  /-- Pre-empted handlings, newest first (R444). -/
  stack : List Event := []
  /-- Waiting events, in order of detection (R444). -/
  queue : List Event := []
  /-- Open handlings, which await the outcome of a retry (R443). -/
  opens : List Event := []
  /-- Budget records: code, unit and instant, µs (R442). -/
  budget : List (Nat × Nat × Nat) := []
  ashes : List Ash := []
  due : List AshDue := []
  armed : List Armed := []
  /-- Tiles ashed since the last KINDLING: they return at the next (R448). -/
  tilesOut : List Nat := []
deriving DecidableEq, Repr

/-- What a frame of a cell sampled (R109). -/
structure CellSample where
  law : Nat
  enable : Bool
  dir : Bool
  sp : Nat
  pv : Nat
  ff : Nat
  kp : Nat
  kit : Nat
  kf : Nat
  bandIn : Nat
  bandOut : Nat
  iMin : Nat
  iMax : Nat
  outMin : Nat
  outMax : Nat
  rest : Nat
deriving DecidableEq, Repr

/-- An input of a node in a sample: a value, or a cell or node of the same compute (R121). -/
inductive NodeIn where
  | value (v : Nat)
  | item (i : Nat)
  /-- A composite root that is not driving: reads +∞ and can never win (R146). -/
  | withdrawn (i : Nat)
deriving DecidableEq, Repr

/-- What a frame of an item sampled. -/
inductive Sample where
  | cell (s : CellSample)
  | node (ins : List NodeIn) (outMin outMax : Nat)
deriving DecidableEq, Repr

/-- Engine state of an item beside its objects: cell n is item n, node n is item 512 + n (R126). -/
structure ItemX where
  item : Nat
  /-- The root of its tree, itself where it stands alone, and its depth, the root at 1 (R119). -/
  root : Nat
  depth : Nat
  /-- Period and phase in force, slots (R108). -/
  period : Nat
  phase : Nat
  /-- The sample of the frame in progress and the epoch in which it began. -/
  sample : Option (Sample × Nat) := none
  /-- The output of the last compute, to be presented at the next frame (R109). -/
  ready : Option Nat := none
  /-- The state of a cell before a freeze (Table 4.3). -/
  prior : Nat := 0
  /-- The next compute enters the law as on enable (Table 4.3). -/
  reenter : Bool := false
deriving DecidableEq, Repr

/-- The control engine (04). [DESIGN CHOICE: log 23] -/
structure EngS where
  /-- Items that hold a place on the wheel, item numbers rising. -/
  items : List ItemX := []
  /-- CLE instances that came into the last KINDLING ashed, or were ashed since (R131, R132). -/
  down : List Nat := []
deriving DecidableEq, Repr

/-- One impact event whose window is not over (R157). -/
structure ImpEvent where
  count : Nat
  peak : Nat
  rise : Nat
  /-- GRAIN_A_MIN and GRAIN_RISE_MAX in force when it began (R159). -/
  aMin : Nat
  riseMax : Nat
  /-- It began in the epoch before. -/
  prev : Bool := false
deriving DecidableEq, Repr

/-- Impact channel state (R157–R160). -/
structure ImpX where
  /-- Counts of each past epoch of the window, newest first: GRAIN, OTHER, missing frames, clipped. -/
  hist : List (Nat × Nat × Nat × Bool) := []
  grain : Nat := 0
  other : Nat := 0
  missing : Nat := 0
  clipped : Bool := false
  event : Option ImpEvent := none
  /-- Thresholds are those in force since the last edge: TRIG, GRAIN_A_MIN, GRAIN_RISE_MAX (R159). -/
  limits : Nat × Nat × Nat := (400, 1200, 2)
  /-- Events that were counted into the epoch before after its edge: GRAIN, OTHER; COUNT_GRAIN and COUNT_OTHER take them
  at the next edge. -/
  late : Nat × Nat := (0, 0)
  /-- Length in samples of the longest run of samples, up to the newest, that stands within ±2 codes of one value, and
  for each value in it how many samples ago it was last seen (Table 5.12). -/
  still : Nat := 0
  seen : List (Int × Nat) := []
  /-- The newest sample, which an injected freeze repeats. -/
  last : Int := 0
deriving DecidableEq, Repr

/-- An interval of the yield map (R168). -/
structure Interval where
  start : Nat
  /-- Distance travelled, in units of 2^−149 m·ms/s (exact sum of binary32 speeds). -/
  dist : Nat := 0
  /-- Epochs with a speed, for the mean. -/
  count : Nat := 0
  first : Bool
  gap : Bool := false
  saturated : Bool := false
deriving DecidableEq, Repr

/-- A record whose grain is still in transit (R169). -/
structure Transit where
  start : Nat
  stop : Nat
  /-- Exact sums of GRAIN_FLOW and of the moisture over the epochs so far, in units of 2^−149. -/
  flow : Nat := 0
  moist : Int := 0
  moistBad : Bool := false
  /-- A GRAIN_FLOW of these epochs was NaN. -/
  flowBad : Bool := false
  stale : Bool := false
  count : Nat := 0
  gnssMs : Nat
  lat : Nat
  lon : Nat
  speed : Nat
  width : Nat
  header : Nat
  flags : Nat
  done : Bool := false
deriving DecidableEq, Repr

/-- A stored yield map (R170, R173). -/
structure YMap where
  number : Nat
  crop : Nat
  records : List (List Byte)
deriving DecidableEq, Repr

/-- Slots, crop flow and the yield map (05). [DESIGN CHOICE: log 23] -/
structure CropS where
  /-- MODE_REQ values that apply at the edge being processed: slot, value (R149). -/
  reqs : List (Nat × Nat) := []
  imps : List ImpX := List.replicate 16 {}
  /-- A SLOPE_CAP cycle in progress: its edge, cap and source epoch (R164). -/
  slope : Option (Nat × Nat × Nat) := none
  interval : Option Interval := none
  transit : List Transit := []
  lastClose : Nat := 0
  /-- The next record flags FIRST. -/
  first : Bool := true
  /-- Completed records that wait in the MRAM buffer and in the LPDDR5 holding area: map number, record (R171). -/
  mram : List (Nat × List Byte) := []
  held : List (Nat × List Byte) := []
  maps : List YMap := []
  /-- The values of the bound roots' targets at the last edge, which STANDBY_KIND HOLD goes back to (R145). -/
  applied : List (Nat × Nat) := []
  /-- Held targets whose hold began from a safe value: they keep it (R145). -/
  keepSafe : List Nat := []
  /-- Mapped frames in a port's queue are tagged by slot; the raw value of the last frame composed per slot, with its epoch. -/
  composed : List (Nat × Nat × Nat) := []
deriving DecidableEq, Repr

/-- An extreme of a measure: value bits, epoch, GNSS ms (R388). -/
structure Extreme where
  value : Nat
  epoch : Nat
  ms : Nat
deriving DecidableEq, Repr

/-- What a record holds beside its SEQ (Tables 15.1 and 15.2). Bins are listed as (bin, count), bins rising, none zero. -/
inductive RecBody where
  | meas (flags first last samples nans : Nat) (ext : List Extreme) (bins : List (Nat × Nat))
  | fault (count supp inj first firstMs last lastMs : Nat) (byMode : List Nat) (bins : List (Nat × Nat))
deriving DecidableEq, Repr

/-- A recorder record: measure n has number n, the record of a fault code has 0x10000 + code (Table 18.4). -/
structure RecX where
  id : Nat
  live : RecBody
  /-- The current copy in MRAM (R395) and its stored SEQ. -/
  stored : RecBody
  seq : Nat := 0
  /-- Changed since its last commit began. -/
  dirty : Bool := false
  /-- The content of a commit in progress. -/
  busy : Option RecBody := none
  /-- Epoch at which its last commit began (R393). -/
  began : Nat := 0
  /-- A commit of it came too soon and waits (R393). -/
  wants : Bool := false
deriving DecidableEq, Repr

/-- Configuration of a measure (Table 15.3, 0x4801). -/
structure MeasCfg where
  id : Nat
  dims : Nat := 0
  srcX : Nat := 0
  srcY : Nat := 0
  loX : Nat := 0
  hiX : Nat := 0x42800000
  loY : Nat := 0
  hiY : Nat := 0x42800000
  sampleMs : Nat := 1000
  modes : Nat := 0x0C
  name : List Byte := []
deriving DecidableEq, Repr

/-- The event recorder (15). [DESIGN CHOICE: log 23] -/
structure RecS where
  /-- Configured measures, by number. -/
  cfg : List MeasCfg := []
  /-- Records, by number. -/
  recs : List RecX := []
  /-- Milliseconds of RUN_S not yet a whole second. -/
  runMs : Nat := 0
  /-- A commit was asked for outside the COMMIT_S cycle. -/
  asked : Bool := false
  /-- Last edge at which the COMMIT_S cycle began. -/
  lastCycle : Nat := 0
deriving DecidableEq, Repr

/-- What a drive link and its device are doing (R21, R22, R32). Links are numbered 0–17 as identity index − 0x1101. -/
structure LinkX where
  /-- Consecutive failed frames toward the DXC and toward the device. -/
  failIn : Nat := 0
  failOut : Nat := 0
  /-- Consecutive frames without a good one at the device. -/
  silent : Nat := 0
  /-- The device holds its safe values on its own since a silence (R22). -/
  safe : Bool := false
  /-- Marker frames of the present edge lost so far, until the device has acted (R32). -/
  acted : Bool := false
deriving DecidableEq, Repr

/-- The drive links: commands on their way to the devices, as command object and value (R32). [DESIGN CHOICE: log 23] -/
structure LinkS where
  links : List LinkX := List.replicate 18 {}
  /-- Commands for the edge, which wait for a good frame of its epoch. -/
  edge : List (Nat × Nat) := []
  /-- Commands presented by the engine between edges. -/
  now : List (Nat × Nat) := []
deriving DecidableEq, Repr

/-- A ramp of the target in progress (R209). -/
structure RampX where
  start : Nat
  stop : Nat
  /-- Begin and duration, µs. -/
  t0 : Nat
  dur : Nat
  /-- The target follows COMMAND once the ramp has ended. -/
  follow : Bool
deriving DecidableEq, Repr

/-- What a valve channel holds beside its objects (07). Currents and targets are binary32 bits, instants µs. -/
structure VcX where
  /-- COMMAND as the DXV last took it (R32, R203). -/
  cmd : Nat := 0
  /-- The program that runs, its next step, and whether it waits for its first tick (R203, R210). -/
  prog : Option Nat := none
  step : Nat := 0
  due : Bool := false
  /-- The target a SETI set, before the limits of R202, R214 and R216; whether the target follows COMMAND. -/
  req : Nat := 0
  follow : Bool := false
  ramp : Option RampX := none
  /-- Duration the last RAMP gives the SETI that follows it, µs. -/
  rampUs : Option Nat := none
  waitEnd : Option Nat := none
  quenchEnd : Option Nat := none
  /-- Dither: amplitude in 10 mA, n of its frequency, and its begin. -/
  ditherA : Nat := 0
  ditherN : Nat := 0
  ditherT : Nat := 0
  /-- Jumps a LOOP has left, by its step. -/
  loops : List (Nat × Nat) := []
  /-- First try of a SETI that waits (R213). -/
  tryAt : Option Nat := none
  /-- Instant and target of the last SETI that raised the target. -/
  raisedAt : Nat := 0
  raisedTo : Nat := 0
  /-- Since when the target stands above HOLD_MAX, and whether its time has run out (R202). -/
  peakAt : Option Nat := none
  peakOver : Bool := false
  /-- Coil current of the last tick, and of the last five (R201). -/
  current : Nat := 0
  fast : List Nat := []
  /-- What the regulator holds the current to: the target with its dither. -/
  drive : Nat := 0
  /-- The low-side switch conducts, and the instant of its last change, µs (R199, R200). -/
  low : Bool := false
  lowAt : Nat := 0
  /-- Of the epoch in progress: turn-ons, ticks with the low side on, a tick at the target or above. -/
  turns : Nat := 0
  onTicks : Nat := 0
  reached : Bool := false
  /-- The current over the epoch so far, twice its sum and three times the sum of its squares, exact in units of 2^−149
  and 2^−298 A per tick (R201). -/
  sum2 : Nat := 0
  sq3 : Nat := 0
  /-- The turn-off level, ticks with the low side off since, and those of them not yet in the sums. -/
  offLevel : Nat := 0
  offTicks : Nat := 0
  offOpen : Nat := 0
  /-- A span beyond 2 ms entered the epoch's mean. -/
  estimated : Bool := false
  /-- Instant at which the current first reached the target of the SETI that raised it last (R209). -/
  peakHit : Option Nat := none
  /-- FLAGS bits 4–6 of the epoch in progress. -/
  epFlags : Nat := 0
  /-- TARGET at the last edge, which a HOLD keeps (R92). -/
  edgeTarget : Nat := 0
  /-- The low side is held off until the next program start. -/
  cut : Bool := false
  /-- The channel keeps current under a HOLD safe value. -/
  held : Bool := false
  /-- Since when a target of 0.1 A or more draws less than 50 mA. -/
  openAt : Option Nat := none
  /-- Epochs with the mean more than 0.3 A from the target. -/
  deviant : Nat := 0
deriving DecidableEq, Repr

/-- The valve drive (07). [DESIGN CHOICE: log 23] -/
structure ValveS where
  chans : List VcX := List.replicate 48 {}
  /-- Instant of a bank switch's trip, with the fault that tripped it (R222). -/
  trips : List (Option (Nat × Nat)) := List.replicate 12 none
  /-- Groups whose supply is out of range. -/
  low : List Nat := []
  /-- Ticks of the epoch in progress. -/
  ticks : Nat := 0
deriving DecidableEq, Repr

/-- What a load switch channel holds beside its objects (08). Instants are µs, θ is binary64 bits. -/
structure LsX where
  /-- COMMAND as the DXS last took it, and as it is in effect: a LAMP takes it over at its period start (R236). -/
  cmd : Nat := 0
  run : Nat := 0
  /-- It is commanded on by the COMMAND in effect; the COMMAND taken last came from a write or a cord; a turn-on waits for
  the period start. -/
  runOn : Bool := false
  written : Bool := false
  wait : Bool := false
  /-- The switch is on. -/
  on : Bool := false
  theta : Nat := 0
  /-- The last turn-on, which opened the allowance window (R234), and the one before it. -/
  onAt : Nat := 0
  onWas : Nat := 0
  /-- The trip a pending retry waits on; a section trip leaves none (R237). -/
  tripAt : Option Nat := none
  /-- A retry or a section's restore is pending. -/
  pending : Bool := false
  /-- Instants of counted trips and of recorded attempts (R237). -/
  counted : List Nat := []
  attempts : List Nat := []
  latch : Bool := false
  /-- State and duty applied at the last edge, or at the edge before the override that lasts: what a HOLD keeps (R230). -/
  edgeOn : Bool := false
  edgeDuty : Nat := 0
  /-- The short for which it had its sympathetic retry, by its number (R239). -/
  sympAt : Option Nat := none
  /-- The duty clamp acted in the epoch. -/
  limited : Bool := false
deriving DecidableEq, Repr

/-- What a load section holds beside its objects. -/
structure SecX where
  theta : Nat := 0
  /-- The last short to ground (R239): its number, its channel, the instant of its detection, and that of its cut. -/
  shorts : Nat := 0
  short : Option (Nat × Nat × Option Nat) := none
  tripAt : Nat := 0
  /-- Instants of restores (R240). -/
  restores : List Nat := []
  /-- Next channel of a restore, and when it may turn on. -/
  next : Nat := 0
  nextAt : Nat := 0
  /-- V_SEC is loaded (R236). -/
  loaded : Bool := false
deriving DecidableEq, Repr

/-- What an isolated I/O channel holds beside its objects. -/
structure DioX where
  /-- DO_CMD as the field side last took it. -/
  cmd : Bool := false
  on : Bool := false
  /-- Filtered level before INVERT. -/
  level : Bool := false
  /-- Instants of rising edges within the gate, newest first, and of the last one of all. -/
  edges : List Nat := []
  lastEdge : Option Nat := none
  /-- Instant from which an overload is retried. -/
  retryAt : Option Nat := none
  /-- Level applied at the last edge, or by the safe value that stands, and the one at the last advance of the group's epoch
  (R247, R248). -/
  edgeOn : Bool := false
  heldOn : Bool := false
deriving DecidableEq, Repr

/-- What an isolated I/O group holds beside its objects. -/
structure GrpX where
  /-- Low bits of the last edge marker the DXI received, and of the last epoch that crossed. -/
  marker : Nat := 0
  seen : Nat := 0
  advance : Nat := 0
  /-- An epoch has crossed since the silence. -/
  back : Bool := false
  /-- Instant from which a group overload is retried. -/
  retryAt : Option Nat := none
  /-- Epochs the field supply has been out of range. -/
  bad : Nat := 0
deriving DecidableEq, Repr

/-- Load switches and isolated I/O (08). [DESIGN CHOICE: log 23] -/
structure LoadS where
  chans : List LsX := List.replicate 48 {}
  secs : List SecX := List.replicate 6 {}
  dios : List DioX := List.replicate 128 {}
  grps : List GrpX := List.replicate 8 {}
deriving DecidableEq, Repr

/-- The newest published solution of a type other than NONE (R264). -/
structure FixX where
  edge : Nat
  kind : Nat
  lat : Nat
  lon : Nat
  hgt : Nat
  velN : Nat
  velE : Nat
deriving DecidableEq, Repr

/-- A valid time solution on its way to its edge (R270): due edge, measurement edge, offset in ps, GPS ms, error in ns. -/
structure TimeSol where
  due : Nat
  edge : Nat
  offset : Int
  gpsMs : Nat
  unc : Nat
  /-- The hearth temperature at the measurement edge (R272), and whether an injection set the offset (Table 9.10). -/
  temp : Nat
  injected : Bool := false
deriving DecidableEq, Repr

/-- A pulse output (R275): its level, the edge its last pulse belongs to, the instant of that pulse's leading edge and the
instant from which the next may leave, µs. -/
structure PpsX where
  high : Bool := false
  edge : Nat := 0
  lead : Nat := 0
  next : Nat := 0
deriving DecidableEq, Repr

/-- GNSS, position and time (09). [DESIGN CHOICE: log 23] -/
structure GnssS where
  fix : Option FixX := none
  /-- Measurement edges latched for a raw set and for a solution, with their EDGE_GNSS_MS (R260). -/
  raw : Option (Nat × Nat) := none
  sol : Option Nat := none
  /-- The GNSS clock domain switched since the last raw set (R415). -/
  slip : Bool := false
  /-- The signals that hold a channel since the last measurement edge (R257), and the hearth temperature then (R272). -/
  tracks : List GnssSignal := []
  measTemp : Nat := 0
  /-- Records in NAV_DATA. -/
  navs : Nat := 0
  /-- Bytes each framer holds: RTCM_IN and UDP (R266). -/
  framerIn : List Byte := []
  framerUdp : List Byte := []
  /-- The base's reference point, ECEF in 0.1 mm, and the epoch of its newest corrections (R268). -/
  arp : Option (Int × Int × Int) := none
  corrAt : Option Nat := none
  /-- The RTK filter restarted and has no fixed solution since. -/
  rtkFloat : Bool := true
  /-- Instants from which antenna biases are retried, µs (R259). -/
  biasRetry : List (Option Nat) := [none, none]
  /-- Epochs since which the noise rise, and the baseline, have been out of bounds; whether reported. -/
  noiseAt : Option Nat := none
  baseAt : Option Nat := none
  baseBad : Bool := false
  /-- Fractional edge correction in 0.001 ppb (R269). -/
  corr : Int := 0
  /-- GPS millisecond of the newest edge, once labelled. -/
  label : Option Nat := none
  timeSols : List TimeSol := []
  /-- Edge of the newest valid time solution applied. -/
  lastValid : Option Nat := none
  /-- Offset still to be removed, ps. -/
  residual : Int := 0
  /-- Base of TIME_UNC in holdover, ns, and the hearth temperature then, binary32 bits. -/
  unc0 : Nat := 0
  temp0 : Nat := 0
  /-- Hearth temperature at the last valid time solution. -/
  validTemp : Nat := 0
  /-- STEP_PENDING was entered from NONE. -/
  fromNone : Bool := false
  /-- A step is taken at this edge: the time solution that asks for it (R274). -/
  step : Option (Nat × TimeSol) := none
  /-- Length added to the epoch in progress, ps. -/
  stretch : Nat := 0
  /-- The edge at which a burst in BANKED ends (Table 3.9). -/
  burst : Option Nat := none
  /-- Pulses run (R275). -/
  pulses : Bool := false
  pps : List PpsX := [{}, {}]
deriving DecidableEq, Repr

/-- What a guidance cycle computed (R184): binary64 bits where not said. -/
structure GuideRes where
  g : Nat
  xte : Nat
  he : Nat
  curv : Nat
  delta : Nat
  along : Nat
  toEnd : Nat
  /-- FLAGS and SOLUTION_AGE. -/
  flags : Nat
  age : Nat
  /-- Segment found, CP's signed distance left of it in m, and the direction of travel along it. -/
  seg : Nat
  left : Nat
  back : Bool
  /-- CP's projection lies within the extent; t is past the end in the direction of travel. -/
  inside : Bool
  past : Bool
  /-- Guidance was engaged as the cycle began. -/
  held : Bool := false
deriving DecidableEq, Repr

/-- Guidance (06). [DESIGN CHOICE: log 23] -/
structure GuideS where
  /-- The line store: number and block (R180). -/
  lines : List (Nat × List Byte) := []
  /-- Lines that failed their CHECK at K7 and read empty. -/
  badLines : List Nat := []
  /-- A cycle in progress, by its edge G; no result where it is bound to be lost. -/
  cycle : Option (Nat × Option GuideRes) := none
  /-- Results due at an edge, and the newest applied one. -/
  due : List (Nat × GuideRes) := []
  result : Option GuideRes := none
  /-- δ of the last cycle, binary64 degrees. -/
  dPrev : Nat := 0
  /-- Consecutive cycles lost; a second one disengages at the next edge (R186). -/
  lost : Nat := 0
  compute : Bool := false
  /-- The ENGAGE_CMD value applied at the edge being processed. -/
  cmd : Option Nat := none
  /-- Epochs since which the speed is out of range, and the guidance coasts (R190). -/
  speedOut : Option Nat := none
  coastAt : Option Nat := none
deriving DecidableEq, Repr

/-- A camera frame in reception or in a pipe: its camera, reference instant in ns of module time, the configuration it
started with (R301), and its lines. -/
structure FrameX where
  cam : Nat
  ref : Nat
  cfg : OD
  rows : List (List Nat) := []
  /-- A packet of it is missing. -/
  broken : Bool := false
deriving DecidableEq, Repr

/-- A picture at the encoder (R292, R295): its camera, source epoch, the configuration its frame started with, and the
samples of its Y′, Cb and Cr planes, row by row. -/
structure EncX where
  cam : Nat
  epoch : Nat
  cfg : OD
  planes : List (List Nat)
deriving DecidableEq, Repr

/-- A camera's own state (10). -/
structure CamX where
  /-- The frame in reception, and whether the stream's frame in progress was refused at its start (R306). -/
  recv : Option FrameX := none
  refused : Bool := false
  /-- Reference instant of the last accepted frame, ns, and the instant from which a loss is counted, µs. -/
  lastRef : Option Nat := none
  since : Nat := 0
  /-- Instants of accepted frames of the last second, µs. -/
  times : List Nat := []
  /-- Frames accepted and processed so far: dividers of display, coding and derating count them. -/
  taken : Nat := 0
  done : Nat := 0
  coded : Nat := 0
  /-- Recording resumes with an I picture (R298); the picture number; pictures since the last I picture, itself included
  (R295). -/
  wantIrap : Bool := false
  picture : Nat := 0
  sinceIrap : Nat := 0
  /-- Leaky bucket of the rate control: bits and the instant of its level, µs (R296). -/
  bucket : Nat := 0
  bucketAt : Nat := 0
  /-- The recording ring in UFS, oldest first: epoch and bytes (R298). -/
  ring : List (Nat × List Byte) := []
deriving DecidableEq, Repr

/-- The vision pipes (10). [DESIGN CHOICE: log 23] -/
structure VisS where
  cams : List CamX := List.replicate 8 {}
  /-- CAM0's frame in the in-line pipe. -/
  line : Option FrameX := none
  /-- Complete frames of the memory pipe, in order of arrival, and the one in processing (R302). -/
  queue : List FrameX := []
  proc : Option FrameX := none
  /-- The camera last dropped for load. -/
  lastDrop : Nat := 0
  /-- The hold buffer: camera, epoch, I picture, bytes (R298). -/
  hold : List (Nat × Nat × Bool × List Byte) := []
  /-- Pictures at the encoder: the one in coding, then those that wait, one per camera (R466). -/
  enc : List EncX := []
  /-- Bytes of frame buffers stored as briquettes, and their raw bytes, since BRIQ_RATIO was last set (R300). -/
  briq : Nat × Nat := (0, 0)
deriving DecidableEq, Repr

/-- A track (R314, R317, R318). Position and velocity are binary32 bits in the machine frame, LENGTH, WIDTH and the ten
covariance terms binary16 bits (R321). -/
structure TrackX where
  id : Nat
  conf : Bool := false
  cls : Nat
  x : Nat
  y : Nat
  vx : Nat
  vy : Nat
  len : Nat
  wid : Nat
  cov : List Nat
  sat : Bool := false
  coasted : Bool := false
  contested : Bool := false
  /-- Hits of the last cycles, newest first, of all cycles, and cycles since birth, its own included. -/
  hist : List Bool := []
  hits : Nat := 0
  age : Nat := 0
  missed : Nat := 0
  /-- Source, claim (0xFE NOT_SEEN) and the claim's source epoch, most recent first. -/
  evidence : List (Nat × Nat × Nat) := []
deriving DecidableEq, Repr

/-- A cycle in progress with what it took at its edge C (R311). -/
structure FusCycle where
  edge : Nat
  cfg : OD
  /-- Samples of the live sources: source, source epoch, measurements. -/
  taken : List (Nat × Nat × List Detection)
  live : List Nat
  /-- SRC_AGE and SRC_FLAGS of the sixteen sources. -/
  shows : List (Nat × Nat)
  /-- LAT, LON and heading at C for the field tie (R316). -/
  field : Option (Nat × Nat × Nat)
  /-- An injection keeps it from completing. -/
  doomed : Bool := false
deriving DecidableEq, Repr

/-- Fusion (11). [DESIGN CHOICE: log 23] -/
structure FusS where
  tracks : List TrackX := []
  /-- Edge the tracks stand at, and the next ID. -/
  edge : Nat := 0
  nextId : Nat := 1
  /-- Newest sample of each source. -/
  samples : List (Option (Nat × List Detection)) := List.replicate 16 none
  cycles : List FusCycle := []
  /-- Results due at an edge, by due edge and cycle, and the newest cycle published since KINDLING. -/
  due : List (Nat × Nat) := []
  published : Option Nat := none
  /-- Ego-motion: when it was last had, whether it was since K9, whether it is lost, its velocity and turn rate, binary64
  (R315). -/
  egoAt : Nat := 0
  egoGiven : Bool := false
  egoLost : Bool := false
  ego : Nat × Nat × Nat := (0, 0, 0)
  /-- Sources shed, the last one shed last; whether the next cycle sheds one; cycles in a row completed within 30 ms (R465). -/
  shed : List Nat := []
  late : Bool := false
  quick : Nat := 0
  /-- Per lidar the scan in reception (number, timestamp, points) and the complete scan that waits for its clustering. -/
  scans : List (Option (Nat × Nat × List Byte)) := List.replicate 4 none
  whole : List (Option (Nat × List Byte)) := List.replicate 4 none
deriving DecidableEq, Repr

/-- What a frame in a transmit buffer is for (R339, R342). -/
inductive TxKind where
  | submit
  /-- A CAN-mapped frame: its slot, raw value and the epoch of its composition (R154). -/
  | mapped (slot raw epoch : Nat)
  | sdo
  /-- An address claim, or "cannot claim". -/
  | claim
  /-- A part of a time reference message: whether it is the first and the last (R346). -/
  | time (first last : Bool)
deriving DecidableEq, Repr

/-- A frame that waits for transmission. `born` is the instant of entry, µs; `life` its lifetime, ms. -/
structure TxFrame where
  id : Nat
  ext : Bool
  fdf : Bool := false
  brs : Bool := false
  data : List Byte
  born : Nat
  life : Nat
  kind : TxKind
deriving DecidableEq, Repr

/-- A filter set as in force from an edge (R334). -/
structure FilterSet where
  list : Bool := true
  /-- MATCH, MASK and CTRL of the 32 pairs. -/
  pairs : List (Nat × Nat × Nat) := List.replicate 32 (0, 0, 0)
  block : List Byte := []
deriving DecidableEq, Repr

/-- A CAN controller beside its objects (12). [DESIGN CHOICE: log 23] -/
structure CanX where
  queue : List TxFrame := []
  /-- Records of TX_SUBMIT that enter behind the mapped frames of their edge (R339). -/
  submits : List TxFrame := []
  /-- The buffers of R342. -/
  claim : Option TxFrame := none
  time : List TxFrame := []
  cur : FilterSet := {}
  old : FilterSet := {}
  since : Nat := 0
  /-- SEQ of the two FIFOs (R337). -/
  seqs : List Nat := [0, 0]
  /-- Edge at which re-integration is over (R333). -/
  readyAt : Option Nat := none
  /-- FD_ENABLE and LISTEN_ONLY as the port's last edge left them; of a port that re-integrates, the edge from which it
  does and what they were before it: a frame begun earlier completes under these (R333). -/
  fd : Bool := false
  listen : Bool := false
  before : Option (Nat × Bool × Bool) := none
  /-- Address under claim, the claim's PREF_ADDR and NAME, the instant the claim was sent (µs), addresses others claimed. -/
  claimAddr : Nat := 0
  claimFor : Option (Nat × Nat) := none
  claimAt : Option Nat := none
  others : List Nat := []
  /-- SOF of the first frame of the message in transmission, and of the last complete message with its TIME (R345). -/
  sofFirst : Option Nat := none
  lastMsg : Option (Nat × Bool × Nat) := none
deriving DecidableEq, Repr

/-- The Ethernet ports, the fabric ports as 12 and 13 (12). [DESIGN CHOICE: log 23] -/
structure EthS where
  /-- What the PHYs report, and a report that takes effect at the next edge (R350). -/
  phy : List Bool := List.replicate 14 false
  /-- Instants of the last Sync and Announce per port, µs (R351). -/
  sync : List (Option Nat) := List.replicate 12 none
  ann : List (Option Nat) := List.replicate 12 none
deriving DecidableEq, Repr

/-- A module record (R357, R358): a module's IDENTITY, number, fix, neighbours by number, SEQ, and the instant of its last
refresh, µs. -/
structure FabRec where
  identity : Nat
  number : Nat
  fix : Bool := false
  n0 : Nat := 0
  n1 : Nat := 0
  seq : Nat := 0
  fresh : Nat := 0
  present : Bool := true
deriving DecidableEq, Repr

/-- A fabric link beside its objects (R357, R365). -/
structure FabLink where
  /-- IDENTITY of the last good HELLO, how many in a row, when, µs. -/
  peer : Nat := 0
  good : Nat := 0
  last : Option Nat := none
  /-- T3 of the last HELLO received and its arrival T4, for the next HELLO sent. -/
  t3 : Nat := 0
  t4 : Nat := 0
deriving DecidableEq, Repr

/-- The module fabric (13). [DESIGN CHOICE: log 23] -/
structure FabS where
  links : List FabLink := [{}, {}]
  /-- Records of the other modules. -/
  recs : List FabRec := []
  /-- The module's own SEQ, and number, neighbours and fix it was bumped for. -/
  seq : Nat := 0
  own : Nat × Nat × Nat × Bool := (0, 0, 0, false)
  /-- A number that a record of the module's own IDENTITY carries; the number given up in CLASH (R360). -/
  former : Nat := 0
  lost : Nat := 0
  /-- Begin of SETTLING, µs; the last HELLO sent, µs. -/
  settleAt : Nat := 0
  helloAt : Option Nat := none
  /-- HELD numbers with the epoch at which they became so. -/
  held : List (Nat × Nat) := []
  /-- Modules reachable through FAB0 and FAB1, nearest first, by IDENTITY; the present modules. -/
  topo : List Nat × List Nat × List Nat := ([], [], [])
  /-- Newest valid time solution of the own receiver, by its edge, and its error, ns. -/
  ownAt : Option Nat := none
  ownErr : Nat := 0
deriving DecidableEq, Repr

/-- A copy of a region (R368): empty, as manufactured, or built from a package (its pieces in order). -/
inductive RegionCopy where
  | empty
  | factory
  | built (version : Nat) (pieces : List (List Byte))
deriving DecidableEq, Repr

/-- A part of a package (Table 14.3) with its payload. -/
structure PartX where
  region : Nat
  delta : Bool
  piece : Nat
  version : Nat
  base : Nat
  payload : List Byte
  length : Nat
  digest : List Byte
deriving DecidableEq, Repr

/-- What a build slot holds beside its objects. -/
structure BuildX where
  parts : List PartX := []
  /-- Bytes of its package in staging. -/
  staged : Nat := 0
  /-- Milliseconds it has been BUILDING. -/
  ms : Nat := 0
  /-- Order in which the slots became ABORTED or FAILED: the oldest has the lowest. -/
  stamp : Nat := 0
  /-- An injection holds it until this epoch. -/
  heldTo : Nat := 0
deriving DecidableEq, Repr

/-- Field update (14). [DESIGN CHOICE: log 23] -/
structure UpdS where
  /-- Active and inactive copies of the ten regions. -/
  active : List RegionCopy := List.replicate 10 .factory
  inactive : List RegionCopy := List.replicate 10 .empty
  /-- Shaper programs as blocks, SP000 first, of region 7's inactive copy where the active one replaced them. -/
  formerSet : List (List Byte) := []
  builds : List BuildX := List.replicate 4 {}
  stamp : Nat := 0
  /-- Regions of the trial set (R375). -/
  trial : List Nat := []
  /-- FIELD has been entered since activation; running time of the window, and in FIELD or HARVEST, ms (R376). -/
  counting : Bool := false
  trialMs : Nat := 0
  confirmMs : Nat := 0
  /-- UPD_ACCEPT true has been written since activation. -/
  accepted : Bool := false
  /-- A decided confirmation waits for MRAM writes (R377). -/
  confirmHeld : Bool := false
  /-- A migrated dataset waits for MRAM writes (R381). -/
  dsHeld : Option (List Byte) := none
  /-- The dataset in use since K7: its records, none where no OEM dataset is active. -/
  ds : List Byte := []
deriving DecidableEq, Repr

/-- A PLL beside its objects (R415): windows passed in a row, and the instant from which its domains return, µs. -/
structure PllX where
  passes : Nat := 0
  returnAt : Option Nat := none
deriving DecidableEq, Repr

/-- Clocks, power domains and temperature (17). [DESIGN CHOICE: log 23] -/
structure PwrS where
  plls : List PllX := List.replicate 4 {}
  /-- Measurements of HEARTH_PPB in a row beyond DRIFT_LIMIT, and within it (R413). -/
  beyond : Nat := 0
  within : Nat := 0
  /-- Valid readings of the sensors since KINDLING, source epoch and temperature, newest first, at most four (R431). -/
  hist : List (List (Nat × Nat)) := List.replicate 43 []
  /-- Readings due at an edge: edge, slot, source epoch, reading (R427). -/
  due : List (Nat × Nat × Nat × HkReading) := []
  /-- The newest reading of the panel sensors: valid, and its temperature. -/
  panels : List (Bool × Nat) := [(false, 0), (false, 0)]
  /-- A reference of the chain has failed, in the event's last round (R428). -/
  chainBad : Bool := false
  chainFail : Bool := false
  /-- Epoch of the last derate step, and since when every watched reading is below RESUME in COOLING. -/
  stepAt : Nat := 0
  coolAt : Option Nat := none
  /-- UFS_WRITE and MRAM_WRITE by their readings (R433). -/
  ufs : Nat := 0
  mram : Nat := 0
  /-- Epoch of the last change of the FN demands (R483). -/
  fnAt : Option Nat := none
deriving DecidableEq, Repr

/-- A pixel's pending level (R405): with `clean` it is driven to 0 first. `reg` is the update's region (R406). -/
structure PendX where
  pix : Nat
  level : Nat
  clean : Bool
  reg : Nat
deriving DecidableEq, Repr

/-- A pixel in a waveform: its new level, the level that follows a clean's first drive, the latched band, and the drive
codes of the frames left. -/
structure DriveX where
  pix : Nat
  level : Nat
  after : Option Nat
  band : Nat
  codes : List Nat
  reg : Nat
deriving DecidableEq, Repr

/-- A region (R406): the rectangle of one update, the bands its pixels latched, and whether an injection moved it. -/
structure RegX where
  id : Nat
  rect : Nat × Nat × Nat × Nat
  bands : List Nat := []
  moved : Bool := false
deriving DecidableEq, Repr

/-- A panel beside its objects (16). Pixels are numbered 1,024 · row + column; lists run by pixel, and an unlisted pixel
stands at level 0. -/
structure PanelX where
  present : Bool := false
  levels : List (Nat × Nat) := []
  /-- The present levels as MRAM holds them. -/
  saved : List (Nat × Nat) := []
  pend : List PendX := []
  drive : List DriveX := []
  regs : List RegX := []
  nextReg : Nat := 0
  /-- Rails: 0 down, 1 rising, 2 up; a rail has failed since they last came up. -/
  rails : Nat := 0
  railBad : Bool := false
  /-- Since when no pixel drives and none is pending, µs. -/
  idleAt : Option Nat := none
  /-- Rectangles with pixels a feed loss left uncertain (R407). -/
  doubt : List (Nat × Nat × Nat × Nat) := []
  /-- IMAGE is behind the levels. -/
  stale : Bool := false
  /-- A start waits and FACE_HELD has been raised. -/
  held : Bool := false
deriving DecidableEq, Repr

/-- The service face (16). [DESIGN CHOICE: log 23] -/
structure FaceS where
  panels : List PanelX := [{ present := true }, {}]
deriving DecidableEq, Repr

/-- What a command sends out of the module, or answers to whoever sent it. [DESIGN CHOICE: log 5] -/
inductive Output where
  /-- Result of one operation or write: its code of Table 2.3 and its data. -/
  | result (code : Nat) (data : List Byte)
  /-- Result of a read, with the publication epoch of the copy it came from (R34). -/
  | readResult (code epoch : Nat) (data : List Byte)
  /-- A JOP response datagram. -/
  | jop (addr : BitVec 32) (port : BitVec 16) (data : List Byte)
  /-- An SDO response frame. -/
  | sdo (data : List Byte)
  /-- A pulse output changes its level: 0 or 1, and the level at the pin (R275). -/
  | pps (p : Nat) (high : Bool)
  /-- A UDP datagram sent from a port: ETH port, destination address and port, source port, payload. -/
  | udp (port dst dstPort srcPort : Nat) (data : List Byte)
  /-- A CAN frame leaves a port: identifier, extended, FD, BRS, data. -/
  | can (port id : Nat) (ext fdf brs : Bool) (data : List Byte)
  /-- An ARP reply, an ICMP echo reply. -/
  | arp (port addr : Nat)
  | echo (port dst : Nat) (data : List Byte)
  /-- IEEE 802.1AS: Announce (class, UTC offset, source), Sync and Follow_Up (time, ns), the peer delay answers (t2, t3). -/
  | announce (port cls : Nat) (utc : Int) (source : Nat)
  | sync (port ns : Nat)
  | peerDelay (port t2 t3 : Nat)
  /-- A fabric frame leaves FAB0 or FAB1: TYPE, SRC, DST, HOPS, ORIG_ADDR, ORIG_PORT, payload (Table 13.1). -/
  | fab (f type src dst hops addr port : Nat) (payload : List Byte)
deriving DecidableEq, Repr

/-- The chip and its companions: everything but the epoch keeper and the queue.
[DESIGN CHOICE: log 6; DESIGN CHOICE: log 23] -/
structure Chip where
  /-- Microseconds since the last edge. -/
  us : Nat := 0
  mode : Mode := .off
  /-- The objects. -/
  od : OD := []
  /-- What the last command sent out. -/
  out : List Output := []
  /-- Counter that picks the next free value (`Config`). The model's own. -/
  free : Nat := 0
  dict : DictS := {}
  modes : ModesS := {}
  eng : EngS := {}
  crop : CropS := {}
  flt : FltS := {}
  recd : RecS := {}
  link : LinkS := {}
  valve : ValveS := {}
  load : LoadS := {}
  gnss : GnssS := {}
  guide : GuideS := {}
  vis : VisS := {}
  fus : FusS := {}
  cans : List CanX := List.replicate 12 {}
  eth : EthS := {}
  fab : FabS := {}
  upd : UpdS := {}
  pwr : PwrS := {}
  face : FaceS := {}
deriving DecidableEq, Repr

/-- The machine: the epoch keeper, the chip, and the commands that wait, first in, first out. -/
structure State where
  keeper : Keeper := {}
  chip : Chip := {}
  pending : List Instr := []
deriving DecidableEq, Repr

/-- Why a step stops. [DESIGN CHOICE: log 8] -/
inductive Fault where
  /-- A command whose operands no wire can carry, such as a CAN frame of a length R328 does not allow; raised by
  the meaning of the command that carries them. Safe: the hardware never sees it. -/
  | illFormed
deriving DecidableEq, Repr

/-- Why a command has no meaning. -/
inductive Refusal where
  /-- The command is not modelled yet; raised by its arm of `exec`. Safe. -/
  | notModelled (mnemonic : String)
deriving DecidableEq, Repr

/-- The module right after manufacture: OFF, without feed, every object at its default (R14, R24).
[DESIGN CHOICE: log 2; DESIGN CHOICE: log 23] -/
def State.reset : State := {}

end Sys2Proof.Machine
end

