-- ==== Sys2Proof/Machine/Codes.lean ====
section
/-! DEFINITION. Numbers the spec gives names: modes, result codes, unit classes and the detector table. -/

namespace Sys2Proof.Machine

/-- Mode codes (Table 3.1). -/
def modeCode : Mode → Nat
  | .off => 0 | .banked => 1 | .kindling => 2 | .service => 3 | .road => 4 | .field => 5 | .harvest => 6 | .safe => 7

/-- The mode of a code; OFF for others. -/
def modeOf (n : Nat) : Mode :=
  match n with
  | 1 => .banked | 2 => .kindling | 3 => .service | 4 => .road | 5 => .field | 6 => .harvest | 7 => .safe | _ => .off

/-- SERVICE, ROAD, FIELD and HARVEST. [DEDUCED: log 26] -/
def modeRuns (m : Mode) : Bool := m = .service || m = .road || m = .field || m = .harvest

-- Result codes (Table 2.3, Table 4.5, Table 5.11 and the tables of the owning chapters).
abbrev Rc.OK : Nat := 0x00
abbrev Rc.NO_OBJECT : Nat := 0x01
abbrev Rc.READ_REFUSED : Nat := 0x02
abbrev Rc.WRITE_REFUSED : Nat := 0x03
abbrev Rc.SERVICE_ONLY : Nat := 0x04
abbrev Rc.TYPE_MISMATCH : Nat := 0x05
abbrev Rc.LENGTH_MISMATCH : Nat := 0x06
abbrev Rc.OUT_OF_RANGE : Nat := 0x07
abbrev Rc.MODE_FORBIDDEN : Nat := 0x08
abbrev Rc.UNIT_ASHED : Nat := 0x09
abbrev Rc.EPOCH_GONE : Nat := 0x0A
abbrev Rc.EPOCH_FUTURE : Nat := 0x0B
abbrev Rc.NOT_CORD_MEMBER : Nat := 0x0C
abbrev Rc.CORD_UNKNOWN : Nat := 0x0D
abbrev Rc.CORD_FULL : Nat := 0x0E
abbrev Rc.CORDS_EXHAUSTED : Nat := 0x0F
abbrev Rc.COMMIT_PASSED : Nat := 0x10
abbrev Rc.CORD_EXPIRED : Nat := 0x11
abbrev Rc.CORD_STATE : Nat := 0x12
abbrev Rc.BUSY : Nat := 0x13
abbrev Rc.SEGMENT_ERROR : Nat := 0x14
abbrev Rc.SNAPSHOT_FULL : Nat := 0x15
abbrev Rc.NO_ROOM : Nat := 0x16
abbrev Rc.MALFORMED : Nat := 0x17
abbrev Rc.WHEEL_FULL : Nat := 0x40
abbrev Rc.GROUP_MISMATCH : Nat := 0x41
abbrev Rc.TREE_INVALID : Nat := 0x42
abbrev Rc.NOT_CLE_SOURCE : Nat := 0x43
abbrev Rc.DRIVEN : Nat := 0x44
abbrev Rc.SLOT_BINDING : Nat := 0x48
abbrev Rc.CANMAP_CLASH : Nat := 0x49
abbrev Rc.SLOT_UNBOUND : Nat := 0x4A
abbrev Rc.MAP_BUSY : Nat := 0x4B
abbrev Rc.GUIDANCE_OWNS : Nat := 0x4C
abbrev Rc.GUIDE_BUSY : Nat := 0x4D
abbrev Rc.LINE_INVALID : Nat := 0x4E
abbrev Rc.SHAPER_INVALID : Nat := 0x50
abbrev Rc.OVERLAP_REFUSED : Nat := 0x51
abbrev Rc.NOT_OUTPUT : Nat := 0x58
abbrev Rc.VISION_ADMISSION : Nat := 0x60
abbrev Rc.FRAME_FORMAT : Nat := 0x61
abbrev Rc.SOURCE_INVALID : Nat := 0x68
abbrev Rc.PORT_INACTIVE : Nat := 0x70
abbrev Rc.LIST_INVALID : Nat := 0x71
abbrev Rc.MANIFEST_INVALID : Nat := 0x78
abbrev Rc.WRONG_PART : Nat := 0x79
abbrev Rc.SIGNATURE_FAIL : Nat := 0x7A
abbrev Rc.BASE_MISMATCH : Nat := 0x7B
abbrev Rc.GREEN_TRIAL : Nat := 0x7C
abbrev Rc.DATASET_VERSION : Nat := 0x7D
abbrev Rc.BUILDS_FULL : Nat := 0x7E
abbrev Rc.REC_FULL : Nat := 0x80
abbrev Rc.FACE_LOCKED : Nat := 0x88
abbrev Rc.FACE_ABSENT : Nat := 0x89
abbrev Rc.CHILD_ACTIVE : Nat := 0x90
abbrev Rc.IN_USE : Nat := 0x91
abbrev Rc.GATED : Nat := 0x92

/-- Unit ID of a class and a number (Table 18.3). -/
def unitId (cls n : Nat) : Nat := cls * 0x1000000 + n

/-- Class of a unit ID (Table 18.4). -/
def unitClass (u : Nat) : Nat := u / 0x1000000

/-- Number of a unit ID within its class. -/
def unitNum (u : Nat) : Nat := u % 0x1000000

/-- The module as a whole (R447). -/
abbrev theModule : Nat := 0
abbrev unitCell (n : Nat) : Nat := unitId 0x01 n
abbrev unitNode (n : Nat) : Nat := unitId 0x02 n
/-- Item numbers run over cells, then nodes (R126). -/
def unitItem (i : Nat) : Nat := if i < 512 then unitCell i else unitNode (i - 512)
abbrev unitCle (n : Nat) : Nat := unitId 0x03 n
abbrev unitImp (n : Nat) : Nat := unitId 0x04 n
abbrev unitGuide : Nat := unitId 0x05 0
abbrev unitValve (n : Nat) : Nat := unitId 0x06 n
abbrev unitBank (n : Nat) : Nat := unitId 0x07 n
abbrev unitLs (n : Nat) : Nat := unitId 0x08 n
abbrev unitSec (n : Nat) : Nat := unitId 0x09 n
abbrev unitDio (n : Nat) : Nat := unitId 0x0A n
abbrev unitGrp (n : Nat) : Nat := unitId 0x0B n
abbrev unitAnt (n : Nat) : Nat := unitId 0x0C n
abbrev unitGnb (n : Nat) : Nat := unitId 0x0D n
abbrev unitPipe (n : Nat) : Nat := unitId 0x0E n
abbrev unitFusion : Nat := unitId 0x0F 0
abbrev unitCan (n : Nat) : Nat := unitId 0x10 n
abbrev unitEth (n : Nat) : Nat := unitId 0x11 n
abbrev unitFab (n : Nat) : Nat := unitId 0x12 n
abbrev unitPanel (n : Nat) : Nat := unitId 0x13 n
abbrev unitPll (n : Nat) : Nat := unitId 0x14 n
abbrev unitPd (n : Nat) : Nat := unitId 0x15 n
abbrev unitSensor (n : Nat) : Nat := unitId 0x16 n
abbrev unitDie (n : Nat) : Nat := unitId 0x17 n
abbrev unitTile (n : Nat) : Nat := unitId 0x18 n
abbrev unitPage (n : Nat) : Nat := unitId 0x19 n
abbrev unitBlock (n : Nat) : Nat := unitId 0x1A n
abbrev unitSlot (n : Nat) : Nat := unitId 0x1B n
abbrev unitVGroup (n : Nat) : Nat := unitId 0x1C n
abbrev unitProg (n : Nat) : Nat := unitId 0x1D n
abbrev unitCam (n : Nat) : Nat := unitId 0x1E n
abbrev unitLidar (n : Nat) : Nat := unitId 0x1F n
abbrev unitSrc (n : Nat) : Nat := unitId 0x20 n
abbrev unitZone (n : Nat) : Nat := unitId 0x21 n
abbrev unitLine (n : Nat) : Nat := unitId 0x22 n
abbrev unitDom (n : Nat) : Nat := unitId 0x23 n
abbrev unitBuild (n : Nat) : Nat := unitId 0x24 n
abbrev unitRegion (n : Nat) : Nat := unitId 0x25 n
abbrev unitRec (n : Nat) : Nat := unitId 0x26 n

/-- Classes of detectors (R442). -/
inductive DetClass where
  | T | P | B | L | N
deriving DecidableEq, Repr

/-- A row of the detector table: code, severity (Table 18.1), class (R442). -/
structure Detector where
  code : Nat
  sev : Nat
  cls : DetClass
deriving DecidableEq, Repr

/-- The detectors of Tables 18.5 and 18.6. PD_RAIL's severity stands in Table 17.4 and is found by its domain. -/
def detectorTable (page : Nat) : List Detector :=
  match page with
  | 0x04 => [⟨0x0401, 2, .B⟩, ⟨0x0402, 3, .B⟩, ⟨0x0403, 2, .P⟩, ⟨0x0404, 0, .T⟩, ⟨0x0405, 3, .P⟩, ⟨0x0406, 2, .P⟩,
      ⟨0x0407, 3, .P⟩, ⟨0x0408, 3, .P⟩]
  | 0x05 => [⟨0x0501, 1, .N⟩, ⟨0x0502, 0, .N⟩, ⟨0x0503, 0, .P⟩, ⟨0x0504, 0, .T⟩, ⟨0x0505, 0, .T⟩, ⟨0x0506, 2, .B⟩,
      ⟨0x0507, 0, .T⟩, ⟨0x0508, 1, .T⟩, ⟨0x0509, 0, .T⟩]
  | 0x06 => [⟨0x0601, 0, .N⟩, ⟨0x0602, 0, .T⟩, ⟨0x0603, 1, .B⟩, ⟨0x0604, 0, .P⟩]
  | 0x07 => [⟨0x0701, 2, .B⟩, ⟨0x0702, 2, .B⟩, ⟨0x0703, 2, .B⟩, ⟨0x0704, 0, .T⟩, ⟨0x0705, 1, .B⟩, ⟨0x0706, 2, .B⟩,
      ⟨0x0707, 2, .B⟩, ⟨0x0708, 1, .T⟩, ⟨0x0709, 0, .T⟩, ⟨0x070A, 0, .T⟩, ⟨0x070B, 1, .P⟩]
  | 0x08 => [⟨0x0801, 2, .L⟩, ⟨0x0802, 2, .L⟩, ⟨0x0803, 2, .L⟩, ⟨0x0804, 0, .T⟩, ⟨0x0805, 1, .T⟩, ⟨0x0806, 0, .T⟩,
      ⟨0x0807, 2, .L⟩, ⟨0x0808, 1, .T⟩, ⟨0x0809, 2, .B⟩, ⟨0x080A, 2, .B⟩, ⟨0x080B, 1, .T⟩, ⟨0x080C, 0, .T⟩,
      ⟨0x080D, 2, .B⟩]
  | 0x09 => [⟨0x0901, 0, .T⟩, ⟨0x0902, 2, .B⟩, ⟨0x0903, 0, .T⟩, ⟨0x0904, 0, .T⟩, ⟨0x0905, 0, .T⟩, ⟨0x0906, 1, .T⟩,
      ⟨0x0907, 1, .T⟩, ⟨0x0908, 0, .T⟩, ⟨0x0909, 2, .B⟩]
  | 0x0A => [⟨0x0A01, 1, .T⟩, ⟨0x0A02, 0, .T⟩, ⟨0x0A03, 0, .T⟩, ⟨0x0A04, 2, .B⟩, ⟨0x0A05, 2, .B⟩, ⟨0x0A06, 0, .T⟩]
  | 0x0B => [⟨0x0B01, 0, .T⟩, ⟨0x0B02, 1, .B⟩, ⟨0x0B03, 1, .T⟩, ⟨0x0B04, 1, .T⟩, ⟨0x0B05, 2, .B⟩, ⟨0x0B06, 0, .T⟩,
      ⟨0x0B07, 0, .T⟩]
  | 0x0C => [⟨0x0C01, 1, .T⟩, ⟨0x0C02, 0, .T⟩, ⟨0x0C03, 0, .T⟩, ⟨0x0C04, 1, .T⟩, ⟨0x0C05, 2, .B⟩, ⟨0x0C06, 1, .T⟩,
      ⟨0x0C07, 2, .B⟩]
  | 0x0D => [⟨0x0D01, 1, .T⟩, ⟨0x0D02, 1, .T⟩, ⟨0x0D03, 0, .T⟩, ⟨0x0D04, 2, .B⟩]
  | 0x0E => [⟨0x0E01, 0, .T⟩, ⟨0x0E02, 0, .T⟩, ⟨0x0E03, 0, .T⟩, ⟨0x0E04, 1, .P⟩, ⟨0x0E05, 1, .T⟩, ⟨0x0E06, 1, .T⟩,
      ⟨0x0E07, 1, .P⟩, ⟨0x0E08, 3, .P⟩]
  | 0x0F => [⟨0x0F01, 0, .T⟩, ⟨0x0F02, 0, .T⟩, ⟨0x0F03, 0, .T⟩]
  | 0x10 => [⟨0x1001, 2, .B⟩, ⟨0x1002, 0, .T⟩, ⟨0x1003, 0, .T⟩, ⟨0x1004, 1, .T⟩]
  | 0x11 => [⟨0x1101, 1, .T⟩, ⟨0x1102, 2, .B⟩, ⟨0x1103, 3, .P⟩, ⟨0x1104, 2, .B⟩, ⟨0x1105, 0, .T⟩, ⟨0x1106, 0, .T⟩,
      ⟨0x1107, 1, .B⟩, ⟨0x1108, 0, .T⟩, ⟨0x1109, 3, .B⟩, ⟨0x110A, 0, .T⟩]
  | 0x12 => [⟨0x1201, 2, .P⟩, ⟨0x1202, 0, .T⟩, ⟨0x1203, 2, .B⟩, ⟨0x1204, 3, .P⟩, ⟨0x1205, 0, .T⟩, ⟨0x1206, 2, .B⟩,
      ⟨0x1207, 2, .B⟩, ⟨0x1208, 4, .P⟩, ⟨0x1209, 3, .P⟩]
  | _ => []

/-- The detector of a fault code; none where the tables list none (R452). -/
def detector? (code : Nat) : Option Detector := (detectorTable (code / 256)).find? (·.code = code)

/-- PD_RAIL severity by domain (Table 17.4). -/
def pdRailSeverity (d : Nat) : Nat :=
  if d ≤ 1 then 4 else if d ≤ 6 then 3 else if d ≤ 10 then 2 else if d ≤ 14 then 3 else 2

/-- The severity of a fault code on a unit. -/
def severity (code unit : Nat) : Nat :=
  if code = 0x1104 then pdRailSeverity (unitNum unit) else ((detector? code).map (·.sev)).getD 0

/-- The class of a fault code. -/
def detClass (code : Nat) : DetClass := ((detector? code).map (·.cls)).getD .T

/-- Detectors of severity DEGRADE whose rows ash their instance when permanent (Table 18.1): GUIDE_CYCLE_LOST,
VALVE_THERMAL, FUSION_CYCLE_LOST, THERMAL_SENSOR. -/
def degradeAshes (code : Nat) : Bool := code = 0x0603 || code = 0x0705 || code = 0x0B02 || code = 0x1107

/-- Whether a permanent event ashes its instance (Table 18.1, R492): the classes 0x01 to 0x1A name units that can be
ashed, class 0x00 and the classes from 0x1B do not. -/
def ashesUnit (code unit : Nat) : Bool :=
  1 ≤ unitClass unit && unitClass unit ≤ 0x1A && (2 ≤ severity code unit || degradeAshes code)

end Sys2Proof.Machine
end

