-- ==== Sys2Proof/Config.lean ====
section
/-! DEFINITION. What is fixed at manufacture or left open by the spec. An `opaque` constant has no body: a statement
about it holds for every value. -/

namespace Sys2Proof

/-- The module is a DX8400-FN; otherwise a DX8400-LC (Table 0.1, 0x1000:05). Set at manufacture.
[DESIGN CHOICE: log 10] -/
opaque Config.isFN : Bool
/-- SERIAL (0x1000:02), set at manufacture. [DESIGN CHOICE: log 10] -/
opaque Config.serial : List Byte
/-- MFG_DATE (0x1000:03), set at manufacture. [DESIGN CHOICE: log 10] -/
opaque Config.mfgDate : Nat
/-- HW_ISSUE (0x1000:04), set at manufacture. [DESIGN CHOICE: log 10] -/
opaque Config.hwIssue : Nat
/-- MAC_BASE (0x1010:01), set at manufacture (R352). [DESIGN CHOICE: log 10] -/
opaque Config.macBase : Nat
/-- DIE_LOT per die (R75). [DESIGN CHOICE: log 10] -/
opaque Config.dieLot : Nat → List Byte
/-- DIE_WAFER per die (R75). [DESIGN CHOICE: log 10] -/
opaque Config.dieWafer : Nat → Nat
/-- DIE_X per die (R75). [DESIGN CHOICE: log 10] -/
opaque Config.dieX : Nat → Nat
/-- DIE_Y per die (R75). [DESIGN CHOICE: log 10] -/
opaque Config.dieY : Nat → Nat
/-- The image version a region carries from manufacture (Table 14.8, "Per region"). [DESIGN CHOICE: log 10] -/
opaque Config.factoryVersion : Nat → Nat
/-- VCOM_MV as fitted, per panel (Table 16.3, "Per panel"). [DESIGN CHOICE: log 10] -/
opaque Config.panelVcom : Nat → Nat

/-- What NOISE_RISE reads while an injection reports a rise above 10 dB (Table 9.10). [DESIGN CHOICE: log 103] -/
opaque Config.injectedNoise : Nat

/-- A metre northward in units of 1e-7° of latitude, as a ratio: the spec does not give the figure of the Earth by
which R169 propagates a position. [DESIGN CHOICE: log 14] -/
opaque Config.latUnits : Int × Nat
/-- A metre eastward in units of 1e-7° of longitude at a latitude (R169). [DESIGN CHOICE: log 14] -/
opaque Config.lonUnits : Nat → Int × Nat

/-- By how much, 0, 1 or 2 for −1, 0 or +1 code, a display component misses the exact rounding of its transfer function
(R294 bounds the difference at one code). [DESIGN CHOICE: log 15] -/
opaque Config.srgbMiss : Nat → Nat
/-- Units of 32 bytes a frame's briquettes take beyond one each, a fresh value for each frame: the spec states no code and
compression depends on the scene (R300). [DESIGN CHOICE: log 16] -/
opaque Config.briqUnits : Nat → Nat

/-- How far the regulator moves a channel's band at an edge, a fresh value each time: R200 asks that the chopping frequency
approach CHOP_F and states no law. [DESIGN CHOICE: log 101] -/
opaque Config.band : Nat → Nat
/-- How long the entry to BANKED takes until the domains are down, a fresh value each time; the spec bounds it by 60 ms and
1,000 ms (Table 3.8). [DESIGN CHOICE: log 102] -/
opaque Config.bankDown : Nat → Nat
/-- The state of an input whose pin stands between its OFF and ON thresholds, undefined by R244, a fresh value each time.
[DESIGN CHOICE: log 72] -/
opaque Config.inputBand : Nat → Bool

/-- Ego-motion of a fusion cycle, a fresh value each time: forward and leftward velocity and turn rate, binary64. Scan
matching and visual odometry give it from the scene (R315). [DESIGN CHOICE: log 17] -/
opaque Config.egoMotion : Nat → Nat × Nat × Nat
/-- A measurement carried into the machine frame at C: x and y, binary32, by its age in ms and the ego-motion (R314
states no formula). [DESIGN CHOICE: log 17] -/
opaque Config.egoCarry : Nat → Nat → Nat → Nat × Nat × Nat → Nat × Nat
/-- A track of new measurement: its 14 terms (x, y, vx, vy, then the ten of COV), binary64, from x, y and MEAS_SD: the
spec states no initial velocity nor covariance. [DESIGN CHOICE: log 17] -/
opaque Config.trackBirth : Nat → Nat → Nat → List Nat
/-- A constant-velocity estimate taken from its edge over a time in ms, with Q_ACCEL, the ego-motion and the measurements
taken (x, y, MEAS_SD, age in ms): 14 terms, binary64. R314 names the estimator and states no arithmetic for it.
[DESIGN CHOICE: log 17] -/
opaque Config.trackStep : List Nat → Int → Nat → Nat × Nat × Nat → List (Nat × Nat × Nat × Nat) → List Nat
/-- The direction of a cart that stands still, in millionths of a degree (R320 states none), a fresh value each time.
[DESIGN CHOICE: log 18] -/
opaque Config.cartCourse : Nat → Nat
/-- ZONE_D of a zone in which no track counts (Table 11.8 states none), a fresh value each time.
[DESIGN CHOICE: log 18] -/
opaque Config.zoneDNone : Nat → Nat

/-- Melha's public key, held in the DXC (R370). [DESIGN CHOICE: log 11] -/
opaque Config.melhaKey : List Byte
/-- A piece of a region's image as manufactured. [DESIGN CHOICE: log 11] -/
opaque Config.factoryPiece : Nat → Nat → List Byte
/-- Bytes a slot of a region holds; the spec gives it for region 9 alone (Table 14.1). [DESIGN CHOICE: log 11] -/
opaque Config.slotSize : Nat → Nat
/-- The blocks of SP000–SP127 in the image of region 7, whose layout the spec does not give. [DESIGN CHOICE: log 11] -/
opaque Config.shaperSet : List (List Byte) → List (List Byte)
/-- The firmware's fixed migration table (R381), by dataset major version and record (INDEX, SUB, TYPE, PROFILE, value): the
outcome, 0 MIGRATED, 1 DEFAULTED, 2 DROPPED, 3 REFUSED, and the record it becomes. [DESIGN CHOICE: log 12] -/
opaque Config.migrate : Nat → Nat × Nat × Nat × Nat × List Byte → Nat × (Nat × Nat × Nat × Nat × List Byte)
/-- How far a build has come, a fresh value each time: the spec bounds the rate from below only (R373).
[DESIGN CHOICE: log 13] -/
opaque Config.buildProgress : Nat → Nat

/-- The bin of a sample whose quotient is no number: an infinite value on an axis whose scale is 0 (R387 states none), a
fresh value each time. [DESIGN CHOICE: log 19] -/
opaque Config.openBin : Nat → Nat

/-- The lowest-numbered LPDDR5 page in use outside a list of pages (Table 18.5): the spec gives no page map.
[DESIGN CHOICE: log 20] -/
opaque Config.dramPage : List Nat → Nat
/-- The lowest-numbered MRAM block that holds retained content outside a list of blocks (Table 18.5).
[DESIGN CHOICE: log 20] -/
opaque Config.mramBlock : List Nat → Nat

/-- Bytes of UFS that yield maps may fill: the spec states no figure (R170). [DESIGN CHOICE: log 21] -/
opaque Config.ufsMapBytes : Nat
/-- Median and worst JOP service time of the last second, µs, a fresh value each time; the spec gives the worst a bound of 40 ms only
(R463, Table 19.5). [DESIGN CHOICE: log 22] -/
opaque Config.jopTimes : Nat → Nat × Nat

end Sys2Proof
end

