-- ==== Sys2Proof/Machine/Objects.lean ====
section
/-! DEFINITION. The object table: every object the chapters list, with its type, access, default and range (R14),
and the index map of R44. The rows are written from the object tables of the spec. -/

namespace Sys2Proof.Machine

/-- The value ranges of the object tables (R14). Pairs and references to other objects are judged elsewhere (R127). -/
inductive Rng where
  | any
  | nat (lo hi : Nat)
  /-- One value beside a range, as in "0–63; 0xFF none". -/
  | natOr (v lo hi : Nat)
  | even (lo hi : Nat)
  | mult (m : Nat)
  | oneOf (l : List Nat)
  /-- Only bits of the mask may be set: the others are reserved (R17). -/
  | mask (m : Nat)
  | int (lo hi : Int)
  | intOf (l : List Int)
  /-- Binary32 values between two bounds, both included; no NaN (R6). -/
  | flt (lo hi : Nat)
  /-- Finite values from a bound up. -/
  | fltMin (lo : Nat)
  | finite
  | finiteNZ
  | notNan
  /-- A reference of Table 4.4; NONE is always allowed: CELL, NODE, OBJECT, CONST. -/
  | ref (cell node object const : Bool)
  | netmask
  | recClear
  /-- Length of a block or string, bytes. -/
  | len (lo hi : Nat)
  /-- A whole number of records of `m` bytes, `lo` to `hi` of them. -/
  | lenMult (m lo hi : Nat)
deriving DecidableEq, Repr

/-- One row of an object table (R14): `count` indices from `base`, `subs` sub-indices from `sub`. -/
structure ObjRow where
  base : Nat
  count : Nat
  sub : Nat
  subs : Nat
  ty : Ty
  acc : Acc
  /-- Default, by the index's place in the row's range. -/
  dflt : Nat → Val
  rng : Rng

/-- The default zero. -/
def dz : Nat → Val := fun _ => .num 0
/-- A numeric default. -/
def dn (v : Nat) : Nat → Val := fun _ => .num v
/-- A block default. -/
def db (b : List Byte) : Nat → Val := fun _ => .blob b

/-- Little-endian bytes of 16-bit words. -/
def words16 (l : List Nat) : List Byte := l.flatMap (leBytes 2)

/-- LIN_TABLE: lin[i] = min(256·i, 65,535) (Table 10.9). -/
def linTableDefault : List Byte := words16 ((List.range 257).map fun i => min (256 * i) 65535)
/-- SHADING: all 4,096 (Table 10.9). -/
def shadingDefault : List Byte := words16 (List.replicate (17 * 13 * 4) 4096)
/-- CCM: the identity in 1/4,096 (Table 10.9). -/
def ccmDefault : List Byte := words16 [4096, 0, 0, 0, 4096, 0, 0, 0, 4096]
/-- UNIFORMITY: all zero, 393,216 bytes (Table 16.3). -/
def uniformityDefault : List Byte := List.replicate 393216 0
/-- DIE_TYPE by silicon identity index (Tables 2.15 and 2.16). -/
def dieTypeDefault (n : Nat) : Val :=
  .num (if n = 0 then 1 else if n ≤ 3 then 2 else if n ≤ 9 then 3 else if n ≤ 17 then 4 else if n = 18 then 5 else 6)
/-- IP_ADDR by port (Table 12.4), first octet in the highest byte. [DEDUCED: log 57] -/
def ethAddrDefault (n : Nat) : Val :=
  .num (if n ≤ 3 then 0xC0A80001 + (10 + n) * 256 else if n = 11 then 0xC0A86401 else 0)
/-- PLL_MULT (Table 17.1). -/
def pllMultDefault (k : Nat) : Val := .num ([0x20000000, 0x18000000, 0x18000000 + 9261023, 0x19000000].getD k 0)
/-- DOM_DIVISOR of the primary (Table 17.2); the hearth's own domain divides by one. -/
def domDivisorDefault (c : Nat) : Val :=
  .num ([0x01000000, 0x02000000, 0x04000000, 0x06000000, 0x04000000, 0x04000000, 0x0A000000, 0x08000000,
    0x1F400000, 0x64000000].getD c 0)
/-- PD_NOMINAL_V (Table 17.4). -/
def pdNominalDefault (d : Nat) : Val :=
  .num ([0x3F400000, 0x3FE66666, 0x3F400000, 0x3F400000, 0x3F400000, 0x3F400000, 0x3F866666, 0x40200000, 0x3F400000, 0x3F400000, 0x3FE66666, 0x3F666666, 0x40533333, 0x40A00000, 0x40533333, 0x40533333].getD d 0)

/-- WARN of the internal sensors: TI0–TI7, HEARTH, MRAM, UFS (Table 17.12). -/
def internalWarn (n : Nat) : Val := .num (if n ≤ 7 then 0x42D20000 else if n = 8 then 0x42BE0000 else if n = 9 then 0x42BE0000 else 0x42B40000)
/-- CRIT of the internal sensors: TI0–TI7, HEARTH, MRAM, UFS (Table 17.12). -/
def internalCrit (n : Nat) : Val := .num (if n ≤ 7 then 0x42EC0000 else if n = 8 then 0x42C80000 else if n = 9 then 0x42CC0000 else 0x42C80000)
/-- LIMIT of the internal sensors: TI0–TI7, HEARTH, MRAM, UFS (Table 17.12). -/
def internalLimit (n : Nat) : Val := .num (if n ≤ 7 then 0x42FA0000 else if n = 8 then 0x42D20000 else if n = 9 then 0x42D20000 else 0x42D20000)
/-- RESUME of the internal sensors: TI0–TI7, HEARTH, MRAM, UFS (Table 17.12). -/
def internalResume (n : Nat) : Val := .num (if n ≤ 7 then 0x42BE0000 else if n = 8 then 0x42AA0000 else if n = 9 then 0x42AA0000 else 0x42A00000)
/-- ORDER_CODE (Table 0.1). -/
def orderCode : List Byte :=
  (if Config.isFN then "DX8400-FN" else "DX8400-LC").toList.map fun ch => BitVec.ofNat 8 ch.toNat

/-- Rows of indices 0x1000–0x10FF. -/
def rows10 : List ObjRow := [
  ⟨0x1000, 1, 0x01, 1, .vstr, .ro, (fun _ => .blob orderCode), .any⟩, -- Ident.ORDER_CODE
  ⟨0x1000, 1, 0x02, 1, .vstr, .ro, (fun _ => .blob Config.serial), .any⟩, -- Ident.SERIAL
  ⟨0x1000, 1, 0x03, 1, .u32, .ro, (fun _ => .num Config.mfgDate), .any⟩, -- Ident.MFG_DATE
  ⟨0x1000, 1, 0x04, 1, .u8, .ro, (fun _ => .num Config.hwIssue), .any⟩, -- Ident.HW_ISSUE
  ⟨0x1000, 1, 0x05, 1, .u8, .ro, (fun _ => .num (if Config.isFN then 1 else 0)), .any⟩, -- Ident.VARIANT
  ⟨0x1000, 1, 0x06, 1, .u16, .ro, (dn 33792), .any⟩, -- Ident.PRODUCT
  ⟨0x1010, 1, 0x01, 1, .u64, .ro, (fun _ => .num Config.macBase), .any⟩, -- Comm.MAC_BASE
  ⟨0x1020, 1, 0x01, 1, .u8, .rws, (dn 32), (.nat 1 127)⟩] -- Comm.SDO_NODE_ID
/-- Rows of indices 0x1100–0x11FF. -/
def rows11 : List ObjRow := [
  ⟨0x1100, 21, 0x01, 1, .u8, .ro, dieTypeDefault, .any⟩, -- Die.DIE_TYPE
  ⟨0x1100, 21, 0x02, 1, .vstr, .ro, (fun n => .blob (Config.dieLot n)), .any⟩, -- Die.DIE_LOT
  ⟨0x1100, 21, 0x03, 1, .u8, .ro, (fun n => .num (Config.dieWafer n)), .any⟩, -- Die.DIE_WAFER
  ⟨0x1100, 21, 0x04, 1, .i16, .ro, (fun n => .num (Config.dieX n)), .any⟩, -- Die.DIE_X
  ⟨0x1100, 21, 0x05, 1, .i16, .ro, (fun n => .num (Config.dieY n)), .any⟩] -- Die.DIE_Y
/-- Rows of indices 0x2000–0x20FF, piece 1. -/
def rows20a : List ObjRow := [
  ⟨0x2040, 1, 0x01, 1, .u64, .ro, dz, .any⟩, -- Epoch.EPOCH_NOW
  ⟨0x2040, 1, 0x02, 1, .bool, .ro, dz, .any⟩, -- Epoch.EPOCH_ALIGNED
  ⟨0x2040, 1, 0x03, 1, .u64, .ro, dz, .any⟩, -- Epoch.EDGE_GNSS_MS
  ⟨0x2040, 1, 0x04, 1, .u32, .ro, dz, .any⟩, -- Epoch.EPOCH_RESUMES
  ⟨0x2040, 1, 0x05, 1, .u64, .ro, dz, .any⟩, -- Epoch.EPOCH_RESUME_FROM
  ⟨0x2040, 1, 0x06, 1, .u16, .ro, (dn 100), .any⟩, -- Epoch.APPLY_CLOSE
  ⟨0x2040, 1, 0x07, 1, .u32, .ro, dz, .any⟩, -- Epoch.LATE_WRITES
  ⟨0x2040, 1, 0x08, 1, .u8, .ro, (dn 64), .any⟩, -- Epoch.RETAINED_COPIES
  ⟨0x2040, 1, 0x09, 1, .u32, .ro, dz, .any⟩, -- Epoch.TAKE_DELAYED
  ⟨0x2040, 1, 0x0A, 1, .u64, .ro, dz, .any⟩, -- Epoch.SDO_READ_EPOCH
  ⟨0x2041, 1, 0x01, 1, .u8, .ro, (dn 8), .any⟩, -- Snap.SNAP_SLOTS
  ⟨0x2048, 8, 0x01, 1, .u8, .ro, dz, .any⟩, -- Snap.SNAP_STATE
  ⟨0x2048, 8, 0x02, 1, .u64, .ro, dz, .any⟩, -- Snap.SNAP_EPOCH
  ⟨0x2048, 8, 0x03, 1, .u8, .ro, dz, .any⟩, -- Snap.SNAP_COUNT
  ⟨0x2048, 8, 0x04, 1, .u32, .ro, dz, .any⟩, -- Snap.SNAP_OWNER
  ⟨0x2048, 8, 0x05, 1, .domain, .ro, (db []), .any⟩, -- Snap.SNAP_DATA
  ⟨0x2048, 8, 0x06, 1, .bool, .wo, dz, .any⟩, -- Snap.SNAP_RELEASE
  ⟨0x2060, 32, 0x01, 1, .u8, .ro, dz, .any⟩, -- Cord.CORD_STATE
  ⟨0x2060, 32, 0x02, 1, .u8, .ro, dz, .any⟩, -- Cord.CORD_GEN
  ⟨0x2060, 32, 0x03, 1, .u8, .ro, dz, .any⟩, -- Cord.CORD_OWNER_KIND
  ⟨0x2060, 32, 0x04, 1, .u32, .ro, dz, .any⟩, -- Cord.CORD_OWNER_ADDR
  ⟨0x2060, 32, 0x05, 1, .u8, .ro, dz, .any⟩, -- Cord.CORD_COUNT
  ⟨0x2060, 32, 0x06, 1, .u64, .ro, dz, .any⟩, -- Cord.CORD_COMMIT_EPOCH
  ⟨0x2060, 32, 0x07, 1, .u8, .ro, dz, .any⟩, -- Cord.CORD_RESULT
  ⟨0x2060, 32, 0x08, 1, .u8, .ro, (dn 255), .any⟩, -- Cord.CORD_FAIL_MEMBER
  ⟨0x2060, 32, 0x09, 1, .u32, .ro, dz, .any⟩, -- Cord.CORD_FAIL_OBJECT
  ⟨0x2060, 32, 0x0A, 1, .u64, .ro, dz, .any⟩, -- Cord.CORD_APPLIED_EPOCH
  ⟨0x2020, 1, 0x01, 1, .u32, .wo, dz, .any⟩, -- Hb.HEARTBEAT
  ⟨0x2020, 1, 0x02, 1, .u16, .rw, (dn 200), (.nat 20 2000)⟩, -- Hb.HB_TIMEOUT
  ⟨0x2020, 1, 0x03, 1, .u64, .ro, dz, .any⟩, -- Hb.HB_LAST_EPOCH
  ⟨0x2020, 1, 0x04, 1, .u8, .ro, dz, .any⟩, -- Hb.HB_LAST_KIND
  ⟨0x2020, 1, 0x05, 1, .u32, .ro, dz, .any⟩, -- Hb.HB_LAST_ADDR
  ⟨0x2021, 1, 0x01, 1, .u32, .rw, dz, .any⟩, -- Lw.LW_QUERY
  ⟨0x2021, 1, 0x02, 1, .u8, .ro, dz, .any⟩, -- Lw.LW_KIND
  ⟨0x2021, 1, 0x03, 1, .u32, .ro, dz, .any⟩, -- Lw.LW_ADDR
  ⟨0x2021, 1, 0x04, 1, .u16, .ro, dz, .any⟩, -- Lw.LW_PORT
  ⟨0x2021, 1, 0x05, 1, .u64, .ro, dz, .any⟩, -- Lw.LW_EPOCH
  ⟨0x2021, 1, 0x06, 1, .bool, .ro, dz, .any⟩, -- Lw.LW_VIA_CORD
  ⟨0x2000, 1, 0x01, 1, .u8, .ro, (dn 2), .any⟩, -- Mode.MODE
  ⟨0x2000, 1, 0x02, 1, .u8, .rw, dz, (.nat 0 7)⟩] -- Mode.MODE_REQUEST
/-- Rows of indices 0x2000–0x20FF, piece 2. -/
def rows20b : List ObjRow := [
  ⟨0x2000, 1, 0x03, 1, .u8, .ro, dz, .any⟩, -- Mode.MODE_RESULT
  ⟨0x2000, 1, 0x04, 1, .u64, .ro, dz, .any⟩, -- Mode.MODE_SINCE
  ⟨0x2000, 1, 0x05, 1, .u8, .ro, dz, .any⟩, -- Mode.MODE_PREVIOUS
  ⟨0x2000, 1, 0x06, 1, .u32, .ro, dz, .any⟩, -- Mode.MODE_CHANGES
  ⟨0x2000, 1, 0x07, 1, .f32, .rws, (dn 0x42200000), (.flt 0x0 0x42480000)⟩, -- Mode.ROAD_SPEED_CAP
  ⟨0x2001, 1, 0x01, 1, .u8, .ro, dz, .any⟩, -- Safe.SAFE_CAUSE
  ⟨0x2001, 1, 0x02, 1, .u8, .ro, dz, .any⟩, -- Safe.SAFE_CAUSES
  ⟨0x2001, 1, 0x03, 1, .u16, .ro, dz, .any⟩, -- Safe.SAFE_FAULT
  ⟨0x2001, 1, 0x04, 1, .bool, .ro, dz, .any⟩, -- Safe.SAFE_STOP
  ⟨0x2001, 1, 0x05, 1, .u32, .ro, dz, .any⟩, -- Safe.SAFE_ENTRIES
  ⟨0x2002, 1, 0x01, 1, .u8, .rws, (dn 4), (.nat 3 4)⟩, -- Kindling.KINDLING_EXIT
  ⟨0x2002, 1, 0x02, 1, .u8, .rws, (dn 1), (.nat 0 1)⟩, -- Kindling.TILE_ARRANGEMENT
  ⟨0x2002, 1, 0x03, 1, .u8, .ro, dz, .any⟩, -- Kindling.KINDLING_STEP
  ⟨0x2002, 1, 0x04, 1, .u8, .ro, (dn 255), .any⟩, -- Kindling.KINDLING_FAIL_STEP
  ⟨0x2002, 1, 0x05, 1, .u8, .ro, dz, .any⟩, -- Kindling.KINDLING_WAKE
  ⟨0x2002, 1, 0x06, 1, .u32, .ro, dz, .any⟩, -- Kindling.KINDLING_MS
  ⟨0x2002, 1, 0x07, 1, .u32, .ro, dz, .any⟩, -- Kindling.KINDLING_COUNT
  ⟨0x2003, 1, 0x01, 1, .u8, .rws, (dn 1), (.mask 7)⟩, -- Wake.WAKE_ENABLE
  ⟨0x2003, 1, 0x02, 1, .u32, .rw, dz, (.natOr 0 60 604800)⟩, -- Wake.WAKE_TIMER
  ⟨0x2003, 1, 0x03, 1, .u16, .rw, (dn 3000), (.nat 0 60000)⟩, -- Wake.KEY_OFF_DELAY
  ⟨0x2003, 1, 0x04, 1, .u64, .ro, dz, .any⟩, -- Wake.BANKED_EPOCH
  ⟨0x2003, 1, 0x05, 1, .u32, .ro, dz, .any⟩, -- Wake.LOW_FEED_COUNT
  ⟨0x2003, 1, 0x06, 1, .bool, .ro, dz, .any⟩, -- Wake.REMOTE_WAKE
  ⟨0x2020, 1, 0x06, 1, .u16, .rw, (dn 5000), (.nat 20 60000)⟩, -- Hb.HB_GRACE
  ⟨0x2020, 1, 0x07, 1, .u32, .ro, dz, .any⟩] -- Hb.HB_MISSES
/-- Rows of indices 0x2100–0x21FF. -/
def rows21 : List ObjRow := [
  ⟨0x2100, 1, 0x01, 1, .u8, .ro, dz, .any⟩, -- Hearth.HEARTH_STATE
  ⟨0x2100, 1, 0x02, 1, .u16, .rw, (dn 1500), (.nat 100 2000)⟩, -- Hearth.DRIFT_LIMIT
  ⟨0x2100, 1, 0x03, 1, .u32, .ro, dz, .any⟩, -- Hearth.HEARTH_DRIFTS
  ⟨0x2101, 4, 0x01, 1, .u8, .ro, dz, .any⟩, -- Pll.PLL_STATE
  ⟨0x2101, 4, 0x02, 1, .u32, .ro, pllMultDefault, .any⟩, -- Pll.PLL_MULT
  ⟨0x2101, 4, 0x03, 1, .u32, .ro, dz, .any⟩, -- Pll.LOCK_LOSSES
  ⟨0x2101, 4, 0x04, 1, .f32, .ro, dz, .any⟩, -- Pll.LAST_DRIFT
  ⟨0x2110, 10, 0x01, 1, .f32, .ro, dz, .any⟩, -- Dom.DOM_FREQ
  ⟨0x2110, 10, 0x02, 1, .u8, .ro, dz, .any⟩, -- Dom.DOM_SOURCE
  ⟨0x2110, 10, 0x03, 1, .u32, .ro, domDivisorDefault, .any⟩, -- Dom.DOM_DIVISOR
  ⟨0x2110, 10, 0x04, 1, .bool, .ro, dz, .any⟩, -- Dom.DOM_ON_ALT
  ⟨0x2110, 10, 0x05, 1, .u32, .ro, dz, .any⟩, -- Dom.DOM_SWITCHES
  ⟨0x2120, 1, 0x01, 21, .bool, .rws, (dn 1), .any⟩, -- Gate.GATE_ENABLE
  ⟨0x2121, 1, 0x01, 21, .u8, .ro, (dn 1), .any⟩, -- Gate.GATE_STATE
  ⟨0x2122, 1, 0x01, 1, .u8, .ro, dz, .any⟩, -- Gate.GATE_RESULT
  ⟨0x2130, 1, 0x01, 1, .u8, .ro, dz, .any⟩, -- Load.BB_LOAD
  ⟨0x2130, 1, 0x02, 1, .u8, .ro, dz, .any⟩, -- Load.BB_LOAD_PEAK
  ⟨0x2130, 1, 0x03, 1, .u16, .rws, (dn 512), (.nat 64 4096)⟩, -- Load.AGE_PROMOTE
  ⟨0x2130, 1, 0x04, 1, .u32, .ro, dz, .any⟩, -- Load.GRANT_WAIT_MAX
  ⟨0x2130, 1, 0x05, 1, .u16, .ro, dz, .any⟩, -- Load.JOP_QUEUED
  ⟨0x2130, 1, 0x06, 1, .u32, .ro, dz, .any⟩, -- Load.JOP_SHED
  ⟨0x2130, 1, 0x07, 1, .u32, .ro, dz, .any⟩, -- Load.JOP_MEDIAN_US
  ⟨0x2130, 1, 0x08, 1, .u32, .ro, dz, .any⟩, -- Load.JOP_WORST_US
  ⟨0x2130, 1, 0x09, 1, .u16, .ro, dz, .any⟩, -- Load.FUSION_SHED
  ⟨0x2130, 1, 0x0A, 1, .u32, .ro, dz, .any⟩] -- Load.ENC_REPLACED
/-- Rows of indices 0x2200–0x22FF, piece 1. -/
def rows22a : List ObjRow := [
  ⟨0x2200, 16, 0x01, 1, .u8, .ro, dz, .any⟩, -- Pd.PD_STATE
  ⟨0x2200, 16, 0x02, 1, .f32, .ro, dz, .any⟩, -- Pd.PD_RAIL_V
  ⟨0x2200, 16, 0x03, 1, .f32, .ro, pdNominalDefault, .any⟩, -- Pd.PD_NOMINAL_V
  ⟨0x2200, 16, 0x04, 1, .u64, .ro, dz, .any⟩, -- Pd.PD_EPOCH
  ⟨0x2200, 16, 0x05, 1, .u32, .ro, dz, .any⟩, -- Pd.PD_FAULTS
  ⟨0x2220, 1, 0x01, 1, .u8, .ro, dz, .any⟩, -- Therm.THERMAL_STAGE
  ⟨0x2220, 1, 0x02, 1, .u64, .ro, dz, .any⟩, -- Therm.STAGE_EPOCH
  ⟨0x2220, 1, 0x03, 1, .u8, .ro, (dn 255), .any⟩, -- Therm.STAGE_SENSOR
  ⟨0x2220, 1, 0x04, 1, .u32, .ro, (dn 4294967295), .any⟩, -- Therm.PRED_MS
  ⟨0x2220, 1, 0x05, 1, .u8, .ro, dz, .any⟩, -- Therm.DERATE_DEMAND
  ⟨0x2220, 1, 0x06, 1, .u8, .ro, dz, .any⟩, -- Therm.ENC_DEMAND
  ⟨0x2220, 1, 0x07, 1, .u16, .rws, (dn 10), (.nat 1 600)⟩, -- Therm.DERATE_STEP_S
  ⟨0x2220, 1, 0x08, 1, .f32, .rws, (dn 0x40A00000), (.flt 0x3F800000 0x41A00000)⟩, -- Therm.HYST
  ⟨0x2220, 1, 0x09, 1, .u16, .ro, (dn 30), .any⟩, -- Therm.RESUME_S
  ⟨0x2221, 1, 0x01, 1, .u8, .ro, dz, .any⟩, -- WrHold.UFS_WRITE
  ⟨0x2221, 1, 0x02, 1, .u8, .ro, dz, .any⟩, -- WrHold.MRAM_WRITE
  ⟨0x2221, 1, 0x03, 1, .bool, .ro, dz, .any⟩, -- WrHold.EPOCH_RESERVE
  ⟨0x2221, 1, 0x04, 1, .u32, .ro, dz, .any⟩, -- WrHold.HELD_LOST
  ⟨0x2222, 1, 0x01, 1, .f32, .ro, dz, .any⟩, -- Feed.FEED_V
  ⟨0x2222, 1, 0x02, 1, .u32, .ro, dz, .any⟩, -- Feed.ROUNDS
  ⟨0x2222, 1, 0x03, 1, .f32, .rws, (dn 0x3F800000), (.flt 0x3E4CCCCD 0x40A00000)⟩, -- Feed.CROSS_TOL
  ⟨0x2230, 32, 0x01, 1, .u8, .rws, dz, (.nat 0 2)⟩, -- Sensor.KIND
  ⟨0x2230, 32, 0x02, 1, .f32, .rws, (dn 0x3F810625), (.flt 0x3F733333 0x3F8CCCCD)⟩, -- Sensor.IDEALITY
  ⟨0x2230, 32, 0x03, 1, .f32, .rws, dz, (.flt 0x0 0x42C80000)⟩, -- Sensor.SERIES_OHM
  ⟨0x2230, 32, 0x04, 1, .f32, .rws, dz, (.flt 0xC1200000 0x41200000)⟩, -- Sensor.OFFSET
  ⟨0x2230, 32, 0x05, 1, .domain, .rws, (db []), (.lenMult 8 2 32)⟩, -- Sensor.NTC_TABLE
  ⟨0x2230, 32, 0x06, 1, .bool, .rws, dz, .any⟩, -- Sensor.WATCH
  ⟨0x2230, 32, 0x07, 1, .f32, .rws, (dn 0x42C80000), (.flt 0xC2200000 0x43480000)⟩, -- Sensor.WARN
  ⟨0x2224, 11, 0x07, 1, .f32, .ro, internalWarn, .any⟩, -- Sensor.WARN
  ⟨0x2230, 32, 0x08, 1, .f32, .rws, (dn 0x42E60000), (.flt 0xC2200000 0x43480000)⟩, -- Sensor.CRIT
  ⟨0x2224, 11, 0x08, 1, .f32, .ro, internalCrit, .any⟩, -- Sensor.CRIT
  ⟨0x2230, 32, 0x09, 1, .f32, .rws, (dn 0x42FA0000), (.flt 0xC2200000 0x43480000)⟩, -- Sensor.LIMIT
  ⟨0x2224, 11, 0x09, 1, .f32, .ro, internalLimit, .any⟩, -- Sensor.LIMIT
  ⟨0x2230, 32, 0x0A, 1, .f32, .rws, (dn 0x42B40000), (.flt 0xC2200000 0x43480000)⟩, -- Sensor.RESUME
  ⟨0x2224, 11, 0x0A, 1, .f32, .ro, internalResume, .any⟩, -- Sensor.RESUME
  ⟨0x2230, 32, 0x20, 1, .f32, .ro, dz, .any⟩, -- Sensor.TEMP
  ⟨0x2224, 11, 0x20, 1, .f32, .ro, dz, .any⟩, -- Sensor.TEMP
  ⟨0x2230, 32, 0x21, 1, .u64, .ro, dz, .any⟩, -- Sensor.TEMP_EPOCH
  ⟨0x2224, 11, 0x21, 1, .u64, .ro, dz, .any⟩, -- Sensor.TEMP_EPOCH
  ⟨0x2230, 32, 0x22, 1, .u8, .ro, dz, .any⟩] -- Sensor.SENSE_STATUS
/-- Rows of indices 0x2200–0x22FF, piece 2. -/
def rows22b : List ObjRow := [
  ⟨0x2224, 11, 0x22, 1, .u8, .ro, dz, .any⟩, -- Sensor.SENSE_STATUS
  ⟨0x2230, 32, 0x23, 1, .f32, .ro, dz, .any⟩, -- Sensor.SLOPE
  ⟨0x2224, 11, 0x23, 1, .f32, .ro, dz, .any⟩, -- Sensor.SLOPE
  ⟨0x2210, 1, 0x01, 1, .f32, .ro, dz, .any⟩, -- Diss.DISS_W
  ⟨0x2210, 1, 0x02, 1, .f32, .ro, dz, .any⟩, -- Diss.LOGIC_W
  ⟨0x2210, 1, 0x03, 1, .f32, .ro, dz, .any⟩, -- Diss.STAGE_W
  ⟨0x2210, 1, 0x04, 1, .f32, .ro, dz, .any⟩, -- Diss.DISS_PEAK
  ⟨0x2210, 1, 0x05, 1, .f32, .ro, (fun _ => .num (if Config.isFN then 0x428C0000 else 0x43700000)), .any⟩, -- Diss.FN_LIMIT_W
  ⟨0x2210, 1, 0x06, 1, .u8, .rws, (dn 255), (.natOr 0xFF 0 31)⟩, -- Diss.FN_AMBIENT_CH
  ⟨0x2210, 1, 0x07, 1, .f32, .rws, (dn 0x40A00000), (.flt 0x3F800000 0x41A00000)⟩, -- Diss.FN_HYST
  ⟨0x2210, 1, 0x08, 1, .u8, .ro, dz, .any⟩, -- Diss.FN_DEMAND
  ⟨0x2210, 1, 0x09, 1, .u8, .ro, dz, .any⟩] -- Diss.FN_ENC_DEMAND
/-- Rows of indices 0x2300–0x23FF, piece 1. -/
def rows23a : List ObjRow := [
  ⟨0x2390, 1, 0x01, 1, .u16, .wo, dz, (.nat 0 767)⟩, -- InjCle.INJ_NONFINITE
  ⟨0x2390, 1, 0x02, 1, .u16, .wo, dz, (.nat 0 767)⟩, -- InjCle.INJ_LOCKSTEP
  ⟨0x2390, 1, 0x03, 1, .u8, .wo, dz, (.nat 0 1)⟩, -- InjCle.INJ_SIDE
  ⟨0x2390, 1, 0x04, 1, .u16, .wo, dz, (.nat 0 767)⟩, -- InjCle.INJ_ECC_CORR
  ⟨0x2390, 1, 0x05, 1, .u16, .wo, dz, (.nat 0 767)⟩, -- InjCle.INJ_ECC_UNCORR
  ⟨0x2390, 1, 0x06, 1, .u8, .wo, dz, (.nat 0 199)⟩, -- InjCle.INJ_OVERRUN
  ⟨0x2390, 1, 0x07, 1, .bool, .wo, dz, .any⟩, -- InjCle.INJ_ADMISSION
  ⟨0x23A0, 1, 0x01, 1, .u8, .wo, dz, (.nat 1 30)⟩, -- InjFs.INJ_FS_LOST
  ⟨0x23A0, 1, 0x02, 1, .u8, .wo, dz, (.nat 1 30)⟩, -- InjFs.INJ_FS_DEGRADED
  ⟨0x23A0, 1, 0x03, 1, .u8, .wo, dz, (.nat 1 30)⟩, -- InjFs.INJ_SLOT_BIND
  ⟨0x23A0, 1, 0x04, 1, .u8, .wo, dz, (.nat 0 15)⟩, -- InjFs.INJ_IMP_CLIPPED
  ⟨0x23A0, 1, 0x05, 1, .u8, .wo, dz, (.nat 0 15)⟩, -- InjFs.INJ_IMP_SATURATED
  ⟨0x23A0, 1, 0x06, 1, .u8, .wo, dz, (.nat 0 15)⟩, -- InjFs.INJ_IMP_STUCK
  ⟨0x23A0, 1, 0x07, 1, .bool, .wo, dz, .any⟩, -- InjFs.INJ_MAP_DEFERRED
  ⟨0x23A0, 1, 0x08, 1, .bool, .wo, dz, .any⟩, -- InjFs.INJ_MAP_HELD
  ⟨0x23A0, 1, 0x09, 1, .u8, .wo, dz, (.nat 1 30)⟩, -- InjFs.INJ_CANMAP_DROP
  ⟨0x23C0, 1, 0x01, 1, .u8, .wo, dz, (.nat 0 47)⟩, -- InjValve.INJ_VALVE_OPEN
  ⟨0x23C0, 1, 0x02, 1, .u8, .wo, dz, (.nat 0 47)⟩, -- InjValve.INJ_SHORT_BAT
  ⟨0x23C0, 1, 0x03, 1, .u8, .wo, dz, (.nat 0 47)⟩, -- InjValve.INJ_SHORT_GND
  ⟨0x23C0, 1, 0x04, 1, .u8, .wo, dz, (.nat 0 47)⟩, -- InjValve.INJ_TTP
  ⟨0x23C0, 1, 0x05, 1, .u8, .wo, dz, (.nat 0 47)⟩, -- InjValve.INJ_THERMAL
  ⟨0x23C0, 1, 0x06, 1, .u8, .wo, dz, (.nat 0 47)⟩, -- InjValve.INJ_REG
  ⟨0x23C0, 1, 0x07, 1, .u8, .wo, dz, (.nat 0 11)⟩, -- InjValve.INJ_BANK_OC
  ⟨0x23C0, 1, 0x08, 1, .u8, .wo, dz, (.nat 0 2)⟩, -- InjValve.INJ_GROUP_SUPPLY
  ⟨0x23C0, 1, 0x09, 1, .u8, .wo, dz, (.nat 0 47)⟩, -- InjValve.INJ_OVERLAP
  ⟨0x23C0, 1, 0x0A, 1, .u8, .wo, dz, (.nat 0 47)⟩, -- InjValve.INJ_QUENCH_DEFER
  ⟨0x23C0, 1, 0x0B, 1, .u8, .wo, dz, (.nat 0 127)⟩, -- InjValve.INJ_SHAPER_FAULT
  ⟨0x23D0, 1, 0x01, 1, .u8, .wo, dz, (.nat 0 47)⟩, -- InjLs.INJ_LS_TRIP
  ⟨0x23D0, 1, 0x02, 1, .u8, .wo, dz, (.nat 0 47)⟩, -- InjLs.INJ_LS_SHORT_GND
  ⟨0x23D0, 1, 0x03, 1, .u8, .wo, dz, (.nat 0 47)⟩, -- InjLs.INJ_LS_THERMAL
  ⟨0x23D0, 1, 0x04, 1, .u8, .wo, dz, (.nat 0 47)⟩, -- InjLs.INJ_LS_SYMPATHETIC
  ⟨0x23D0, 1, 0x05, 1, .u8, .wo, dz, (.nat 0 47)⟩, -- InjLs.INJ_LS_SHORT_BAT
  ⟨0x23D0, 1, 0x06, 1, .u8, .wo, dz, (.nat 0 47)⟩, -- InjLs.INJ_LS_OPEN_LOAD
  ⟨0x23D0, 1, 0x07, 1, .u8, .wo, dz, (.nat 0 5)⟩, -- InjLs.INJ_SECTION_TRIP
  ⟨0x23D0, 1, 0x08, 1, .u8, .wo, dz, (.nat 0 5)⟩, -- InjLs.INJ_SECTION_SUPPLY
  ⟨0x23D0, 1, 0x09, 1, .u8, .wo, dz, (.nat 0 127)⟩, -- InjLs.INJ_DIO_OVERLOAD
  ⟨0x23D0, 1, 0x0A, 1, .u8, .wo, dz, (.nat 0 7)⟩, -- InjLs.INJ_DIO_GROUP_OVERLOAD
  ⟨0x23D0, 1, 0x0B, 1, .u8, .wo, dz, (.nat 0 7)⟩, -- InjLs.INJ_DIO_FIELD_SUPPLY
  ⟨0x23D0, 1, 0x0C, 1, .u8, .wo, dz, (.nat 0 127)⟩, -- InjLs.INJ_DIO_MISMATCH
  ⟨0x23D0, 1, 0x0D, 1, .u8, .wo, dz, (.nat 0 7)⟩] -- InjLs.INJ_DIO_SILENCE
/-- Rows of indices 0x2300–0x23FF, piece 2. -/
def rows23b : List ObjRow := [
  ⟨0x2300, 1, 0x01, 1, .u8, .rws, (dn 3), (.nat 1 10)⟩, -- Flt.RETRY_COUNT
  ⟨0x2300, 1, 0x02, 1, .u16, .rws, (dn 10), (.nat 1 600)⟩, -- Flt.RETRY_WINDOW
  ⟨0x2300, 1, 0x03, 1, .u8, .ro, dz, .any⟩, -- Flt.QUEUE_DEPTH
  ⟨0x2300, 1, 0x04, 1, .u8, .ro, dz, .any⟩, -- Flt.QUEUE_PEAK
  ⟨0x2300, 1, 0x05, 1, .u16, .ro, dz, .any⟩, -- Flt.HANDLING
  ⟨0x2300, 1, 0x06, 1, .u32, .ro, dz, .any⟩, -- Flt.EVENTS
  ⟨0x2300, 1, 0x07, 1, .u32, .ro, dz, .any⟩, -- Flt.PERMANENTS
  ⟨0x2300, 1, 0x08, 1, .u16, .ro, dz, .any⟩, -- Flt.ASHED_UNITS
  ⟨0x2300, 1, 0x09, 1, .u32, .rws, dz, .any⟩, -- Flt.ASH_CLEAR
  ⟨0x2300, 1, 0x0A, 1, .u32, .ro, dz, .any⟩, -- Flt.ASH_CLEARS
  ⟨0x2300, 1, 0x0B, 1, .u32, .ro, dz, .any⟩, -- Flt.WRITES_DISCARDED
  ⟨0x2300, 1, 0x0C, 1, .u32, .ro, dz, .any⟩, -- Flt.DRIVE_CRC_ERRORS
  ⟨0x2300, 1, 0x0D, 1, .u32, .ro, dz, .any⟩, -- Flt.ASH_OVERFLOWS
  ⟨0x2301, 1, 0x01, 1, .domain, .ro, (db []), .any⟩, -- Flt.ASH_TABLE
  ⟨0x2302, 1, 0x01, 1, .domain, .ro, (db []), .any⟩, -- Flt.EVENT_LOG
  ⟨0x2380, 1, 0x01, 1, .u8, .wo, dz, (.nat 0 17)⟩, -- Inj.DRIVE_LINK
  ⟨0x2380, 1, 0x02, 1, .u8, .wo, dz, (.nat 0 17)⟩, -- Inj.DRIVE_CRC
  ⟨0x2380, 1, 0x03, 1, .u8, .wo, dz, (.nat 0 1)⟩, -- Inj.TILE_FAULT
  ⟨0x2380, 1, 0x04, 1, .bool, .wo, dz, .any⟩, -- Inj.DRAM_CORR
  ⟨0x2380, 1, 0x05, 1, .bool, .wo, dz, .any⟩, -- Inj.DRAM_UNCORR
  ⟨0x2380, 1, 0x06, 1, .bool, .wo, dz, .any⟩, -- Inj.MRAM_UNCORR
  ⟨0x2380, 1, 0x07, 1, .bool, .wo, dz, .any⟩, -- Inj.EMBER_CHECK
  ⟨0x2380, 1, 0x08, 1, .bool, .wo, dz, .any⟩, -- Inj.FAULT_QUEUE
  ⟨0x23B0, 1, 0x01, 1, .bool, .wo, dz, .any⟩, -- Inj.GUIDE_DISENGAGED
  ⟨0x23B0, 1, 0x02, 1, .u16, .wo, dz, (.nat 0 10000)⟩, -- Inj.GUIDE_COAST
  ⟨0x23B0, 1, 0x03, 1, .u8, .wo, dz, (.nat 1 2)⟩, -- Inj.GUIDE_CYCLE_LOST
  ⟨0x23B0, 1, 0x04, 1, .u8, .wo, dz, (.nat 0 63)⟩, -- Inj.LINE_CHECK
  ⟨0x23E0, 1, 0x01, 1, .u8, .wo, dz, (.nat 0 1)⟩, -- Inj.ANT_OPEN
  ⟨0x23E0, 1, 0x02, 1, .u8, .wo, dz, (.nat 0 1)⟩, -- Inj.ANT_SHORT
  ⟨0x23E0, 1, 0x03, 1, .bool, .wo, dz, .any⟩, -- Inj.GNSS_NOISE
  ⟨0x23E0, 1, 0x04, 1, .u8, .wo, dz, (.nat 0 14)⟩, -- Inj.NAV_CHECK
  ⟨0x23E0, 1, 0x05, 1, .bool, .wo, dz, .any⟩, -- Inj.RTCM_CRC
  ⟨0x23E0, 1, 0x06, 1, .bool, .wo, dz, .any⟩, -- Inj.HDG_BASELINE
  ⟨0x23E0, 1, 0x07, 1, .u16, .wo, dz, (.nat 1 3600)⟩, -- Inj.TIME_UNSYNC
  ⟨0x23E0, 1, 0x08, 1, .bool, .wo, dz, .any⟩, -- Inj.TIME_STEP
  ⟨0x23E0, 1, 0x09, 1, .u8, .wo, dz, (.nat 0 15)⟩, -- Inj.GNB_BLOCK
  ⟨0x23F0, 1, 0x01, 1, .u8, .wo, dz, (.nat 0 7)⟩, -- Inj.CAM_LINK
  ⟨0x23F0, 1, 0x02, 1, .u8, .wo, dz, (.nat 0 7)⟩, -- Inj.CAM_FRAME
  ⟨0x23F0, 1, 0x03, 1, .u8, .wo, dz, (.nat 1 7)⟩, -- Inj.VISION_DROP
  ⟨0x23F0, 1, 0x04, 1, .u8, .wo, dz, (.nat 0 1)⟩] -- Inj.VISION_SRAM
/-- Rows of indices 0x2300–0x23FF, piece 3. -/
def rows23c : List ObjRow := [
  ⟨0x23F0, 1, 0x05, 1, .bool, .wo, dz, .any⟩, -- Inj.ENC_FAULT
  ⟨0x23F0, 1, 0x06, 1, .u8, .wo, dz, (.nat 1 6)⟩, -- Inj.VISION_DERATE
  ⟨0x23F1, 1, 0x01, 1, .u8, .wo, dz, (.nat 0 15)⟩, -- Inj.FUSION_STALE
  ⟨0x23F1, 1, 0x02, 1, .u8, .wo, dz, (.nat 1 2)⟩, -- Inj.FUSION_CYCLE_LOST
  ⟨0x23F1, 1, 0x03, 1, .u16, .wo, dz, (.nat 100 5000)⟩, -- Inj.EGO_LOST
  ⟨0x23F1, 1, 0x04, 1, .u8, .wo, dz, (.nat 0 7)⟩, -- Inj.ZONE_BLIND
  ⟨0x23F1, 1, 0x05, 1, .bool, .wo, dz, .any⟩, -- Inj.FUSION_SRAM
  ⟨0x23F1, 1, 0x06, 1, .bool, .wo, dz, .any⟩, -- Inj.TRACKS_FULL
  ⟨0x23F1, 1, 0x07, 1, .u8, .wo, dz, (.nat 0 3)⟩, -- Inj.LIDAR_FORMAT
  ⟨0x23F2, 1, 0x01, 1, .u8, .wo, dz, (.nat 0 11)⟩, -- Inj.CAN_BUS_OFF
  ⟨0x23F2, 1, 0x02, 1, .u8, .wo, dz, (.nat 0 11)⟩, -- Inj.CAN_ERR_PASSIVE
  ⟨0x23F2, 1, 0x03, 1, .u8, .wo, dz, (.nat 0 11)⟩, -- Inj.CAN_TX_DROP
  ⟨0x23F2, 1, 0x04, 1, .u8, .wo, dz, (.nat 0 11)⟩, -- Inj.CAN_ADDR_LOST
  ⟨0x23F2, 1, 0x05, 1, .u8, .wo, dz, (.nat 0 11)⟩, -- Inj.CAN_CTRL
  ⟨0x23F2, 1, 0x06, 1, .u8, .wo, dz, (.nat 0 11)⟩, -- Inj.ETH_LINK
  ⟨0x23F2, 1, 0x07, 1, .u8, .wo, dz, (.nat 0 11)⟩, -- Inj.ETH_PHY
  ⟨0x23F3, 1, 0x01, 1, .u8, .wo, dz, (.nat 0 1)⟩, -- Inj.FAB_LINK
  ⟨0x23F3, 1, 0x02, 1, .bool, .wo, dz, .any⟩, -- Inj.FAB_NUMBER_CLASH
  ⟨0x23F3, 1, 0x03, 1, .bool, .wo, dz, .any⟩, -- Inj.FAB_SOURCE_CHANGE
  ⟨0x23F3, 1, 0x04, 1, .u8, .wo, dz, (.nat 0 1)⟩, -- Inj.FAB_PHY
  ⟨0x23F4, 1, 0x01, 1, .u8, .wo, dz, (.nat 0 3)⟩, -- Inj.UPD_BUILD_FAIL
  ⟨0x23F4, 1, 0x02, 1, .u8, .wo, dz, (.nat 0 3)⟩, -- Inj.UPD_HELD
  ⟨0x23F4, 1, 0x03, 1, .bool, .wo, dz, .any⟩, -- Inj.UPD_ACTIVATION_FAIL
  ⟨0x23F4, 1, 0x04, 1, .bool, .wo, dz, .any⟩, -- Inj.UPD_HEALTH_FAIL
  ⟨0x23F4, 1, 0x06, 1, .u8, .wo, dz, (.nat 0 9)⟩, -- Inj.IMAGE_CHECK
  ⟨0x23F4, 1, 0x07, 1, .bool, .wo, dz, .any⟩, -- Inj.MIGRATION_FAIL
  ⟨0x23F4, 1, 0x08, 1, .u8, .wo, dz, (.nat 0 9)⟩, -- Inj.IMAGE_NONE
  ⟨0x23F5, 1, 0x01, 1, .u8, .wo, dz, (.nat 0 255)⟩, -- Inj.REC_CORRUPT
  ⟨0x23F5, 1, 0x02, 1, .bool, .wo, dz, .any⟩, -- Inj.REC_DEFERRED
  ⟨0x23F5, 1, 0x03, 1, .u8, .wo, dz, (.nat 0 255)⟩, -- Inj.REC_SATURATED
  ⟨0x23F6, 1, 0x01, 1, .u8, .wo, dz, (.nat 0 1)⟩, -- Inj.FACE_RAIL
  ⟨0x23F6, 1, 0x02, 1, .u8, .wo, dz, (.nat 0 1)⟩, -- Inj.FACE_HELD
  ⟨0x23F6, 1, 0x03, 1, .u8, .wo, dz, (.nat 0 1)⟩, -- Inj.FACE_CLEAN
  ⟨0x23F6, 1, 0x04, 1, .bool, .wo, dz, .any⟩, -- Inj.FACE_LINK
  ⟨0x23F7, 1, 0x01, 1, .bool, .wo, dz, .any⟩, -- Inj.HEARTH_DRIFT
  ⟨0x23F7, 1, 0x02, 1, .u8, .wo, dz, (.nat 0 3)⟩, -- Inj.PLL_LOCK
  ⟨0x23F7, 1, 0x03, 1, .u8, .wo, dz, (.nat 1 8)⟩, -- Inj.CLOCK_NONE
  ⟨0x23F7, 1, 0x04, 1, .u8, .wo, dz, (.nat 0 15)⟩, -- Inj.PD_RAIL
  ⟨0x23F7, 1, 0x05, 1, .u8, .wo, dz, (.nat 0 42)⟩, -- Inj.THERMAL_WARN
  ⟨0x23F7, 1, 0x06, 1, .u8, .wo, dz, (.nat 0 42)⟩] -- Inj.THERMAL_CRIT
/-- Rows of indices 0x2300–0x23FF, piece 4. -/
def rows23d : List ObjRow := [
  ⟨0x23F7, 1, 0x07, 1, .u8, .wo, dz, (.nat 0 42)⟩, -- Inj.THERMAL_CRIT_NEAR
  ⟨0x23F7, 1, 0x08, 1, .u8, .wo, dz, (.nat 0 42)⟩, -- Inj.THERMAL_SENSOR
  ⟨0x23F7, 1, 0x09, 1, .u8, .wo, dz, (.nat 0 1)⟩, -- Inj.WRITE_HOLD
  ⟨0x23F7, 1, 0x0A, 1, .bool, .wo, dz, .any⟩, -- Inj.HK_CHAIN
  ⟨0x23F7, 1, 0x0B, 1, .u8, .wo, dz, (.nat 62 78)⟩] -- Inj.HK_CROSS
/-- Rows of indices 0x2400–0x24FF. -/
def rows24 : List ObjRow := [
  ⟨0x2400, 30, 0x01, 1, .u8, .rwc, dz, (.nat 0 2)⟩, -- Slot.MODE_REQ
  ⟨0x2400, 30, 0x02, 1, .u8, .ro, dz, .any⟩, -- Slot.STATE
  ⟨0x2400, 30, 0x03, 1, .u64, .ro, dz, .any⟩, -- Slot.STATE_EPOCH
  ⟨0x2400, 30, 0x04, 1, .u8, .ro, dz, .any⟩, -- Slot.CAUSE
  ⟨0x2400, 30, 0x05, 1, .u8, .rws, (dn 7), (.mask 7)⟩, -- Slot.PERMIT
  ⟨0x2400, 30, 0x06, 1, .bool, .rws, dz, .any⟩, -- Slot.DEGRADE_OK
  ⟨0x2400, 30, 0x07, 1, .u8, .rws, dz, (.nat 0 1)⟩, -- Slot.STANDBY_KIND
  ⟨0x2400, 30, 0x08, 4, .u32, .rws, dz, (.ref true true false false)⟩, -- Slot.ROOT
  ⟨0x2400, 30, 0x0C, 4, .u32, .rws, dz, (.ref false false true false)⟩, -- Slot.SENSOR
  ⟨0x2400, 30, 0x10, 4, .u16, .rws, (dn 100), (.nat 1 10000)⟩, -- Slot.STALE
  ⟨0x2400, 30, 0x14, 4, .u8, .rws, (dn 15), (.mask 0xF)⟩, -- Slot.DEP
  ⟨0x2400, 30, 0x18, 1, .bool, .ro, dz, .any⟩, -- Slot.LOST
  ⟨0x2400, 30, 0x19, 1, .u8, .ro, dz, .any⟩, -- Slot.LOST_ROOTS
  ⟨0x2400, 30, 0x20, 1, .f32, .rw, dz, .finite⟩, -- Slot.CAN_CMD
  ⟨0x2400, 30, 0x21, 1, .u8, .rws, (dn 255), (.natOr 0xFF 0 11)⟩, -- Slot.CAN_PORT
  ⟨0x2400, 30, 0x22, 1, .u32, .rws, dz, (.mask 0x1DFFFF00)⟩, -- Slot.CAN_ID
  ⟨0x2400, 30, 0x23, 1, .u16, .rws, (dn 100), (.nat 10 1000)⟩, -- Slot.CAN_PERIOD
  ⟨0x2400, 30, 0x24, 1, .u8, .rws, (dn 8), (.nat 1 8)⟩, -- Slot.CAN_LEN
  ⟨0x2400, 30, 0x25, 1, .u8, .rws, dz, (.nat 0 63)⟩, -- Slot.CAN_START
  ⟨0x2400, 30, 0x26, 1, .u8, .rws, (dn 16), (.oneOf [1, 2, 4, 8, 16, 24, 32])⟩, -- Slot.CAN_BITS
  ⟨0x2400, 30, 0x27, 1, .f32, .rws, (dn 0x3F800000), .finiteNZ⟩, -- Slot.CAN_SCALE
  ⟨0x2400, 30, 0x28, 1, .f32, .rws, dz, .finite⟩, -- Slot.CAN_OFFSET
  ⟨0x2400, 30, 0x29, 1, .u64, .rws, (dn 18446744073709551615), .any⟩, -- Slot.CAN_FILL
  ⟨0x2400, 30, 0x2A, 1, .u8, .rws, (dn 1), (.nat 0 2)⟩, -- Slot.CAN_SAFE_KIND
  ⟨0x2400, 30, 0x2B, 1, .u32, .rws, (dn 4294967295), .any⟩, -- Slot.CAN_SAFE_RAW
  ⟨0x2400, 30, 0x2C, 1, .u64, .ro, dz, .any⟩, -- Slot.CAN_TX_EPOCH
  ⟨0x2400, 30, 0x2D, 1, .u32, .ro, dz, .any⟩, -- Slot.CAN_TX_RAW
  ⟨0x2400, 30, 0x2E, 1, .u32, .ro, dz, .any⟩] -- Slot.CAN_DROPPED
/-- Rows of indices 0x2500–0x25FF. -/
def rows25 : List ObjRow := [
  ⟨0x2500, 16, 0x01, 1, .bool, .rws, dz, .any⟩, -- Imp.ENABLE
  ⟨0x2500, 16, 0x02, 1, .u8, .rws, dz, (.nat 0 2)⟩, -- Imp.ROLE
  ⟨0x2500, 16, 0x03, 1, .u16, .rw, (dn 400), (.nat 1 8191)⟩, -- Imp.TRIG
  ⟨0x2500, 16, 0x04, 1, .u16, .rw, (dn 1200), (.nat 1 8192)⟩, -- Imp.GRAIN_A_MIN
  ⟨0x2500, 16, 0x05, 1, .u8, .rw, (dn 2), (.nat 1 5)⟩, -- Imp.GRAIN_RISE_MAX
  ⟨0x2500, 16, 0x06, 1, .u16, .rw, (dn 100), (.nat 10 1000)⟩, -- Imp.WINDOW
  ⟨0x2500, 16, 0x07, 1, .f32, .rws, (dn 0x3F800000), (.flt 0x3A83126F 0x3F800000)⟩, -- Imp.COVERAGE
  ⟨0x2500, 16, 0x08, 1, .u32, .ro, dz, .any⟩, -- Imp.COUNT_GRAIN
  ⟨0x2500, 16, 0x09, 1, .u32, .ro, dz, .any⟩, -- Imp.COUNT_OTHER
  ⟨0x2500, 16, 0x0A, 1, .f32, .ro, dz, .any⟩, -- Imp.N_GRAIN
  ⟨0x2500, 16, 0x0B, 1, .f32, .ro, dz, .any⟩, -- Imp.N_OTHER
  ⟨0x2500, 16, 0x0C, 1, .f32, .ro, dz, .any⟩, -- Imp.M_GRAIN
  ⟨0x2500, 16, 0x0D, 1, .f32, .ro, dz, .any⟩, -- Imp.M_OTHER
  ⟨0x2500, 16, 0x0E, 1, .u32, .ro, dz, .any⟩, -- Imp.LIVE_US
  ⟨0x2500, 16, 0x0F, 1, .u8, .ro, dz, .any⟩] -- Imp.FLAGS
/-- Rows of indices 0x2600–0x26FF. -/
def rows26 : List ObjRow := [
  ⟨0x2601, 1, 0x01, 1, .f32, .ro, dz, .any⟩, -- Speed.GRAIN_FLOW
  ⟨0x2601, 1, 0x02, 1, .f32, .ro, dz, .any⟩, -- Speed.LOSS_RATE
  ⟨0x2601, 1, 0x03, 1, .f32, .ro, dz, .any⟩, -- Speed.LOSS_PCT
  ⟨0x2601, 1, 0x04, 1, .f32, .rw, dz, (.flt 0x0 0x42480000)⟩, -- Speed.OPERATOR_CAP
  ⟨0x2601, 1, 0x05, 1, .f32, .ro, (dn 0x40800000), .any⟩, -- Speed.SLOPE_CAP
  ⟨0x2601, 1, 0x06, 1, .u64, .ro, dz, .any⟩, -- Speed.SLOPE_EPOCH
  ⟨0x2601, 1, 0x07, 1, .f32, .rw, (dn 0x41400000), (.flt 0 0x42480000)⟩, -- Speed.SLOPE_V0
  ⟨0x2601, 1, 0x08, 1, .f32, .rw, (dn 0x40800000), (.flt 0 0x42480000)⟩, -- Speed.SLOPE_V1
  ⟨0x2601, 1, 0x09, 1, .f32, .rw, (dn 0x41000000), (.flt 0 0x42340000)⟩, -- Speed.SLOPE_A0
  ⟨0x2601, 1, 0x0A, 1, .f32, .rw, (dn 0x41A00000), (.flt 0 0x42340000)⟩, -- Speed.SLOPE_A1
  ⟨0x2601, 1, 0x0B, 1, .f32, .ro, dz, .any⟩, -- Speed.GROUND_SPEED
  ⟨0x2601, 1, 0x0C, 1, .u64, .ro, dz, .any⟩, -- Speed.GROUND_SPEED_EPOCH
  ⟨0x2601, 1, 0x0D, 1, .bool, .ro, dz, .any⟩, -- Speed.GROUND_SPEED_VALID
  ⟨0x2610, 16, 0x01, 1, .vstr, .rw, (db []), (.len 0 16)⟩, -- Crop.NAME
  ⟨0x2610, 16, 0x02, 1, .f32, .rw, (dn 0x41200000), (.flt 0x40800000 0x41A00000)⟩, -- Crop.DELAY
  ⟨0x2610, 16, 0x03, 1, .f32, .rw, (dn 0x42340000), (.flt 0x3F800000 0x44FA0000)⟩, -- Crop.KERNEL_MASS
  ⟨0x2610, 16, 0x04, 1, .f32, .rw, (dn 0x3F800000), (.flt 0x3DCCCCCD 0x41200000)⟩, -- Crop.YIELD_CAL
  ⟨0x2610, 16, 0x05, 1, .f32, .rw, (dn 0x3F800000), (.flt 0x3DCCCCCD 0x41200000)⟩, -- Crop.LOSS_CAL
  ⟨0x2600, 1, 0x01, 1, .bool, .rw, dz, .any⟩, -- Map.MAP_RUN
  ⟨0x2600, 1, 0x02, 1, .u8, .ro, dz, .any⟩, -- Map.MAP_STATE
  ⟨0x2600, 1, 0x03, 1, .u16, .rw, (dn 1), (.nat 1 4095)⟩, -- Map.MAP_NUMBER
  ⟨0x2600, 1, 0x04, 1, .u8, .rw, dz, (.nat 0 15)⟩, -- Map.CROP
  ⟨0x2600, 1, 0x05, 1, .u16, .rw, (dn 9000), (.nat 0 20000)⟩, -- Map.CUT_WIDTH
  ⟨0x2600, 1, 0x06, 1, .i16, .rw, (dn 300), (.int (-500) 3000)⟩, -- Map.CUT_HEIGHT_MAX
  ⟨0x2600, 1, 0x07, 1, .u32, .rws, dz, (.ref false false true false)⟩, -- Map.HEADER_REF
  ⟨0x2600, 1, 0x08, 1, .u32, .rws, dz, (.ref false false true false)⟩, -- Map.MOIST_REF
  ⟨0x2600, 1, 0x09, 1, .u16, .rw, (dn 5000), (.nat 100 60000)⟩, -- Map.MOIST_STALE
  ⟨0x2600, 1, 0x0A, 1, .u32, .ro, dz, .any⟩, -- Map.RECORDS
  ⟨0x2600, 1, 0x0B, 1, .u32, .ro, dz, .any⟩, -- Map.DEFERRED
  ⟨0x2600, 1, 0x0C, 1, .u16, .ro, dz, .any⟩, -- Map.MAPS
  ⟨0x2600, 1, 0x0D, 1, .u16, .rw, (dn 1), (.nat 1 4095)⟩, -- Map.MAP_SELECT
  ⟨0x2600, 1, 0x0E, 1, .domain, .ro, (db []), .any⟩, -- Map.MAP_DATA
  ⟨0x2600, 1, 0x0F, 1, .u16, .rws, dz, (.nat 1 4095)⟩] -- Map.MAP_DELETE
/-- Rows of indices 0x2700–0x27FF, piece 1. -/
def rows27a : List ObjRow := [
  ⟨0x2700, 1, 0x01, 1, .i32, .rws, dz, (.int (-20000) 20000)⟩, -- Geo.ANT0_X
  ⟨0x2700, 1, 0x02, 1, .i32, .rws, (dn 800), (.int (-20000) 20000)⟩, -- Geo.ANT0_Y
  ⟨0x2700, 1, 0x03, 1, .i32, .rws, (dn 3500), (.int 0 10000)⟩, -- Geo.ANT0_Z
  ⟨0x2700, 1, 0x04, 1, .i32, .rws, dz, (.int (-20000) 20000)⟩, -- Geo.ANT1_X
  ⟨0x2700, 1, 0x05, 1, .i32, .rws, (dn 4294966496), (.int (-20000) 20000)⟩, -- Geo.ANT1_Y
  ⟨0x2700, 1, 0x06, 1, .i32, .rws, (dn 3500), (.int 0 10000)⟩, -- Geo.ANT1_Z
  ⟨0x2700, 1, 0x07, 1, .i32, .rws, dz, (.int (-20000) 20000)⟩, -- Geo.CP_X
  ⟨0x2700, 1, 0x08, 1, .i32, .rws, dz, (.int (-20000) 20000)⟩, -- Geo.CP_Y
  ⟨0x2700, 1, 0x09, 1, .u16, .rws, (dn 3800), (.nat 1000 10000)⟩, -- Geo.WHEELBASE
  ⟨0x2700, 1, 0x0A, 1, .i8, .rws, (dn 255), (.intOf [-1, 1])⟩, -- Geo.STEER_SIGN
  ⟨0x2700, 1, 0x0B, 1, .u32, .rws, dz, (.ref false false true false)⟩, -- Geo.WHEEL_REF
  ⟨0x2701, 1, 0x01, 1, .bool, .rws, dz, .any⟩, -- Guide.GUIDE_ENABLE
  ⟨0x2701, 1, 0x02, 1, .u8, .rw, dz, (.nat 0 2)⟩, -- Guide.ENGAGE_CMD
  ⟨0x2701, 1, 0x03, 1, .u8, .ro, dz, .any⟩, -- Guide.ENGAGE_RESULT
  ⟨0x2701, 1, 0x04, 1, .u8, .ro, dz, .any⟩, -- Guide.STATE
  ⟨0x2701, 1, 0x05, 1, .u64, .ro, dz, .any⟩, -- Guide.STATE_EPOCH
  ⟨0x2701, 1, 0x06, 1, .u8, .ro, dz, .any⟩, -- Guide.CAUSE
  ⟨0x2701, 1, 0x07, 1, .u32, .ro, dz, .any⟩, -- Guide.ENGAGEMENTS
  ⟨0x2701, 1, 0x08, 1, .u32, .rws, dz, (.ref false false true false)⟩, -- Guide.OVERRIDE_REF
  ⟨0x2701, 1, 0x09, 1, .bool, .ro, dz, .any⟩, -- Guide.OP_PRESENT
  ⟨0x2701, 1, 0x0A, 1, .u16, .rw, (dn 2000), (.nat 0 10000)⟩, -- Guide.RTK_COAST
  ⟨0x2701, 1, 0x0B, 1, .f32, .rw, (dn 0x3F800000), (.flt 0x3D4CCCCD 0x41200000)⟩, -- Guide.ENGAGE_XTE_MAX
  ⟨0x2701, 1, 0x0C, 1, .f32, .rw, (dn 0x41F00000), (.flt 0x3F800000 0x42B40000)⟩, -- Guide.ENGAGE_HE_MAX
  ⟨0x2701, 1, 0x0D, 1, .f32, .rw, (dn 0x40000000), (.flt 0x3D4CCCCD 0x41200000)⟩, -- Guide.DISENGAGE_XTE
  ⟨0x2701, 1, 0x0E, 1, .f32, .rw, (dn 0x41F00000), (.flt 0x0 0x43FA0000)⟩, -- Guide.END_WARN
  ⟨0x2702, 1, 0x01, 1, .f32, .ro, dz, .any⟩, -- GErr.XTE
  ⟨0x2702, 1, 0x02, 1, .f32, .ro, dz, .any⟩, -- GErr.HE
  ⟨0x2702, 1, 0x03, 1, .f32, .ro, dz, .any⟩, -- GErr.CURVATURE
  ⟨0x2702, 1, 0x04, 1, .f32, .ro, dz, .any⟩, -- GErr.WHEEL_SP
  ⟨0x2702, 1, 0x05, 1, .f32, .ro, dz, .any⟩, -- GErr.ALONG
  ⟨0x2702, 1, 0x06, 1, .f32, .ro, dz, .any⟩, -- GErr.TO_END
  ⟨0x2702, 1, 0x07, 1, .u64, .ro, dz, .any⟩, -- GErr.SOURCE_EPOCH
  ⟨0x2702, 1, 0x08, 1, .u8, .ro, dz, .any⟩, -- GErr.FLAGS
  ⟨0x2702, 1, 0x09, 1, .u16, .ro, dz, .any⟩, -- GErr.SOLUTION_AGE
  ⟨0x2702, 1, 0x0A, 1, .u32, .ro, dz, .any⟩, -- GErr.CYCLES_LOST
  ⟨0x2703, 1, 0x01, 1, .f32, .rw, (dn 0x3F800000), (.flt 0x0 0x41200000)⟩, -- GPar.K_HE
  ⟨0x2703, 1, 0x02, 1, .f32, .rw, (dn 0x40800000), (.flt 0x0 0x42C80000)⟩, -- GPar.K_XTE
  ⟨0x2703, 1, 0x03, 1, .f32, .rw, (dn 0x420C0000), (.flt 0x3F800000 0x42700000)⟩, -- GPar.DELTA_MAX
  ⟨0x2703, 1, 0x04, 1, .f32, .rw, (dn 0x41A00000), (.flt 0x3F800000 0x43480000)⟩, -- GPar.DELTA_RATE
  ⟨0x2704, 1, 0x01, 1, .u8, .rw, (dn 255), (.natOr 0xFF 0 63)⟩] -- GLine.ACTIVE_LINE
/-- Rows of indices 0x2700–0x27FF, piece 2. -/
def rows27b : List ObjRow := [
  ⟨0x2704, 1, 0x02, 1, .i16, .rw, dz, (.int (-1000) 1000)⟩, -- GLine.PASS_INDEX
  ⟨0x2704, 1, 0x03, 1, .u32, .rw, (dn 9000), (.nat 500 60000)⟩, -- GLine.PASS_WIDTH
  ⟨0x2704, 1, 0x04, 1, .bool, .rw, (dn 1), .any⟩, -- GLine.PASS_AUTO
  ⟨0x2704, 1, 0x05, 1, .i16, .rw, dz, (.int (-2000) 2000)⟩, -- GLine.SHIFT
  ⟨0x2704, 1, 0x06, 1, .i8, .ro, dz, .any⟩, -- GLine.DIRECTION
  ⟨0x2710, 1, 0x01, 1, .u8, .rw, dz, (.nat 0 63)⟩, -- Line.LINE_SELECT
  ⟨0x2710, 1, 0x02, 1, .domain, .rw, (db []), .any⟩, -- Line.LINE_DATA
  ⟨0x2710, 1, 0x03, 1, .u8, .rw, (dn 255), (.nat 0 63)⟩, -- Line.LINE_DELETE
  ⟨0x2710, 1, 0x04, 1, .u8, .ro, dz, .any⟩, -- Line.LINES
  ⟨0x2710, 1, 0x05, 1, .u32, .ro, (dn 240000), .any⟩] -- Line.VERTICES_FREE
/-- Rows of indices 0x3000–0x30FF. -/
def rows30 : List ObjRow := [
  ⟨0x3000, 512, 0x01, 1, .bool, .rwc, dz, .any⟩, -- Cell.ENABLE
  ⟨0x3000, 512, 0x02, 1, .f32, .rwc, dz, .finite⟩, -- Cell.SETPOINT
  ⟨0x3000, 512, 0x03, 1, .u8, .rws, dz, (.nat 0 2)⟩, -- Cell.LAW
  ⟨0x3000, 512, 0x04, 1, .u8, .rws, (dn 4), (.nat 0 7)⟩, -- Cell.RATE
  ⟨0x3000, 512, 0x05, 1, .u8, .rws, (dn 255), (.natOr 0xFF 0 199)⟩, -- Cell.PHASE
  ⟨0x3000, 512, 0x06, 1, .u32, .rws, dz, (.ref true true true false)⟩, -- Cell.PV_REF
  ⟨0x3000, 512, 0x07, 1, .u32, .rws, dz, (.ref true true true false)⟩, -- Cell.SP_REF
  ⟨0x3000, 512, 0x08, 1, .u32, .rws, dz, (.ref true true true false)⟩, -- Cell.FF_REF
  ⟨0x3000, 512, 0x09, 1, .u32, .rws, dz, (.ref false false true false)⟩, -- Cell.OUT_TARGET
  ⟨0x3000, 512, 0x0A, 1, .i8, .rws, (dn 1), (.intOf [-1, 1])⟩, -- Cell.DIR
  ⟨0x3000, 512, 0x0B, 1, .f32, .rw, dz, .finite⟩, -- Cell.KP
  ⟨0x3000, 512, 0x0C, 1, .f32, .rw, dz, .finite⟩, -- Cell.KI
  ⟨0x3000, 512, 0x0D, 1, .f32, .rw, dz, .finite⟩, -- Cell.KF
  ⟨0x3000, 512, 0x0E, 1, .f32, .rw, dz, (.fltMin 0)⟩, -- Cell.BAND_IN
  ⟨0x3000, 512, 0x0F, 1, .f32, .rw, dz, (.fltMin 0)⟩, -- Cell.BAND_OUT
  ⟨0x3000, 512, 0x10, 1, .f32, .rw, dz, .finite⟩, -- Cell.I_MIN
  ⟨0x3000, 512, 0x11, 1, .f32, .rw, dz, .finite⟩, -- Cell.I_MAX
  ⟨0x3000, 512, 0x12, 1, .f32, .rw, dz, .finite⟩, -- Cell.OUT_MIN
  ⟨0x3000, 512, 0x13, 1, .f32, .rw, dz, .finite⟩, -- Cell.OUT_MAX
  ⟨0x3000, 512, 0x14, 1, .f32, .rw, dz, .finite⟩, -- Cell.OUT_REST
  ⟨0x3000, 512, 0x15, 1, .f32, .rws, dz, .finite⟩, -- Cell.OUT_INIT
  ⟨0x3000, 512, 0x20, 1, .u8, .ro, dz, .any⟩, -- Cell.STATE
  ⟨0x3000, 512, 0x21, 1, .f32, .ro, dz, .any⟩, -- Cell.ERROR
  ⟨0x3000, 512, 0x22, 1, .f32, .ro, dz, .any⟩, -- Cell.PV
  ⟨0x3000, 512, 0x23, 1, .f32, .ro, dz, .any⟩, -- Cell.INTEGRATOR
  ⟨0x3000, 512, 0x24, 1, .f32, .ro, dz, .any⟩, -- Cell.OUTPUT
  ⟨0x3000, 512, 0x25, 1, .bool, .ro, dz, .any⟩, -- Cell.STALLED
  ⟨0x3000, 512, 0x26, 1, .u32, .ro, dz, .any⟩, -- Cell.ACT_ENTRIES
  ⟨0x3000, 512, 0x27, 1, .u32, .ro, dz, .any⟩, -- Cell.FREEZES
  ⟨0x3000, 512, 0x28, 1, .u8, .ro, (dn 255), .any⟩, -- Cell.EFFECTIVE_PHASE
  ⟨0x3000, 512, 0x29, 1, .f32, .ro, dz, .any⟩, -- Cell.KI_T
  ⟨0x3000, 1, 0x80, 1, .u8, .ro, dz, .any⟩, -- Eng.ENGINE_STATE
  ⟨0x3000, 1, 0x81, 1, .u16, .ro, dz, .any⟩, -- Eng.WHEEL_PEAK
  ⟨0x3000, 1, 0x82, 1, .u8, .ro, dz, .any⟩, -- Eng.WHEEL_PEAK_SLOT
  ⟨0x3000, 1, 0x83, 1, .u32, .ro, dz, .any⟩, -- Eng.WHEEL_RATE
  ⟨0x3000, 1, 0x84, 1, .u8, .ro, dz, .any⟩, -- Eng.ADMIT_CODE
  ⟨0x3000, 1, 0x85, 1, .u32, .ro, dz, .any⟩, -- Eng.ADMIT_OBJECT
  ⟨0x3000, 1, 0x86, 1, .u32, .ro, dz, .any⟩, -- Eng.LOCKSTEP_RETRIES
  ⟨0x3000, 1, 0x87, 1, .u32, .ro, dz, .any⟩, -- Eng.RETRIES_LOST
  ⟨0x3000, 1, 0x88, 1, .u32, .ro, dz, .any⟩] -- Eng.ECC_CORRECTED
/-- Rows of indices 0x3100–0x31FF. -/
def rows31 : List ObjRow := [
  ⟨0x3000, 512, 0x01, 1, .bool, .rwc, dz, .any⟩, -- Cell.ENABLE
  ⟨0x3000, 512, 0x02, 1, .f32, .rwc, dz, .finite⟩, -- Cell.SETPOINT
  ⟨0x3000, 512, 0x03, 1, .u8, .rws, dz, (.nat 0 2)⟩, -- Cell.LAW
  ⟨0x3000, 512, 0x04, 1, .u8, .rws, (dn 4), (.nat 0 7)⟩, -- Cell.RATE
  ⟨0x3000, 512, 0x05, 1, .u8, .rws, (dn 255), (.natOr 0xFF 0 199)⟩, -- Cell.PHASE
  ⟨0x3000, 512, 0x06, 1, .u32, .rws, dz, (.ref true true true false)⟩, -- Cell.PV_REF
  ⟨0x3000, 512, 0x07, 1, .u32, .rws, dz, (.ref true true true false)⟩, -- Cell.SP_REF
  ⟨0x3000, 512, 0x08, 1, .u32, .rws, dz, (.ref true true true false)⟩, -- Cell.FF_REF
  ⟨0x3000, 512, 0x09, 1, .u32, .rws, dz, (.ref false false true false)⟩, -- Cell.OUT_TARGET
  ⟨0x3000, 512, 0x0A, 1, .i8, .rws, (dn 1), (.intOf [-1, 1])⟩, -- Cell.DIR
  ⟨0x3000, 512, 0x0B, 1, .f32, .rw, dz, .finite⟩, -- Cell.KP
  ⟨0x3000, 512, 0x0C, 1, .f32, .rw, dz, .finite⟩, -- Cell.KI
  ⟨0x3000, 512, 0x0D, 1, .f32, .rw, dz, .finite⟩, -- Cell.KF
  ⟨0x3000, 512, 0x0E, 1, .f32, .rw, dz, (.fltMin 0)⟩, -- Cell.BAND_IN
  ⟨0x3000, 512, 0x0F, 1, .f32, .rw, dz, (.fltMin 0)⟩, -- Cell.BAND_OUT
  ⟨0x3000, 512, 0x10, 1, .f32, .rw, dz, .finite⟩, -- Cell.I_MIN
  ⟨0x3000, 512, 0x11, 1, .f32, .rw, dz, .finite⟩, -- Cell.I_MAX
  ⟨0x3000, 512, 0x12, 1, .f32, .rw, dz, .finite⟩, -- Cell.OUT_MIN
  ⟨0x3000, 512, 0x13, 1, .f32, .rw, dz, .finite⟩, -- Cell.OUT_MAX
  ⟨0x3000, 512, 0x14, 1, .f32, .rw, dz, .finite⟩, -- Cell.OUT_REST
  ⟨0x3000, 512, 0x15, 1, .f32, .rws, dz, .finite⟩, -- Cell.OUT_INIT
  ⟨0x3000, 512, 0x20, 1, .u8, .ro, dz, .any⟩, -- Cell.STATE
  ⟨0x3000, 512, 0x21, 1, .f32, .ro, dz, .any⟩, -- Cell.ERROR
  ⟨0x3000, 512, 0x22, 1, .f32, .ro, dz, .any⟩, -- Cell.PV
  ⟨0x3000, 512, 0x23, 1, .f32, .ro, dz, .any⟩, -- Cell.INTEGRATOR
  ⟨0x3000, 512, 0x24, 1, .f32, .ro, dz, .any⟩, -- Cell.OUTPUT
  ⟨0x3000, 512, 0x25, 1, .bool, .ro, dz, .any⟩, -- Cell.STALLED
  ⟨0x3000, 512, 0x26, 1, .u32, .ro, dz, .any⟩, -- Cell.ACT_ENTRIES
  ⟨0x3000, 512, 0x27, 1, .u32, .ro, dz, .any⟩, -- Cell.FREEZES
  ⟨0x3000, 512, 0x28, 1, .u8, .ro, (dn 255), .any⟩, -- Cell.EFFECTIVE_PHASE
  ⟨0x3000, 512, 0x29, 1, .f32, .ro, dz, .any⟩] -- Cell.KI_T
/-- Rows of indices 0x3200–0x32FF. -/
def rows32 : List ObjRow := [
  ⟨0x3200, 256, 0x01, 1, .u8, .rws, dz, (.nat 0 8)⟩, -- Node.IN_COUNT
  ⟨0x3200, 256, 0x02, 8, .u32, .rws, dz, (.ref true true true true)⟩, -- Node.IN_REF
  ⟨0x3200, 256, 0x0A, 1, .u8, .rws, (dn 4), (.nat 0 7)⟩, -- Node.RATE
  ⟨0x3200, 256, 0x0B, 1, .u8, .rws, (dn 255), (.natOr 0xFF 0 199)⟩, -- Node.PHASE
  ⟨0x3200, 256, 0x0C, 1, .u32, .rws, dz, (.ref false false true false)⟩, -- Node.OUT_TARGET
  ⟨0x3200, 256, 0x0D, 1, .f32, .rw, (dn 0xFF800000), .notNan⟩, -- Node.OUT_MIN
  ⟨0x3200, 256, 0x0E, 1, .f32, .rw, (dn 0x7F800000), .notNan⟩, -- Node.OUT_MAX
  ⟨0x3200, 256, 0x0F, 1, .f32, .rw, (dn 0x7F800000), .notNan⟩, -- Node.CONST
  ⟨0x3200, 256, 0x20, 1, .u8, .ro, dz, .any⟩, -- Node.STATE
  ⟨0x3200, 256, 0x21, 1, .u8, .ro, (dn 255), .any⟩, -- Node.WINNER
  ⟨0x3200, 256, 0x22, 1, .f32, .ro, dz, .any⟩, -- Node.OUTPUT
  ⟨0x3200, 256, 0x23, 1, .bool, .ro, dz, .any⟩, -- Node.SATURATED
  ⟨0x3200, 256, 0x24, 1, .u32, .ro, dz, .any⟩, -- Node.WIN_CHANGES
  ⟨0x3200, 256, 0x25, 1, .u64, .ro, dz, .any⟩, -- Node.WIN_EPOCH
  ⟨0x3200, 256, 0x26, 1, .u8, .ro, dz, .any⟩] -- Node.DEPTH
/-- Rows of indices 0x3400–0x34FF, piece 1. -/
def rows34a : List ObjRow := [
  ⟨0x3400, 48, 0x01, 1, .f32, .rwc, dz, (.flt 0 0x40C00000)⟩, -- Valve.COMMAND
  ⟨0x3400, 48, 0x02, 1, .u8, .rws, (dn 255), (.natOr 0xFF 0 127)⟩, -- Valve.PROGRAM_ON
  ⟨0x3400, 48, 0x03, 1, .u8, .rws, (dn 255), (.natOr 0xFF 0 127)⟩, -- Valve.PROGRAM_OFF
  ⟨0x3400, 48, 0x04, 1, .u8, .rws, dz, (.nat 0 2)⟩, -- Valve.SAFE_KIND
  ⟨0x3400, 48, 0x05, 1, .f32, .rws, (dn 0x40C00000), (.flt 0x3DCCCCCD 0x40C00000)⟩, -- Valve.PEAK_MAX
  ⟨0x3400, 48, 0x06, 1, .f32, .rws, (dn 0x40400000), (.flt 0x3DCCCCCD 0x40400000)⟩, -- Valve.HOLD_MAX
  ⟨0x3400, 48, 0x07, 1, .u16, .rws, (dn 100), (.nat 1 1000)⟩, -- Valve.PEAK_TIME_MAX
  ⟨0x3400, 48, 0x08, 1, .u16, .rws, (dn 10000), (.nat 5000 25000)⟩, -- Valve.CHOP_F
  ⟨0x3400, 48, 0x09, 1, .f32, .rws, (dn 0x41200000), (.flt 0x3F000000 0x43480000)⟩, -- Valve.R20
  ⟨0x3400, 48, 0x0A, 1, .f32, .rws, (dn 0x40000000), (.flt 0x3DCCCCCD 0x42C80000)⟩, -- Valve.RTH_WB
  ⟨0x3400, 48, 0x0B, 1, .f32, .rws, (dn 0x41A00000), (.flt 0x3DCCCCCD 0x461C4000)⟩, -- Valve.CTH_W
  ⟨0x3400, 48, 0x0C, 1, .f32, .rws, (dn 0x40C00000), (.flt 0x3DCCCCCD 0x42C80000)⟩, -- Valve.RTH_BA
  ⟨0x3400, 48, 0x0D, 1, .f32, .rws, (dn 0x43960000), (.flt 0x3F800000 0x47C35000)⟩, -- Valve.CTH_B
  ⟨0x3400, 48, 0x0E, 1, .u8, .rws, (dn 255), (.natOr 0xFF 0 31)⟩, -- Valve.AMBIENT_CH
  ⟨0x3400, 48, 0x0F, 1, .f32, .rws, (dn 0x428C0000), (.flt 0xC2200000 0x43160000)⟩, -- Valve.AMBIENT_FIXED
  ⟨0x3400, 48, 0x10, 1, .f32, .rws, (dn 0x431B0000), (.flt 0 0x435C0000)⟩, -- Valve.T_DERATE
  ⟨0x3400, 48, 0x11, 1, .f32, .rws, (dn 0x43340000), (.flt 0 0x435C0000)⟩, -- Valve.T_TRIP
  ⟨0x3400, 48, 0x12, 1, .f32, .rws, (dn 0x3F000000), (.flt 0 0x40400000)⟩, -- Valve.DERATE_FLOOR
  ⟨0x3400, 48, 0x20, 1, .f32, .ro, dz, .any⟩, -- Valve.CURRENT
  ⟨0x3400, 48, 0x21, 1, .f32, .ro, dz, .any⟩, -- Valve.TARGET
  ⟨0x3400, 48, 0x22, 1, .u8, .ro, dz, .any⟩, -- Valve.STATE
  ⟨0x3400, 48, 0x23, 1, .u16, .ro, dz, .any⟩, -- Valve.FLAGS
  ⟨0x3400, 48, 0x24, 1, .u8, .ro, (dn 255), .any⟩, -- Valve.STEP
  ⟨0x3400, 48, 0x25, 1, .u32, .ro, dz, .any⟩, -- Valve.TTP_US
  ⟨0x3400, 48, 0x26, 1, .f32, .ro, dz, .any⟩, -- Valve.T_WINDING
  ⟨0x3400, 48, 0x27, 1, .f32, .ro, dz, .any⟩, -- Valve.T_BODY
  ⟨0x3400, 48, 0x28, 1, .u8, .ro, dz, .any⟩, -- Valve.LAST_MARK
  ⟨0x3400, 48, 0x29, 1, .u64, .ro, dz, .any⟩, -- Valve.MARK_EPOCH
  ⟨0x3400, 48, 0x2A, 1, .u16, .ro, dz, .any⟩, -- Valve.CHOP_MEAS
  ⟨0x3400, 48, 0x2B, 1, .u16, .ro, (dn 10), .any⟩, -- Valve.BAND_MA
  ⟨0x3400, 48, 0x2C, 1, .u8, .ro, dz, .any⟩, -- Valve.CMD_RESULT
  ⟨0x3400, 48, 0x2D, 1, .u32, .ro, dz, .any⟩, -- Valve.REFUSALS
  ⟨0x3400, 48, 0x2E, 1, .u32, .ro, dz, .any⟩, -- Valve.QUENCH_DEFERS
  ⟨0x3400, 48, 0x2F, 1, .f32, .ro, dz, .any⟩, -- Valve.CURRENT_FAST
  ⟨0x3440, 12, 0x01, 1, .f32, .rws, (dn 0x41400000), (.flt 0x3F800000 0x41400000)⟩, -- Bank.BANK_BUDGET
  ⟨0x3440, 12, 0x02, 1, .u16, .rws, (dn 2), (.nat 0 100)⟩, -- Bank.OVERLAP_WIN
  ⟨0x3440, 12, 0x03, 1, .u8, .ro, dz, .any⟩, -- Bank.BANK_STATE
  ⟨0x3440, 12, 0x04, 1, .f32, .ro, dz, .any⟩, -- Bank.BANK_DEMAND
  ⟨0x3440, 12, 0x05, 1, .f32, .ro, dz, .any⟩, -- Bank.BANK_CURRENT
  ⟨0x3440, 12, 0x06, 1, .u32, .ro, dz, .any⟩] -- Bank.QUENCHES
/-- Rows of indices 0x3400–0x34FF, piece 2. -/
def rows34b : List ObjRow := [
  ⟨0x3440, 12, 0x07, 1, .f32, .ro, dz, .any⟩, -- Bank.CLAMP_ENERGY
  ⟨0x3450, 3, 0x01, 1, .f32, .rws, (dn 0x42200000), (.flt 0x3F800000 0x42200000)⟩, -- VGroup.GROUP_BUDGET
  ⟨0x3450, 3, 0x02, 1, .f32, .ro, dz, .any⟩, -- VGroup.GROUP_DEMAND
  ⟨0x3450, 3, 0x03, 1, .f32, .ro, dz, .any⟩, -- VGroup.GROUP_CURRENT
  ⟨0x3450, 3, 0x04, 1, .f32, .ro, dz, .any⟩, -- VGroup.SUPPLY_V
  ⟨0x3480, 128, 0x01, 1, .domain, .rws, (db [0, 0]), .any⟩, -- Prog.CODE
  ⟨0x3480, 128, 0x02, 1, .u8, .ro, (dn 1), .any⟩, -- Prog.WORDS
  ⟨0x3480, 128, 0x03, 1, .bool, .ro, (dn 1), .any⟩, -- Prog.VALID
  ⟨0x3480, 128, 0x04, 1, .u8, .ro, dz, .any⟩] -- Prog.USERS
/-- Rows of indices 0x3500–0x35FF. -/
def rows35 : List ObjRow := [
  ⟨0x3500, 48, 0x01, 1, .f32, .rwc, dz, (.flt 0x0 0x3F800000)⟩, -- Ls.COMMAND
  ⟨0x3500, 48, 0x02, 1, .u8, .rws, dz, (.nat 0 1)⟩, -- Ls.OUT_KIND
  ⟨0x3500, 48, 0x03, 1, .u8, .rws, dz, (.nat 0 5)⟩, -- Ls.WIRE
  ⟨0x3500, 48, 0x04, 1, .u8, .rws, dz, (.nat 0 2)⟩, -- Ls.SAFE_KIND
  ⟨0x3500, 48, 0x05, 1, .u8, .rws, (dn 15), (.mask 0xF)⟩, -- Ls.MODE_MASK
  ⟨0x3500, 48, 0x06, 1, .f32, .rws, dz, (.flt 0x0 0x425C0000)⟩, -- Ls.INRUSH_A
  ⟨0x3500, 48, 0x07, 1, .u16, .rws, dz, (.nat 0 500)⟩, -- Ls.INRUSH_MS
  ⟨0x3500, 48, 0x08, 1, .u8, .rws, (dn 3), (.nat 0 10)⟩, -- Ls.RETRY_MAX
  ⟨0x3500, 48, 0x09, 1, .u16, .rws, (dn 60), (.nat 1 3600)⟩, -- Ls.RETRY_WINDOW
  ⟨0x3500, 48, 0x0A, 1, .u16, .rws, (dn 1000), (.nat 100 60000)⟩, -- Ls.RETRY_DELAY
  ⟨0x3500, 48, 0x0B, 1, .f32, .rws, (dn 0x41C00000), (.flt 0x41200000 0x42000000)⟩, -- Ls.V_REF
  ⟨0x3500, 48, 0x0C, 1, .u16, .rws, (dn 100), (.natOr 0 20 2000)⟩, -- Ls.OPEN_MA
  ⟨0x3500, 48, 0x20, 1, .u8, .ro, dz, .any⟩, -- Ls.STATE
  ⟨0x3500, 48, 0x21, 1, .u16, .ro, dz, .any⟩, -- Ls.FLAGS
  ⟨0x3500, 48, 0x22, 1, .f32, .ro, dz, .any⟩, -- Ls.DUTY
  ⟨0x3500, 48, 0x23, 1, .u8, .ro, dz, .any⟩, -- Ls.RETRIES_USED
  ⟨0x3500, 48, 0x24, 1, .u32, .ro, dz, .any⟩, -- Ls.TRIPS
  ⟨0x3500, 48, 0x25, 1, .u32, .ro, dz, .any⟩, -- Ls.SYMPATHETICS
  ⟨0x3500, 48, 0x26, 1, .u64, .ro, dz, .any⟩, -- Ls.LAST_TRIP_EPOCH
  ⟨0x3540, 6, 0x01, 1, .u8, .ro, dz, .any⟩, -- Sec.SEC_STATE
  ⟨0x3540, 6, 0x02, 1, .u8, .ro, dz, .any⟩, -- Sec.SEC_FLAGS
  ⟨0x3540, 6, 0x03, 1, .f32, .ro, dz, .any⟩, -- Sec.V_SEC
  ⟨0x3540, 6, 0x04, 1, .f32, .ro, dz, .any⟩, -- Sec.V_MS
  ⟨0x3540, 6, 0x05, 1, .u8, .ro, dz, .any⟩, -- Sec.RESTORES_USED
  ⟨0x3540, 6, 0x06, 1, .u32, .ro, dz, .any⟩] -- Sec.SEC_TRIPS
/-- Rows of indices 0x3600–0x36FF. -/
def rows36 : List ObjRow := [
  ⟨0x3600, 128, 0x01, 1, .bool, .rwc, dz, .any⟩, -- Dio.DO_CMD
  ⟨0x3600, 128, 0x02, 1, .u8, .rws, dz, (.nat 0 1)⟩, -- Dio.DIR
  ⟨0x3600, 128, 0x03, 1, .u8, .rws, (dn 1), (.oneOf [1, 3])⟩, -- Dio.IN_TYPE
  ⟨0x3600, 128, 0x04, 1, .u16, .rw, (dn 1000), (.nat 0 25000)⟩, -- Dio.FILTER_US
  ⟨0x3600, 128, 0x05, 1, .bool, .rw, dz, .any⟩, -- Dio.INVERT
  ⟨0x3600, 128, 0x06, 1, .u8, .rws, dz, (.nat 0 2)⟩, -- Dio.SAFE_KIND
  ⟨0x3600, 128, 0x07, 1, .u16, .rw, (dn 100), (.nat 10 1000)⟩, -- Dio.FREQ_GATE
  ⟨0x3600, 128, 0x08, 1, .u16, .rw, (dn 1000), (.nat 10 10000)⟩, -- Dio.ZERO_MS
  ⟨0x3600, 128, 0x20, 1, .bool, .ro, dz, .any⟩, -- Dio.STATE
  ⟨0x3600, 128, 0x21, 1, .u32, .ro, dz, .any⟩, -- Dio.COUNT
  ⟨0x3600, 128, 0x22, 1, .f32, .ro, dz, .any⟩, -- Dio.FREQ
  ⟨0x3600, 128, 0x23, 1, .u64, .ro, dz, .any⟩, -- Dio.EDGE_EPOCH
  ⟨0x3600, 128, 0x24, 1, .u8, .ro, dz, .any⟩, -- Dio.FLAGS
  ⟨0x3600, 128, 0x25, 1, .u8, .ro, dz, .any⟩, -- Dio.CH_STATE
  ⟨0x3600, 128, 0x26, 1, .u32, .ro, dz, .any⟩, -- Dio.OVERLOADS
  ⟨0x3680, 8, 0x01, 1, .u8, .rws, (dn 10), (.nat 1 255)⟩, -- Grp.SILENCE_TIMEOUT
  ⟨0x3680, 8, 0x02, 1, .u8, .ro, dz, .any⟩, -- Grp.GROUP_STATE
  ⟨0x3680, 8, 0x03, 1, .f32, .ro, dz, .any⟩, -- Grp.FIELD_V
  ⟨0x3680, 8, 0x04, 1, .u8, .ro, dz, .any⟩, -- Grp.GROUP_FLAGS
  ⟨0x3680, 8, 0x05, 1, .u32, .ro, dz, .any⟩, -- Grp.SILENCES
  ⟨0x3680, 8, 0x06, 1, .u32, .ro, dz, .any⟩] -- Grp.BARRIER_ERRORS
/-- Rows of indices 0x4000–0x40FF, piece 1. -/
def rows40a : List ObjRow := [
  ⟨0x4000, 1, 0x01, 1, .u32, .rws, (dn 32767), (.mask 0x7FFF)⟩, -- Gnss.SIG_ENABLE
  ⟨0x4000, 1, 0x02, 1, .f32, .rw, (dn 0x41200000), (.flt 0x0 0x42340000)⟩, -- Gnss.ELEV_MASK
  ⟨0x4000, 1, 0x03, 1, .u8, .rw, (dn 30), (.nat 20 50)⟩, -- Gnss.CN0_MASK
  ⟨0x4000, 1, 0x04, 1, .f32, .rws, dz, (.flt 0x0 0x447A0000)⟩, -- Gnss.ANT0_DELAY
  ⟨0x4000, 1, 0x05, 1, .u8, .rws, (dn 3), (.mask 3)⟩, -- Gnss.ANT_BIAS
  ⟨0x4000, 1, 0x06, 1, .u8, .ro, dz, .any⟩, -- Gnss.ANT_STATUS
  ⟨0x4000, 1, 0x07, 1, .u16, .ro, dz, .any⟩, -- Gnss.CHANNELS_USED
  ⟨0x4000, 1, 0x08, 1, .u8, .ro, dz, .any⟩, -- Gnss.SATS_USED
  ⟨0x4000, 1, 0x09, 1, .f32, .ro, dz, .any⟩, -- Gnss.NOISE_RISE
  ⟨0x4001, 1, 0x01, 1, .u8, .ro, dz, .any⟩, -- Sol.SOL_TYPE
  ⟨0x4001, 1, 0x02, 1, .i32, .ro, (dn 2147483648), .any⟩, -- Sol.LAT
  ⟨0x4001, 1, 0x03, 1, .i32, .ro, (dn 2147483648), .any⟩, -- Sol.LON
  ⟨0x4001, 1, 0x04, 1, .i32, .ro, dz, .any⟩, -- Sol.HGT
  ⟨0x4001, 1, 0x05, 1, .f32, .ro, dz, .any⟩, -- Sol.VEL_N
  ⟨0x4001, 1, 0x06, 1, .f32, .ro, dz, .any⟩, -- Sol.VEL_E
  ⟨0x4001, 1, 0x07, 1, .f32, .ro, dz, .any⟩, -- Sol.VEL_U
  ⟨0x4001, 1, 0x08, 1, .f32, .ro, dz, .any⟩, -- Sol.SPEED
  ⟨0x4001, 1, 0x09, 1, .f32, .ro, dz, .any⟩, -- Sol.COURSE
  ⟨0x4001, 1, 0x0A, 1, .f32, .ro, dz, .any⟩, -- Sol.H_ACC
  ⟨0x4001, 1, 0x0B, 1, .f32, .ro, dz, .any⟩, -- Sol.PDOP
  ⟨0x4001, 1, 0x0C, 1, .u64, .ro, dz, .any⟩, -- Sol.SOL_EPOCH
  ⟨0x4001, 1, 0x0D, 1, .u16, .ro, (dn 65535), .any⟩, -- Sol.CORR_AGE
  ⟨0x4002, 1, 0x01, 1, .f32, .ro, dz, .any⟩, -- Hdg.HEADING
  ⟨0x4002, 1, 0x02, 1, .f32, .ro, dz, .any⟩, -- Hdg.TILT
  ⟨0x4002, 1, 0x03, 1, .f32, .ro, dz, .any⟩, -- Hdg.HDG_RATE
  ⟨0x4002, 1, 0x04, 1, .f32, .ro, dz, .any⟩, -- Hdg.BASELINE
  ⟨0x4002, 1, 0x05, 1, .bool, .ro, dz, .any⟩, -- Hdg.HDG_VALID
  ⟨0x4002, 1, 0x06, 1, .f32, .ro, dz, .any⟩, -- Hdg.HDG_SD
  ⟨0x4002, 1, 0x07, 1, .u64, .ro, dz, .any⟩, -- Hdg.HDG_EPOCH
  ⟨0x4002, 1, 0x08, 1, .u16, .rw, (dn 20), (.nat 5 100)⟩, -- Hdg.BASELINE_TOL
  ⟨0x4003, 1, 0x01, 1, .domain, .wo, (db []), .any⟩, -- Rtcm.RTCM_IN
  ⟨0x4003, 1, 0x02, 1, .u16, .rw, (dn 65535), (.natOr 0xFFFF 0 4095)⟩, -- Rtcm.BASE_ID
  ⟨0x4003, 1, 0x03, 1, .u16, .ro, (dn 65535), .any⟩, -- Rtcm.BASE_ACTIVE
  ⟨0x4003, 1, 0x04, 1, .u16, .rw, (dn 10), (.nat 1 60)⟩, -- Rtcm.CORR_MAX_AGE
  ⟨0x4003, 1, 0x05, 1, .u32, .ro, dz, .any⟩, -- Rtcm.RTCM_FRAMES
  ⟨0x4003, 1, 0x06, 1, .u32, .ro, dz, .any⟩, -- Rtcm.RTCM_CRC_ERR
  ⟨0x4003, 1, 0x07, 1, .u32, .ro, dz, .any⟩, -- Rtcm.RTCM_IGNORED
  ⟨0x4003, 1, 0x08, 1, .f32, .ro, dz, .any⟩, -- Rtcm.BASE_DIST
  ⟨0x4004, 1, 0x01, 1, .domain, .ro, (db []), .any⟩, -- Raw.RAW_DATA
  ⟨0x4004, 1, 0x02, 1, .domain, .ro, (db []), .any⟩] -- Raw.NAV_DATA
/-- Rows of indices 0x4000–0x40FF, piece 2. -/
def rows40b : List ObjRow := [
  ⟨0x4004, 1, 0x03, 1, .u32, .ro, dz, .any⟩, -- Raw.NAV_FAILS
  ⟨0x4004, 1, 0x04, 1, .i8, .ro, dz, .any⟩, -- Raw.LEAP_S
  ⟨0x4004, 1, 0x05, 1, .bool, .ro, dz, .any⟩] -- Raw.LEAP_VALID
/-- Rows of indices 0x4100–0x41FF. -/
def rows41 : List ObjRow := [
  ⟨0x4100, 1, 0x01, 1, .u8, .ro, dz, .any⟩, -- Time.TIME_STATE
  ⟨0x4100, 1, 0x02, 1, .f32, .ro, dz, .any⟩, -- Time.TIME_OFFSET
  ⟨0x4100, 1, 0x03, 1, .f32, .ro, dz, .any⟩, -- Time.TIME_UNC
  ⟨0x4100, 1, 0x04, 1, .u64, .ro, dz, .any⟩, -- Time.HOLD_EPOCH
  ⟨0x4100, 1, 0x05, 1, .u32, .rw, (dn 1000), (.nat 100 100000)⟩, -- Time.SYNC_THRESH
  ⟨0x4100, 1, 0x06, 1, .u32, .rw, (dn 3600), (.nat 60 86400)⟩, -- Time.HOLD_LIMIT
  ⟨0x4100, 1, 0x07, 1, .u8, .rw, (dn 50), (.nat 1 50)⟩, -- Time.SLEW_RATE
  ⟨0x4100, 1, 0x08, 1, .u16, .rw, (dn 2000), (.nat 200 10000)⟩, -- Time.LOSS_MS
  ⟨0x4100, 1, 0x09, 1, .f32, .rw, (dn 0x40E00000), (.flt 0x0 0x43FA0000)⟩, -- Time.HOLD_K1
  ⟨0x4100, 1, 0x0A, 1, .f32, .rw, (dn 0x3AC49BA6), (.flt 0x0 0x41200000)⟩, -- Time.HOLD_K2
  ⟨0x4100, 1, 0x0B, 1, .f32, .rw, (dn 0x40000000), (.flt 0x0 0x42C80000)⟩, -- Time.HOLD_KT
  ⟨0x4100, 1, 0x0C, 1, .f32, .ro, dz, .any⟩, -- Time.HEARTH_PPB
  ⟨0x4100, 1, 0x0D, 1, .u32, .ro, dz, .any⟩, -- Time.TIME_STEPS
  ⟨0x4100, 1, 0x0E, 1, .f32, .ro, dz, .any⟩, -- Time.LAST_STEP_MS
  ⟨0x4100, 1, 0x0F, 1, .u64, .ro, dz, .any⟩, -- Time.STEP_EPOCH
  ⟨0x4101, 2, 0x01, 1, .bool, .rw, (dn 1), .any⟩, -- Pps.PPS_ENABLE
  ⟨0x4101, 2, 0x02, 1, .u16, .rw, dz, (.nat 0 20000)⟩, -- Pps.PPS_DELAY
  ⟨0x4101, 2, 0x03, 1, .u16, .rw, (dn 100), (.nat 1 900)⟩, -- Pps.PPS_WIDTH
  ⟨0x4101, 2, 0x04, 1, .u8, .rw, dz, (.nat 0 1)⟩, -- Pps.PPS_POLARITY
  ⟨0x4101, 2, 0x05, 1, .u64, .ro, dz, .any⟩, -- Pps.PPS_EPOCH
  ⟨0x4101, 2, 0x06, 1, .u8, .ro, dz, .any⟩] -- Pps.PPS_STATE
/-- Rows of indices 0x4200–0x42FF, piece 1. -/
def rows42a : List ObjRow := [
  ⟨0x4210, 8, 0x01, 1, .bool, .rws, dz, .any⟩, -- CamCfg.CAM_ENABLE
  ⟨0x4210, 8, 0x02, 1, .u16, .rws, (dn 1920), (.even 64 4096)⟩, -- CamCfg.WIDTH
  ⟨0x4210, 8, 0x03, 1, .u16, .rws, (dn 1080), (.even 64 3072)⟩, -- CamCfg.HEIGHT
  ⟨0x4210, 8, 0x04, 1, .u8, .rws, (dn 1), (.nat 1 3)⟩, -- CamCfg.EXPOSURES
  ⟨0x4210, 8, 0x05, 1, .u8, .rws, (dn 12), (.oneOf [8, 10, 12, 14, 16])⟩, -- CamCfg.BITS
  ⟨0x4210, 8, 0x06, 1, .u8, .rws, dz, (.nat 0 4)⟩, -- CamCfg.CFA
  ⟨0x4210, 8, 0x07, 1, .u8, .rws, dz, (.nat 0 1)⟩, -- CamCfg.ORDER
  ⟨0x4210, 8, 0x08, 1, .f32, .rws, (dn 0x41F00000), (.flt 0x3F800000 0x42F00000)⟩, -- CamCfg.FPS
  ⟨0x4210, 8, 0x09, 1, .u8, .rws, dz, (.nat 0 3)⟩, -- CamCfg.PRIORITY
  ⟨0x4210, 8, 0x0A, 1, .u64, .rws, dz, .any⟩, -- CamCfg.STREAM_ID
  ⟨0x4210, 8, 0x0B, 1, .u8, .rws, dz, (.mask 7)⟩, -- CamCfg.PORT_POL
  ⟨0x4210, 8, 0x0C, 1, .u32, .rw, dz, (.nat 0 1000000)⟩, -- CamCfg.EXPO_OFFSET
  ⟨0x4210, 8, 0x0D, 1, .u8, .rw, (dn 5), (.mask 7)⟩, -- CamCfg.OUT_MASK
  ⟨0x4210, 8, 0x0E, 1, .u16, .rws, (dn 4), (.oneOf [2, 4, 8, 16, 32, 64, 128, 256])⟩, -- CamCfg.RATIO_A
  ⟨0x4210, 8, 0x0F, 1, .u16, .rws, (dn 4), (.oneOf [2, 4, 8, 16, 32, 64, 128])⟩, -- CamCfg.RATIO_B
  ⟨0x4210, 8, 0x10, 1, .u16, .rw, (dn 60000), (.nat 1 65535)⟩, -- CamCfg.KNEE
  ⟨0x4210, 8, 0x11, 1, .u32, .rw, dz, (.nat 0 0xFFFFFF)⟩, -- CamCfg.BLACK
  ⟨0x4210, 8, 0x12, 1, .u16, .rw, (dn 4096), (.nat 1 65535)⟩, -- CamCfg.WB_R
  ⟨0x4210, 8, 0x13, 1, .u16, .rw, (dn 4096), (.nat 1 65535)⟩, -- CamCfg.WB_G
  ⟨0x4210, 8, 0x14, 1, .u16, .rw, (dn 4096), (.nat 1 65535)⟩, -- CamCfg.WB_B
  ⟨0x4210, 8, 0x15, 1, .domain, .rw, (db ccmDefault), (.len 18 18)⟩, -- CamCfg.CCM
  ⟨0x4210, 8, 0x16, 1, .domain, .rws, (db linTableDefault), (.len 514 514)⟩, -- CamCfg.LIN_TABLE
  ⟨0x4210, 8, 0x17, 1, .domain, .rws, (db shadingDefault), (.len 1768 1768)⟩, -- CamCfg.SHADING
  ⟨0x4210, 8, 0x18, 1, .domain, .rws, (db []), (.lenMult 4 0 4096)⟩, -- CamCfg.DEFECTS
  ⟨0x4210, 8, 0x19, 1, .u8, .rw, (dn 8), (.nat 0 8)⟩, -- CamCfg.VIS_SHIFT
  ⟨0x4210, 8, 0x1A, 1, .u16, .rw, (dn 640), (.even 16 4096)⟩, -- CamCfg.DISP_W
  ⟨0x4210, 8, 0x1B, 1, .u16, .rw, (dn 480), (.even 16 3072)⟩, -- CamCfg.DISP_H
  ⟨0x4210, 8, 0x1C, 1, .u32, .rw, (dn 16777215), (.nat 1 0xFFFFFF)⟩, -- CamCfg.DISP_WHITE
  ⟨0x4210, 8, 0x1D, 1, .u8, .rw, (dn 6), (.nat 1 60)⟩, -- CamCfg.DISP_DIV
  ⟨0x4210, 8, 0x1E, 1, .u8, .rw, (dn 1), (.nat 1 60)⟩, -- CamCfg.CODE_DIV
  ⟨0x4210, 8, 0x1F, 1, .u32, .rw, (dn 8000000), (.nat 100000 100000000)⟩, -- CamCfg.CODE_RATE
  ⟨0x4210, 8, 0x20, 1, .u16, .rw, (dn 60), (.nat 1 600)⟩, -- CamCfg.CODE_GOP
  ⟨0x4210, 8, 0x21, 1, .u8, .rw, (dn 18), (.nat 0 51)⟩, -- CamCfg.CODE_QP_MIN
  ⟨0x4210, 8, 0x22, 1, .u8, .rw, (dn 46), (.nat 0 51)⟩, -- CamCfg.CODE_QP_MAX
  ⟨0x4210, 8, 0x23, 1, .u32, .rw, dz, .any⟩, -- CamCfg.CODE_DEST
  ⟨0x4210, 8, 0x24, 1, .bool, .rw, dz, .any⟩, -- CamCfg.CODE_RECORD
  ⟨0x4210, 8, 0x25, 1, .u16, .rws, (dn 8192), (.nat 0 65535)⟩, -- CamCfg.RING_MIB
  ⟨0x4220, 8, 0x01, 1, .u8, .ro, dz, .any⟩, -- CamSt.CAM_STATE
  ⟨0x4220, 8, 0x02, 1, .u64, .ro, dz, .any⟩, -- CamSt.FRAME_EPOCH
  ⟨0x4220, 8, 0x03, 1, .u32, .ro, dz, .any⟩] -- CamSt.FRAMES
/-- Rows of indices 0x4200–0x42FF, piece 2. -/
def rows42b : List ObjRow := [
  ⟨0x4220, 8, 0x04, 1, .u32, .ro, dz, .any⟩, -- CamSt.DROP_LOAD
  ⟨0x4220, 8, 0x05, 1, .u32, .ro, dz, .any⟩, -- CamSt.DROP_RING
  ⟨0x4220, 8, 0x06, 1, .u32, .ro, dz, .any⟩, -- CamSt.DROP_DERATE
  ⟨0x4220, 8, 0x07, 1, .u32, .ro, dz, .any⟩, -- CamSt.FRAME_ERRORS
  ⟨0x4220, 8, 0x08, 1, .f32, .ro, dz, .any⟩, -- CamSt.FPS_MEAS
  ⟨0x4220, 8, 0x09, 1, .u32, .ro, dz, .any⟩, -- CamSt.VIS_CLIPPED
  ⟨0x4220, 8, 0x0A, 1, .domain, .ro, (db []), .any⟩, -- CamSt.STATS
  ⟨0x4220, 8, 0x0B, 1, .domain, .ro, (db []), .any⟩, -- CamSt.DISP_FRAME
  ⟨0x4220, 8, 0x0C, 1, .domain, .ro, (db []), .any⟩, -- CamSt.VIS_FRAME
  ⟨0x4220, 8, 0x0D, 1, .domain, .ro, (db []), .any⟩, -- CamSt.CODE_CLIP
  ⟨0x4220, 8, 0x0E, 1, .u8, .ro, dz, .any⟩, -- CamSt.CODE_QP
  ⟨0x4220, 8, 0x0F, 1, .u32, .ro, dz, .any⟩, -- CamSt.CODE_SKIPS
  ⟨0x4220, 8, 0x10, 1, .bool, .ro, dz, .any⟩, -- CamSt.RECORD_HELD
  ⟨0x4220, 8, 0x11, 1, .u8, .ro, dz, .any⟩, -- CamSt.FORMAT_RESULT
  ⟨0x4200, 1, 0x01, 1, .u32, .ro, dz, .any⟩, -- Vis.MEM_LOAD
  ⟨0x4200, 1, 0x02, 1, .u32, .ro, dz, .any⟩, -- Vis.PORT_LOAD
  ⟨0x4200, 1, 0x03, 1, .u32, .ro, dz, .any⟩, -- Vis.ENC_LOAD
  ⟨0x4200, 1, 0x04, 1, .u16, .rw, (dn 50), (.nat 10 500)⟩, -- Vis.QUEUE_MS
  ⟨0x4200, 1, 0x05, 1, .u32, .ro, dz, .any⟩, -- Vis.QUEUE_PX
  ⟨0x4200, 1, 0x06, 1, .u8, .ro, dz, .any⟩, -- Vis.DERATE_LEVEL
  ⟨0x4200, 1, 0x07, 1, .u8, .ro, dz, .any⟩, -- Vis.ENC_DERATE
  ⟨0x4200, 1, 0x08, 1, .f32, .ro, dz, .any⟩, -- Vis.BRIQ_RATIO
  ⟨0x4200, 1, 0x09, 1, .u8, .ro, dz, .any⟩, -- Vis.PIPE_ASH
  ⟨0x4200, 1, 0x0A, 1, .u32, .ro, dz, .any⟩] -- Vis.HOLD_USED
/-- Rows of indices 0x4300–0x43FF, piece 1. -/
def rows43a : List ObjRow := [
  ⟨0x4300, 1, 0x01, 1, .f32, .ro, dz, .any⟩, -- Fus.PROX_CAP
  ⟨0x4300, 1, 0x02, 1, .u64, .ro, dz, .any⟩, -- Fus.PROX_EPOCH
  ⟨0x4300, 1, 0x03, 1, .f32, .rw, (dn 0x42480000), (.flt 0x0 0x42480000)⟩, -- Fus.PROX_DEFAULT
  ⟨0x4300, 1, 0x04, 1, .u16, .ro, dz, .any⟩, -- Fus.TRACK_COUNT
  ⟨0x4300, 1, 0x05, 1, .bool, .ro, dz, .any⟩, -- Fus.EGO_VALID
  ⟨0x4300, 1, 0x06, 1, .u16, .rw, (dn 500), (.nat 100 5000)⟩, -- Fus.EGO_COAST
  ⟨0x4300, 1, 0x07, 1, .f32, .rw, (dn 0x41135C29), (.flt 0x3F800000 0x42C80000)⟩, -- Fus.GATE
  ⟨0x4300, 1, 0x08, 1, .u8, .rw, (dn 3), (.nat 1 16)⟩, -- Fus.CONFIRM_M
  ⟨0x4300, 1, 0x09, 1, .u8, .rw, (dn 5), (.nat 1 16)⟩, -- Fus.CONFIRM_N
  ⟨0x4300, 1, 0x0A, 1, .u8, .rw, (dn 10), (.nat 1 100)⟩, -- Fus.DELETE_K
  ⟨0x4300, 1, 0x0B, 1, .f32, .rw, (dn 0x40000000), (.flt 0x3C23D70A 0x42480000)⟩, -- Fus.Q_ACCEL
  ⟨0x4300, 1, 0x0C, 1, .u32, .ro, dz, .any⟩, -- Fus.CYCLES_LOST
  ⟨0x4300, 1, 0x0D, 1, .u32, .ro, dz, .any⟩, -- Fus.TRACKS_FULL_COUNT
  ⟨0x4301, 1, 0x01, 1, .domain, .ro, (db []), .any⟩, -- Fus.TRACKS
  ⟨0x4302, 1, 0x01, 1, .bool, .ro, dz, .any⟩, -- Cart.CART_VALID
  ⟨0x4302, 1, 0x02, 1, .u32, .ro, dz, .any⟩, -- Cart.CART_TRACK
  ⟨0x4302, 1, 0x03, 1, .f32, .ro, dz, .any⟩, -- Cart.SWING_SP
  ⟨0x4302, 1, 0x04, 1, .f32, .ro, dz, .any⟩, -- Cart.TIP_SP
  ⟨0x4302, 1, 0x05, 1, .u64, .ro, dz, .any⟩, -- Cart.CART_EPOCH
  ⟨0x4302, 1, 0x06, 1, .i32, .rws, dz, (.int (-20000) 20000)⟩, -- Cart.PIVOT_X
  ⟨0x4302, 1, 0x07, 1, .i32, .rws, dz, (.int (-20000) 20000)⟩, -- Cart.PIVOT_Y
  ⟨0x4302, 1, 0x08, 1, .f32, .rw, dz, (.flt 0xC1200000 0x41200000)⟩, -- Cart.FILL_OFFSET
  ⟨0x4302, 1, 0x09, 1, .f32, .rws, (dn 0x41A00000), (.flt 0x40000000 0x42480000)⟩, -- Cart.CART_RANGE
  ⟨0x4302, 1, 0x0A, 1, .f32, .rws, dz, (.flt 0xC3340000 0x43340000)⟩, -- Cart.SWING_MIN
  ⟨0x4302, 1, 0x0B, 1, .f32, .rws, (dn 0x42DC0000), (.flt 0xC3340000 0x43340000)⟩, -- Cart.SWING_MAX
  ⟨0x4302, 1, 0x0C, 1, .f32, .rws, (dn 0x41000000), (.flt 0x3F800000 0x41A00000)⟩, -- Cart.AUGER_REACH
  ⟨0x4302, 1, 0x0D, 1, .f32, .rws, (dn 0x40A00000), (.flt 0x0 0x42B40000)⟩, -- Cart.TIP_GAIN
  ⟨0x4302, 1, 0x0E, 1, .f32, .rws, (dn 0xC1A00000), (.flt 0xC2B40000 0x42B40000)⟩, -- Cart.TIP_MIN
  ⟨0x4302, 1, 0x0F, 1, .f32, .rws, (dn 0x41A00000), (.flt 0xC2B40000 0x42B40000)⟩, -- Cart.TIP_MAX
  ⟨0x4310, 16, 0x01, 1, .bool, .rws, dz, .any⟩, -- Src.SRC_ENABLE
  ⟨0x4310, 16, 0x02, 1, .u8, .rws, dz, (.nat 0 3)⟩, -- Src.KIND
  ⟨0x4310, 16, 0x03, 1, .u8, .rws, dz, (.nat 0 7)⟩, -- Src.UNIT
  ⟨0x4310, 16, 0x04, 1, .u32, .rws, dz, (.ref false false true false)⟩, -- Src.REF
  ⟨0x4310, 16, 0x05, 1, .i32, .rws, dz, (.int (-20000) 20000)⟩, -- Src.MOUNT_X
  ⟨0x4310, 16, 0x06, 1, .i32, .rws, dz, (.int (-20000) 20000)⟩, -- Src.MOUNT_Y
  ⟨0x4310, 16, 0x07, 1, .i32, .rws, dz, (.int 0 10000)⟩, -- Src.MOUNT_Z
  ⟨0x4310, 16, 0x08, 1, .f32, .rws, dz, (.flt 0xC3340000 0x43340000)⟩, -- Src.MOUNT_YAW
  ⟨0x4310, 16, 0x09, 1, .f32, .rws, (dn 0x42340000), (.flt 0x3F800000 0x43340000)⟩, -- Src.FOV_HALF
  ⟨0x4310, 16, 0x0A, 1, .f32, .rws, (dn 0x42480000), (.flt 0x3F000000 0x437A0000)⟩, -- Src.RANGE_MAX
  ⟨0x4310, 16, 0x0B, 1, .f32, .rws, (dn 0x3E4CCCCD), (.flt 0x3C23D70A 0x41200000)⟩] -- Src.MEAS_SD
/-- Rows of indices 0x4300–0x43FF, piece 2. -/
def rows43b : List ObjRow := [
  ⟨0x4310, 16, 0x0C, 1, .u16, .rw, (dn 200), (.nat 20 5000)⟩, -- Src.STALE_MS
  ⟨0x4310, 16, 0x0D, 1, .u8, .rws, dz, (.nat 0 3)⟩, -- Src.PRIORITY
  ⟨0x4310, 16, 0x20, 1, .u16, .ro, (dn 65535), .any⟩, -- Src.SRC_AGE
  ⟨0x4310, 16, 0x21, 1, .u8, .ro, dz, .any⟩, -- Src.SRC_FLAGS
  ⟨0x4310, 16, 0x22, 1, .u32, .ro, dz, .any⟩, -- Src.SAMPLES
  ⟨0x4310, 16, 0x23, 1, .u32, .ro, dz, .any⟩, -- Src.LATE
  ⟨0x4310, 16, 0x24, 1, .u32, .ro, dz, .any⟩, -- Src.FRAME_ERRORS
  ⟨0x4330, 8, 0x01, 1, .bool, .rws, dz, .any⟩, -- Zone.ZONE_ENABLE
  ⟨0x4330, 8, 0x02, 1, .i32, .rws, dz, (.int (-50000) 50000)⟩, -- Zone.X_MIN
  ⟨0x4330, 8, 0x03, 1, .i32, .rws, dz, (.int (-50000) 50000)⟩, -- Zone.X_MAX
  ⟨0x4330, 8, 0x04, 1, .i32, .rws, dz, (.int (-50000) 50000)⟩, -- Zone.Y_MIN
  ⟨0x4330, 8, 0x05, 1, .i32, .rws, dz, (.int (-50000) 50000)⟩, -- Zone.Y_MAX
  ⟨0x4330, 8, 0x06, 1, .u8, .rws, (dn 18), (.mask 0x1F)⟩, -- Zone.CLASS_MASK
  ⟨0x4330, 8, 0x07, 1, .u8, .rws, dz, (.mask 3)⟩, -- Zone.ZONE_OPTS
  ⟨0x4330, 8, 0x08, 1, .u16, .rws, dz, .any⟩, -- Zone.SRC_MASK
  ⟨0x4330, 8, 0x09, 1, .f32, .rws, dz, (.flt 0 0x437A0000)⟩, -- Zone.D_STOP
  ⟨0x4330, 8, 0x0A, 1, .f32, .rws, dz, (.flt 0 0x437A0000)⟩, -- Zone.D_FREE
  ⟨0x4330, 8, 0x0B, 1, .f32, .rws, dz, .finite⟩, -- Zone.CAP_CLEAR
  ⟨0x4330, 8, 0x0C, 1, .f32, .rws, dz, .finite⟩, -- Zone.CAP_OCCUPIED
  ⟨0x4330, 8, 0x20, 1, .f32, .ro, dz, .any⟩, -- Zone.ZONE_CAP
  ⟨0x4330, 8, 0x21, 1, .u8, .ro, dz, .any⟩, -- Zone.ZONE_STATE
  ⟨0x4330, 8, 0x22, 1, .f32, .ro, dz, .any⟩, -- Zone.ZONE_D
  ⟨0x4330, 8, 0x23, 1, .u32, .ro, dz, .any⟩] -- Zone.ZONE_TRACK
/-- Rows of indices 0x4400–0x44FF, piece 1. -/
def rows44a : List ObjRow := [
  ⟨0x4400, 1, 0x01, 1, .bool, .rws, (fun p => .num (if p = 0 then 1 else 0)), .any⟩, -- Can.PORT_ENABLE
  ⟨0x4400, 1, 0x02, 1, .bool, .rws, dz, .any⟩, -- Can.FD_ENABLE
  ⟨0x4400, 1, 0x03, 1, .u16, .rws, (dn 1), (.nat 1 512)⟩, -- Can.NOM_BRP
  ⟨0x4400, 1, 0x04, 1, .u16, .rws, (dn 255), (.nat 1 256)⟩, -- Can.NOM_SEG1
  ⟨0x4400, 1, 0x05, 1, .u8, .rws, (dn 64), (.nat 1 128)⟩, -- Can.NOM_SEG2
  ⟨0x4400, 1, 0x06, 1, .u8, .rws, (dn 16), (.nat 1 128)⟩, -- Can.NOM_SJW
  ⟨0x4400, 1, 0x07, 1, .bool, .rws, dz, .any⟩, -- Can.TRIPLE
  ⟨0x4400, 1, 0x08, 1, .u8, .rws, (dn 1), (.nat 1 32)⟩, -- Can.DATA_BRP
  ⟨0x4400, 1, 0x09, 1, .u8, .rws, (dn 14), (.nat 1 32)⟩, -- Can.DATA_SEG1
  ⟨0x4400, 1, 0x0A, 1, .u8, .rws, (dn 5), (.nat 1 16)⟩, -- Can.DATA_SEG2
  ⟨0x4400, 1, 0x0B, 1, .u8, .rws, (dn 5), (.nat 1 16)⟩, -- Can.DATA_SJW
  ⟨0x4400, 1, 0x0C, 1, .bool, .rws, (dn 1), .any⟩, -- Can.TDC_ENABLE
  ⟨0x4400, 1, 0x0D, 1, .u8, .rws, (dn 15), (.nat 0 127)⟩, -- Can.TDC_OFFSET
  ⟨0x4400, 1, 0x0E, 1, .bool, .rws, dz, .any⟩, -- Can.LISTEN_ONLY
  ⟨0x4400, 1, 0x0F, 1, .bool, .wo, dz, (.oneOf [1])⟩, -- Can.RECOVER
  ⟨0x4400, 1, 0x10, 1, .bool, .rw, dz, .any⟩, -- Can.LIST_FORCE
  ⟨0x4401, 1, 0x01, 1, .u8, .ro, dz, .any⟩, -- Can.CAN_STATE
  ⟨0x4401, 1, 0x02, 1, .u16, .ro, dz, .any⟩, -- Can.TEC
  ⟨0x4401, 1, 0x03, 1, .u8, .ro, dz, .any⟩, -- Can.REC
  ⟨0x4401, 1, 0x04, 1, .u8, .ro, dz, .any⟩, -- Can.TDC_MEAS
  ⟨0x4401, 1, 0x05, 1, .u32, .ro, dz, .any⟩, -- Can.BUS_OFFS
  ⟨0x4401, 1, 0x06, 1, .u32, .ro, dz, .any⟩, -- Can.TX_SENT
  ⟨0x4401, 1, 0x07, 1, .u32, .ro, dz, .any⟩, -- Can.TX_DROPPED
  ⟨0x4401, 1, 0x08, 1, .u32, .ro, dz, .any⟩, -- Can.RX_ACCEPTED
  ⟨0x4401, 1, 0x09, 1, .u32, .ro, dz, .any⟩, -- Can.RX_NO_MATCH
  ⟨0x4401, 1, 0x0A, 1, .u32, .ro, dz, .any⟩, -- Can.ERR_FRAMES
  ⟨0x4401, 1, 0x0B, 1, .u8, .ro, dz, .any⟩, -- Can.QUEUE_USED
  ⟨0x4401, 1, 0x0C, 1, .bool, .rws, dz, .any⟩, -- Can.CLAIM_ENABLE
  ⟨0x4401, 1, 0x0D, 1, .u8, .rws, (dn 128), (.nat 0 253)⟩, -- Can.PREF_ADDR
  ⟨0x4401, 1, 0x0E, 1, .u64, .rws, dz, .any⟩, -- Can.NAME
  ⟨0x4401, 1, 0x0F, 1, .u8, .ro, (dn 255), .any⟩, -- Can.ADDRESS
  ⟨0x4401, 1, 0x10, 1, .u8, .ro, dz, .any⟩, -- Can.CLAIM_STATE
  ⟨0x4402, 1, 0x01, 32, .u32, .rw, dz, (.mask 0x1FFFFFFF)⟩, -- Filt.MATCH
  ⟨0x4402, 1, 0x21, 32, .u32, .rw, dz, (.mask 0x1FFFFFFF)⟩, -- Filt.MASK
  ⟨0x4402, 1, 0x41, 32, .u8, .rw, dz, (.mask 0xF)⟩, -- Filt.CTRL
  ⟨0x4403, 1, 0x01, 1, .domain, .rws, (db []), .any⟩, -- CanX.FILTER_LIST
  ⟨0x4403, 1, 0x02, 1, .u16, .ro, dz, .any⟩, -- CanX.LIST_COUNT
  ⟨0x4403, 1, 0x03, 1, .domain, .ro, (db []), .any⟩, -- CanX.RX_FIFO0
  ⟨0x4403, 1, 0x04, 1, .domain, .ro, (db []), .any⟩, -- CanX.RX_FIFO1
  ⟨0x4403, 1, 0x05, 1, .domain, .wo, (db []), .any⟩] -- CanX.TX_SUBMIT
/-- Rows of indices 0x4400–0x44FF, piece 2. -/
def rows44b : List ObjRow := [
  ⟨0x4403, 1, 0x06, 1, .bool, .rw, dz, .any⟩, -- CanX.TIME_ENABLE
  ⟨0x4403, 1, 0x07, 1, .u32, .rw, (dn 16), (.mask 0x9FFFFFFF)⟩, -- CanX.TIME_ID
  ⟨0x4403, 1, 0x08, 1, .u16, .rw, (dn 10), (.nat 1 1000)⟩, -- CanX.TIME_PERIOD
  ⟨0x4403, 1, 0x09, 1, .u8, .ro, dz, .any⟩, -- CanX.TIME_SEQ
  ⟨0x4404, 1, 0x01, 1, .u32, .rws, dz, (.mask 0x9FFFFFFF)⟩, -- Rxs.RXS_ID
  ⟨0x4404, 1, 0x02, 1, .u32, .rws, (dn 536870911), (.mask 0x1FFFFFFF)⟩, -- Rxs.RXS_ID_MASK
  ⟨0x4404, 1, 0x03, 1, .u16, .rws, dz, (.nat 0 511)⟩, -- Rxs.RXS_START
  ⟨0x4404, 1, 0x04, 1, .u8, .rws, (dn 16), (.nat 1 32)⟩, -- Rxs.RXS_BITS
  ⟨0x4404, 1, 0x05, 1, .u8, .rws, dz, (.mask 7)⟩, -- Rxs.RXS_OPTS
  ⟨0x4404, 1, 0x06, 1, .f32, .rws, (dn 0x3F800000), .finiteNZ⟩, -- Rxs.RXS_SCALE
  ⟨0x4404, 1, 0x07, 1, .f32, .rws, dz, .finite⟩, -- Rxs.RXS_OFFSET
  ⟨0x4404, 1, 0x08, 1, .f32, .ro, dz, .any⟩, -- Rxs.RXS_VALUE
  ⟨0x4404, 1, 0x09, 1, .u64, .ro, dz, .any⟩, -- Rxs.RXS_EPOCH
  ⟨0x4404, 1, 0x0A, 1, .u32, .ro, dz, .any⟩, -- Rxs.RXS_COUNT
  ⟨0x4404, 1, 0x0B, 1, .u32, .ro, dz, .any⟩, -- Rxs.RXS_SKIPPED
  ⟨0x4404, 1, 0x0C, 1, .u8, .ro, dz, .any⟩] -- Rxs.RXS_SRC
/-- Rows of indices 0x4500–0x45FF. -/
def rows45 : List ObjRow := [
  ⟨0x4501, 12, 0x01, 1, .u8, .rws, (fun n => .num (if n = 11 then 1 else 0)), (.nat 0 1)⟩, -- Eth.PHY_ROLE
  ⟨0x4501, 12, 0x02, 1, .u32, .rws, ethAddrDefault, .any⟩, -- Eth.IP_ADDR
  ⟨0x4501, 12, 0x03, 1, .u32, .rws, (dn 0xFFFFFF00), .netmask⟩, -- Eth.NETMASK
  ⟨0x4501, 12, 0x04, 1, .u32, .rws, dz, .any⟩, -- Eth.GATEWAY
  ⟨0x4501, 12, 0x05, 1, .bool, .rws, (fun n => .num (if n = 11 then 0 else 1)), .any⟩, -- Eth.GPTP_ENABLE
  ⟨0x4501, 12, 0x06, 1, .u8, .ro, dz, .any⟩, -- Eth.LINK
  ⟨0x4501, 12, 0x07, 1, .u64, .ro, dz, .any⟩, -- Eth.LINK_EPOCH
  ⟨0x4501, 12, 0x08, 1, .u32, .ro, dz, .any⟩, -- Eth.LINK_DOWNS
  ⟨0x4501, 12, 0x09, 1, .u32, .ro, dz, .any⟩, -- Eth.RX_FRAMES
  ⟨0x4501, 12, 0x0A, 1, .u32, .ro, dz, .any⟩, -- Eth.TX_FRAMES
  ⟨0x4501, 12, 0x0B, 1, .u32, .ro, dz, .any⟩, -- Eth.RX_ERRORS
  ⟨0x4501, 12, 0x0C, 1, .u32, .ro, dz, .any⟩, -- Eth.RX_DISCARDS
  ⟨0x4500, 1, 0x01, 1, .u32, .ro, dz, .any⟩, -- Jop.JOP_DATAGRAMS
  ⟨0x4500, 1, 0x02, 1, .u32, .ro, dz, .any⟩, -- Jop.JOP_REFUSED
  ⟨0x4500, 1, 0x03, 1, .u32, .ro, dz, .any⟩, -- Jop.JOP_REPEATS
  ⟨0x4500, 1, 0x04, 1, .u32, .ro, dz, .any⟩, -- Jop.JOP_BAD_MAGIC
  ⟨0x4500, 1, 0x05, 1, .u32, .ro, dz, .any⟩, -- Jop.UDP_NO_SERVICE
  ⟨0x4500, 1, 0x06, 1, .bool, .rw, (dn 1), .any⟩, -- Jop.ICMP_ECHO
  ⟨0x4510, 1, 0x01, 1, .u8, .rws, (dn 246), (.nat 0 255)⟩, -- Gptp.GM_PRIORITY1
  ⟨0x4510, 1, 0x02, 1, .i8, .rws, (dn 253), (.int (-5) 0)⟩, -- Gptp.LOG_SYNC
  ⟨0x4510, 1, 0x03, 1, .i8, .rws, dz, (.int (-3) 3)⟩, -- Gptp.LOG_ANNOUNCE
  ⟨0x4510, 1, 0x04, 1, .u8, .ro, (dn 248), .any⟩, -- Gptp.CLOCK_CLASS
  ⟨0x4510, 1, 0x05, 1, .i16, .ro, dz, .any⟩, -- Gptp.UTC_OFFSET
  ⟨0x4510, 1, 0x06, 1, .u32, .ro, dz, .any⟩] -- Gptp.FOREIGN_ANNOUNCE
/-- Rows of indices 0x4600–0x46FF. -/
def rows46 : List ObjRow := [
  ⟨0x4600, 1, 0x01, 1, .bool, .rws, dz, .any⟩, -- Fab.FAB_ENABLE
  ⟨0x4600, 1, 0x02, 1, .u8, .rws, dz, (.nat 0 16)⟩, -- Fab.NUMBER_CFG
  ⟨0x4600, 1, 0x03, 1, .u8, .ro, (dn 1), .any⟩, -- Fab.MODULE_NUMBER
  ⟨0x4600, 1, 0x04, 1, .u8, .ro, dz, .any⟩, -- Fab.FAB_STATE
  ⟨0x4600, 1, 0x05, 1, .u8, .ro, dz, .any⟩, -- Fab.TOPOLOGY
  ⟨0x4600, 1, 0x06, 1, .u8, .ro, (dn 1), .any⟩, -- Fab.MODULES
  ⟨0x4600, 1, 0x07, 1, .u8, .ro, dz, .any⟩, -- Fab.TIME_SOURCE
  ⟨0x4600, 1, 0x08, 1, .u16, .rws, (dn 500), (.nat 100 5000)⟩, -- Fab.FAB_SETTLE
  ⟨0x4600, 1, 0x09, 1, .u16, .rws, (dn 60), (.nat 0 3600)⟩, -- Fab.NUMBER_HOLD
  ⟨0x4600, 1, 0x0A, 1, .u32, .ro, dz, .any⟩, -- Fab.TOPO_CHANGES
  ⟨0x4600, 1, 0x0B, 1, .u32, .ro, dz, .any⟩, -- Fab.FWD_SENT
  ⟨0x4600, 1, 0x0C, 1, .u32, .ro, dz, .any⟩, -- Fab.FWD_UNREACHABLE
  ⟨0x4600, 1, 0x0D, 1, .u32, .ro, dz, .any⟩, -- Fab.FWD_LOST
  ⟨0x4601, 2, 0x01, 1, .u8, .ro, dz, .any⟩, -- FLink.FLINK_STATE
  ⟨0x4601, 2, 0x02, 1, .u8, .ro, dz, .any⟩, -- FLink.PEER_NUMBER
  ⟨0x4601, 2, 0x03, 1, .u64, .ro, dz, .any⟩, -- FLink.PEER_IDENTITY
  ⟨0x4601, 2, 0x04, 1, .f32, .ro, dz, .any⟩, -- FLink.PEER_DELAY
  ⟨0x4601, 2, 0x05, 1, .u64, .ro, dz, .any⟩, -- FLink.FLINK_EPOCH
  ⟨0x4601, 2, 0x06, 1, .u32, .ro, dz, .any⟩, -- FLink.FLINK_DISCARDS
  ⟨0x4610, 16, 0x01, 1, .u8, .ro, dz, .any⟩, -- Mod.MOD_STATE
  ⟨0x4610, 16, 0x02, 1, .u64, .ro, dz, .any⟩, -- Mod.MOD_IDENTITY
  ⟨0x4610, 16, 0x03, 1, .u8, .ro, (dn 255), .any⟩, -- Mod.MOD_HOPS
  ⟨0x4610, 16, 0x04, 1, .u8, .ro, (dn 255), .any⟩, -- Mod.MOD_ROUTE
  ⟨0x4610, 16, 0x05, 1, .bool, .ro, dz, .any⟩] -- Mod.MOD_FIX
/-- Rows of indices 0x4700–0x47FF. -/
def rows47 : List ObjRow := [
  ⟨0x4700, 1, 0x01, 1, .domain, .wo, (db []), .any⟩, -- Upd.UPD_PKG
  ⟨0x4700, 1, 0x02, 1, .u32, .ro, (dn 1073741824), .any⟩, -- Upd.STAGING_FREE
  ⟨0x4700, 1, 0x03, 1, .domain, .rws, (db []), (.len 32 32)⟩, -- Upd.OEM_KEY
  ⟨0x4701, 4, 0x01, 1, .u8, .ro, dz, .any⟩, -- Build.BUILD_STATE
  ⟨0x4701, 4, 0x02, 1, .u16, .ro, dz, .any⟩, -- Build.BUILD_REGIONS
  ⟨0x4701, 4, 0x03, 1, .u32, .ro, dz, .any⟩, -- Build.BUILD_SEQ
  ⟨0x4701, 4, 0x04, 1, .u8, .ro, dz, .any⟩, -- Build.PROGRESS
  ⟨0x4701, 4, 0x05, 1, .u8, .ro, dz, .any⟩, -- Build.HOLD_REASON
  ⟨0x4701, 4, 0x06, 1, .bool, .wo, dz, (.oneOf [1])⟩, -- Build.ABORT
  ⟨0x4710, 10, 0x01, 1, .u32, .ro, (fun r => .num (Config.factoryVersion r)), .any⟩, -- Region.ACTIVE_VERSION
  ⟨0x4710, 10, 0x02, 1, .u32, .ro, dz, .any⟩, -- Region.INACTIVE_VERSION
  ⟨0x4710, 10, 0x03, 1, .u8, .ro, dz, .any⟩, -- Region.ACTIVE_SLOT
  ⟨0x4720, 1, 0x01, 1, .u8, .ro, dz, .any⟩, -- Health.HEALTH
  ⟨0x4720, 1, 0x02, 1, .u16, .rws, (dn 600), (.nat 60 7200)⟩, -- Health.TRIAL_S
  ⟨0x4720, 1, 0x03, 1, .u8, .rws, (dn 3), (.nat 1 10)⟩, -- Health.TRIAL_STARTS
  ⟨0x4720, 1, 0x04, 1, .u16, .rws, (dn 120), (.nat 10 7200)⟩, -- Health.CONFIRM_S
  ⟨0x4720, 1, 0x05, 1, .bool, .rws, dz, .any⟩, -- Health.ACCEPT_REQUIRED
  ⟨0x4720, 1, 0x06, 1, .bool, .rw, dz, .any⟩, -- Health.UPD_ACCEPT
  ⟨0x4720, 1, 0x07, 1, .u8, .ro, dz, .any⟩, -- Health.STARTS_USED
  ⟨0x4720, 1, 0x08, 1, .u16, .ro, dz, .any⟩, -- Health.TRIAL_ELAPSED
  ⟨0x4720, 1, 0x09, 1, .u8, .ro, dz, .any⟩, -- Health.HEALTH_CAUSE
  ⟨0x4720, 1, 0x0A, 1, .u64, .ro, dz, .any⟩, -- Health.ACTIVATION_EPOCH
  ⟨0x4720, 1, 0x0B, 1, .u32, .ro, dz, .any⟩, -- Health.FALLBACKS
  ⟨0x4730, 1, 0x01, 1, .u16, .ro, (dn 1282), .any⟩, -- Ds.DS_VERSION
  ⟨0x4730, 1, 0x02, 1, .u16, .ro, dz, .any⟩, -- Ds.DS_ORIGIN
  ⟨0x4730, 1, 0x03, 1, .u8, .ro, dz, .any⟩, -- Ds.MIG_RESULT
  ⟨0x4730, 1, 0x04, 1, .u32, .ro, dz, .any⟩, -- Ds.MIGRATED
  ⟨0x4730, 1, 0x05, 1, .u32, .ro, dz, .any⟩, -- Ds.DEFAULTED
  ⟨0x4730, 1, 0x06, 1, .u32, .ro, dz, .any⟩, -- Ds.DROPPED
  ⟨0x4730, 1, 0x07, 1, .u32, .ro, dz, .any⟩, -- Ds.REFUSED
  ⟨0x4740, 1, 0x01, 1, .u8, .rwc, dz, (.nat 1 16)⟩, -- Prof.PROFILE_SELECT
  ⟨0x4740, 1, 0x02, 1, .u8, .ro, dz, .any⟩] -- Prof.PROFILES
/-- Rows of indices 0x4800–0x48FF. -/
def rows48 : List ObjRow := [
  ⟨0x4800, 1, 0x01, 1, .u8, .rw, dz, (.nat 0 1)⟩, -- Rec.REC_KIND
  ⟨0x4800, 1, 0x02, 1, .u16, .rw, dz, .any⟩, -- Rec.REC_SELECT
  ⟨0x4800, 1, 0x03, 1, .u32, .rw, dz, (.mult 256)⟩, -- Rec.REC_OFFSET
  ⟨0x4800, 1, 0x04, 1, .u16, .wo, dz, .recClear⟩, -- Rec.REC_CLEAR
  ⟨0x4800, 1, 0x05, 1, .u32, .ro, dz, .any⟩, -- Rec.CLEAR_COUNT
  ⟨0x4800, 1, 0x06, 1, .u64, .ro, dz, .any⟩, -- Rec.LAST_CLEAR_EPOCH
  ⟨0x4800, 1, 0x07, 1, .u64, .ro, dz, .any⟩, -- Rec.LAST_CLEAR_GNSS_MS
  ⟨0x4800, 1, 0x08, 1, .u16, .ro, dz, .any⟩, -- Rec.LAST_CLEAR_WHAT
  ⟨0x4800, 1, 0x09, 1, .u8, .ro, dz, .any⟩, -- Rec.LAST_CLEAR_KIND
  ⟨0x4800, 1, 0x0A, 1, .u32, .ro, dz, .any⟩, -- Rec.LAST_CLEAR_ADDR
  ⟨0x4800, 1, 0x0B, 1, .u16, .rws, (dn 10), (.nat 1 600)⟩, -- Rec.COMMIT_S
  ⟨0x4800, 1, 0x0C, 1, .bool, .wo, dz, (.oneOf [1])⟩, -- Rec.COMMIT_NOW
  ⟨0x4800, 1, 0x0D, 1, .u16, .rws, (dn 1000), (.nat 10 60000)⟩, -- Rec.FAULT_RATE_MS
  ⟨0x4800, 1, 0x0E, 1, .u16, .rws, (dn 100), (.nat 1 10000)⟩, -- Rec.FAULT_BIN_H
  ⟨0x4800, 1, 0x0F, 1, .u32, .ro, dz, .any⟩, -- Rec.BINS_USED
  ⟨0x4800, 1, 0x10, 1, .u32, .ro, dz, .any⟩, -- Rec.RUN_S
  ⟨0x4800, 1, 0x11, 1, .u64, .ro, dz, .any⟩, -- Rec.LAST_COMMIT_EPOCH
  ⟨0x4800, 1, 0x12, 1, .bool, .ro, dz, .any⟩, -- Rec.COMMIT_HELD
  ⟨0x4800, 1, 0x13, 1, .u32, .ro, dz, .any⟩, -- Rec.RECORDS_LOST
  ⟨0x4801, 1, 0x01, 1, .u8, .rws, dz, (.nat 0 2)⟩, -- Meas.M_DIMS
  ⟨0x4801, 1, 0x02, 1, .u32, .rws, dz, (.ref false false true false)⟩, -- Meas.SRC_X
  ⟨0x4801, 1, 0x03, 1, .u32, .rws, dz, (.ref false false true false)⟩, -- Meas.SRC_Y
  ⟨0x4801, 1, 0x04, 1, .f32, .rws, dz, .finite⟩, -- Meas.LO_X
  ⟨0x4801, 1, 0x05, 1, .f32, .rws, (dn 0x42800000), .finite⟩, -- Meas.HI_X
  ⟨0x4801, 1, 0x06, 1, .f32, .rws, dz, .finite⟩, -- Meas.LO_Y
  ⟨0x4801, 1, 0x07, 1, .f32, .rws, (dn 0x42800000), .finite⟩, -- Meas.HI_Y
  ⟨0x4801, 1, 0x08, 1, .u16, .rws, (dn 1000), (.nat 1 60000)⟩, -- Meas.SAMPLE_MS
  ⟨0x4801, 1, 0x09, 1, .u8, .rws, (dn 12), (.mask 0x1F)⟩, -- Meas.M_MODES
  ⟨0x4801, 1, 0x0A, 1, .vstr, .rw, (db []), (.len 0 16)⟩, -- Meas.M_NAME
  ⟨0x4802, 1, 0x01, 1, .u32, .ro, dz, .any⟩, -- RecV.REC_SEQ
  ⟨0x4802, 1, 0x02, 64, .u32, .ro, dz, .any⟩, -- RecV.WORD
  ⟨0x4802, 1, 0x42, 1, .u16, .ro, dz, .any⟩] -- RecV.REC_LENGTH
/-- Rows of indices 0x4900–0x49FF. -/
def rows49 : List ObjRow := [
  ⟨0x4900, 1, 0x01, 1, .domain, .wo, (db []), .any⟩, -- Face.FACE_UPDATE
  ⟨0x4900, 1, 0x02, 1, .u16, .rw, (dn 100), (.nat 10 60000)⟩, -- Face.FACE_IDLE_MS
  ⟨0x4901, 2, 0x01, 1, .u8, .ro, dz, .any⟩, -- Panel.PANEL_STATE
  ⟨0x4901, 2, 0x02, 1, .f32, .ro, dz, .any⟩, -- Panel.PANEL_TEMP
  ⟨0x4901, 2, 0x03, 1, .u8, .ro, (dn 255), .any⟩, -- Panel.BAND
  ⟨0x4901, 2, 0x04, 1, .u8, .ro, dz, .any⟩, -- Panel.HOLD_REASON
  ⟨0x4901, 2, 0x05, 1, .i16, .rws, (fun p => .num (Config.panelVcom p)), (.int (-3000) 0)⟩, -- Panel.VCOM_MV
  ⟨0x4901, 2, 0x06, 1, .domain, .rws, (db uniformityDefault), (.len 393216 393216)⟩, -- Panel.UNIFORMITY
  ⟨0x4901, 2, 0x07, 1, .u32, .ro, dz, .any⟩, -- Panel.PIXELS_BUSY
  ⟨0x4901, 2, 0x08, 1, .u32, .ro, dz, .any⟩, -- Panel.PIXELS_PENDING
  ⟨0x4901, 2, 0x09, 1, .bool, .ro, dz, .any⟩, -- Panel.LOCK_SET
  ⟨0x4901, 2, 0x0A, 1, .u64, .ro, dz, .any⟩, -- Panel.LOCK_RECT
  ⟨0x4901, 2, 0x0B, 1, .u64, .ro, dz, .any⟩, -- Panel.LOCK_EPOCH
  ⟨0x4901, 2, 0x0C, 1, .u8, .ro, dz, .any⟩, -- Panel.LOCK_KIND
  ⟨0x4901, 2, 0x0D, 1, .u32, .ro, dz, .any⟩, -- Panel.LOCK_ADDR
  ⟨0x4901, 2, 0x0E, 1, .u32, .ro, dz, .any⟩, -- Panel.CLEANS
  ⟨0x4901, 2, 0x0F, 1, .domain, .ro, (db []), .any⟩] -- Panel.IMAGE

/-- The rows that can hold an index, by its high byte. -/
def pageRows (page : Nat) : List ObjRow :=
  match page with
  | 0x10 => rows10
  | 0x11 => rows11
  | 0x20 => rows20a ++ rows20b
  | 0x21 => rows21
  | 0x22 => rows22a ++ rows22b
  | 0x23 => rows23a ++ rows23b ++ rows23c ++ rows23d
  | 0x24 => rows24
  | 0x25 => rows25
  | 0x26 => rows26
  | 0x27 => rows27a ++ rows27b
  | 0x30 => rows30
  | 0x31 => rows31
  | 0x32 => rows32
  | 0x34 => rows34a ++ rows34b
  | 0x35 => rows35
  | 0x36 => rows36
  | 0x40 => rows40a ++ rows40b
  | 0x41 => rows41
  | 0x42 => rows42a ++ rows42b
  | 0x43 => rows43a ++ rows43b
  | 0x44 => rows44a ++ rows44b
  | 0x45 => rows45
  | 0x46 => rows46
  | 0x47 => rows47
  | 0x48 => rows48
  | 0x49 => rows49
  | _ => []

/-- CAN ports repeat every 16 indices from 0x4400, twelve of them, and the receive signals repeat within a port
(R352): the offset in the port, and the port, of an index. -/
def rowIndex (ix : Nat) : Nat × Nat :=
  if 0x4400 ≤ ix ∧ ix < 0x44C0 then
    let off := (ix - 0x4400) % 16
    (0x4400 + (if off < 4 then off else 4), (ix - 0x4400) / 16)
  else (ix, 0)

/-- Whether a row lists an index and sub-index. -/
def ObjRow.lists (r : ObjRow) (ix sub : Nat) : Bool :=
  r.base ≤ ix && ix < r.base + r.count && r.sub ≤ sub && sub < r.sub + r.subs

/-- An object as the tables give it. -/
structure ObjInfo where
  ty : Ty
  acc : Acc
  dflt : Val
  rng : Rng

/-- The object key of an index and a sub-index: INDEX × 256 + SUB. -/
def mkKey (ix sub : Nat) : Nat := ix * 256 + sub

/-- The highest sub-index present at an index (R45); none where the index is absent (R44). -/
def highestSub (ix : Nat) : Option Nat :=
  let (rx, _) := rowIndex ix
  ((pageRows (rx / 256)).filter fun r => r.base ≤ rx && rx < r.base + r.count).foldl
    (fun m r => some (max (m.getD 0) (r.sub + r.subs - 1))) none

/-- The object of a key; none where it is absent (R44). Sub-index 0 is a read-only U8 (R45). -/
def objInfo (key : Nat) : Option ObjInfo :=
  let ix := key / 256
  let sub := key % 256
  if sub = 0 then (highestSub ix).map fun h => ⟨.u8, .ro, .num h, .any⟩
  else
    let (rx, port) := rowIndex ix
    match (pageRows (rx / 256)).find? (fun r => r.lists rx sub) with
    | none => none
    | some r => some ⟨r.ty, r.acc, r.dflt (if 0x4400 ≤ ix && ix < 0x44C0 then port else ix - r.base), r.rng⟩

/-- The default of an object (R14); zero where there is no object. -/
def objDefault (key : Nat) : Val :=
  match objInfo key with
  | some o => o.dflt
  | none => .num 0

end Sys2Proof.Machine
end

