-- ==== Sys2Proof/Machine/Keys.lean ====
section
/-! DEFINITION. The names of the objects (R14, R15): each object's key, INDEX × 256 + SUB, under its name in the spec. -/

namespace Sys2Proof.Machine

/-- Index of a sensor: T00–T31 at 0x2230, internal sensors 32–42 at 0x2224 (R438). -/
def sensorIndex (i : Nat) : Nat := if i < 32 then 0x2230 + i else 0x2224 + (i - 32)

/-- 0x2040:01 EPOCH_NOW, Table 1.4. -/
abbrev Key.Epoch.EPOCH_NOW : Nat := 0x204001
/-- 0x2040:02 EPOCH_ALIGNED, Table 1.4. -/
abbrev Key.Epoch.EPOCH_ALIGNED : Nat := 0x204002
/-- 0x2040:03 EDGE_GNSS_MS, Table 1.4. -/
abbrev Key.Epoch.EDGE_GNSS_MS : Nat := 0x204003
/-- 0x2040:04 EPOCH_RESUMES, Table 1.4. -/
abbrev Key.Epoch.EPOCH_RESUMES : Nat := 0x204004
/-- 0x2040:05 EPOCH_RESUME_FROM, Table 1.4. -/
abbrev Key.Epoch.EPOCH_RESUME_FROM : Nat := 0x204005
/-- 0x2040:06 APPLY_CLOSE, Table 1.4. -/
abbrev Key.Epoch.APPLY_CLOSE : Nat := 0x204006
/-- 0x2040:07 LATE_WRITES, Table 1.4. -/
abbrev Key.Epoch.LATE_WRITES : Nat := 0x204007
/-- 0x2040:08 RETAINED_COPIES, Table 1.4. -/
abbrev Key.Epoch.RETAINED_COPIES : Nat := 0x204008
/-- 0x2040:09 TAKE_DELAYED, Table 1.4. -/
abbrev Key.Epoch.TAKE_DELAYED : Nat := 0x204009
/-- 0x2040:0A SDO_READ_EPOCH, Table 1.4. -/
abbrev Key.Epoch.SDO_READ_EPOCH : Nat := 0x20400A
/-- 0x2041:01 SNAP_SLOTS, Table 2.8. -/
abbrev Key.Snap.SNAP_SLOTS : Nat := 0x204101
/-- 0x2048+n:01 SNAP_STATE, Table 2.8. -/
abbrev Key.Snap.SNAP_STATE (n : Nat) : Nat := (0x2048 + n) * 256 + (0x01)
/-- 0x2048+n:02 SNAP_EPOCH, Table 2.8. -/
abbrev Key.Snap.SNAP_EPOCH (n : Nat) : Nat := (0x2048 + n) * 256 + (0x02)
/-- 0x2048+n:03 SNAP_COUNT, Table 2.8. -/
abbrev Key.Snap.SNAP_COUNT (n : Nat) : Nat := (0x2048 + n) * 256 + (0x03)
/-- 0x2048+n:04 SNAP_OWNER, Table 2.8. -/
abbrev Key.Snap.SNAP_OWNER (n : Nat) : Nat := (0x2048 + n) * 256 + (0x04)
/-- 0x2048+n:05 SNAP_DATA, Table 2.8. -/
abbrev Key.Snap.SNAP_DATA (n : Nat) : Nat := (0x2048 + n) * 256 + (0x05)
/-- 0x2048+n:06 SNAP_RELEASE, Table 2.8. -/
abbrev Key.Snap.SNAP_RELEASE (n : Nat) : Nat := (0x2048 + n) * 256 + (0x06)
/-- 0x2060+s:01 CORD_STATE, Table 2.12. -/
abbrev Key.Cord.CORD_STATE (n : Nat) : Nat := (0x2060 + n) * 256 + (0x01)
/-- 0x2060+s:02 CORD_GEN, Table 2.12. -/
abbrev Key.Cord.CORD_GEN (n : Nat) : Nat := (0x2060 + n) * 256 + (0x02)
/-- 0x2060+s:03 CORD_OWNER_KIND, Table 2.12. -/
abbrev Key.Cord.CORD_OWNER_KIND (n : Nat) : Nat := (0x2060 + n) * 256 + (0x03)
/-- 0x2060+s:04 CORD_OWNER_ADDR, Table 2.12. -/
abbrev Key.Cord.CORD_OWNER_ADDR (n : Nat) : Nat := (0x2060 + n) * 256 + (0x04)
/-- 0x2060+s:05 CORD_COUNT, Table 2.12. -/
abbrev Key.Cord.CORD_COUNT (n : Nat) : Nat := (0x2060 + n) * 256 + (0x05)
/-- 0x2060+s:06 CORD_COMMIT_EPOCH, Table 2.12. -/
abbrev Key.Cord.CORD_COMMIT_EPOCH (n : Nat) : Nat := (0x2060 + n) * 256 + (0x06)
/-- 0x2060+s:07 CORD_RESULT, Table 2.12. -/
abbrev Key.Cord.CORD_RESULT (n : Nat) : Nat := (0x2060 + n) * 256 + (0x07)
/-- 0x2060+s:08 CORD_FAIL_MEMBER, Table 2.12. -/
abbrev Key.Cord.CORD_FAIL_MEMBER (n : Nat) : Nat := (0x2060 + n) * 256 + (0x08)
/-- 0x2060+s:09 CORD_FAIL_OBJECT, Table 2.12. -/
abbrev Key.Cord.CORD_FAIL_OBJECT (n : Nat) : Nat := (0x2060 + n) * 256 + (0x09)
/-- 0x2060+s:0A CORD_APPLIED_EPOCH, Table 2.12. -/
abbrev Key.Cord.CORD_APPLIED_EPOCH (n : Nat) : Nat := (0x2060 + n) * 256 + (0x0A)
/-- 0x2020:01 HEARTBEAT, Table 2.13. -/
abbrev Key.Hb.HEARTBEAT : Nat := 0x202001
/-- 0x2020:02 HB_TIMEOUT, Table 2.13. -/
abbrev Key.Hb.HB_TIMEOUT : Nat := 0x202002
/-- 0x2020:03 HB_LAST_EPOCH, Table 2.13. -/
abbrev Key.Hb.HB_LAST_EPOCH : Nat := 0x202003
/-- 0x2020:04 HB_LAST_KIND, Table 2.13. -/
abbrev Key.Hb.HB_LAST_KIND : Nat := 0x202004
/-- 0x2020:05 HB_LAST_ADDR, Table 2.13. -/
abbrev Key.Hb.HB_LAST_ADDR : Nat := 0x202005
/-- 0x2021:01 LW_QUERY, Table 2.14. -/
abbrev Key.Lw.LW_QUERY : Nat := 0x202101
/-- 0x2021:02 LW_KIND, Table 2.14. -/
abbrev Key.Lw.LW_KIND : Nat := 0x202102
/-- 0x2021:03 LW_ADDR, Table 2.14. -/
abbrev Key.Lw.LW_ADDR : Nat := 0x202103
/-- 0x2021:04 LW_PORT, Table 2.14. -/
abbrev Key.Lw.LW_PORT : Nat := 0x202104
/-- 0x2021:05 LW_EPOCH, Table 2.14. -/
abbrev Key.Lw.LW_EPOCH : Nat := 0x202105
/-- 0x2021:06 LW_VIA_CORD, Table 2.14. -/
abbrev Key.Lw.LW_VIA_CORD : Nat := 0x202106
/-- :01 DIE_TYPE, Table 2.16. -/
abbrev Key.Die.DIE_TYPE (n : Nat) : Nat := (0x1100 + n) * 256 + (0x01)
/-- :02 DIE_LOT, Table 2.16. -/
abbrev Key.Die.DIE_LOT (n : Nat) : Nat := (0x1100 + n) * 256 + (0x02)
/-- :03 DIE_WAFER, Table 2.16. -/
abbrev Key.Die.DIE_WAFER (n : Nat) : Nat := (0x1100 + n) * 256 + (0x03)
/-- :04 DIE_X, Table 2.16. -/
abbrev Key.Die.DIE_X (n : Nat) : Nat := (0x1100 + n) * 256 + (0x04)
/-- :05 DIE_Y, Table 2.16. -/
abbrev Key.Die.DIE_Y (n : Nat) : Nat := (0x1100 + n) * 256 + (0x05)
/-- 0x2000:01 MODE, Table 3.2. -/
abbrev Key.Mode.MODE : Nat := 0x200001
/-- 0x2000:02 MODE_REQUEST, Table 3.2. -/
abbrev Key.Mode.MODE_REQUEST : Nat := 0x200002
/-- 0x2000:03 MODE_RESULT, Table 3.2. -/
abbrev Key.Mode.MODE_RESULT : Nat := 0x200003
/-- 0x2000:04 MODE_SINCE, Table 3.2. -/
abbrev Key.Mode.MODE_SINCE : Nat := 0x200004
/-- 0x2000:05 MODE_PREVIOUS, Table 3.2. -/
abbrev Key.Mode.MODE_PREVIOUS : Nat := 0x200005
/-- 0x2000:06 MODE_CHANGES, Table 3.2. -/
abbrev Key.Mode.MODE_CHANGES : Nat := 0x200006
/-- 0x2000:07 ROAD_SPEED_CAP, Table 3.2. -/
abbrev Key.Mode.ROAD_SPEED_CAP : Nat := 0x200007
/-- 0x2001:01 SAFE_CAUSE, Table 3.2. -/
abbrev Key.Safe.SAFE_CAUSE : Nat := 0x200101
/-- 0x2001:02 SAFE_CAUSES, Table 3.2. -/
abbrev Key.Safe.SAFE_CAUSES : Nat := 0x200102
/-- 0x2001:03 SAFE_FAULT, Table 3.2. -/
abbrev Key.Safe.SAFE_FAULT : Nat := 0x200103
/-- 0x2001:04 SAFE_STOP, Table 3.2. -/
abbrev Key.Safe.SAFE_STOP : Nat := 0x200104
/-- 0x2001:05 SAFE_ENTRIES, Table 3.2. -/
abbrev Key.Safe.SAFE_ENTRIES : Nat := 0x200105
/-- 0x2002:01 KINDLING_EXIT, Table 3.2. -/
abbrev Key.Kindling.KINDLING_EXIT : Nat := 0x200201
/-- 0x2002:02 TILE_ARRANGEMENT, Table 3.2. -/
abbrev Key.Kindling.TILE_ARRANGEMENT : Nat := 0x200202
/-- 0x2002:03 KINDLING_STEP, Table 3.2. -/
abbrev Key.Kindling.KINDLING_STEP : Nat := 0x200203
/-- 0x2002:04 KINDLING_FAIL_STEP, Table 3.2. -/
abbrev Key.Kindling.KINDLING_FAIL_STEP : Nat := 0x200204
/-- 0x2002:05 KINDLING_WAKE, Table 3.2. -/
abbrev Key.Kindling.KINDLING_WAKE : Nat := 0x200205
/-- 0x2002:06 KINDLING_MS, Table 3.2. -/
abbrev Key.Kindling.KINDLING_MS : Nat := 0x200206
/-- 0x2002:07 KINDLING_COUNT, Table 3.2. -/
abbrev Key.Kindling.KINDLING_COUNT : Nat := 0x200207
/-- 0x2003:01 WAKE_ENABLE, Table 3.2. -/
abbrev Key.Wake.WAKE_ENABLE : Nat := 0x200301
/-- 0x2003:02 WAKE_TIMER, Table 3.2. -/
abbrev Key.Wake.WAKE_TIMER : Nat := 0x200302
/-- 0x2003:03 KEY_OFF_DELAY, Table 3.2. -/
abbrev Key.Wake.KEY_OFF_DELAY : Nat := 0x200303
/-- 0x2003:04 BANKED_EPOCH, Table 3.2. -/
abbrev Key.Wake.BANKED_EPOCH : Nat := 0x200304
/-- 0x2003:05 LOW_FEED_COUNT, Table 3.2. -/
abbrev Key.Wake.LOW_FEED_COUNT : Nat := 0x200305
/-- 0x2003:06 REMOTE_WAKE, Table 3.2. -/
abbrev Key.Wake.REMOTE_WAKE : Nat := 0x200306
/-- 0x2020:06 HB_GRACE, Table 3.6. -/
abbrev Key.Hb.HB_GRACE : Nat := 0x202006
/-- 0x2020:07 HB_MISSES, Table 3.6. -/
abbrev Key.Hb.HB_MISSES : Nat := 0x202007
/-- 0x2390:01 INJ_NONFINITE, Table 4.7. -/
abbrev Key.InjCle.INJ_NONFINITE : Nat := 0x239001
/-- 0x2390:02 INJ_LOCKSTEP, Table 4.7. -/
abbrev Key.InjCle.INJ_LOCKSTEP : Nat := 0x239002
/-- 0x2390:03 INJ_SIDE, Table 4.7. -/
abbrev Key.InjCle.INJ_SIDE : Nat := 0x239003
/-- 0x2390:04 INJ_ECC_CORR, Table 4.7. -/
abbrev Key.InjCle.INJ_ECC_CORR : Nat := 0x239004
/-- 0x2390:05 INJ_ECC_UNCORR, Table 4.7. -/
abbrev Key.InjCle.INJ_ECC_UNCORR : Nat := 0x239005
/-- 0x2390:06 INJ_OVERRUN, Table 4.7. -/
abbrev Key.InjCle.INJ_OVERRUN : Nat := 0x239006
/-- 0x2390:07 INJ_ADMISSION, Table 4.7. -/
abbrev Key.InjCle.INJ_ADMISSION : Nat := 0x239007
/-- :01 ENABLE, Table 4.8. -/
abbrev Key.Cell.ENABLE (n : Nat) : Nat := (0x3000 + n) * 256 + (0x01)
/-- :02 SETPOINT, Table 4.8. -/
abbrev Key.Cell.SETPOINT (n : Nat) : Nat := (0x3000 + n) * 256 + (0x02)
/-- :03 LAW, Table 4.8. -/
abbrev Key.Cell.LAW (n : Nat) : Nat := (0x3000 + n) * 256 + (0x03)
/-- :04 RATE, Table 4.8. -/
abbrev Key.Cell.RATE (n : Nat) : Nat := (0x3000 + n) * 256 + (0x04)
/-- :05 PHASE, Table 4.8. -/
abbrev Key.Cell.PHASE (n : Nat) : Nat := (0x3000 + n) * 256 + (0x05)
/-- :06 PV_REF, Table 4.8. -/
abbrev Key.Cell.PV_REF (n : Nat) : Nat := (0x3000 + n) * 256 + (0x06)
/-- :07 SP_REF, Table 4.8. -/
abbrev Key.Cell.SP_REF (n : Nat) : Nat := (0x3000 + n) * 256 + (0x07)
/-- :08 FF_REF, Table 4.8. -/
abbrev Key.Cell.FF_REF (n : Nat) : Nat := (0x3000 + n) * 256 + (0x08)
/-- :09 OUT_TARGET, Table 4.8. -/
abbrev Key.Cell.OUT_TARGET (n : Nat) : Nat := (0x3000 + n) * 256 + (0x09)
/-- :0A DIR, Table 4.8. -/
abbrev Key.Cell.DIR (n : Nat) : Nat := (0x3000 + n) * 256 + (0x0A)
/-- :0B KP, Table 4.8. -/
abbrev Key.Cell.KP (n : Nat) : Nat := (0x3000 + n) * 256 + (0x0B)
/-- :0C KI, Table 4.8. -/
abbrev Key.Cell.KI (n : Nat) : Nat := (0x3000 + n) * 256 + (0x0C)
/-- :0D KF, Table 4.8. -/
abbrev Key.Cell.KF (n : Nat) : Nat := (0x3000 + n) * 256 + (0x0D)
/-- :0E BAND_IN, Table 4.8. -/
abbrev Key.Cell.BAND_IN (n : Nat) : Nat := (0x3000 + n) * 256 + (0x0E)
/-- :0F BAND_OUT, Table 4.8. -/
abbrev Key.Cell.BAND_OUT (n : Nat) : Nat := (0x3000 + n) * 256 + (0x0F)
/-- :10 I_MIN, Table 4.8. -/
abbrev Key.Cell.I_MIN (n : Nat) : Nat := (0x3000 + n) * 256 + (0x10)
/-- :11 I_MAX, Table 4.8. -/
abbrev Key.Cell.I_MAX (n : Nat) : Nat := (0x3000 + n) * 256 + (0x11)
/-- :12 OUT_MIN, Table 4.8. -/
abbrev Key.Cell.OUT_MIN (n : Nat) : Nat := (0x3000 + n) * 256 + (0x12)
/-- :13 OUT_MAX, Table 4.8. -/
abbrev Key.Cell.OUT_MAX (n : Nat) : Nat := (0x3000 + n) * 256 + (0x13)
/-- :14 OUT_REST, Table 4.8. -/
abbrev Key.Cell.OUT_REST (n : Nat) : Nat := (0x3000 + n) * 256 + (0x14)
/-- :15 OUT_INIT, Table 4.8. -/
abbrev Key.Cell.OUT_INIT (n : Nat) : Nat := (0x3000 + n) * 256 + (0x15)
/-- :20 STATE, Table 4.8. -/
abbrev Key.Cell.STATE (n : Nat) : Nat := (0x3000 + n) * 256 + (0x20)
/-- :21 ERROR, Table 4.8. -/
abbrev Key.Cell.ERROR (n : Nat) : Nat := (0x3000 + n) * 256 + (0x21)
/-- :22 PV, Table 4.8. -/
abbrev Key.Cell.PV (n : Nat) : Nat := (0x3000 + n) * 256 + (0x22)
/-- :23 INTEGRATOR, Table 4.8. -/
abbrev Key.Cell.INTEGRATOR (n : Nat) : Nat := (0x3000 + n) * 256 + (0x23)
/-- :24 OUTPUT, Table 4.8. -/
abbrev Key.Cell.OUTPUT (n : Nat) : Nat := (0x3000 + n) * 256 + (0x24)
/-- :25 STALLED, Table 4.8. -/
abbrev Key.Cell.STALLED (n : Nat) : Nat := (0x3000 + n) * 256 + (0x25)
/-- :26 ACT_ENTRIES, Table 4.8. -/
abbrev Key.Cell.ACT_ENTRIES (n : Nat) : Nat := (0x3000 + n) * 256 + (0x26)
/-- :27 FREEZES, Table 4.8. -/
abbrev Key.Cell.FREEZES (n : Nat) : Nat := (0x3000 + n) * 256 + (0x27)
/-- :28 EFFECTIVE_PHASE, Table 4.8. -/
abbrev Key.Cell.EFFECTIVE_PHASE (n : Nat) : Nat := (0x3000 + n) * 256 + (0x28)
/-- :29 KI_T, Table 4.8. -/
abbrev Key.Cell.KI_T (n : Nat) : Nat := (0x3000 + n) * 256 + (0x29)
/-- :01 IN_COUNT, Table 4.9. -/
abbrev Key.Node.IN_COUNT (n : Nat) : Nat := (0x3200 + n) * 256 + (0x01)
/-- :02–:09 IN_REF, Table 4.9. -/
abbrev Key.Node.IN_REF (n j : Nat) : Nat := (0x3200 + n) * 256 + (0x02 + j)
/-- :0A RATE, Table 4.9. -/
abbrev Key.Node.RATE (n : Nat) : Nat := (0x3200 + n) * 256 + (0x0A)
/-- :0B PHASE, Table 4.9. -/
abbrev Key.Node.PHASE (n : Nat) : Nat := (0x3200 + n) * 256 + (0x0B)
/-- :0C OUT_TARGET, Table 4.9. -/
abbrev Key.Node.OUT_TARGET (n : Nat) : Nat := (0x3200 + n) * 256 + (0x0C)
/-- :0D OUT_MIN, Table 4.9. -/
abbrev Key.Node.OUT_MIN (n : Nat) : Nat := (0x3200 + n) * 256 + (0x0D)
/-- :0E OUT_MAX, Table 4.9. -/
abbrev Key.Node.OUT_MAX (n : Nat) : Nat := (0x3200 + n) * 256 + (0x0E)
/-- :0F CONST, Table 4.9. -/
abbrev Key.Node.CONST (n : Nat) : Nat := (0x3200 + n) * 256 + (0x0F)
/-- :20 STATE, Table 4.9. -/
abbrev Key.Node.STATE (n : Nat) : Nat := (0x3200 + n) * 256 + (0x20)
/-- :21 WINNER, Table 4.9. -/
abbrev Key.Node.WINNER (n : Nat) : Nat := (0x3200 + n) * 256 + (0x21)
/-- :22 OUTPUT, Table 4.9. -/
abbrev Key.Node.OUTPUT (n : Nat) : Nat := (0x3200 + n) * 256 + (0x22)
/-- :23 SATURATED, Table 4.9. -/
abbrev Key.Node.SATURATED (n : Nat) : Nat := (0x3200 + n) * 256 + (0x23)
/-- :24 WIN_CHANGES, Table 4.9. -/
abbrev Key.Node.WIN_CHANGES (n : Nat) : Nat := (0x3200 + n) * 256 + (0x24)
/-- :25 WIN_EPOCH, Table 4.9. -/
abbrev Key.Node.WIN_EPOCH (n : Nat) : Nat := (0x3200 + n) * 256 + (0x25)
/-- :26 DEPTH, Table 4.9. -/
abbrev Key.Node.DEPTH (n : Nat) : Nat := (0x3200 + n) * 256 + (0x26)
/-- 0x3000:80 ENGINE_STATE, Table 4.10. -/
abbrev Key.Eng.ENGINE_STATE : Nat := 0x300080
/-- 0x3000:81 WHEEL_PEAK, Table 4.10. -/
abbrev Key.Eng.WHEEL_PEAK : Nat := 0x300081
/-- 0x3000:82 WHEEL_PEAK_SLOT, Table 4.10. -/
abbrev Key.Eng.WHEEL_PEAK_SLOT : Nat := 0x300082
/-- 0x3000:83 WHEEL_RATE, Table 4.10. -/
abbrev Key.Eng.WHEEL_RATE : Nat := 0x300083
/-- 0x3000:84 ADMIT_CODE, Table 4.10. -/
abbrev Key.Eng.ADMIT_CODE : Nat := 0x300084
/-- 0x3000:85 ADMIT_OBJECT, Table 4.10. -/
abbrev Key.Eng.ADMIT_OBJECT : Nat := 0x300085
/-- 0x3000:86 LOCKSTEP_RETRIES, Table 4.10. -/
abbrev Key.Eng.LOCKSTEP_RETRIES : Nat := 0x300086
/-- 0x3000:87 RETRIES_LOST, Table 4.10. -/
abbrev Key.Eng.RETRIES_LOST : Nat := 0x300087
/-- 0x3000:88 ECC_CORRECTED, Table 4.10. -/
abbrev Key.Eng.ECC_CORRECTED : Nat := 0x300088
/-- :01 MODE_REQ, Table 5.3. -/
abbrev Key.Slot.MODE_REQ (s : Nat) : Nat := (0x2400 + s) * 256 + (0x01)
/-- :02 STATE, Table 5.3. -/
abbrev Key.Slot.STATE (s : Nat) : Nat := (0x2400 + s) * 256 + (0x02)
/-- :03 STATE_EPOCH, Table 5.3. -/
abbrev Key.Slot.STATE_EPOCH (s : Nat) : Nat := (0x2400 + s) * 256 + (0x03)
/-- :04 CAUSE, Table 5.3. -/
abbrev Key.Slot.CAUSE (s : Nat) : Nat := (0x2400 + s) * 256 + (0x04)
/-- :05 PERMIT, Table 5.3. -/
abbrev Key.Slot.PERMIT (s : Nat) : Nat := (0x2400 + s) * 256 + (0x05)
/-- :06 DEGRADE_OK, Table 5.3. -/
abbrev Key.Slot.DEGRADE_OK (s : Nat) : Nat := (0x2400 + s) * 256 + (0x06)
/-- :07 STANDBY_KIND, Table 5.3. -/
abbrev Key.Slot.STANDBY_KIND (s : Nat) : Nat := (0x2400 + s) * 256 + (0x07)
/-- :08–:0B ROOT, Table 5.3. -/
abbrev Key.Slot.ROOT (s j : Nat) : Nat := (0x2400 + s) * 256 + (0x08 + j)
/-- :0C–:0F SENSOR, Table 5.3. -/
abbrev Key.Slot.SENSOR (s j : Nat) : Nat := (0x2400 + s) * 256 + (0x0C + j)
/-- :10–:13 STALE, Table 5.3. -/
abbrev Key.Slot.STALE (s j : Nat) : Nat := (0x2400 + s) * 256 + (0x10 + j)
/-- :14–:17 DEP, Table 5.3. -/
abbrev Key.Slot.DEP (s j : Nat) : Nat := (0x2400 + s) * 256 + (0x14 + j)
/-- :18 LOST, Table 5.3. -/
abbrev Key.Slot.LOST (s : Nat) : Nat := (0x2400 + s) * 256 + (0x18)
/-- :19 LOST_ROOTS, Table 5.3. -/
abbrev Key.Slot.LOST_ROOTS (s : Nat) : Nat := (0x2400 + s) * 256 + (0x19)
/-- :20 CAN_CMD, Table 5.3. -/
abbrev Key.Slot.CAN_CMD (s : Nat) : Nat := (0x2400 + s) * 256 + (0x20)
/-- :21 CAN_PORT, Table 5.3. -/
abbrev Key.Slot.CAN_PORT (s : Nat) : Nat := (0x2400 + s) * 256 + (0x21)
/-- :22 CAN_ID, Table 5.3. -/
abbrev Key.Slot.CAN_ID (s : Nat) : Nat := (0x2400 + s) * 256 + (0x22)
/-- :23 CAN_PERIOD, Table 5.3. -/
abbrev Key.Slot.CAN_PERIOD (s : Nat) : Nat := (0x2400 + s) * 256 + (0x23)
/-- :24 CAN_LEN, Table 5.3. -/
abbrev Key.Slot.CAN_LEN (s : Nat) : Nat := (0x2400 + s) * 256 + (0x24)
/-- :25 CAN_START, Table 5.3. -/
abbrev Key.Slot.CAN_START (s : Nat) : Nat := (0x2400 + s) * 256 + (0x25)
/-- :26 CAN_BITS, Table 5.3. -/
abbrev Key.Slot.CAN_BITS (s : Nat) : Nat := (0x2400 + s) * 256 + (0x26)
/-- :27 CAN_SCALE, Table 5.3. -/
abbrev Key.Slot.CAN_SCALE (s : Nat) : Nat := (0x2400 + s) * 256 + (0x27)
/-- :28 CAN_OFFSET, Table 5.3. -/
abbrev Key.Slot.CAN_OFFSET (s : Nat) : Nat := (0x2400 + s) * 256 + (0x28)
/-- :29 CAN_FILL, Table 5.3. -/
abbrev Key.Slot.CAN_FILL (s : Nat) : Nat := (0x2400 + s) * 256 + (0x29)
/-- :2A CAN_SAFE_KIND, Table 5.3. -/
abbrev Key.Slot.CAN_SAFE_KIND (s : Nat) : Nat := (0x2400 + s) * 256 + (0x2A)
/-- :2B CAN_SAFE_RAW, Table 5.3. -/
abbrev Key.Slot.CAN_SAFE_RAW (s : Nat) : Nat := (0x2400 + s) * 256 + (0x2B)
/-- :2C CAN_TX_EPOCH, Table 5.3. -/
abbrev Key.Slot.CAN_TX_EPOCH (s : Nat) : Nat := (0x2400 + s) * 256 + (0x2C)
/-- :2D CAN_TX_RAW, Table 5.3. -/
abbrev Key.Slot.CAN_TX_RAW (s : Nat) : Nat := (0x2400 + s) * 256 + (0x2D)
/-- :2E CAN_DROPPED, Table 5.3. -/
abbrev Key.Slot.CAN_DROPPED (s : Nat) : Nat := (0x2400 + s) * 256 + (0x2E)
/-- :01 ENABLE, Table 5.4. -/
abbrev Key.Imp.ENABLE (n : Nat) : Nat := (0x2500 + n) * 256 + (0x01)
/-- :02 ROLE, Table 5.4. -/
abbrev Key.Imp.ROLE (n : Nat) : Nat := (0x2500 + n) * 256 + (0x02)
/-- :03 TRIG, Table 5.4. -/
abbrev Key.Imp.TRIG (n : Nat) : Nat := (0x2500 + n) * 256 + (0x03)
/-- :04 GRAIN_A_MIN, Table 5.4. -/
abbrev Key.Imp.GRAIN_A_MIN (n : Nat) : Nat := (0x2500 + n) * 256 + (0x04)
/-- :05 GRAIN_RISE_MAX, Table 5.4. -/
abbrev Key.Imp.GRAIN_RISE_MAX (n : Nat) : Nat := (0x2500 + n) * 256 + (0x05)
/-- :06 WINDOW, Table 5.4. -/
abbrev Key.Imp.WINDOW (n : Nat) : Nat := (0x2500 + n) * 256 + (0x06)
/-- :07 COVERAGE, Table 5.4. -/
abbrev Key.Imp.COVERAGE (n : Nat) : Nat := (0x2500 + n) * 256 + (0x07)
/-- :08 COUNT_GRAIN, Table 5.4. -/
abbrev Key.Imp.COUNT_GRAIN (n : Nat) : Nat := (0x2500 + n) * 256 + (0x08)
/-- :09 COUNT_OTHER, Table 5.4. -/
abbrev Key.Imp.COUNT_OTHER (n : Nat) : Nat := (0x2500 + n) * 256 + (0x09)
/-- :0A N_GRAIN, Table 5.4. -/
abbrev Key.Imp.N_GRAIN (n : Nat) : Nat := (0x2500 + n) * 256 + (0x0A)
/-- :0B N_OTHER, Table 5.4. -/
abbrev Key.Imp.N_OTHER (n : Nat) : Nat := (0x2500 + n) * 256 + (0x0B)
/-- :0C M_GRAIN, Table 5.4. -/
abbrev Key.Imp.M_GRAIN (n : Nat) : Nat := (0x2500 + n) * 256 + (0x0C)
/-- :0D M_OTHER, Table 5.4. -/
abbrev Key.Imp.M_OTHER (n : Nat) : Nat := (0x2500 + n) * 256 + (0x0D)
/-- :0E LIVE_US, Table 5.4. -/
abbrev Key.Imp.LIVE_US (n : Nat) : Nat := (0x2500 + n) * 256 + (0x0E)
/-- :0F FLAGS, Table 5.4. -/
abbrev Key.Imp.FLAGS (n : Nat) : Nat := (0x2500 + n) * 256 + (0x0F)
/-- 0x2601:01 GRAIN_FLOW, Table 5.5. -/
abbrev Key.Speed.GRAIN_FLOW : Nat := 0x260101
/-- 0x2601:02 LOSS_RATE, Table 5.5. -/
abbrev Key.Speed.LOSS_RATE : Nat := 0x260102
/-- 0x2601:03 LOSS_PCT, Table 5.5. -/
abbrev Key.Speed.LOSS_PCT : Nat := 0x260103
/-- 0x2601:04 OPERATOR_CAP, Table 5.5. -/
abbrev Key.Speed.OPERATOR_CAP : Nat := 0x260104
/-- 0x2601:05 SLOPE_CAP, Table 5.5. -/
abbrev Key.Speed.SLOPE_CAP : Nat := 0x260105
/-- 0x2601:06 SLOPE_EPOCH, Table 5.5. -/
abbrev Key.Speed.SLOPE_EPOCH : Nat := 0x260106
/-- 0x2601:07 SLOPE_V0, Table 5.5. -/
abbrev Key.Speed.SLOPE_V0 : Nat := 0x260107
/-- 0x2601:08 SLOPE_V1, Table 5.5. -/
abbrev Key.Speed.SLOPE_V1 : Nat := 0x260108
/-- 0x2601:09 SLOPE_A0, Table 5.5. -/
abbrev Key.Speed.SLOPE_A0 : Nat := 0x260109
/-- 0x2601:0A SLOPE_A1, Table 5.5. -/
abbrev Key.Speed.SLOPE_A1 : Nat := 0x26010A
/-- 0x2601:0B GROUND_SPEED, Table 5.5. -/
abbrev Key.Speed.GROUND_SPEED : Nat := 0x26010B
/-- 0x2601:0C GROUND_SPEED_EPOCH, Table 5.5. -/
abbrev Key.Speed.GROUND_SPEED_EPOCH : Nat := 0x26010C
/-- 0x2601:0D GROUND_SPEED_VALID, Table 5.5. -/
abbrev Key.Speed.GROUND_SPEED_VALID : Nat := 0x26010D
/-- :01 NAME, Table 5.6. -/
abbrev Key.Crop.NAME (n : Nat) : Nat := (0x2610 + n) * 256 + (0x01)
/-- :02 DELAY, Table 5.6. -/
abbrev Key.Crop.DELAY (n : Nat) : Nat := (0x2610 + n) * 256 + (0x02)
/-- :03 KERNEL_MASS, Table 5.6. -/
abbrev Key.Crop.KERNEL_MASS (n : Nat) : Nat := (0x2610 + n) * 256 + (0x03)
/-- :04 YIELD_CAL, Table 5.6. -/
abbrev Key.Crop.YIELD_CAL (n : Nat) : Nat := (0x2610 + n) * 256 + (0x04)
/-- :05 LOSS_CAL, Table 5.6. -/
abbrev Key.Crop.LOSS_CAL (n : Nat) : Nat := (0x2610 + n) * 256 + (0x05)
/-- 0x2600:01 MAP_RUN, Table 5.10. -/
abbrev Key.Map.MAP_RUN : Nat := 0x260001
/-- 0x2600:02 MAP_STATE, Table 5.10. -/
abbrev Key.Map.MAP_STATE : Nat := 0x260002
/-- 0x2600:03 MAP_NUMBER, Table 5.10. -/
abbrev Key.Map.MAP_NUMBER : Nat := 0x260003
/-- 0x2600:04 CROP, Table 5.10. -/
abbrev Key.Map.CROP : Nat := 0x260004
/-- 0x2600:05 CUT_WIDTH, Table 5.10. -/
abbrev Key.Map.CUT_WIDTH : Nat := 0x260005
/-- 0x2600:06 CUT_HEIGHT_MAX, Table 5.10. -/
abbrev Key.Map.CUT_HEIGHT_MAX : Nat := 0x260006
/-- 0x2600:07 HEADER_REF, Table 5.10. -/
abbrev Key.Map.HEADER_REF : Nat := 0x260007
/-- 0x2600:08 MOIST_REF, Table 5.10. -/
abbrev Key.Map.MOIST_REF : Nat := 0x260008
/-- 0x2600:09 MOIST_STALE, Table 5.10. -/
abbrev Key.Map.MOIST_STALE : Nat := 0x260009
/-- 0x2600:0A RECORDS, Table 5.10. -/
abbrev Key.Map.RECORDS : Nat := 0x26000A
/-- 0x2600:0B DEFERRED, Table 5.10. -/
abbrev Key.Map.DEFERRED : Nat := 0x26000B
/-- 0x2600:0C MAPS, Table 5.10. -/
abbrev Key.Map.MAPS : Nat := 0x26000C
/-- 0x2600:0D MAP_SELECT, Table 5.10. -/
abbrev Key.Map.MAP_SELECT : Nat := 0x26000D
/-- 0x2600:0E MAP_DATA, Table 5.10. -/
abbrev Key.Map.MAP_DATA : Nat := 0x26000E
/-- 0x2600:0F MAP_DELETE, Table 5.10. -/
abbrev Key.Map.MAP_DELETE : Nat := 0x26000F
/-- 0x23A0:01 INJ_FS_LOST, Table 5.13. -/
abbrev Key.InjFs.INJ_FS_LOST : Nat := 0x23A001
/-- 0x23A0:02 INJ_FS_DEGRADED, Table 5.13. -/
abbrev Key.InjFs.INJ_FS_DEGRADED : Nat := 0x23A002
/-- 0x23A0:03 INJ_SLOT_BIND, Table 5.13. -/
abbrev Key.InjFs.INJ_SLOT_BIND : Nat := 0x23A003
/-- 0x23A0:04 INJ_IMP_CLIPPED, Table 5.13. -/
abbrev Key.InjFs.INJ_IMP_CLIPPED : Nat := 0x23A004
/-- 0x23A0:05 INJ_IMP_SATURATED, Table 5.13. -/
abbrev Key.InjFs.INJ_IMP_SATURATED : Nat := 0x23A005
/-- 0x23A0:06 INJ_IMP_STUCK, Table 5.13. -/
abbrev Key.InjFs.INJ_IMP_STUCK : Nat := 0x23A006
/-- 0x23A0:07 INJ_MAP_DEFERRED, Table 5.13. -/
abbrev Key.InjFs.INJ_MAP_DEFERRED : Nat := 0x23A007
/-- 0x23A0:08 INJ_MAP_HELD, Table 5.13. -/
abbrev Key.InjFs.INJ_MAP_HELD : Nat := 0x23A008
/-- 0x23A0:09 INJ_CANMAP_DROP, Table 5.13. -/
abbrev Key.InjFs.INJ_CANMAP_DROP : Nat := 0x23A009
/-- 0x2700:01–:03 ANT0_X, Table 6.5. -/
abbrev Key.Geo.ANT0_X : Nat := 0x270001
/-- 0x2700:02 ANT0_Y, Table 6.5. -/
abbrev Key.Geo.ANT0_Y : Nat := 0x270002
/-- 0x2700:03 ANT0_Z, Table 6.5. -/
abbrev Key.Geo.ANT0_Z : Nat := 0x270003
/-- 0x2700:04–:06 ANT1_X, Table 6.5. -/
abbrev Key.Geo.ANT1_X : Nat := 0x270004
/-- 0x2700:05 ANT1_Y, Table 6.5. -/
abbrev Key.Geo.ANT1_Y : Nat := 0x270005
/-- 0x2700:06 ANT1_Z, Table 6.5. -/
abbrev Key.Geo.ANT1_Z : Nat := 0x270006
/-- 0x2700:07–:08 CP_X, Table 6.5. -/
abbrev Key.Geo.CP_X : Nat := 0x270007
/-- 0x2700:08 CP_Y, Table 6.5. -/
abbrev Key.Geo.CP_Y : Nat := 0x270008
/-- 0x2700:09 WHEELBASE, Table 6.5. -/
abbrev Key.Geo.WHEELBASE : Nat := 0x270009
/-- 0x2700:0A STEER_SIGN, Table 6.5. -/
abbrev Key.Geo.STEER_SIGN : Nat := 0x27000A
/-- 0x2700:0B WHEEL_REF, Table 6.5. -/
abbrev Key.Geo.WHEEL_REF : Nat := 0x27000B
/-- 0x2701:01 GUIDE_ENABLE, Table 6.5. -/
abbrev Key.Guide.GUIDE_ENABLE : Nat := 0x270101
/-- 0x2701:02 ENGAGE_CMD, Table 6.5. -/
abbrev Key.Guide.ENGAGE_CMD : Nat := 0x270102
/-- 0x2701:03 ENGAGE_RESULT, Table 6.5. -/
abbrev Key.Guide.ENGAGE_RESULT : Nat := 0x270103
/-- 0x2701:04 STATE, Table 6.5. -/
abbrev Key.Guide.STATE : Nat := 0x270104
/-- 0x2701:05 STATE_EPOCH, Table 6.5. -/
abbrev Key.Guide.STATE_EPOCH : Nat := 0x270105
/-- 0x2701:06 CAUSE, Table 6.5. -/
abbrev Key.Guide.CAUSE : Nat := 0x270106
/-- 0x2701:07 ENGAGEMENTS, Table 6.5. -/
abbrev Key.Guide.ENGAGEMENTS : Nat := 0x270107
/-- 0x2701:08 OVERRIDE_REF, Table 6.5. -/
abbrev Key.Guide.OVERRIDE_REF : Nat := 0x270108
/-- 0x2701:09 OP_PRESENT, Table 6.5. -/
abbrev Key.Guide.OP_PRESENT : Nat := 0x270109
/-- 0x2701:0A RTK_COAST, Table 6.5. -/
abbrev Key.Guide.RTK_COAST : Nat := 0x27010A
/-- 0x2701:0B ENGAGE_XTE_MAX, Table 6.5. -/
abbrev Key.Guide.ENGAGE_XTE_MAX : Nat := 0x27010B
/-- 0x2701:0C ENGAGE_HE_MAX, Table 6.5. -/
abbrev Key.Guide.ENGAGE_HE_MAX : Nat := 0x27010C
/-- 0x2701:0D DISENGAGE_XTE, Table 6.5. -/
abbrev Key.Guide.DISENGAGE_XTE : Nat := 0x27010D
/-- 0x2701:0E END_WARN, Table 6.5. -/
abbrev Key.Guide.END_WARN : Nat := 0x27010E
/-- 0x2702:01 XTE, Table 6.5. -/
abbrev Key.GErr.XTE : Nat := 0x270201
/-- 0x2702:02 HE, Table 6.5. -/
abbrev Key.GErr.HE : Nat := 0x270202
/-- 0x2702:03 CURVATURE, Table 6.5. -/
abbrev Key.GErr.CURVATURE : Nat := 0x270203
/-- 0x2702:04 WHEEL_SP, Table 6.5. -/
abbrev Key.GErr.WHEEL_SP : Nat := 0x270204
/-- 0x2702:05 ALONG, Table 6.5. -/
abbrev Key.GErr.ALONG : Nat := 0x270205
/-- 0x2702:06 TO_END, Table 6.5. -/
abbrev Key.GErr.TO_END : Nat := 0x270206
/-- 0x2702:07 SOURCE_EPOCH, Table 6.5. -/
abbrev Key.GErr.SOURCE_EPOCH : Nat := 0x270207
/-- 0x2702:08 FLAGS, Table 6.5. -/
abbrev Key.GErr.FLAGS : Nat := 0x270208
/-- 0x2702:09 SOLUTION_AGE, Table 6.5. -/
abbrev Key.GErr.SOLUTION_AGE : Nat := 0x270209
/-- 0x2702:0A CYCLES_LOST, Table 6.5. -/
abbrev Key.GErr.CYCLES_LOST : Nat := 0x27020A
/-- 0x2703:01 K_HE, Table 6.5. -/
abbrev Key.GPar.K_HE : Nat := 0x270301
/-- 0x2703:02 K_XTE, Table 6.5. -/
abbrev Key.GPar.K_XTE : Nat := 0x270302
/-- 0x2703:03 DELTA_MAX, Table 6.5. -/
abbrev Key.GPar.DELTA_MAX : Nat := 0x270303
/-- 0x2703:04 DELTA_RATE, Table 6.5. -/
abbrev Key.GPar.DELTA_RATE : Nat := 0x270304
/-- 0x2704:01 ACTIVE_LINE, Table 6.5. -/
abbrev Key.GLine.ACTIVE_LINE : Nat := 0x270401
/-- 0x2704:02 PASS_INDEX, Table 6.5. -/
abbrev Key.GLine.PASS_INDEX : Nat := 0x270402
/-- 0x2704:03 PASS_WIDTH, Table 6.5. -/
abbrev Key.GLine.PASS_WIDTH : Nat := 0x270403
/-- 0x2704:04 PASS_AUTO, Table 6.5. -/
abbrev Key.GLine.PASS_AUTO : Nat := 0x270404
/-- 0x2704:05 SHIFT, Table 6.5. -/
abbrev Key.GLine.SHIFT : Nat := 0x270405
/-- 0x2704:06 DIRECTION, Table 6.5. -/
abbrev Key.GLine.DIRECTION : Nat := 0x270406
/-- 0x2710:01 LINE_SELECT, Table 6.5. -/
abbrev Key.Line.LINE_SELECT : Nat := 0x271001
/-- 0x2710:02 LINE_DATA, Table 6.5. -/
abbrev Key.Line.LINE_DATA : Nat := 0x271002
/-- 0x2710:03 LINE_DELETE, Table 6.5. -/
abbrev Key.Line.LINE_DELETE : Nat := 0x271003
/-- 0x2710:04 LINES, Table 6.5. -/
abbrev Key.Line.LINES : Nat := 0x271004
/-- 0x2710:05 VERTICES_FREE, Table 6.5. -/
abbrev Key.Line.VERTICES_FREE : Nat := 0x271005
/-- :01 COMMAND, Table 7.4. -/
abbrev Key.Valve.COMMAND (n : Nat) : Nat := (0x3400 + n) * 256 + (0x01)
/-- :02 PROGRAM_ON, Table 7.4. -/
abbrev Key.Valve.PROGRAM_ON (n : Nat) : Nat := (0x3400 + n) * 256 + (0x02)
/-- :03 PROGRAM_OFF, Table 7.4. -/
abbrev Key.Valve.PROGRAM_OFF (n : Nat) : Nat := (0x3400 + n) * 256 + (0x03)
/-- :04 SAFE_KIND, Table 7.4. -/
abbrev Key.Valve.SAFE_KIND (n : Nat) : Nat := (0x3400 + n) * 256 + (0x04)
/-- :05 PEAK_MAX, Table 7.4. -/
abbrev Key.Valve.PEAK_MAX (n : Nat) : Nat := (0x3400 + n) * 256 + (0x05)
/-- :06 HOLD_MAX, Table 7.4. -/
abbrev Key.Valve.HOLD_MAX (n : Nat) : Nat := (0x3400 + n) * 256 + (0x06)
/-- :07 PEAK_TIME_MAX, Table 7.4. -/
abbrev Key.Valve.PEAK_TIME_MAX (n : Nat) : Nat := (0x3400 + n) * 256 + (0x07)
/-- :08 CHOP_F, Table 7.4. -/
abbrev Key.Valve.CHOP_F (n : Nat) : Nat := (0x3400 + n) * 256 + (0x08)
/-- :09 R20, Table 7.4. -/
abbrev Key.Valve.R20 (n : Nat) : Nat := (0x3400 + n) * 256 + (0x09)
/-- :0A RTH_WB, Table 7.4. -/
abbrev Key.Valve.RTH_WB (n : Nat) : Nat := (0x3400 + n) * 256 + (0x0A)
/-- :0B CTH_W, Table 7.4. -/
abbrev Key.Valve.CTH_W (n : Nat) : Nat := (0x3400 + n) * 256 + (0x0B)
/-- :0C RTH_BA, Table 7.4. -/
abbrev Key.Valve.RTH_BA (n : Nat) : Nat := (0x3400 + n) * 256 + (0x0C)
/-- :0D CTH_B, Table 7.4. -/
abbrev Key.Valve.CTH_B (n : Nat) : Nat := (0x3400 + n) * 256 + (0x0D)
/-- :0E AMBIENT_CH, Table 7.4. -/
abbrev Key.Valve.AMBIENT_CH (n : Nat) : Nat := (0x3400 + n) * 256 + (0x0E)
/-- :0F AMBIENT_FIXED, Table 7.4. -/
abbrev Key.Valve.AMBIENT_FIXED (n : Nat) : Nat := (0x3400 + n) * 256 + (0x0F)
/-- :10 T_DERATE, Table 7.4. -/
abbrev Key.Valve.T_DERATE (n : Nat) : Nat := (0x3400 + n) * 256 + (0x10)
/-- :11 T_TRIP, Table 7.4. -/
abbrev Key.Valve.T_TRIP (n : Nat) : Nat := (0x3400 + n) * 256 + (0x11)
/-- :12 DERATE_FLOOR, Table 7.4. -/
abbrev Key.Valve.DERATE_FLOOR (n : Nat) : Nat := (0x3400 + n) * 256 + (0x12)
/-- :20 CURRENT, Table 7.4. -/
abbrev Key.Valve.CURRENT (n : Nat) : Nat := (0x3400 + n) * 256 + (0x20)
/-- :21 TARGET, Table 7.4. -/
abbrev Key.Valve.TARGET (n : Nat) : Nat := (0x3400 + n) * 256 + (0x21)
/-- :22 STATE, Table 7.4. -/
abbrev Key.Valve.STATE (n : Nat) : Nat := (0x3400 + n) * 256 + (0x22)
/-- :23 FLAGS, Table 7.4. -/
abbrev Key.Valve.FLAGS (n : Nat) : Nat := (0x3400 + n) * 256 + (0x23)
/-- :24 STEP, Table 7.4. -/
abbrev Key.Valve.STEP (n : Nat) : Nat := (0x3400 + n) * 256 + (0x24)
/-- :25 TTP_US, Table 7.4. -/
abbrev Key.Valve.TTP_US (n : Nat) : Nat := (0x3400 + n) * 256 + (0x25)
/-- :26 T_WINDING, Table 7.4. -/
abbrev Key.Valve.T_WINDING (n : Nat) : Nat := (0x3400 + n) * 256 + (0x26)
/-- :27 T_BODY, Table 7.4. -/
abbrev Key.Valve.T_BODY (n : Nat) : Nat := (0x3400 + n) * 256 + (0x27)
/-- :28 LAST_MARK, Table 7.4. -/
abbrev Key.Valve.LAST_MARK (n : Nat) : Nat := (0x3400 + n) * 256 + (0x28)
/-- :29 MARK_EPOCH, Table 7.4. -/
abbrev Key.Valve.MARK_EPOCH (n : Nat) : Nat := (0x3400 + n) * 256 + (0x29)
/-- :2A CHOP_MEAS, Table 7.4. -/
abbrev Key.Valve.CHOP_MEAS (n : Nat) : Nat := (0x3400 + n) * 256 + (0x2A)
/-- :2B BAND_MA, Table 7.4. -/
abbrev Key.Valve.BAND_MA (n : Nat) : Nat := (0x3400 + n) * 256 + (0x2B)
/-- :2C CMD_RESULT, Table 7.4. -/
abbrev Key.Valve.CMD_RESULT (n : Nat) : Nat := (0x3400 + n) * 256 + (0x2C)
/-- :2D REFUSALS, Table 7.4. -/
abbrev Key.Valve.REFUSALS (n : Nat) : Nat := (0x3400 + n) * 256 + (0x2D)
/-- :2E QUENCH_DEFERS, Table 7.4. -/
abbrev Key.Valve.QUENCH_DEFERS (n : Nat) : Nat := (0x3400 + n) * 256 + (0x2E)
/-- :2F CURRENT_FAST, Table 7.4. -/
abbrev Key.Valve.CURRENT_FAST (n : Nat) : Nat := (0x3400 + n) * 256 + (0x2F)
/-- 0x3440+b:01 BANK_BUDGET, Table 7.6. -/
abbrev Key.Bank.BANK_BUDGET (n : Nat) : Nat := (0x3440 + n) * 256 + (0x01)
/-- 0x3440+b:02 OVERLAP_WIN, Table 7.6. -/
abbrev Key.Bank.OVERLAP_WIN (n : Nat) : Nat := (0x3440 + n) * 256 + (0x02)
/-- 0x3440+b:03 BANK_STATE, Table 7.6. -/
abbrev Key.Bank.BANK_STATE (n : Nat) : Nat := (0x3440 + n) * 256 + (0x03)
/-- 0x3440+b:04 BANK_DEMAND, Table 7.6. -/
abbrev Key.Bank.BANK_DEMAND (n : Nat) : Nat := (0x3440 + n) * 256 + (0x04)
/-- 0x3440+b:05 BANK_CURRENT, Table 7.6. -/
abbrev Key.Bank.BANK_CURRENT (n : Nat) : Nat := (0x3440 + n) * 256 + (0x05)
/-- 0x3440+b:06 QUENCHES, Table 7.6. -/
abbrev Key.Bank.QUENCHES (n : Nat) : Nat := (0x3440 + n) * 256 + (0x06)
/-- 0x3440+b:07 CLAMP_ENERGY, Table 7.6. -/
abbrev Key.Bank.CLAMP_ENERGY (n : Nat) : Nat := (0x3440 + n) * 256 + (0x07)
/-- 0x3450+g:01 GROUP_BUDGET, Table 7.6. -/
abbrev Key.VGroup.GROUP_BUDGET (n : Nat) : Nat := (0x3450 + n) * 256 + (0x01)
/-- 0x3450+g:02 GROUP_DEMAND, Table 7.6. -/
abbrev Key.VGroup.GROUP_DEMAND (n : Nat) : Nat := (0x3450 + n) * 256 + (0x02)
/-- 0x3450+g:03 GROUP_CURRENT, Table 7.6. -/
abbrev Key.VGroup.GROUP_CURRENT (n : Nat) : Nat := (0x3450 + n) * 256 + (0x03)
/-- 0x3450+g:04 SUPPLY_V, Table 7.6. -/
abbrev Key.VGroup.SUPPLY_V (n : Nat) : Nat := (0x3450 + n) * 256 + (0x04)
/-- 0x3480+p:01 CODE, Table 7.6. -/
abbrev Key.Prog.CODE (n : Nat) : Nat := (0x3480 + n) * 256 + (0x01)
/-- 0x3480+p:02 WORDS, Table 7.6. -/
abbrev Key.Prog.WORDS (n : Nat) : Nat := (0x3480 + n) * 256 + (0x02)
/-- 0x3480+p:03 VALID, Table 7.6. -/
abbrev Key.Prog.VALID (n : Nat) : Nat := (0x3480 + n) * 256 + (0x03)
/-- 0x3480+p:04 USERS, Table 7.6. -/
abbrev Key.Prog.USERS (n : Nat) : Nat := (0x3480 + n) * 256 + (0x04)
/-- 0x23C0:01 INJ_VALVE_OPEN, Table 7.9. -/
abbrev Key.InjValve.INJ_VALVE_OPEN : Nat := 0x23C001
/-- 0x23C0:02 INJ_SHORT_BAT, Table 7.9. -/
abbrev Key.InjValve.INJ_SHORT_BAT : Nat := 0x23C002
/-- 0x23C0:03 INJ_SHORT_GND, Table 7.9. -/
abbrev Key.InjValve.INJ_SHORT_GND : Nat := 0x23C003
/-- 0x23C0:04 INJ_TTP, Table 7.9. -/
abbrev Key.InjValve.INJ_TTP : Nat := 0x23C004
/-- 0x23C0:05 INJ_THERMAL, Table 7.9. -/
abbrev Key.InjValve.INJ_THERMAL : Nat := 0x23C005
/-- 0x23C0:06 INJ_REG, Table 7.9. -/
abbrev Key.InjValve.INJ_REG : Nat := 0x23C006
/-- 0x23C0:07 INJ_BANK_OC, Table 7.9. -/
abbrev Key.InjValve.INJ_BANK_OC : Nat := 0x23C007
/-- 0x23C0:08 INJ_GROUP_SUPPLY, Table 7.9. -/
abbrev Key.InjValve.INJ_GROUP_SUPPLY : Nat := 0x23C008
/-- 0x23C0:09 INJ_OVERLAP, Table 7.9. -/
abbrev Key.InjValve.INJ_OVERLAP : Nat := 0x23C009
/-- 0x23C0:0A INJ_QUENCH_DEFER, Table 7.9. -/
abbrev Key.InjValve.INJ_QUENCH_DEFER : Nat := 0x23C00A
/-- 0x23C0:0B INJ_SHAPER_FAULT, Table 7.9. -/
abbrev Key.InjValve.INJ_SHAPER_FAULT : Nat := 0x23C00B
/-- :01 COMMAND, Table 8.6. -/
abbrev Key.Ls.COMMAND (n : Nat) : Nat := (0x3500 + n) * 256 + (0x01)
/-- :02 OUT_KIND, Table 8.6. -/
abbrev Key.Ls.OUT_KIND (n : Nat) : Nat := (0x3500 + n) * 256 + (0x02)
/-- :03 WIRE, Table 8.6. -/
abbrev Key.Ls.WIRE (n : Nat) : Nat := (0x3500 + n) * 256 + (0x03)
/-- :04 SAFE_KIND, Table 8.6. -/
abbrev Key.Ls.SAFE_KIND (n : Nat) : Nat := (0x3500 + n) * 256 + (0x04)
/-- :05 MODE_MASK, Table 8.6. -/
abbrev Key.Ls.MODE_MASK (n : Nat) : Nat := (0x3500 + n) * 256 + (0x05)
/-- :06 INRUSH_A, Table 8.6. -/
abbrev Key.Ls.INRUSH_A (n : Nat) : Nat := (0x3500 + n) * 256 + (0x06)
/-- :07 INRUSH_MS, Table 8.6. -/
abbrev Key.Ls.INRUSH_MS (n : Nat) : Nat := (0x3500 + n) * 256 + (0x07)
/-- :08 RETRY_MAX, Table 8.6. -/
abbrev Key.Ls.RETRY_MAX (n : Nat) : Nat := (0x3500 + n) * 256 + (0x08)
/-- :09 RETRY_WINDOW, Table 8.6. -/
abbrev Key.Ls.RETRY_WINDOW (n : Nat) : Nat := (0x3500 + n) * 256 + (0x09)
/-- :0A RETRY_DELAY, Table 8.6. -/
abbrev Key.Ls.RETRY_DELAY (n : Nat) : Nat := (0x3500 + n) * 256 + (0x0A)
/-- :0B V_REF, Table 8.6. -/
abbrev Key.Ls.V_REF (n : Nat) : Nat := (0x3500 + n) * 256 + (0x0B)
/-- :0C OPEN_MA, Table 8.6. -/
abbrev Key.Ls.OPEN_MA (n : Nat) : Nat := (0x3500 + n) * 256 + (0x0C)
/-- :20 STATE, Table 8.6. -/
abbrev Key.Ls.STATE (n : Nat) : Nat := (0x3500 + n) * 256 + (0x20)
/-- :21 FLAGS, Table 8.6. -/
abbrev Key.Ls.FLAGS (n : Nat) : Nat := (0x3500 + n) * 256 + (0x21)
/-- :22 DUTY, Table 8.6. -/
abbrev Key.Ls.DUTY (n : Nat) : Nat := (0x3500 + n) * 256 + (0x22)
/-- :23 RETRIES_USED, Table 8.6. -/
abbrev Key.Ls.RETRIES_USED (n : Nat) : Nat := (0x3500 + n) * 256 + (0x23)
/-- :24 TRIPS, Table 8.6. -/
abbrev Key.Ls.TRIPS (n : Nat) : Nat := (0x3500 + n) * 256 + (0x24)
/-- :25 SYMPATHETICS, Table 8.6. -/
abbrev Key.Ls.SYMPATHETICS (n : Nat) : Nat := (0x3500 + n) * 256 + (0x25)
/-- :26 LAST_TRIP_EPOCH, Table 8.6. -/
abbrev Key.Ls.LAST_TRIP_EPOCH (n : Nat) : Nat := (0x3500 + n) * 256 + (0x26)
/-- :01 SEC_STATE, Table 8.7. -/
abbrev Key.Sec.SEC_STATE (n : Nat) : Nat := (0x3540 + n) * 256 + (0x01)
/-- :02 SEC_FLAGS, Table 8.7. -/
abbrev Key.Sec.SEC_FLAGS (n : Nat) : Nat := (0x3540 + n) * 256 + (0x02)
/-- :03 V_SEC, Table 8.7. -/
abbrev Key.Sec.V_SEC (n : Nat) : Nat := (0x3540 + n) * 256 + (0x03)
/-- :04 V_MS, Table 8.7. -/
abbrev Key.Sec.V_MS (n : Nat) : Nat := (0x3540 + n) * 256 + (0x04)
/-- :05 RESTORES_USED, Table 8.7. -/
abbrev Key.Sec.RESTORES_USED (n : Nat) : Nat := (0x3540 + n) * 256 + (0x05)
/-- :06 SEC_TRIPS, Table 8.7. -/
abbrev Key.Sec.SEC_TRIPS (n : Nat) : Nat := (0x3540 + n) * 256 + (0x06)
/-- :01 DO_CMD, Table 8.9. -/
abbrev Key.Dio.DO_CMD (n : Nat) : Nat := (0x3600 + n) * 256 + (0x01)
/-- :02 DIR, Table 8.9. -/
abbrev Key.Dio.DIR (n : Nat) : Nat := (0x3600 + n) * 256 + (0x02)
/-- :03 IN_TYPE, Table 8.9. -/
abbrev Key.Dio.IN_TYPE (n : Nat) : Nat := (0x3600 + n) * 256 + (0x03)
/-- :04 FILTER_US, Table 8.9. -/
abbrev Key.Dio.FILTER_US (n : Nat) : Nat := (0x3600 + n) * 256 + (0x04)
/-- :05 INVERT, Table 8.9. -/
abbrev Key.Dio.INVERT (n : Nat) : Nat := (0x3600 + n) * 256 + (0x05)
/-- :06 SAFE_KIND, Table 8.9. -/
abbrev Key.Dio.SAFE_KIND (n : Nat) : Nat := (0x3600 + n) * 256 + (0x06)
/-- :07 FREQ_GATE, Table 8.9. -/
abbrev Key.Dio.FREQ_GATE (n : Nat) : Nat := (0x3600 + n) * 256 + (0x07)
/-- :08 ZERO_MS, Table 8.9. -/
abbrev Key.Dio.ZERO_MS (n : Nat) : Nat := (0x3600 + n) * 256 + (0x08)
/-- :20 STATE, Table 8.9. -/
abbrev Key.Dio.STATE (n : Nat) : Nat := (0x3600 + n) * 256 + (0x20)
/-- :21 COUNT, Table 8.9. -/
abbrev Key.Dio.COUNT (n : Nat) : Nat := (0x3600 + n) * 256 + (0x21)
/-- :22 FREQ, Table 8.9. -/
abbrev Key.Dio.FREQ (n : Nat) : Nat := (0x3600 + n) * 256 + (0x22)
/-- :23 EDGE_EPOCH, Table 8.9. -/
abbrev Key.Dio.EDGE_EPOCH (n : Nat) : Nat := (0x3600 + n) * 256 + (0x23)
/-- :24 FLAGS, Table 8.9. -/
abbrev Key.Dio.FLAGS (n : Nat) : Nat := (0x3600 + n) * 256 + (0x24)
/-- :25 CH_STATE, Table 8.9. -/
abbrev Key.Dio.CH_STATE (n : Nat) : Nat := (0x3600 + n) * 256 + (0x25)
/-- :26 OVERLOADS, Table 8.9. -/
abbrev Key.Dio.OVERLOADS (n : Nat) : Nat := (0x3600 + n) * 256 + (0x26)
/-- :01 SILENCE_TIMEOUT, Table 8.10. -/
abbrev Key.Grp.SILENCE_TIMEOUT (n : Nat) : Nat := (0x3680 + n) * 256 + (0x01)
/-- :02 GROUP_STATE, Table 8.10. -/
abbrev Key.Grp.GROUP_STATE (n : Nat) : Nat := (0x3680 + n) * 256 + (0x02)
/-- :03 FIELD_V, Table 8.10. -/
abbrev Key.Grp.FIELD_V (n : Nat) : Nat := (0x3680 + n) * 256 + (0x03)
/-- :04 GROUP_FLAGS, Table 8.10. -/
abbrev Key.Grp.GROUP_FLAGS (n : Nat) : Nat := (0x3680 + n) * 256 + (0x04)
/-- :05 SILENCES, Table 8.10. -/
abbrev Key.Grp.SILENCES (n : Nat) : Nat := (0x3680 + n) * 256 + (0x05)
/-- :06 BARRIER_ERRORS, Table 8.10. -/
abbrev Key.Grp.BARRIER_ERRORS (n : Nat) : Nat := (0x3680 + n) * 256 + (0x06)
/-- 0x23D0:01 INJ_LS_TRIP, Table 8.12. -/
abbrev Key.InjLs.INJ_LS_TRIP : Nat := 0x23D001
/-- 0x23D0:02 INJ_LS_SHORT_GND, Table 8.12. -/
abbrev Key.InjLs.INJ_LS_SHORT_GND : Nat := 0x23D002
/-- 0x23D0:03 INJ_LS_THERMAL, Table 8.12. -/
abbrev Key.InjLs.INJ_LS_THERMAL : Nat := 0x23D003
/-- 0x23D0:04 INJ_LS_SYMPATHETIC, Table 8.12. -/
abbrev Key.InjLs.INJ_LS_SYMPATHETIC : Nat := 0x23D004
/-- 0x23D0:05 INJ_LS_SHORT_BAT, Table 8.12. -/
abbrev Key.InjLs.INJ_LS_SHORT_BAT : Nat := 0x23D005
/-- 0x23D0:06 INJ_LS_OPEN_LOAD, Table 8.12. -/
abbrev Key.InjLs.INJ_LS_OPEN_LOAD : Nat := 0x23D006
/-- 0x23D0:07 INJ_SECTION_TRIP, Table 8.12. -/
abbrev Key.InjLs.INJ_SECTION_TRIP : Nat := 0x23D007
/-- 0x23D0:08 INJ_SECTION_SUPPLY, Table 8.12. -/
abbrev Key.InjLs.INJ_SECTION_SUPPLY : Nat := 0x23D008
/-- 0x23D0:09 INJ_DIO_OVERLOAD, Table 8.12. -/
abbrev Key.InjLs.INJ_DIO_OVERLOAD : Nat := 0x23D009
/-- 0x23D0:0A INJ_DIO_GROUP_OVERLOAD, Table 8.12. -/
abbrev Key.InjLs.INJ_DIO_GROUP_OVERLOAD : Nat := 0x23D00A
/-- 0x23D0:0B INJ_DIO_FIELD_SUPPLY, Table 8.12. -/
abbrev Key.InjLs.INJ_DIO_FIELD_SUPPLY : Nat := 0x23D00B
/-- 0x23D0:0C INJ_DIO_MISMATCH, Table 8.12. -/
abbrev Key.InjLs.INJ_DIO_MISMATCH : Nat := 0x23D00C
/-- 0x23D0:0D INJ_DIO_SILENCE, Table 8.12. -/
abbrev Key.InjLs.INJ_DIO_SILENCE : Nat := 0x23D00D
/-- 0x4000:01 SIG_ENABLE, Table 9.8. -/
abbrev Key.Gnss.SIG_ENABLE : Nat := 0x400001
/-- 0x4000:02 ELEV_MASK, Table 9.8. -/
abbrev Key.Gnss.ELEV_MASK : Nat := 0x400002
/-- 0x4000:03 CN0_MASK, Table 9.8. -/
abbrev Key.Gnss.CN0_MASK : Nat := 0x400003
/-- 0x4000:04 ANT0_DELAY, Table 9.8. -/
abbrev Key.Gnss.ANT0_DELAY : Nat := 0x400004
/-- 0x4000:05 ANT_BIAS, Table 9.8. -/
abbrev Key.Gnss.ANT_BIAS : Nat := 0x400005
/-- 0x4000:06 ANT_STATUS, Table 9.8. -/
abbrev Key.Gnss.ANT_STATUS : Nat := 0x400006
/-- 0x4000:07 CHANNELS_USED, Table 9.8. -/
abbrev Key.Gnss.CHANNELS_USED : Nat := 0x400007
/-- 0x4000:08 SATS_USED, Table 9.8. -/
abbrev Key.Gnss.SATS_USED : Nat := 0x400008
/-- 0x4000:09 NOISE_RISE, Table 9.8. -/
abbrev Key.Gnss.NOISE_RISE : Nat := 0x400009
/-- 0x4001:01 SOL_TYPE, Table 9.8. -/
abbrev Key.Sol.SOL_TYPE : Nat := 0x400101
/-- 0x4001:02 LAT, Table 9.8. -/
abbrev Key.Sol.LAT : Nat := 0x400102
/-- 0x4001:03 LON, Table 9.8. -/
abbrev Key.Sol.LON : Nat := 0x400103
/-- 0x4001:04 HGT, Table 9.8. -/
abbrev Key.Sol.HGT : Nat := 0x400104
/-- 0x4001:05–:07 VEL_N, Table 9.8. -/
abbrev Key.Sol.VEL_N : Nat := 0x400105
/-- 0x4001:06 VEL_E, Table 9.8. -/
abbrev Key.Sol.VEL_E : Nat := 0x400106
/-- 0x4001:07 VEL_U, Table 9.8. -/
abbrev Key.Sol.VEL_U : Nat := 0x400107
/-- 0x4001:08 SPEED, Table 9.8. -/
abbrev Key.Sol.SPEED : Nat := 0x400108
/-- 0x4001:09 COURSE, Table 9.8. -/
abbrev Key.Sol.COURSE : Nat := 0x400109
/-- 0x4001:0A H_ACC, Table 9.8. -/
abbrev Key.Sol.H_ACC : Nat := 0x40010A
/-- 0x4001:0B PDOP, Table 9.8. -/
abbrev Key.Sol.PDOP : Nat := 0x40010B
/-- 0x4001:0C SOL_EPOCH, Table 9.8. -/
abbrev Key.Sol.SOL_EPOCH : Nat := 0x40010C
/-- 0x4001:0D CORR_AGE, Table 9.8. -/
abbrev Key.Sol.CORR_AGE : Nat := 0x40010D
/-- 0x4002:01 HEADING, Table 9.8. -/
abbrev Key.Hdg.HEADING : Nat := 0x400201
/-- 0x4002:02 TILT, Table 9.8. -/
abbrev Key.Hdg.TILT : Nat := 0x400202
/-- 0x4002:03 HDG_RATE, Table 9.8. -/
abbrev Key.Hdg.HDG_RATE : Nat := 0x400203
/-- 0x4002:04 BASELINE, Table 9.8. -/
abbrev Key.Hdg.BASELINE : Nat := 0x400204
/-- 0x4002:05 HDG_VALID, Table 9.8. -/
abbrev Key.Hdg.HDG_VALID : Nat := 0x400205
/-- 0x4002:06 HDG_SD, Table 9.8. -/
abbrev Key.Hdg.HDG_SD : Nat := 0x400206
/-- 0x4002:07 HDG_EPOCH, Table 9.8. -/
abbrev Key.Hdg.HDG_EPOCH : Nat := 0x400207
/-- 0x4002:08 BASELINE_TOL, Table 9.8. -/
abbrev Key.Hdg.BASELINE_TOL : Nat := 0x400208
/-- 0x4003:01 RTCM_IN, Table 9.8. -/
abbrev Key.Rtcm.RTCM_IN : Nat := 0x400301
/-- 0x4003:02 BASE_ID, Table 9.8. -/
abbrev Key.Rtcm.BASE_ID : Nat := 0x400302
/-- 0x4003:03 BASE_ACTIVE, Table 9.8. -/
abbrev Key.Rtcm.BASE_ACTIVE : Nat := 0x400303
/-- 0x4003:04 CORR_MAX_AGE, Table 9.8. -/
abbrev Key.Rtcm.CORR_MAX_AGE : Nat := 0x400304
/-- 0x4003:05 RTCM_FRAMES, Table 9.8. -/
abbrev Key.Rtcm.RTCM_FRAMES : Nat := 0x400305
/-- 0x4003:06 RTCM_CRC_ERR, Table 9.8. -/
abbrev Key.Rtcm.RTCM_CRC_ERR : Nat := 0x400306
/-- 0x4003:07 RTCM_IGNORED, Table 9.8. -/
abbrev Key.Rtcm.RTCM_IGNORED : Nat := 0x400307
/-- 0x4003:08 BASE_DIST, Table 9.8. -/
abbrev Key.Rtcm.BASE_DIST : Nat := 0x400308
/-- 0x4004:01 RAW_DATA, Table 9.8. -/
abbrev Key.Raw.RAW_DATA : Nat := 0x400401
/-- 0x4004:02 NAV_DATA, Table 9.8. -/
abbrev Key.Raw.NAV_DATA : Nat := 0x400402
/-- 0x4004:03 NAV_FAILS, Table 9.8. -/
abbrev Key.Raw.NAV_FAILS : Nat := 0x400403
/-- 0x4004:04 LEAP_S, Table 9.8. -/
abbrev Key.Raw.LEAP_S : Nat := 0x400404
/-- 0x4004:05 LEAP_VALID, Table 9.8. -/
abbrev Key.Raw.LEAP_VALID : Nat := 0x400405
/-- 0x4100:01 TIME_STATE, Table 9.9. -/
abbrev Key.Time.TIME_STATE : Nat := 0x410001
/-- 0x4100:02 TIME_OFFSET, Table 9.9. -/
abbrev Key.Time.TIME_OFFSET : Nat := 0x410002
/-- 0x4100:03 TIME_UNC, Table 9.9. -/
abbrev Key.Time.TIME_UNC : Nat := 0x410003
/-- 0x4100:04 HOLD_EPOCH, Table 9.9. -/
abbrev Key.Time.HOLD_EPOCH : Nat := 0x410004
/-- 0x4100:05 SYNC_THRESH, Table 9.9. -/
abbrev Key.Time.SYNC_THRESH : Nat := 0x410005
/-- 0x4100:06 HOLD_LIMIT, Table 9.9. -/
abbrev Key.Time.HOLD_LIMIT : Nat := 0x410006
/-- 0x4100:07 SLEW_RATE, Table 9.9. -/
abbrev Key.Time.SLEW_RATE : Nat := 0x410007
/-- 0x4100:08 LOSS_MS, Table 9.9. -/
abbrev Key.Time.LOSS_MS : Nat := 0x410008
/-- 0x4100:09 HOLD_K1, Table 9.9. -/
abbrev Key.Time.HOLD_K1 : Nat := 0x410009
/-- 0x4100:0A HOLD_K2, Table 9.9. -/
abbrev Key.Time.HOLD_K2 : Nat := 0x41000A
/-- 0x4100:0B HOLD_KT, Table 9.9. -/
abbrev Key.Time.HOLD_KT : Nat := 0x41000B
/-- 0x4100:0C HEARTH_PPB, Table 9.9. -/
abbrev Key.Time.HEARTH_PPB : Nat := 0x41000C
/-- 0x4100:0D TIME_STEPS, Table 9.9. -/
abbrev Key.Time.TIME_STEPS : Nat := 0x41000D
/-- 0x4100:0E LAST_STEP_MS, Table 9.9. -/
abbrev Key.Time.LAST_STEP_MS : Nat := 0x41000E
/-- 0x4100:0F STEP_EPOCH, Table 9.9. -/
abbrev Key.Time.STEP_EPOCH : Nat := 0x41000F
/-- 0x4101+p:01 PPS_ENABLE, Table 9.9. -/
abbrev Key.Pps.PPS_ENABLE (n : Nat) : Nat := (0x4101 + n) * 256 + (0x01)
/-- 0x4101+p:02 PPS_DELAY, Table 9.9. -/
abbrev Key.Pps.PPS_DELAY (n : Nat) : Nat := (0x4101 + n) * 256 + (0x02)
/-- 0x4101+p:03 PPS_WIDTH, Table 9.9. -/
abbrev Key.Pps.PPS_WIDTH (n : Nat) : Nat := (0x4101 + n) * 256 + (0x03)
/-- 0x4101+p:04 PPS_POLARITY, Table 9.9. -/
abbrev Key.Pps.PPS_POLARITY (n : Nat) : Nat := (0x4101 + n) * 256 + (0x04)
/-- 0x4101+p:05 PPS_EPOCH, Table 9.9. -/
abbrev Key.Pps.PPS_EPOCH (n : Nat) : Nat := (0x4101 + n) * 256 + (0x05)
/-- 0x4101+p:06 PPS_STATE, Table 9.9. -/
abbrev Key.Pps.PPS_STATE (n : Nat) : Nat := (0x4101 + n) * 256 + (0x06)
/-- :01 CAM_ENABLE, Table 10.9. -/
abbrev Key.CamCfg.CAM_ENABLE (n : Nat) : Nat := (0x4210 + n) * 256 + (0x01)
/-- :02 WIDTH, Table 10.9. -/
abbrev Key.CamCfg.WIDTH (n : Nat) : Nat := (0x4210 + n) * 256 + (0x02)
/-- :03 HEIGHT, Table 10.9. -/
abbrev Key.CamCfg.HEIGHT (n : Nat) : Nat := (0x4210 + n) * 256 + (0x03)
/-- :04 EXPOSURES, Table 10.9. -/
abbrev Key.CamCfg.EXPOSURES (n : Nat) : Nat := (0x4210 + n) * 256 + (0x04)
/-- :05 BITS, Table 10.9. -/
abbrev Key.CamCfg.BITS (n : Nat) : Nat := (0x4210 + n) * 256 + (0x05)
/-- :06 CFA, Table 10.9. -/
abbrev Key.CamCfg.CFA (n : Nat) : Nat := (0x4210 + n) * 256 + (0x06)
/-- :07 ORDER, Table 10.9. -/
abbrev Key.CamCfg.ORDER (n : Nat) : Nat := (0x4210 + n) * 256 + (0x07)
/-- :08 FPS, Table 10.9. -/
abbrev Key.CamCfg.FPS (n : Nat) : Nat := (0x4210 + n) * 256 + (0x08)
/-- :09 PRIORITY, Table 10.9. -/
abbrev Key.CamCfg.PRIORITY (n : Nat) : Nat := (0x4210 + n) * 256 + (0x09)
/-- :0A STREAM_ID, Table 10.9. -/
abbrev Key.CamCfg.STREAM_ID (n : Nat) : Nat := (0x4210 + n) * 256 + (0x0A)
/-- :0B PORT_POL, Table 10.9. -/
abbrev Key.CamCfg.PORT_POL (n : Nat) : Nat := (0x4210 + n) * 256 + (0x0B)
/-- :0C EXPO_OFFSET, Table 10.9. -/
abbrev Key.CamCfg.EXPO_OFFSET (n : Nat) : Nat := (0x4210 + n) * 256 + (0x0C)
/-- :0D OUT_MASK, Table 10.9. -/
abbrev Key.CamCfg.OUT_MASK (n : Nat) : Nat := (0x4210 + n) * 256 + (0x0D)
/-- :0E RATIO_A, Table 10.9. -/
abbrev Key.CamCfg.RATIO_A (n : Nat) : Nat := (0x4210 + n) * 256 + (0x0E)
/-- :0F RATIO_B, Table 10.9. -/
abbrev Key.CamCfg.RATIO_B (n : Nat) : Nat := (0x4210 + n) * 256 + (0x0F)
/-- :10 KNEE, Table 10.9. -/
abbrev Key.CamCfg.KNEE (n : Nat) : Nat := (0x4210 + n) * 256 + (0x10)
/-- :11 BLACK, Table 10.9. -/
abbrev Key.CamCfg.BLACK (n : Nat) : Nat := (0x4210 + n) * 256 + (0x11)
/-- :12–:14 WB_R, Table 10.9. -/
abbrev Key.CamCfg.WB_R (n : Nat) : Nat := (0x4210 + n) * 256 + (0x12)
/-- 0x4210:13 WB_G, Table 10.9. -/
abbrev Key.CamCfg.WB_G (n : Nat) : Nat := (0x4210 + n) * 256 + (0x13)
/-- 0x4210:14 WB_B, Table 10.9. -/
abbrev Key.CamCfg.WB_B (n : Nat) : Nat := (0x4210 + n) * 256 + (0x14)
/-- :15 CCM, Table 10.9. -/
abbrev Key.CamCfg.CCM (n : Nat) : Nat := (0x4210 + n) * 256 + (0x15)
/-- :16 LIN_TABLE, Table 10.9. -/
abbrev Key.CamCfg.LIN_TABLE (n : Nat) : Nat := (0x4210 + n) * 256 + (0x16)
/-- :17 SHADING, Table 10.9. -/
abbrev Key.CamCfg.SHADING (n : Nat) : Nat := (0x4210 + n) * 256 + (0x17)
/-- :18 DEFECTS, Table 10.9. -/
abbrev Key.CamCfg.DEFECTS (n : Nat) : Nat := (0x4210 + n) * 256 + (0x18)
/-- :19 VIS_SHIFT, Table 10.9. -/
abbrev Key.CamCfg.VIS_SHIFT (n : Nat) : Nat := (0x4210 + n) * 256 + (0x19)
/-- :1A DISP_W, Table 10.9. -/
abbrev Key.CamCfg.DISP_W (n : Nat) : Nat := (0x4210 + n) * 256 + (0x1A)
/-- :1B DISP_H, Table 10.9. -/
abbrev Key.CamCfg.DISP_H (n : Nat) : Nat := (0x4210 + n) * 256 + (0x1B)
/-- :1C DISP_WHITE, Table 10.9. -/
abbrev Key.CamCfg.DISP_WHITE (n : Nat) : Nat := (0x4210 + n) * 256 + (0x1C)
/-- :1D DISP_DIV, Table 10.9. -/
abbrev Key.CamCfg.DISP_DIV (n : Nat) : Nat := (0x4210 + n) * 256 + (0x1D)
/-- :1E CODE_DIV, Table 10.9. -/
abbrev Key.CamCfg.CODE_DIV (n : Nat) : Nat := (0x4210 + n) * 256 + (0x1E)
/-- :1F CODE_RATE, Table 10.9. -/
abbrev Key.CamCfg.CODE_RATE (n : Nat) : Nat := (0x4210 + n) * 256 + (0x1F)
/-- :20 CODE_GOP, Table 10.9. -/
abbrev Key.CamCfg.CODE_GOP (n : Nat) : Nat := (0x4210 + n) * 256 + (0x20)
/-- :21 CODE_QP_MIN, Table 10.9. -/
abbrev Key.CamCfg.CODE_QP_MIN (n : Nat) : Nat := (0x4210 + n) * 256 + (0x21)
/-- :22 CODE_QP_MAX, Table 10.9. -/
abbrev Key.CamCfg.CODE_QP_MAX (n : Nat) : Nat := (0x4210 + n) * 256 + (0x22)
/-- :23 CODE_DEST, Table 10.9. -/
abbrev Key.CamCfg.CODE_DEST (n : Nat) : Nat := (0x4210 + n) * 256 + (0x23)
/-- :24 CODE_RECORD, Table 10.9. -/
abbrev Key.CamCfg.CODE_RECORD (n : Nat) : Nat := (0x4210 + n) * 256 + (0x24)
/-- :25 RING_MIB, Table 10.9. -/
abbrev Key.CamCfg.RING_MIB (n : Nat) : Nat := (0x4210 + n) * 256 + (0x25)
/-- :01 CAM_STATE, Table 10.10. -/
abbrev Key.CamSt.CAM_STATE (n : Nat) : Nat := (0x4220 + n) * 256 + (0x01)
/-- :02 FRAME_EPOCH, Table 10.10. -/
abbrev Key.CamSt.FRAME_EPOCH (n : Nat) : Nat := (0x4220 + n) * 256 + (0x02)
/-- :03 FRAMES, Table 10.10. -/
abbrev Key.CamSt.FRAMES (n : Nat) : Nat := (0x4220 + n) * 256 + (0x03)
/-- :04–:06 DROP_LOAD, Table 10.10. -/
abbrev Key.CamSt.DROP_LOAD (n : Nat) : Nat := (0x4220 + n) * 256 + (0x04)
/-- 0x4220:05 DROP_RING, Table 10.10. -/
abbrev Key.CamSt.DROP_RING (n : Nat) : Nat := (0x4220 + n) * 256 + (0x05)
/-- 0x4220:06 DROP_DERATE, Table 10.10. -/
abbrev Key.CamSt.DROP_DERATE (n : Nat) : Nat := (0x4220 + n) * 256 + (0x06)
/-- :07 FRAME_ERRORS, Table 10.10. -/
abbrev Key.CamSt.FRAME_ERRORS (n : Nat) : Nat := (0x4220 + n) * 256 + (0x07)
/-- :08 FPS_MEAS, Table 10.10. -/
abbrev Key.CamSt.FPS_MEAS (n : Nat) : Nat := (0x4220 + n) * 256 + (0x08)
/-- :09 VIS_CLIPPED, Table 10.10. -/
abbrev Key.CamSt.VIS_CLIPPED (n : Nat) : Nat := (0x4220 + n) * 256 + (0x09)
/-- :0A STATS, Table 10.10. -/
abbrev Key.CamSt.STATS (n : Nat) : Nat := (0x4220 + n) * 256 + (0x0A)
/-- :0B DISP_FRAME, Table 10.10. -/
abbrev Key.CamSt.DISP_FRAME (n : Nat) : Nat := (0x4220 + n) * 256 + (0x0B)
/-- :0C VIS_FRAME, Table 10.10. -/
abbrev Key.CamSt.VIS_FRAME (n : Nat) : Nat := (0x4220 + n) * 256 + (0x0C)
/-- :0D CODE_CLIP, Table 10.10. -/
abbrev Key.CamSt.CODE_CLIP (n : Nat) : Nat := (0x4220 + n) * 256 + (0x0D)
/-- :0E CODE_QP, Table 10.10. -/
abbrev Key.CamSt.CODE_QP (n : Nat) : Nat := (0x4220 + n) * 256 + (0x0E)
/-- :0F CODE_SKIPS, Table 10.10. -/
abbrev Key.CamSt.CODE_SKIPS (n : Nat) : Nat := (0x4220 + n) * 256 + (0x0F)
/-- :10 RECORD_HELD, Table 10.10. -/
abbrev Key.CamSt.RECORD_HELD (n : Nat) : Nat := (0x4220 + n) * 256 + (0x10)
/-- :11 FORMAT_RESULT, Table 10.10. -/
abbrev Key.CamSt.FORMAT_RESULT (n : Nat) : Nat := (0x4220 + n) * 256 + (0x11)
/-- 0x4200:01 MEM_LOAD, Table 10.11. -/
abbrev Key.Vis.MEM_LOAD : Nat := 0x420001
/-- 0x4200:02 PORT_LOAD, Table 10.11. -/
abbrev Key.Vis.PORT_LOAD : Nat := 0x420002
/-- 0x4200:03 ENC_LOAD, Table 10.11. -/
abbrev Key.Vis.ENC_LOAD : Nat := 0x420003
/-- 0x4200:04 QUEUE_MS, Table 10.11. -/
abbrev Key.Vis.QUEUE_MS : Nat := 0x420004
/-- 0x4200:05 QUEUE_PX, Table 10.11. -/
abbrev Key.Vis.QUEUE_PX : Nat := 0x420005
/-- 0x4200:06 DERATE_LEVEL, Table 10.11. -/
abbrev Key.Vis.DERATE_LEVEL : Nat := 0x420006
/-- 0x4200:07 ENC_DERATE, Table 10.11. -/
abbrev Key.Vis.ENC_DERATE : Nat := 0x420007
/-- 0x4200:08 BRIQ_RATIO, Table 10.11. -/
abbrev Key.Vis.BRIQ_RATIO : Nat := 0x420008
/-- 0x4200:09 PIPE_ASH, Table 10.11. -/
abbrev Key.Vis.PIPE_ASH : Nat := 0x420009
/-- 0x4200:0A HOLD_USED, Table 10.11. -/
abbrev Key.Vis.HOLD_USED : Nat := 0x42000A
/-- 0x4300:01 PROX_CAP, Table 11.6. -/
abbrev Key.Fus.PROX_CAP : Nat := 0x430001
/-- 0x4300:02 PROX_EPOCH, Table 11.6. -/
abbrev Key.Fus.PROX_EPOCH : Nat := 0x430002
/-- 0x4300:03 PROX_DEFAULT, Table 11.6. -/
abbrev Key.Fus.PROX_DEFAULT : Nat := 0x430003
/-- 0x4300:04 TRACK_COUNT, Table 11.6. -/
abbrev Key.Fus.TRACK_COUNT : Nat := 0x430004
/-- 0x4300:05 EGO_VALID, Table 11.6. -/
abbrev Key.Fus.EGO_VALID : Nat := 0x430005
/-- 0x4300:06 EGO_COAST, Table 11.6. -/
abbrev Key.Fus.EGO_COAST : Nat := 0x430006
/-- 0x4300:07 GATE, Table 11.6. -/
abbrev Key.Fus.GATE : Nat := 0x430007
/-- 0x4300:08 CONFIRM_M, Table 11.6. -/
abbrev Key.Fus.CONFIRM_M : Nat := 0x430008
/-- 0x4300:09 CONFIRM_N, Table 11.6. -/
abbrev Key.Fus.CONFIRM_N : Nat := 0x430009
/-- 0x4300:0A DELETE_K, Table 11.6. -/
abbrev Key.Fus.DELETE_K : Nat := 0x43000A
/-- 0x4300:0B Q_ACCEL, Table 11.6. -/
abbrev Key.Fus.Q_ACCEL : Nat := 0x43000B
/-- 0x4300:0C CYCLES_LOST, Table 11.6. -/
abbrev Key.Fus.CYCLES_LOST : Nat := 0x43000C
/-- 0x4300:0D TRACKS_FULL_COUNT, Table 11.6. -/
abbrev Key.Fus.TRACKS_FULL_COUNT : Nat := 0x43000D
/-- 0x4301:01 TRACKS, Table 11.6. -/
abbrev Key.Fus.TRACKS : Nat := 0x430101
/-- 0x4302:01 CART_VALID, Table 11.6. -/
abbrev Key.Cart.CART_VALID : Nat := 0x430201
/-- 0x4302:02 CART_TRACK, Table 11.6. -/
abbrev Key.Cart.CART_TRACK : Nat := 0x430202
/-- 0x4302:03 SWING_SP, Table 11.6. -/
abbrev Key.Cart.SWING_SP : Nat := 0x430203
/-- 0x4302:04 TIP_SP, Table 11.6. -/
abbrev Key.Cart.TIP_SP : Nat := 0x430204
/-- 0x4302:05 CART_EPOCH, Table 11.6. -/
abbrev Key.Cart.CART_EPOCH : Nat := 0x430205
/-- 0x4302:06–:07 PIVOT_X, Table 11.6. -/
abbrev Key.Cart.PIVOT_X : Nat := 0x430206
/-- 0x4302:07 PIVOT_Y, Table 11.6. -/
abbrev Key.Cart.PIVOT_Y : Nat := 0x430207
/-- 0x4302:08 FILL_OFFSET, Table 11.6. -/
abbrev Key.Cart.FILL_OFFSET : Nat := 0x430208
/-- 0x4302:09 CART_RANGE, Table 11.6. -/
abbrev Key.Cart.CART_RANGE : Nat := 0x430209
/-- 0x4302:0A–:0B SWING_MIN, Table 11.6. -/
abbrev Key.Cart.SWING_MIN : Nat := 0x43020A
/-- 0x4302:0B SWING_MAX, Table 11.6. -/
abbrev Key.Cart.SWING_MAX : Nat := 0x43020B
/-- 0x4302:0C AUGER_REACH, Table 11.6. -/
abbrev Key.Cart.AUGER_REACH : Nat := 0x43020C
/-- 0x4302:0D TIP_GAIN, Table 11.6. -/
abbrev Key.Cart.TIP_GAIN : Nat := 0x43020D
/-- 0x4302:0E–:0F TIP_MIN, Table 11.6. -/
abbrev Key.Cart.TIP_MIN : Nat := 0x43020E
/-- 0x4302:0F TIP_MAX, Table 11.6. -/
abbrev Key.Cart.TIP_MAX : Nat := 0x43020F
/-- :01 SRC_ENABLE, Table 11.7. -/
abbrev Key.Src.SRC_ENABLE (n : Nat) : Nat := (0x4310 + n) * 256 + (0x01)
/-- :02 KIND, Table 11.7. -/
abbrev Key.Src.KIND (n : Nat) : Nat := (0x4310 + n) * 256 + (0x02)
/-- :03 UNIT, Table 11.7. -/
abbrev Key.Src.UNIT (n : Nat) : Nat := (0x4310 + n) * 256 + (0x03)
/-- :04 REF, Table 11.7. -/
abbrev Key.Src.REF (n : Nat) : Nat := (0x4310 + n) * 256 + (0x04)
/-- :05–:07 MOUNT_X, Table 11.7. -/
abbrev Key.Src.MOUNT_X (n : Nat) : Nat := (0x4310 + n) * 256 + (0x05)
/-- 0x4310:06 MOUNT_Y, Table 11.7. -/
abbrev Key.Src.MOUNT_Y (n : Nat) : Nat := (0x4310 + n) * 256 + (0x06)
/-- 0x4310:07 MOUNT_Z, Table 11.7. -/
abbrev Key.Src.MOUNT_Z (n : Nat) : Nat := (0x4310 + n) * 256 + (0x07)
/-- :08 MOUNT_YAW, Table 11.7. -/
abbrev Key.Src.MOUNT_YAW (n : Nat) : Nat := (0x4310 + n) * 256 + (0x08)
/-- :09 FOV_HALF, Table 11.7. -/
abbrev Key.Src.FOV_HALF (n : Nat) : Nat := (0x4310 + n) * 256 + (0x09)
/-- :0A RANGE_MAX, Table 11.7. -/
abbrev Key.Src.RANGE_MAX (n : Nat) : Nat := (0x4310 + n) * 256 + (0x0A)
/-- :0B MEAS_SD, Table 11.7. -/
abbrev Key.Src.MEAS_SD (n : Nat) : Nat := (0x4310 + n) * 256 + (0x0B)
/-- :0C STALE_MS, Table 11.7. -/
abbrev Key.Src.STALE_MS (n : Nat) : Nat := (0x4310 + n) * 256 + (0x0C)
/-- :0D PRIORITY, Table 11.7. -/
abbrev Key.Src.PRIORITY (n : Nat) : Nat := (0x4310 + n) * 256 + (0x0D)
/-- :20 SRC_AGE, Table 11.7. -/
abbrev Key.Src.SRC_AGE (n : Nat) : Nat := (0x4310 + n) * 256 + (0x20)
/-- :21 SRC_FLAGS, Table 11.7. -/
abbrev Key.Src.SRC_FLAGS (n : Nat) : Nat := (0x4310 + n) * 256 + (0x21)
/-- :22 SAMPLES, Table 11.7. -/
abbrev Key.Src.SAMPLES (n : Nat) : Nat := (0x4310 + n) * 256 + (0x22)
/-- :23 LATE, Table 11.7. -/
abbrev Key.Src.LATE (n : Nat) : Nat := (0x4310 + n) * 256 + (0x23)
/-- :24 FRAME_ERRORS, Table 11.7. -/
abbrev Key.Src.FRAME_ERRORS (n : Nat) : Nat := (0x4310 + n) * 256 + (0x24)
/-- :01 ZONE_ENABLE, Table 11.8. -/
abbrev Key.Zone.ZONE_ENABLE (n : Nat) : Nat := (0x4330 + n) * 256 + (0x01)
/-- :02–:05 X_MIN, Table 11.8. -/
abbrev Key.Zone.X_MIN (n : Nat) : Nat := (0x4330 + n) * 256 + (0x02)
/-- 0x4330:03 X_MAX, Table 11.8. -/
abbrev Key.Zone.X_MAX (n : Nat) : Nat := (0x4330 + n) * 256 + (0x03)
/-- 0x4330:04 Y_MIN, Table 11.8. -/
abbrev Key.Zone.Y_MIN (n : Nat) : Nat := (0x4330 + n) * 256 + (0x04)
/-- 0x4330:05 Y_MAX, Table 11.8. -/
abbrev Key.Zone.Y_MAX (n : Nat) : Nat := (0x4330 + n) * 256 + (0x05)
/-- :06 CLASS_MASK, Table 11.8. -/
abbrev Key.Zone.CLASS_MASK (n : Nat) : Nat := (0x4330 + n) * 256 + (0x06)
/-- :07 ZONE_OPTS, Table 11.8. -/
abbrev Key.Zone.ZONE_OPTS (n : Nat) : Nat := (0x4330 + n) * 256 + (0x07)
/-- :08 SRC_MASK, Table 11.8. -/
abbrev Key.Zone.SRC_MASK (n : Nat) : Nat := (0x4330 + n) * 256 + (0x08)
/-- :09 D_STOP, Table 11.8. -/
abbrev Key.Zone.D_STOP (n : Nat) : Nat := (0x4330 + n) * 256 + (0x09)
/-- :0A D_FREE, Table 11.8. -/
abbrev Key.Zone.D_FREE (n : Nat) : Nat := (0x4330 + n) * 256 + (0x0A)
/-- :0B CAP_CLEAR, Table 11.8. -/
abbrev Key.Zone.CAP_CLEAR (n : Nat) : Nat := (0x4330 + n) * 256 + (0x0B)
/-- :0C CAP_OCCUPIED, Table 11.8. -/
abbrev Key.Zone.CAP_OCCUPIED (n : Nat) : Nat := (0x4330 + n) * 256 + (0x0C)
/-- :20 ZONE_CAP, Table 11.8. -/
abbrev Key.Zone.ZONE_CAP (n : Nat) : Nat := (0x4330 + n) * 256 + (0x20)
/-- :21 ZONE_STATE, Table 11.8. -/
abbrev Key.Zone.ZONE_STATE (n : Nat) : Nat := (0x4330 + n) * 256 + (0x21)
/-- :22 ZONE_D, Table 11.8. -/
abbrev Key.Zone.ZONE_D (n : Nat) : Nat := (0x4330 + n) * 256 + (0x22)
/-- :23 ZONE_TRACK, Table 11.8. -/
abbrev Key.Zone.ZONE_TRACK (n : Nat) : Nat := (0x4330 + n) * 256 + (0x23)
/-- :01 PORT_ENABLE, Table 12.6. -/
abbrev Key.Can.PORT_ENABLE (n : Nat) : Nat := (0x4400 + 16 * n) * 256 + (0x01)
/-- :02 FD_ENABLE, Table 12.6. -/
abbrev Key.Can.FD_ENABLE (n : Nat) : Nat := (0x4400 + 16 * n) * 256 + (0x02)
/-- :03 NOM_BRP, Table 12.6. -/
abbrev Key.Can.NOM_BRP (n : Nat) : Nat := (0x4400 + 16 * n) * 256 + (0x03)
/-- :04 NOM_SEG1, Table 12.6. -/
abbrev Key.Can.NOM_SEG1 (n : Nat) : Nat := (0x4400 + 16 * n) * 256 + (0x04)
/-- :05 NOM_SEG2, Table 12.6. -/
abbrev Key.Can.NOM_SEG2 (n : Nat) : Nat := (0x4400 + 16 * n) * 256 + (0x05)
/-- :06 NOM_SJW, Table 12.6. -/
abbrev Key.Can.NOM_SJW (n : Nat) : Nat := (0x4400 + 16 * n) * 256 + (0x06)
/-- :07 TRIPLE, Table 12.6. -/
abbrev Key.Can.TRIPLE (n : Nat) : Nat := (0x4400 + 16 * n) * 256 + (0x07)
/-- :08 DATA_BRP, Table 12.6. -/
abbrev Key.Can.DATA_BRP (n : Nat) : Nat := (0x4400 + 16 * n) * 256 + (0x08)
/-- :09 DATA_SEG1, Table 12.6. -/
abbrev Key.Can.DATA_SEG1 (n : Nat) : Nat := (0x4400 + 16 * n) * 256 + (0x09)
/-- :0A DATA_SEG2, Table 12.6. -/
abbrev Key.Can.DATA_SEG2 (n : Nat) : Nat := (0x4400 + 16 * n) * 256 + (0x0A)
/-- :0B DATA_SJW, Table 12.6. -/
abbrev Key.Can.DATA_SJW (n : Nat) : Nat := (0x4400 + 16 * n) * 256 + (0x0B)
/-- :0C TDC_ENABLE, Table 12.6. -/
abbrev Key.Can.TDC_ENABLE (n : Nat) : Nat := (0x4400 + 16 * n) * 256 + (0x0C)
/-- :0D TDC_OFFSET, Table 12.6. -/
abbrev Key.Can.TDC_OFFSET (n : Nat) : Nat := (0x4400 + 16 * n) * 256 + (0x0D)
/-- :0E LISTEN_ONLY, Table 12.6. -/
abbrev Key.Can.LISTEN_ONLY (n : Nat) : Nat := (0x4400 + 16 * n) * 256 + (0x0E)
/-- :0F RECOVER, Table 12.6. -/
abbrev Key.Can.RECOVER (n : Nat) : Nat := (0x4400 + 16 * n) * 256 + (0x0F)
/-- :10 LIST_FORCE, Table 12.6. -/
abbrev Key.Can.LIST_FORCE (n : Nat) : Nat := (0x4400 + 16 * n) * 256 + (0x10)
/-- :01 CAN_STATE, Table 12.7. -/
abbrev Key.Can.CAN_STATE (n : Nat) : Nat := (0x4401 + 16 * n) * 256 + (0x01)
/-- :02 TEC, Table 12.7. -/
abbrev Key.Can.TEC (n : Nat) : Nat := (0x4401 + 16 * n) * 256 + (0x02)
/-- :03 REC, Table 12.7. -/
abbrev Key.Can.REC (n : Nat) : Nat := (0x4401 + 16 * n) * 256 + (0x03)
/-- :04 TDC_MEAS, Table 12.7. -/
abbrev Key.Can.TDC_MEAS (n : Nat) : Nat := (0x4401 + 16 * n) * 256 + (0x04)
/-- :05 BUS_OFFS, Table 12.7. -/
abbrev Key.Can.BUS_OFFS (n : Nat) : Nat := (0x4401 + 16 * n) * 256 + (0x05)
/-- :06 TX_SENT, Table 12.7. -/
abbrev Key.Can.TX_SENT (n : Nat) : Nat := (0x4401 + 16 * n) * 256 + (0x06)
/-- :07 TX_DROPPED, Table 12.7. -/
abbrev Key.Can.TX_DROPPED (n : Nat) : Nat := (0x4401 + 16 * n) * 256 + (0x07)
/-- :08 RX_ACCEPTED, Table 12.7. -/
abbrev Key.Can.RX_ACCEPTED (n : Nat) : Nat := (0x4401 + 16 * n) * 256 + (0x08)
/-- :09 RX_NO_MATCH, Table 12.7. -/
abbrev Key.Can.RX_NO_MATCH (n : Nat) : Nat := (0x4401 + 16 * n) * 256 + (0x09)
/-- :0A ERR_FRAMES, Table 12.7. -/
abbrev Key.Can.ERR_FRAMES (n : Nat) : Nat := (0x4401 + 16 * n) * 256 + (0x0A)
/-- :0B QUEUE_USED, Table 12.7. -/
abbrev Key.Can.QUEUE_USED (n : Nat) : Nat := (0x4401 + 16 * n) * 256 + (0x0B)
/-- :0C CLAIM_ENABLE, Table 12.7. -/
abbrev Key.Can.CLAIM_ENABLE (n : Nat) : Nat := (0x4401 + 16 * n) * 256 + (0x0C)
/-- :0D PREF_ADDR, Table 12.7. -/
abbrev Key.Can.PREF_ADDR (n : Nat) : Nat := (0x4401 + 16 * n) * 256 + (0x0D)
/-- :0E NAME, Table 12.7. -/
abbrev Key.Can.NAME (n : Nat) : Nat := (0x4401 + 16 * n) * 256 + (0x0E)
/-- :0F ADDRESS, Table 12.7. -/
abbrev Key.Can.ADDRESS (n : Nat) : Nat := (0x4401 + 16 * n) * 256 + (0x0F)
/-- :10 CLAIM_STATE, Table 12.7. -/
abbrev Key.Can.CLAIM_STATE (n : Nat) : Nat := (0x4401 + 16 * n) * 256 + (0x10)
/-- 0x4402+16p:01–:20 MATCH, Table 12.8. -/
abbrev Key.Filt.MATCH (n j : Nat) : Nat := (0x4402 + 16 * n) * 256 + (0x01 + j)
/-- 0x4402+16p:21–:40 MASK, Table 12.8. -/
abbrev Key.Filt.MASK (n j : Nat) : Nat := (0x4402 + 16 * n) * 256 + (0x21 + j)
/-- 0x4402+16p:41–:60 CTRL, Table 12.8. -/
abbrev Key.Filt.CTRL (n j : Nat) : Nat := (0x4402 + 16 * n) * 256 + (0x41 + j)
/-- 0x4403+16p:01 FILTER_LIST, Table 12.8. -/
abbrev Key.CanX.FILTER_LIST (n : Nat) : Nat := (0x4403 + 16 * n) * 256 + (0x01)
/-- 0x4403+16p:02 LIST_COUNT, Table 12.8. -/
abbrev Key.CanX.LIST_COUNT (n : Nat) : Nat := (0x4403 + 16 * n) * 256 + (0x02)
/-- 0x4403+16p:03 RX_FIFO0, Table 12.8. -/
abbrev Key.CanX.RX_FIFO0 (n : Nat) : Nat := (0x4403 + 16 * n) * 256 + (0x03)
/-- 0x4403+16p:04 RX_FIFO1, Table 12.8. -/
abbrev Key.CanX.RX_FIFO1 (n : Nat) : Nat := (0x4403 + 16 * n) * 256 + (0x04)
/-- 0x4403+16p:05 TX_SUBMIT, Table 12.8. -/
abbrev Key.CanX.TX_SUBMIT (n : Nat) : Nat := (0x4403 + 16 * n) * 256 + (0x05)
/-- 0x4403+16p:06 TIME_ENABLE, Table 12.8. -/
abbrev Key.CanX.TIME_ENABLE (n : Nat) : Nat := (0x4403 + 16 * n) * 256 + (0x06)
/-- 0x4403+16p:07 TIME_ID, Table 12.8. -/
abbrev Key.CanX.TIME_ID (n : Nat) : Nat := (0x4403 + 16 * n) * 256 + (0x07)
/-- 0x4403+16p:08 TIME_PERIOD, Table 12.8. -/
abbrev Key.CanX.TIME_PERIOD (n : Nat) : Nat := (0x4403 + 16 * n) * 256 + (0x08)
/-- 0x4403+16p:09 TIME_SEQ, Table 12.8. -/
abbrev Key.CanX.TIME_SEQ (n : Nat) : Nat := (0x4403 + 16 * n) * 256 + (0x09)
/-- :01 RXS_ID, Table 12.9. -/
abbrev Key.Rxs.RXS_ID (p k : Nat) : Nat := (0x4404 + 16 * p + k) * 256 + (0x01)
/-- :02 RXS_ID_MASK, Table 12.9. -/
abbrev Key.Rxs.RXS_ID_MASK (p k : Nat) : Nat := (0x4404 + 16 * p + k) * 256 + (0x02)
/-- :03 RXS_START, Table 12.9. -/
abbrev Key.Rxs.RXS_START (p k : Nat) : Nat := (0x4404 + 16 * p + k) * 256 + (0x03)
/-- :04 RXS_BITS, Table 12.9. -/
abbrev Key.Rxs.RXS_BITS (p k : Nat) : Nat := (0x4404 + 16 * p + k) * 256 + (0x04)
/-- :05 RXS_OPTS, Table 12.9. -/
abbrev Key.Rxs.RXS_OPTS (p k : Nat) : Nat := (0x4404 + 16 * p + k) * 256 + (0x05)
/-- :06 RXS_SCALE, Table 12.9. -/
abbrev Key.Rxs.RXS_SCALE (p k : Nat) : Nat := (0x4404 + 16 * p + k) * 256 + (0x06)
/-- :07 RXS_OFFSET, Table 12.9. -/
abbrev Key.Rxs.RXS_OFFSET (p k : Nat) : Nat := (0x4404 + 16 * p + k) * 256 + (0x07)
/-- :08 RXS_VALUE, Table 12.9. -/
abbrev Key.Rxs.RXS_VALUE (p k : Nat) : Nat := (0x4404 + 16 * p + k) * 256 + (0x08)
/-- :09 RXS_EPOCH, Table 12.9. -/
abbrev Key.Rxs.RXS_EPOCH (p k : Nat) : Nat := (0x4404 + 16 * p + k) * 256 + (0x09)
/-- :0A RXS_COUNT, Table 12.9. -/
abbrev Key.Rxs.RXS_COUNT (p k : Nat) : Nat := (0x4404 + 16 * p + k) * 256 + (0x0A)
/-- :0B RXS_SKIPPED, Table 12.9. -/
abbrev Key.Rxs.RXS_SKIPPED (p k : Nat) : Nat := (0x4404 + 16 * p + k) * 256 + (0x0B)
/-- :0C RXS_SRC, Table 12.9. -/
abbrev Key.Rxs.RXS_SRC (p k : Nat) : Nat := (0x4404 + 16 * p + k) * 256 + (0x0C)
/-- :01 PHY_ROLE, Table 12.10. -/
abbrev Key.Eth.PHY_ROLE (n : Nat) : Nat := (0x4501 + n) * 256 + (0x01)
/-- :02 IP_ADDR, Table 12.10. -/
abbrev Key.Eth.IP_ADDR (n : Nat) : Nat := (0x4501 + n) * 256 + (0x02)
/-- :03 NETMASK, Table 12.10. -/
abbrev Key.Eth.NETMASK (n : Nat) : Nat := (0x4501 + n) * 256 + (0x03)
/-- :04 GATEWAY, Table 12.10. -/
abbrev Key.Eth.GATEWAY (n : Nat) : Nat := (0x4501 + n) * 256 + (0x04)
/-- :05 GPTP_ENABLE, Table 12.10. -/
abbrev Key.Eth.GPTP_ENABLE (n : Nat) : Nat := (0x4501 + n) * 256 + (0x05)
/-- :06 LINK, Table 12.10. -/
abbrev Key.Eth.LINK (n : Nat) : Nat := (0x4501 + n) * 256 + (0x06)
/-- :07 LINK_EPOCH, Table 12.10. -/
abbrev Key.Eth.LINK_EPOCH (n : Nat) : Nat := (0x4501 + n) * 256 + (0x07)
/-- :08 LINK_DOWNS, Table 12.10. -/
abbrev Key.Eth.LINK_DOWNS (n : Nat) : Nat := (0x4501 + n) * 256 + (0x08)
/-- :09 RX_FRAMES, Table 12.10. -/
abbrev Key.Eth.RX_FRAMES (n : Nat) : Nat := (0x4501 + n) * 256 + (0x09)
/-- :0A TX_FRAMES, Table 12.10. -/
abbrev Key.Eth.TX_FRAMES (n : Nat) : Nat := (0x4501 + n) * 256 + (0x0A)
/-- :0B RX_ERRORS, Table 12.10. -/
abbrev Key.Eth.RX_ERRORS (n : Nat) : Nat := (0x4501 + n) * 256 + (0x0B)
/-- :0C RX_DISCARDS, Table 12.10. -/
abbrev Key.Eth.RX_DISCARDS (n : Nat) : Nat := (0x4501 + n) * 256 + (0x0C)
/-- 0x4500:01 JOP_DATAGRAMS, Table 12.11. -/
abbrev Key.Jop.JOP_DATAGRAMS : Nat := 0x450001
/-- 0x4500:02 JOP_REFUSED, Table 12.11. -/
abbrev Key.Jop.JOP_REFUSED : Nat := 0x450002
/-- 0x4500:03 JOP_REPEATS, Table 12.11. -/
abbrev Key.Jop.JOP_REPEATS : Nat := 0x450003
/-- 0x4500:04 JOP_BAD_MAGIC, Table 12.11. -/
abbrev Key.Jop.JOP_BAD_MAGIC : Nat := 0x450004
/-- 0x4500:05 UDP_NO_SERVICE, Table 12.11. -/
abbrev Key.Jop.UDP_NO_SERVICE : Nat := 0x450005
/-- 0x4500:06 ICMP_ECHO, Table 12.11. -/
abbrev Key.Jop.ICMP_ECHO : Nat := 0x450006
/-- 0x4510:01 GM_PRIORITY1, Table 12.11. -/
abbrev Key.Gptp.GM_PRIORITY1 : Nat := 0x451001
/-- 0x4510:02 LOG_SYNC, Table 12.11. -/
abbrev Key.Gptp.LOG_SYNC : Nat := 0x451002
/-- 0x4510:03 LOG_ANNOUNCE, Table 12.11. -/
abbrev Key.Gptp.LOG_ANNOUNCE : Nat := 0x451003
/-- 0x4510:04 CLOCK_CLASS, Table 12.11. -/
abbrev Key.Gptp.CLOCK_CLASS : Nat := 0x451004
/-- 0x4510:05 UTC_OFFSET, Table 12.11. -/
abbrev Key.Gptp.UTC_OFFSET : Nat := 0x451005
/-- 0x4510:06 FOREIGN_ANNOUNCE, Table 12.11. -/
abbrev Key.Gptp.FOREIGN_ANNOUNCE : Nat := 0x451006
/-- 0x4600:01 FAB_ENABLE, Table 13.2. -/
abbrev Key.Fab.FAB_ENABLE : Nat := 0x460001
/-- 0x4600:02 NUMBER_CFG, Table 13.2. -/
abbrev Key.Fab.NUMBER_CFG : Nat := 0x460002
/-- 0x4600:03 MODULE_NUMBER, Table 13.2. -/
abbrev Key.Fab.MODULE_NUMBER : Nat := 0x460003
/-- 0x4600:04 FAB_STATE, Table 13.2. -/
abbrev Key.Fab.FAB_STATE : Nat := 0x460004
/-- 0x4600:05 TOPOLOGY, Table 13.2. -/
abbrev Key.Fab.TOPOLOGY : Nat := 0x460005
/-- 0x4600:06 MODULES, Table 13.2. -/
abbrev Key.Fab.MODULES : Nat := 0x460006
/-- 0x4600:07 TIME_SOURCE, Table 13.2. -/
abbrev Key.Fab.TIME_SOURCE : Nat := 0x460007
/-- 0x4600:08 FAB_SETTLE, Table 13.2. -/
abbrev Key.Fab.FAB_SETTLE : Nat := 0x460008
/-- 0x4600:09 NUMBER_HOLD, Table 13.2. -/
abbrev Key.Fab.NUMBER_HOLD : Nat := 0x460009
/-- 0x4600:0A TOPO_CHANGES, Table 13.2. -/
abbrev Key.Fab.TOPO_CHANGES : Nat := 0x46000A
/-- 0x4600:0B FWD_SENT, Table 13.2. -/
abbrev Key.Fab.FWD_SENT : Nat := 0x46000B
/-- 0x4600:0C FWD_UNREACHABLE, Table 13.2. -/
abbrev Key.Fab.FWD_UNREACHABLE : Nat := 0x46000C
/-- 0x4600:0D FWD_LOST, Table 13.2. -/
abbrev Key.Fab.FWD_LOST : Nat := 0x46000D
/-- 0x4601+f:01 FLINK_STATE, Table 13.2. -/
abbrev Key.FLink.FLINK_STATE (n : Nat) : Nat := (0x4601 + n) * 256 + (0x01)
/-- 0x4601+f:02 PEER_NUMBER, Table 13.2. -/
abbrev Key.FLink.PEER_NUMBER (n : Nat) : Nat := (0x4601 + n) * 256 + (0x02)
/-- 0x4601+f:03 PEER_IDENTITY, Table 13.2. -/
abbrev Key.FLink.PEER_IDENTITY (n : Nat) : Nat := (0x4601 + n) * 256 + (0x03)
/-- 0x4601+f:04 PEER_DELAY, Table 13.2. -/
abbrev Key.FLink.PEER_DELAY (n : Nat) : Nat := (0x4601 + n) * 256 + (0x04)
/-- 0x4601+f:05 FLINK_EPOCH, Table 13.2. -/
abbrev Key.FLink.FLINK_EPOCH (n : Nat) : Nat := (0x4601 + n) * 256 + (0x05)
/-- 0x4601+f:06 FLINK_DISCARDS, Table 13.2. -/
abbrev Key.FLink.FLINK_DISCARDS (n : Nat) : Nat := (0x4601 + n) * 256 + (0x06)
/-- 0x460F+m:01 MOD_STATE, Table 13.2. -/
abbrev Key.Mod.MOD_STATE (m : Nat) : Nat := (0x460F + m) * 256 + (0x01)
/-- 0x460F+m:02 MOD_IDENTITY, Table 13.2. -/
abbrev Key.Mod.MOD_IDENTITY (m : Nat) : Nat := (0x460F + m) * 256 + (0x02)
/-- 0x460F+m:03 MOD_HOPS, Table 13.2. -/
abbrev Key.Mod.MOD_HOPS (m : Nat) : Nat := (0x460F + m) * 256 + (0x03)
/-- 0x460F+m:04 MOD_ROUTE, Table 13.2. -/
abbrev Key.Mod.MOD_ROUTE (m : Nat) : Nat := (0x460F + m) * 256 + (0x04)
/-- 0x460F+m:05 MOD_FIX, Table 13.2. -/
abbrev Key.Mod.MOD_FIX (m : Nat) : Nat := (0x460F + m) * 256 + (0x05)
/-- 0x4700:01 UPD_PKG, Table 14.8. -/
abbrev Key.Upd.UPD_PKG : Nat := 0x470001
/-- 0x4700:02 STAGING_FREE, Table 14.8. -/
abbrev Key.Upd.STAGING_FREE : Nat := 0x470002
/-- 0x4700:03 OEM_KEY, Table 14.8. -/
abbrev Key.Upd.OEM_KEY : Nat := 0x470003
/-- 0x4701+b:01 BUILD_STATE, Table 14.8. -/
abbrev Key.Build.BUILD_STATE (n : Nat) : Nat := (0x4701 + n) * 256 + (0x01)
/-- 0x4701+b:02 BUILD_REGIONS, Table 14.8. -/
abbrev Key.Build.BUILD_REGIONS (n : Nat) : Nat := (0x4701 + n) * 256 + (0x02)
/-- 0x4701+b:03 BUILD_SEQ, Table 14.8. -/
abbrev Key.Build.BUILD_SEQ (n : Nat) : Nat := (0x4701 + n) * 256 + (0x03)
/-- 0x4701+b:04 PROGRESS, Table 14.8. -/
abbrev Key.Build.PROGRESS (n : Nat) : Nat := (0x4701 + n) * 256 + (0x04)
/-- 0x4701+b:05 HOLD_REASON, Table 14.8. -/
abbrev Key.Build.HOLD_REASON (n : Nat) : Nat := (0x4701 + n) * 256 + (0x05)
/-- 0x4701+b:06 ABORT, Table 14.8. -/
abbrev Key.Build.ABORT (n : Nat) : Nat := (0x4701 + n) * 256 + (0x06)
/-- 0x4710+r:01 ACTIVE_VERSION, Table 14.8. -/
abbrev Key.Region.ACTIVE_VERSION (n : Nat) : Nat := (0x4710 + n) * 256 + (0x01)
/-- 0x4710+r:02 INACTIVE_VERSION, Table 14.8. -/
abbrev Key.Region.INACTIVE_VERSION (n : Nat) : Nat := (0x4710 + n) * 256 + (0x02)
/-- 0x4710+r:03 ACTIVE_SLOT, Table 14.8. -/
abbrev Key.Region.ACTIVE_SLOT (n : Nat) : Nat := (0x4710 + n) * 256 + (0x03)
/-- 0x4720:01 HEALTH, Table 14.8. -/
abbrev Key.Health.HEALTH : Nat := 0x472001
/-- 0x4720:02 TRIAL_S, Table 14.8. -/
abbrev Key.Health.TRIAL_S : Nat := 0x472002
/-- 0x4720:03 TRIAL_STARTS, Table 14.8. -/
abbrev Key.Health.TRIAL_STARTS : Nat := 0x472003
/-- 0x4720:04 CONFIRM_S, Table 14.8. -/
abbrev Key.Health.CONFIRM_S : Nat := 0x472004
/-- 0x4720:05 ACCEPT_REQUIRED, Table 14.8. -/
abbrev Key.Health.ACCEPT_REQUIRED : Nat := 0x472005
/-- 0x4720:06 UPD_ACCEPT, Table 14.8. -/
abbrev Key.Health.UPD_ACCEPT : Nat := 0x472006
/-- 0x4720:07 STARTS_USED, Table 14.8. -/
abbrev Key.Health.STARTS_USED : Nat := 0x472007
/-- 0x4720:08 TRIAL_ELAPSED, Table 14.8. -/
abbrev Key.Health.TRIAL_ELAPSED : Nat := 0x472008
/-- 0x4720:09 HEALTH_CAUSE, Table 14.8. -/
abbrev Key.Health.HEALTH_CAUSE : Nat := 0x472009
/-- 0x4720:0A ACTIVATION_EPOCH, Table 14.8. -/
abbrev Key.Health.ACTIVATION_EPOCH : Nat := 0x47200A
/-- 0x4720:0B FALLBACKS, Table 14.8. -/
abbrev Key.Health.FALLBACKS : Nat := 0x47200B
/-- 0x4730:01 DS_VERSION, Table 14.8. -/
abbrev Key.Ds.DS_VERSION : Nat := 0x473001
/-- 0x4730:02 DS_ORIGIN, Table 14.8. -/
abbrev Key.Ds.DS_ORIGIN : Nat := 0x473002
/-- 0x4730:03 MIG_RESULT, Table 14.8. -/
abbrev Key.Ds.MIG_RESULT : Nat := 0x473003
/-- 0x4730:04–:07 MIGRATED, Table 14.8. -/
abbrev Key.Ds.MIGRATED : Nat := 0x473004
/-- 0x4730:05 DEFAULTED, Table 14.8. -/
abbrev Key.Ds.DEFAULTED : Nat := 0x473005
/-- 0x4730:06 DROPPED, Table 14.8. -/
abbrev Key.Ds.DROPPED : Nat := 0x473006
/-- 0x4730:07 REFUSED, Table 14.8. -/
abbrev Key.Ds.REFUSED : Nat := 0x473007
/-- 0x4740:01 PROFILE_SELECT, Table 14.8. -/
abbrev Key.Prof.PROFILE_SELECT : Nat := 0x474001
/-- 0x4740:02 PROFILES, Table 14.8. -/
abbrev Key.Prof.PROFILES : Nat := 0x474002
/-- 0x4800:01 REC_KIND, Table 15.3. -/
abbrev Key.Rec.REC_KIND : Nat := 0x480001
/-- 0x4800:02 REC_SELECT, Table 15.3. -/
abbrev Key.Rec.REC_SELECT : Nat := 0x480002
/-- 0x4800:03 REC_OFFSET, Table 15.3. -/
abbrev Key.Rec.REC_OFFSET : Nat := 0x480003
/-- 0x4800:04 REC_CLEAR, Table 15.3. -/
abbrev Key.Rec.REC_CLEAR : Nat := 0x480004
/-- 0x4800:05 CLEAR_COUNT, Table 15.3. -/
abbrev Key.Rec.CLEAR_COUNT : Nat := 0x480005
/-- 0x4800:06 LAST_CLEAR_EPOCH, Table 15.3. -/
abbrev Key.Rec.LAST_CLEAR_EPOCH : Nat := 0x480006
/-- 0x4800:07 LAST_CLEAR_GNSS_MS, Table 15.3. -/
abbrev Key.Rec.LAST_CLEAR_GNSS_MS : Nat := 0x480007
/-- 0x4800:08 LAST_CLEAR_WHAT, Table 15.3. -/
abbrev Key.Rec.LAST_CLEAR_WHAT : Nat := 0x480008
/-- 0x4800:09 LAST_CLEAR_KIND, Table 15.3. -/
abbrev Key.Rec.LAST_CLEAR_KIND : Nat := 0x480009
/-- 0x4800:0A LAST_CLEAR_ADDR, Table 15.3. -/
abbrev Key.Rec.LAST_CLEAR_ADDR : Nat := 0x48000A
/-- 0x4800:0B COMMIT_S, Table 15.3. -/
abbrev Key.Rec.COMMIT_S : Nat := 0x48000B
/-- 0x4800:0C COMMIT_NOW, Table 15.3. -/
abbrev Key.Rec.COMMIT_NOW : Nat := 0x48000C
/-- 0x4800:0D FAULT_RATE_MS, Table 15.3. -/
abbrev Key.Rec.FAULT_RATE_MS : Nat := 0x48000D
/-- 0x4800:0E FAULT_BIN_H, Table 15.3. -/
abbrev Key.Rec.FAULT_BIN_H : Nat := 0x48000E
/-- 0x4800:0F BINS_USED, Table 15.3. -/
abbrev Key.Rec.BINS_USED : Nat := 0x48000F
/-- 0x4800:10 RUN_S, Table 15.3. -/
abbrev Key.Rec.RUN_S : Nat := 0x480010
/-- 0x4800:11 LAST_COMMIT_EPOCH, Table 15.3. -/
abbrev Key.Rec.LAST_COMMIT_EPOCH : Nat := 0x480011
/-- 0x4800:12 COMMIT_HELD, Table 15.3. -/
abbrev Key.Rec.COMMIT_HELD : Nat := 0x480012
/-- 0x4800:13 RECORDS_LOST, Table 15.3. -/
abbrev Key.Rec.RECORDS_LOST : Nat := 0x480013
/-- 0x4801:01 M_DIMS, Table 15.3. -/
abbrev Key.Meas.M_DIMS : Nat := 0x480101
/-- 0x4801:02–:03 SRC_X, Table 15.3. -/
abbrev Key.Meas.SRC_X : Nat := 0x480102
/-- 0x4801:03 SRC_Y, Table 15.3. -/
abbrev Key.Meas.SRC_Y : Nat := 0x480103
/-- 0x4801:04–:05 LO_X, Table 15.3. -/
abbrev Key.Meas.LO_X : Nat := 0x480104
/-- 0x4801:05 HI_X, Table 15.3. -/
abbrev Key.Meas.HI_X : Nat := 0x480105
/-- 0x4801:06–:07 LO_Y, Table 15.3. -/
abbrev Key.Meas.LO_Y : Nat := 0x480106
/-- 0x4801:07 HI_Y, Table 15.3. -/
abbrev Key.Meas.HI_Y : Nat := 0x480107
/-- 0x4801:08 SAMPLE_MS, Table 15.3. -/
abbrev Key.Meas.SAMPLE_MS : Nat := 0x480108
/-- 0x4801:09 M_MODES, Table 15.3. -/
abbrev Key.Meas.M_MODES : Nat := 0x480109
/-- 0x4801:0A M_NAME, Table 15.3. -/
abbrev Key.Meas.M_NAME : Nat := 0x48010A
/-- 0x4802:01 REC_SEQ, Table 15.3. -/
abbrev Key.RecV.REC_SEQ : Nat := 0x480201
/-- 0x4802:02–:41 WORD, Table 15.3. -/
abbrev Key.RecV.WORD (j : Nat) : Nat := (0x4802) * 256 + (0x02 + j)
/-- 0x4802:42 REC_LENGTH, Table 15.3. -/
abbrev Key.RecV.REC_LENGTH : Nat := 0x480242
/-- 0x4900:01 FACE_UPDATE, Table 16.3. -/
abbrev Key.Face.FACE_UPDATE : Nat := 0x490001
/-- 0x4900:02 FACE_IDLE_MS, Table 16.3. -/
abbrev Key.Face.FACE_IDLE_MS : Nat := 0x490002
/-- 0x4901+p:01 PANEL_STATE, Table 16.3. -/
abbrev Key.Panel.PANEL_STATE (n : Nat) : Nat := (0x4901 + n) * 256 + (0x01)
/-- 0x4901+p:02 PANEL_TEMP, Table 16.3. -/
abbrev Key.Panel.PANEL_TEMP (n : Nat) : Nat := (0x4901 + n) * 256 + (0x02)
/-- 0x4901+p:03 BAND, Table 16.3. -/
abbrev Key.Panel.BAND (n : Nat) : Nat := (0x4901 + n) * 256 + (0x03)
/-- 0x4901+p:04 HOLD_REASON, Table 16.3. -/
abbrev Key.Panel.HOLD_REASON (n : Nat) : Nat := (0x4901 + n) * 256 + (0x04)
/-- 0x4901+p:05 VCOM_MV, Table 16.3. -/
abbrev Key.Panel.VCOM_MV (n : Nat) : Nat := (0x4901 + n) * 256 + (0x05)
/-- 0x4901+p:06 UNIFORMITY, Table 16.3. -/
abbrev Key.Panel.UNIFORMITY (n : Nat) : Nat := (0x4901 + n) * 256 + (0x06)
/-- 0x4901+p:07 PIXELS_BUSY, Table 16.3. -/
abbrev Key.Panel.PIXELS_BUSY (n : Nat) : Nat := (0x4901 + n) * 256 + (0x07)
/-- 0x4901+p:08 PIXELS_PENDING, Table 16.3. -/
abbrev Key.Panel.PIXELS_PENDING (n : Nat) : Nat := (0x4901 + n) * 256 + (0x08)
/-- 0x4901+p:09 LOCK_SET, Table 16.3. -/
abbrev Key.Panel.LOCK_SET (n : Nat) : Nat := (0x4901 + n) * 256 + (0x09)
/-- 0x4901+p:0A LOCK_RECT, Table 16.3. -/
abbrev Key.Panel.LOCK_RECT (n : Nat) : Nat := (0x4901 + n) * 256 + (0x0A)
/-- 0x4901+p:0B LOCK_EPOCH, Table 16.3. -/
abbrev Key.Panel.LOCK_EPOCH (n : Nat) : Nat := (0x4901 + n) * 256 + (0x0B)
/-- 0x4901+p:0C LOCK_KIND, Table 16.3. -/
abbrev Key.Panel.LOCK_KIND (n : Nat) : Nat := (0x4901 + n) * 256 + (0x0C)
/-- 0x4901+p:0D LOCK_ADDR, Table 16.3. -/
abbrev Key.Panel.LOCK_ADDR (n : Nat) : Nat := (0x4901 + n) * 256 + (0x0D)
/-- 0x4901+p:0E CLEANS, Table 16.3. -/
abbrev Key.Panel.CLEANS (n : Nat) : Nat := (0x4901 + n) * 256 + (0x0E)
/-- 0x4901+p:0F IMAGE, Table 16.3. -/
abbrev Key.Panel.IMAGE (n : Nat) : Nat := (0x4901 + n) * 256 + (0x0F)
/-- 0x2100:01 HEARTH_STATE, Table 17.9. -/
abbrev Key.Hearth.HEARTH_STATE : Nat := 0x210001
/-- 0x2100:02 DRIFT_LIMIT, Table 17.9. -/
abbrev Key.Hearth.DRIFT_LIMIT : Nat := 0x210002
/-- 0x2100:03 HEARTH_DRIFTS, Table 17.9. -/
abbrev Key.Hearth.HEARTH_DRIFTS : Nat := 0x210003
/-- 0x2101+k:01 PLL_STATE, Table 17.9. -/
abbrev Key.Pll.PLL_STATE (n : Nat) : Nat := (0x2101 + n) * 256 + (0x01)
/-- 0x2101+k:02 PLL_MULT, Table 17.9. -/
abbrev Key.Pll.PLL_MULT (n : Nat) : Nat := (0x2101 + n) * 256 + (0x02)
/-- 0x2101+k:03 LOCK_LOSSES, Table 17.9. -/
abbrev Key.Pll.LOCK_LOSSES (n : Nat) : Nat := (0x2101 + n) * 256 + (0x03)
/-- 0x2101+k:04 LAST_DRIFT, Table 17.9. -/
abbrev Key.Pll.LAST_DRIFT (n : Nat) : Nat := (0x2101 + n) * 256 + (0x04)
/-- 0x2110+c:01 DOM_FREQ, Table 17.9. -/
abbrev Key.Dom.DOM_FREQ (n : Nat) : Nat := (0x2110 + n) * 256 + (0x01)
/-- 0x2110+c:02 DOM_SOURCE, Table 17.9. -/
abbrev Key.Dom.DOM_SOURCE (n : Nat) : Nat := (0x2110 + n) * 256 + (0x02)
/-- 0x2110+c:03 DOM_DIVISOR, Table 17.9. -/
abbrev Key.Dom.DOM_DIVISOR (n : Nat) : Nat := (0x2110 + n) * 256 + (0x03)
/-- 0x2110+c:04 DOM_ON_ALT, Table 17.9. -/
abbrev Key.Dom.DOM_ON_ALT (n : Nat) : Nat := (0x2110 + n) * 256 + (0x04)
/-- 0x2110+c:05 DOM_SWITCHES, Table 17.9. -/
abbrev Key.Dom.DOM_SWITCHES (n : Nat) : Nat := (0x2110 + n) * 256 + (0x05)
/-- 0x2120:01–:15 GATE_ENABLE, Table 17.9. -/
abbrev Key.Gate.GATE_ENABLE (j : Nat) : Nat := (0x2120) * 256 + (0x01 + j)
/-- 0x2121:01–:15 GATE_STATE, Table 17.9. -/
abbrev Key.Gate.GATE_STATE (j : Nat) : Nat := (0x2121) * 256 + (0x01 + j)
/-- 0x2122:01 GATE_RESULT, Table 17.9. -/
abbrev Key.Gate.GATE_RESULT : Nat := 0x212201
/-- :01 PD_STATE, Table 17.10. -/
abbrev Key.Pd.PD_STATE (n : Nat) : Nat := (0x2200 + n) * 256 + (0x01)
/-- :02 PD_RAIL_V, Table 17.10. -/
abbrev Key.Pd.PD_RAIL_V (n : Nat) : Nat := (0x2200 + n) * 256 + (0x02)
/-- :03 PD_NOMINAL_V, Table 17.10. -/
abbrev Key.Pd.PD_NOMINAL_V (n : Nat) : Nat := (0x2200 + n) * 256 + (0x03)
/-- :04 PD_EPOCH, Table 17.10. -/
abbrev Key.Pd.PD_EPOCH (n : Nat) : Nat := (0x2200 + n) * 256 + (0x04)
/-- :05 PD_FAULTS, Table 17.10. -/
abbrev Key.Pd.PD_FAULTS (n : Nat) : Nat := (0x2200 + n) * 256 + (0x05)
/-- 0x2220:01 THERMAL_STAGE, Table 17.11. -/
abbrev Key.Therm.THERMAL_STAGE : Nat := 0x222001
/-- 0x2220:02 STAGE_EPOCH, Table 17.11. -/
abbrev Key.Therm.STAGE_EPOCH : Nat := 0x222002
/-- 0x2220:03 STAGE_SENSOR, Table 17.11. -/
abbrev Key.Therm.STAGE_SENSOR : Nat := 0x222003
/-- 0x2220:04 PRED_MS, Table 17.11. -/
abbrev Key.Therm.PRED_MS : Nat := 0x222004
/-- 0x2220:05 DERATE_DEMAND, Table 17.11. -/
abbrev Key.Therm.DERATE_DEMAND : Nat := 0x222005
/-- 0x2220:06 ENC_DEMAND, Table 17.11. -/
abbrev Key.Therm.ENC_DEMAND : Nat := 0x222006
/-- 0x2220:07 DERATE_STEP_S, Table 17.11. -/
abbrev Key.Therm.DERATE_STEP_S : Nat := 0x222007
/-- 0x2220:08 HYST, Table 17.11. -/
abbrev Key.Therm.HYST : Nat := 0x222008
/-- 0x2220:09 RESUME_S, Table 17.11. -/
abbrev Key.Therm.RESUME_S : Nat := 0x222009
/-- 0x2221:01 UFS_WRITE, Table 17.11. -/
abbrev Key.WrHold.UFS_WRITE : Nat := 0x222101
/-- 0x2221:02 MRAM_WRITE, Table 17.11. -/
abbrev Key.WrHold.MRAM_WRITE : Nat := 0x222102
/-- 0x2221:03 EPOCH_RESERVE, Table 17.11. -/
abbrev Key.WrHold.EPOCH_RESERVE : Nat := 0x222103
/-- 0x2221:04 HELD_LOST, Table 17.11. -/
abbrev Key.WrHold.HELD_LOST : Nat := 0x222104
/-- 0x2222:01 FEED_V, Table 17.11. -/
abbrev Key.Feed.FEED_V : Nat := 0x222201
/-- 0x2222:02 ROUNDS, Table 17.11. -/
abbrev Key.Feed.ROUNDS : Nat := 0x222202
/-- 0x2222:03 CROSS_TOL, Table 17.11. -/
abbrev Key.Feed.CROSS_TOL : Nat := 0x222203
/-- :01 KIND, Table 17.12. -/
abbrev Key.Sensor.KIND (i : Nat) : Nat := (sensorIndex i) * 256 + (0x01)
/-- :02 IDEALITY, Table 17.12. -/
abbrev Key.Sensor.IDEALITY (i : Nat) : Nat := (sensorIndex i) * 256 + (0x02)
/-- :03 SERIES_OHM, Table 17.12. -/
abbrev Key.Sensor.SERIES_OHM (i : Nat) : Nat := (sensorIndex i) * 256 + (0x03)
/-- :04 OFFSET, Table 17.12. -/
abbrev Key.Sensor.OFFSET (i : Nat) : Nat := (sensorIndex i) * 256 + (0x04)
/-- :05 NTC_TABLE, Table 17.12. -/
abbrev Key.Sensor.NTC_TABLE (i : Nat) : Nat := (sensorIndex i) * 256 + (0x05)
/-- :06 WATCH, Table 17.12. -/
abbrev Key.Sensor.WATCH (i : Nat) : Nat := (sensorIndex i) * 256 + (0x06)
/-- :07–:0A WARN, Table 17.12. -/
abbrev Key.Sensor.WARN (i : Nat) : Nat := (sensorIndex i) * 256 + (0x07)
/-- 0x2230:08 CRIT, Table 17.12. -/
abbrev Key.Sensor.CRIT (i : Nat) : Nat := (sensorIndex i) * 256 + (0x08)
/-- 0x2230:09 LIMIT, Table 17.12. -/
abbrev Key.Sensor.LIMIT (i : Nat) : Nat := (sensorIndex i) * 256 + (0x09)
/-- 0x2230:0A RESUME, Table 17.12. -/
abbrev Key.Sensor.RESUME (i : Nat) : Nat := (sensorIndex i) * 256 + (0x0A)
/-- :20 TEMP, Table 17.12. -/
abbrev Key.Sensor.TEMP (i : Nat) : Nat := (sensorIndex i) * 256 + (0x20)
/-- :21 TEMP_EPOCH, Table 17.12. -/
abbrev Key.Sensor.TEMP_EPOCH (i : Nat) : Nat := (sensorIndex i) * 256 + (0x21)
/-- :22 SENSE_STATUS, Table 17.12. -/
abbrev Key.Sensor.SENSE_STATUS (i : Nat) : Nat := (sensorIndex i) * 256 + (0x22)
/-- :23 SLOPE, Table 17.12. -/
abbrev Key.Sensor.SLOPE (i : Nat) : Nat := (sensorIndex i) * 256 + (0x23)
/-- 0x2300:01 RETRY_COUNT, Table 18.7. -/
abbrev Key.Flt.RETRY_COUNT : Nat := 0x230001
/-- 0x2300:02 RETRY_WINDOW, Table 18.7. -/
abbrev Key.Flt.RETRY_WINDOW : Nat := 0x230002
/-- 0x2300:03 QUEUE_DEPTH, Table 18.7. -/
abbrev Key.Flt.QUEUE_DEPTH : Nat := 0x230003
/-- 0x2300:04 QUEUE_PEAK, Table 18.7. -/
abbrev Key.Flt.QUEUE_PEAK : Nat := 0x230004
/-- 0x2300:05 HANDLING, Table 18.7. -/
abbrev Key.Flt.HANDLING : Nat := 0x230005
/-- 0x2300:06 EVENTS, Table 18.7. -/
abbrev Key.Flt.EVENTS : Nat := 0x230006
/-- 0x2300:07 PERMANENTS, Table 18.7. -/
abbrev Key.Flt.PERMANENTS : Nat := 0x230007
/-- 0x2300:08 ASHED_UNITS, Table 18.7. -/
abbrev Key.Flt.ASHED_UNITS : Nat := 0x230008
/-- 0x2300:09 ASH_CLEAR, Table 18.7. -/
abbrev Key.Flt.ASH_CLEAR : Nat := 0x230009
/-- 0x2300:0A ASH_CLEARS, Table 18.7. -/
abbrev Key.Flt.ASH_CLEARS : Nat := 0x23000A
/-- 0x2300:0B WRITES_DISCARDED, Table 18.7. -/
abbrev Key.Flt.WRITES_DISCARDED : Nat := 0x23000B
/-- 0x2300:0C DRIVE_CRC_ERRORS, Table 18.7. -/
abbrev Key.Flt.DRIVE_CRC_ERRORS : Nat := 0x23000C
/-- 0x2300:0D ASH_OVERFLOWS, Table 18.7. -/
abbrev Key.Flt.ASH_OVERFLOWS : Nat := 0x23000D
/-- 0x2301:01 ASH_TABLE, Table 18.7. -/
abbrev Key.Flt.ASH_TABLE : Nat := 0x230101
/-- 0x2302:01 EVENT_LOG, Table 18.7. -/
abbrev Key.Flt.EVENT_LOG : Nat := 0x230201
/-- 0x2130:01 BB_LOAD, Table 19.5. -/
abbrev Key.Load.BB_LOAD : Nat := 0x213001
/-- 0x2130:02 BB_LOAD_PEAK, Table 19.5. -/
abbrev Key.Load.BB_LOAD_PEAK : Nat := 0x213002
/-- 0x2130:03 AGE_PROMOTE, Table 19.5. -/
abbrev Key.Load.AGE_PROMOTE : Nat := 0x213003
/-- 0x2130:04 GRANT_WAIT_MAX, Table 19.5. -/
abbrev Key.Load.GRANT_WAIT_MAX : Nat := 0x213004
/-- 0x2130:05 JOP_QUEUED, Table 19.5. -/
abbrev Key.Load.JOP_QUEUED : Nat := 0x213005
/-- 0x2130:06 JOP_SHED, Table 19.5. -/
abbrev Key.Load.JOP_SHED : Nat := 0x213006
/-- 0x2130:07 JOP_MEDIAN_US, Table 19.5. -/
abbrev Key.Load.JOP_MEDIAN_US : Nat := 0x213007
/-- 0x2130:08 JOP_WORST_US, Table 19.5. -/
abbrev Key.Load.JOP_WORST_US : Nat := 0x213008
/-- 0x2130:09 FUSION_SHED, Table 19.5. -/
abbrev Key.Load.FUSION_SHED : Nat := 0x213009
/-- 0x2130:0A ENC_REPLACED, Table 19.5. -/
abbrev Key.Load.ENC_REPLACED : Nat := 0x21300A
/-- 0x1000:01 ORDER_CODE, Table 20.10. -/
abbrev Key.Ident.ORDER_CODE : Nat := 0x100001
/-- 0x1000:02 SERIAL, Table 20.10. -/
abbrev Key.Ident.SERIAL : Nat := 0x100002
/-- 0x1000:03 MFG_DATE, Table 20.10. -/
abbrev Key.Ident.MFG_DATE : Nat := 0x100003
/-- 0x1000:04 HW_ISSUE, Table 20.10. -/
abbrev Key.Ident.HW_ISSUE : Nat := 0x100004
/-- 0x1000:05 VARIANT, Table 20.10. -/
abbrev Key.Ident.VARIANT : Nat := 0x100005
/-- 0x1000:06 PRODUCT, Table 20.10. -/
abbrev Key.Ident.PRODUCT : Nat := 0x100006
/-- 0x2210:01 DISS_W, Table 20.10. -/
abbrev Key.Diss.DISS_W : Nat := 0x221001
/-- 0x2210:02 LOGIC_W, Table 20.10. -/
abbrev Key.Diss.LOGIC_W : Nat := 0x221002
/-- 0x2210:03 STAGE_W, Table 20.10. -/
abbrev Key.Diss.STAGE_W : Nat := 0x221003
/-- 0x2210:04 DISS_PEAK, Table 20.10. -/
abbrev Key.Diss.DISS_PEAK : Nat := 0x221004
/-- 0x2210:05 FN_LIMIT_W, Table 20.10. -/
abbrev Key.Diss.FN_LIMIT_W : Nat := 0x221005
/-- 0x2210:06 FN_AMBIENT_CH, Table 20.10. -/
abbrev Key.Diss.FN_AMBIENT_CH : Nat := 0x221006
/-- 0x2210:07 FN_HYST, Table 20.10. -/
abbrev Key.Diss.FN_HYST : Nat := 0x221007
/-- 0x2210:08 FN_DEMAND, Table 20.10. -/
abbrev Key.Diss.FN_DEMAND : Nat := 0x221008
/-- 0x2210:09 FN_ENC_DEMAND, Table 20.10. -/
abbrev Key.Diss.FN_ENC_DEMAND : Nat := 0x221009
/-- 0x2380:01 DRIVE_LINK, Table 18.5. -/
abbrev Key.Inj.DRIVE_LINK : Nat := 0x238001
/-- 0x2380:02 DRIVE_CRC, Table 18.5. -/
abbrev Key.Inj.DRIVE_CRC : Nat := 0x238002
/-- 0x2380:03 TILE_FAULT, Table 18.5. -/
abbrev Key.Inj.TILE_FAULT : Nat := 0x238003
/-- 0x2380:04 DRAM_CORR, Table 18.5. -/
abbrev Key.Inj.DRAM_CORR : Nat := 0x238004
/-- 0x2380:05 DRAM_UNCORR, Table 18.5. -/
abbrev Key.Inj.DRAM_UNCORR : Nat := 0x238005
/-- 0x2380:06 MRAM_UNCORR, Table 18.5. -/
abbrev Key.Inj.MRAM_UNCORR : Nat := 0x238006
/-- 0x2380:07 EMBER_CHECK, Table 18.5. -/
abbrev Key.Inj.EMBER_CHECK : Nat := 0x238007
/-- 0x2380:08 FAULT_QUEUE, Table 18.5. -/
abbrev Key.Inj.FAULT_QUEUE : Nat := 0x238008
/-- 0x23B0:01 GUIDE_DISENGAGED, Table 6.7. -/
abbrev Key.Inj.GUIDE_DISENGAGED : Nat := 0x23B001
/-- 0x23B0:02 GUIDE_COAST, Table 6.7. -/
abbrev Key.Inj.GUIDE_COAST : Nat := 0x23B002
/-- 0x23B0:03 GUIDE_CYCLE_LOST, Table 6.7. -/
abbrev Key.Inj.GUIDE_CYCLE_LOST : Nat := 0x23B003
/-- 0x23B0:04 LINE_CHECK, Table 6.7. -/
abbrev Key.Inj.LINE_CHECK : Nat := 0x23B004
/-- 0x23E0:01 ANT_OPEN, Table 9.10. -/
abbrev Key.Inj.ANT_OPEN : Nat := 0x23E001
/-- 0x23E0:02 ANT_SHORT, Table 9.10. -/
abbrev Key.Inj.ANT_SHORT : Nat := 0x23E002
/-- 0x23E0:03 GNSS_NOISE, Table 9.10. -/
abbrev Key.Inj.GNSS_NOISE : Nat := 0x23E003
/-- 0x23E0:04 NAV_CHECK, Table 9.10. -/
abbrev Key.Inj.NAV_CHECK : Nat := 0x23E004
/-- 0x23E0:05 RTCM_CRC, Table 9.10. -/
abbrev Key.Inj.RTCM_CRC : Nat := 0x23E005
/-- 0x23E0:06 HDG_BASELINE, Table 9.10. -/
abbrev Key.Inj.HDG_BASELINE : Nat := 0x23E006
/-- 0x23E0:07 TIME_UNSYNC, Table 9.10. -/
abbrev Key.Inj.TIME_UNSYNC : Nat := 0x23E007
/-- 0x23E0:08 TIME_STEP, Table 9.10. -/
abbrev Key.Inj.TIME_STEP : Nat := 0x23E008
/-- 0x23E0:09 GNB_BLOCK, Table 9.10. -/
abbrev Key.Inj.GNB_BLOCK : Nat := 0x23E009
/-- 0x23F0:01 CAM_LINK, Table 10.12. -/
abbrev Key.Inj.CAM_LINK : Nat := 0x23F001
/-- 0x23F0:02 CAM_FRAME, Table 10.12. -/
abbrev Key.Inj.CAM_FRAME : Nat := 0x23F002
/-- 0x23F0:03 VISION_DROP, Table 10.12. -/
abbrev Key.Inj.VISION_DROP : Nat := 0x23F003
/-- 0x23F0:04 VISION_SRAM, Table 10.12. -/
abbrev Key.Inj.VISION_SRAM : Nat := 0x23F004
/-- 0x23F0:05 ENC_FAULT, Table 10.12. -/
abbrev Key.Inj.ENC_FAULT : Nat := 0x23F005
/-- 0x23F0:06 VISION_DERATE, Table 10.12. -/
abbrev Key.Inj.VISION_DERATE : Nat := 0x23F006
/-- 0x23F1:01 FUSION_STALE, Table 11.10. -/
abbrev Key.Inj.FUSION_STALE : Nat := 0x23F101
/-- 0x23F1:02 FUSION_CYCLE_LOST, Table 11.10. -/
abbrev Key.Inj.FUSION_CYCLE_LOST : Nat := 0x23F102
/-- 0x23F1:03 EGO_LOST, Table 11.10. -/
abbrev Key.Inj.EGO_LOST : Nat := 0x23F103
/-- 0x23F1:04 ZONE_BLIND, Table 11.10. -/
abbrev Key.Inj.ZONE_BLIND : Nat := 0x23F104
/-- 0x23F1:05 FUSION_SRAM, Table 11.10. -/
abbrev Key.Inj.FUSION_SRAM : Nat := 0x23F105
/-- 0x23F1:06 TRACKS_FULL, Table 11.10. -/
abbrev Key.Inj.TRACKS_FULL : Nat := 0x23F106
/-- 0x23F1:07 LIDAR_FORMAT, Table 11.10. -/
abbrev Key.Inj.LIDAR_FORMAT : Nat := 0x23F107
/-- 0x23F2:01 CAN_BUS_OFF, Table 12.13. -/
abbrev Key.Inj.CAN_BUS_OFF : Nat := 0x23F201
/-- 0x23F2:02 CAN_ERR_PASSIVE, Table 12.13. -/
abbrev Key.Inj.CAN_ERR_PASSIVE : Nat := 0x23F202
/-- 0x23F2:03 CAN_TX_DROP, Table 12.13. -/
abbrev Key.Inj.CAN_TX_DROP : Nat := 0x23F203
/-- 0x23F2:04 CAN_ADDR_LOST, Table 12.13. -/
abbrev Key.Inj.CAN_ADDR_LOST : Nat := 0x23F204
/-- 0x23F2:05 CAN_CTRL, Table 12.13. -/
abbrev Key.Inj.CAN_CTRL : Nat := 0x23F205
/-- 0x23F2:06 ETH_LINK, Table 12.13. -/
abbrev Key.Inj.ETH_LINK : Nat := 0x23F206
/-- 0x23F2:07 ETH_PHY, Table 12.13. -/
abbrev Key.Inj.ETH_PHY : Nat := 0x23F207
/-- 0x23F3:01 FAB_LINK, Table 13.4. -/
abbrev Key.Inj.FAB_LINK : Nat := 0x23F301
/-- 0x23F3:02 FAB_NUMBER_CLASH, Table 13.4. -/
abbrev Key.Inj.FAB_NUMBER_CLASH : Nat := 0x23F302
/-- 0x23F3:03 FAB_SOURCE_CHANGE, Table 13.4. -/
abbrev Key.Inj.FAB_SOURCE_CHANGE : Nat := 0x23F303
/-- 0x23F3:04 FAB_PHY, Table 13.4. -/
abbrev Key.Inj.FAB_PHY : Nat := 0x23F304
/-- 0x23F4:01 UPD_BUILD_FAIL, Table 14.10. -/
abbrev Key.Inj.UPD_BUILD_FAIL : Nat := 0x23F401
/-- 0x23F4:02 UPD_HELD, Table 14.10. -/
abbrev Key.Inj.UPD_HELD : Nat := 0x23F402
/-- 0x23F4:03 UPD_ACTIVATION_FAIL, Table 14.10. -/
abbrev Key.Inj.UPD_ACTIVATION_FAIL : Nat := 0x23F403
/-- 0x23F4:04 UPD_HEALTH_FAIL, Table 14.10. -/
abbrev Key.Inj.UPD_HEALTH_FAIL : Nat := 0x23F404
/-- 0x23F4:06 IMAGE_CHECK, Table 14.10. -/
abbrev Key.Inj.IMAGE_CHECK : Nat := 0x23F406
/-- 0x23F4:07 MIGRATION_FAIL, Table 14.10. -/
abbrev Key.Inj.MIGRATION_FAIL : Nat := 0x23F407
/-- 0x23F4:08 IMAGE_NONE, Table 14.10. -/
abbrev Key.Inj.IMAGE_NONE : Nat := 0x23F408
/-- 0x23F5:01 REC_CORRUPT, Table 15.4. -/
abbrev Key.Inj.REC_CORRUPT : Nat := 0x23F501
/-- 0x23F5:02 REC_DEFERRED, Table 15.4. -/
abbrev Key.Inj.REC_DEFERRED : Nat := 0x23F502
/-- 0x23F5:03 REC_SATURATED, Table 15.4. -/
abbrev Key.Inj.REC_SATURATED : Nat := 0x23F503
/-- 0x23F6:01 FACE_RAIL, Table 16.4. -/
abbrev Key.Inj.FACE_RAIL : Nat := 0x23F601
/-- 0x23F6:02 FACE_HELD, Table 16.4. -/
abbrev Key.Inj.FACE_HELD : Nat := 0x23F602
/-- 0x23F6:03 FACE_CLEAN, Table 16.4. -/
abbrev Key.Inj.FACE_CLEAN : Nat := 0x23F603
/-- 0x23F6:04 FACE_LINK, Table 16.4. -/
abbrev Key.Inj.FACE_LINK : Nat := 0x23F604
/-- 0x23F7:01 HEARTH_DRIFT, Table 17.14. -/
abbrev Key.Inj.HEARTH_DRIFT : Nat := 0x23F701
/-- 0x23F7:02 PLL_LOCK, Table 17.14. -/
abbrev Key.Inj.PLL_LOCK : Nat := 0x23F702
/-- 0x23F7:03 CLOCK_NONE, Table 17.14. -/
abbrev Key.Inj.CLOCK_NONE : Nat := 0x23F703
/-- 0x23F7:04 PD_RAIL, Table 17.14. -/
abbrev Key.Inj.PD_RAIL : Nat := 0x23F704
/-- 0x23F7:05 THERMAL_WARN, Table 17.14. -/
abbrev Key.Inj.THERMAL_WARN : Nat := 0x23F705
/-- 0x23F7:06 THERMAL_CRIT, Table 17.14. -/
abbrev Key.Inj.THERMAL_CRIT : Nat := 0x23F706
/-- 0x23F7:07 THERMAL_CRIT_NEAR, Table 17.14. -/
abbrev Key.Inj.THERMAL_CRIT_NEAR : Nat := 0x23F707
/-- 0x23F7:08 THERMAL_SENSOR, Table 17.14. -/
abbrev Key.Inj.THERMAL_SENSOR : Nat := 0x23F708
/-- 0x23F7:09 WRITE_HOLD, Table 17.14. -/
abbrev Key.Inj.WRITE_HOLD : Nat := 0x23F709
/-- 0x23F7:0A HK_CHAIN, Table 17.14. -/
abbrev Key.Inj.HK_CHAIN : Nat := 0x23F70A
/-- 0x23F7:0B HK_CROSS, Table 17.14. -/
abbrev Key.Inj.HK_CROSS : Nat := 0x23F70B
/-- 0x1010:01 MAC_BASE, Table 12. -/
abbrev Key.Comm.MAC_BASE : Nat := 0x101001
/-- 0x1020:01 SDO_NODE_ID, Table 2. -/
abbrev Key.Comm.SDO_NODE_ID : Nat := 0x102001

end Sys2Proof.Machine
end

