-- ==== Sys2Proof/Machine/Ops.lean ====
section
/-! DEFINITION. The named operations every meaning is written over: objects, time, writes that wait for an edge,
units and ashes, events. -/

namespace Sys2Proof.Machine

/-! ## Objects -/

/-- The entry of a key. -/
def odFind : OD → Nat → Option Val
  | [], _ => none
  | (k, v) :: t, key => if key = k then some v else odFind t key

/-- Inserts or replaces an entry, keys rising. -/
def odInsert : OD → Nat → Val → OD
  | [], key, v => [(key, v)]
  | (k, w) :: t, key, v =>
    if key = k then (key, v) :: t else if key < k then (key, v) :: (k, w) :: t else (k, w) :: odInsert t key v

/-- Removes the entry of a key. -/
def odErase (od : OD) (key : Nat) : OD := od.filter fun e => e.1 ≠ key

/-- The value of an object: its entry, or its default (R14). [DESIGN CHOICE: log 24] -/
def odGet (od : OD) (key : Nat) : Val :=
  match odFind od key with
  | some v => v
  | none => objDefault key

/-- Sets an object; a value equal to the default is held by having no entry. [DESIGN CHOICE: log 24] -/
def odSet (od : OD) (key : Nat) (v : Val) : OD := if v = objDefault key then odErase od key else odInsert od key v

/-- The number of a numeric value; zero for a block. -/
def Val.toNum : Val → Nat
  | .num n => n
  | .blob _ => 0

/-- The bytes of a block; none for a number. -/
def Val.toBlob : Val → List Byte
  | .num _ => []
  | .blob b => b

/-- Keys strictly rise from a bound, and no entry repeats a default: the canonical form of a store. -/
def odWfFrom : Nat → OD → Bool
  | _, [] => true
  | lo, (k, v) :: t => lo ≤ k && v ≠ objDefault k && odWfFrom (k + 1) t

/-- The canonical form of an object store. [DESIGN CHOICE: log 24] -/
def odWf (od : OD) : Bool := odWfFrom 0 od

/-- A number held by an object. -/
def Chip.num (c : Chip) (key : Nat) : Nat := (odGet c.od key).toNum

/-- A block held by an object. -/
def Chip.blob (c : Chip) (key : Nat) : List Byte := (odGet c.od key).toBlob

/-- A BOOL object. -/
def Chip.flag (c : Chip) (key : Nat) : Bool := c.num key ≠ 0

/-- Sets a number. -/
def Chip.put (c : Chip) (key n : Nat) : Chip := { c with od := odSet c.od key (.num n) }

/-- Sets a block. -/
def Chip.putBlob (c : Chip) (key : Nat) (b : List Byte) : Chip := { c with od := odSet c.od key (.blob b) }

/-- Sets a BOOL. -/
def Chip.putFlag (c : Chip) (key : Nat) (b : Bool) : Chip := c.put key (if b then 1 else 0)

/-- Sets the bits of a mask in a flags object, or clears them. -/
def Chip.putBits (c : Chip) (key mask : Nat) (on : Bool) : Chip :=
  c.put key (if on then c.num key ||| mask else c.num key - (c.num key &&& mask))

/-- Adds to a U32 counter, which wraps. -/
def Chip.bump (c : Chip) (key : Nat) (n : Nat := 1) : Chip := c.put key ((c.num key + n) % 0x100000000)

/-- Adds an output. [DESIGN CHOICE: log 5] -/
def Chip.emit (c : Chip) (o : Output) : Chip := { c with out := c.out ++ [o] }

/-- Element `i` of a list of unit states. -/
def nth {α : Type} (l : List α) (i : Nat) (d : α) : α := l.getD i d

/-! ## Signed numbers -/

/-- The signed number of a two's complement value of `w` bits. -/
def toInt (w n : Nat) : Int := if n < 2 ^ (w - 1) then n else (n : Int) - (2 ^ w : Nat)

/-- The two's complement bits of an integer. -/
def ofInt (w : Nat) (i : Int) : Nat := (i % (2 ^ w : Nat)).toNat

/-- Bit `i` of a number. -/
def bitOf (n i : Nat) : Bool := n / 2 ^ i % 2 = 1

/-! ## Time -/

/-- Module time, µs since edge 0. [DESIGN CHOICE: log 4] -/
def nowUs (k : Keeper) (c : Chip) : Nat := k.epoch * 1000 + c.us

/-- The first edge whose application set is still open (R29). [DESIGN CHOICE: log 4] -/
def openEdge (k : Keeper) : Nat := if k.setClosed then k.epoch + 2 else k.epoch + 1

/-- The low 48 bits of an epoch, as it stands on the wire (R50). -/
def wireEpoch (e : Nat) : Nat := e % 2 ^ 48

/-! ## Values on the wire -/

/-- Size of a type in bytes; none for VSTR and DOMAIN (Table 0.2). -/
def tySize : Ty → Option Nat
  | .bool | .u8 | .i8 => some 1
  | .u16 | .i16 | .f16 => some 2
  | .u32 | .i32 | .f32 => some 4
  | .u64 => some 8
  | .vstr | .domain => none

/-- Type codes (Table 2.2). -/
def tyCode : Ty → Nat
  | .bool => 1 | .u8 => 2 | .u16 => 3 | .u32 => 4 | .u64 => 5 | .i8 => 6 | .i16 => 7 | .i32 => 8 | .f16 => 9
  | .f32 => 10 | .vstr => 11 | .domain => 12

/-- The bytes of a value of a type (R8). -/
def valBytes (t : Ty) (v : Val) : List Byte :=
  match tySize t with
  | some n => leBytes n v.toNum
  | none => v.toBlob

/-- The value in the bytes of a transfer: LENGTH_MISMATCH where their number is not the type's (R59). -/
def bytesVal (t : Ty) (b : List Byte) : Except Nat Val :=
  match tySize t with
  | some n => if b.length = n then .ok (.num (ofLeBytes b)) else .error Rc.LENGTH_MISMATCH
  | none => if t = .vstr && b.length > 255 then .error Rc.LENGTH_MISMATCH else .ok (.blob b)

/-- Width of a signed type in bits. -/
def tyBits (t : Ty) : Nat := 8 * (tySize t).getD 0

/-- A reference of Table 4.4: its kind and its field. -/
def refKind (r : Nat) : Nat := r / 0x1000000
def refWhich (r : Nat) : Nat := r % 0x1000000

/-- Whether a reference is encoded as Table 4.4 allows, with the kinds a row permits (R120). -/
def refOk (cell node object const : Bool) (r : Nat) : Bool :=
  match refKind r with
  | 0 => refWhich r = 0
  | 1 => cell && refWhich r < 512
  | 2 => node && refWhich r < 256
  | 3 => object
  | 4 => const && refWhich r = 0
  | _ => false

/-- Whether a value lies in a range of the tables (R6, R12, R14). [DEDUCED: log 28] -/
def inRange (t : Ty) (r : Rng) (v : Val) : Bool :=
  let n := v.toNum
  let typeOk : Bool := match t with
    | .bool => n ≤ 1
    | .vstr => v.toBlob.all fun b => 0x20 ≤ b.toNat && b.toNat ≤ 0x7E
    | _ => true
  typeOk && match r with
    | .any => true
    | .nat lo hi => lo ≤ n && n ≤ hi
    | .natOr x lo hi => n = x || (lo ≤ n && n ≤ hi)
    | .even lo hi => lo ≤ n && n ≤ hi && n % 2 = 0
    | .mult m => n % m = 0
    | .oneOf l => l.contains n
    | .mask m => n &&& m = n
    | .int lo hi => lo ≤ toInt (tyBits t) n && toInt (tyBits t) n ≤ hi
    | .intOf l => l.contains (toInt (tyBits t) n)
    | .flt lo hi => fLe fmt32 lo n && fLe fmt32 n hi
    | .fltMin lo => fFinite fmt32 n && fLe fmt32 lo n
    | .finite => fFinite fmt32 n
    | .finiteNZ => fFinite fmt32 n && fMag fmt32 n ≠ 0
    | .notNan => !fIsNan fmt32 n
    | .ref a b o d => refOk a b o d n
    | .netmask => (List.range 33).any fun k => n = 0x100000000 - 2 ^ k
    | .recClear => n ≤ 255 || n = 0x100 || n = 0x200 || n = 0x300
    | .len lo hi => lo ≤ v.toBlob.length && v.toBlob.length ≤ hi
    | .lenMult m lo hi => v.toBlob.length % m = 0 && lo ≤ v.toBlob.length / m && v.toBlob.length / m ≤ hi

/-- The module is powered beyond BANKED and the given KINDLING step has been reached since the wake (R86, Table 3.5). -/
def up (c : Chip) (step : Nat) : Bool := c.mode ≠ .off && c.mode ≠ .banked && step ≤ c.modes.reached

/-! ## Sources -/

/-- LW_KIND of a source (Table 2.14). -/
def originKind : Origin → Nat
  | .jop _ _ => 1
  | .sdo => 2
  | .tile => 3

/-- IPv4 address of a source; 0 where it has none. -/
def originAddr : Origin → Nat
  | .jop a _ => a.toNat
  | _ => 0

/-- UDP port of a source; 0 where it has none. -/
def originPort : Origin → Nat
  | .jop _ p => p.toNat
  | _ => 0

/-! ## Ashed units -/

/-- Units whose ash ashes a unit too: its bank, section or group, its die, its power domain (R446, Table 1.1, Table 17.4).
[DEDUCED: log 84] -/
def unitHolders (u : Nat) : List Nat :=
  let n := unitNum u
  match unitClass u with
  | 0x03 => [unitPd 5]
  | 0x04 => [unitDie 18, unitPd 2]
  | 0x06 => [unitBank (n / 4), unitDie (1 + n / 16), unitPd 14]
  | 0x07 => [unitDie (1 + n / 4), unitPd 14]
  | 0x08 => [unitSec (n / 8), unitDie (4 + n / 8), unitPd 14]
  | 0x09 => [unitDie (4 + n), unitPd 14]
  | 0x0A => [unitGrp (n / 16), unitDie (10 + n / 16), unitPd 13]
  | 0x0B => [unitDie (10 + n), unitPd 13]
  | 0x0C => [unitDie (19 + n), unitPd 10]
  | 0x0D => [unitPd 9]
  | 0x0E => [unitPd 8]
  | 0x10 => [unitPd 12]
  | 0x11 | 0x12 => [unitPd 11]
  | 0x13 => [unitPd 15]
  | 0x14 => [unitPd 1]
  | 0x18 => [unitPd (3 + n)]
  | _ => []

/-- A unit has an ash of its own. -/
def ashOwn (c : Chip) (u : Nat) : Bool := c.flt.ashes.any (·.unit = u)

/-- A unit is ashed, by its own ash or by that of a unit that holds it. [DEDUCED: log 84] -/
def unitAshed (c : Chip) (u : Nat) : Bool := ashOwn c u || (unitHolders u).any (ashOwn c)

/-- The units an object belongs to: the one it configures or shows, and those that contain it (R446, Table 1.1,
Table 17.4). -/
def unitsOfKey (key : Nat) : List Nat :=
  let ix := key / 256
  let sub := key % 256
  if 0x3000 ≤ ix && ix < 0x3200 then (if sub ≥ 0x80 then [] else [unitCell (ix - 0x3000)])
  else if 0x3200 ≤ ix && ix < 0x3300 then [unitNode (ix - 0x3200)]
  else if 0x3400 ≤ ix && ix < 0x3430 then
    let n := ix - 0x3400
    [unitValve n, unitBank (n / 4), unitDie (1 + n / 16), unitPd 14]
  else if 0x3440 ≤ ix && ix < 0x344C then [unitBank (ix - 0x3440), unitDie (1 + (ix - 0x3440) / 4), unitPd 14]
  else if 0x3450 ≤ ix && ix < 0x3453 then [unitDie (1 + (ix - 0x3450)), unitPd 14]
  else if 0x3500 ≤ ix && ix < 0x3530 then
    let n := ix - 0x3500
    [unitLs n, unitSec (n / 8), unitDie (4 + n / 8), unitPd 14]
  else if 0x3540 ≤ ix && ix < 0x3546 then [unitSec (ix - 0x3540), unitDie (4 + (ix - 0x3540)), unitPd 14]
  else if 0x3600 ≤ ix && ix < 0x3680 then
    let n := ix - 0x3600
    [unitDio n, unitGrp (n / 16), unitDie (10 + n / 16), unitPd 13]
  else if 0x3680 ≤ ix && ix < 0x3688 then [unitGrp (ix - 0x3680), unitDie (10 + (ix - 0x3680)), unitPd 13]
  else if 0x2500 ≤ ix && ix < 0x2510 then [unitImp (ix - 0x2500), unitDie 18]
  else if 0x2701 ≤ ix && ix < 0x2705 then [unitGuide]
  else if 0x4000 ≤ ix && ix < 0x4005 then [unitPd 9, unitPd 10]
  else if 0x4210 ≤ ix && ix < 0x4228 then [unitPipe (if (ix - 0x4210) % 16 = 0 then 0 else 1), unitPd 8]
  else if 0x4300 ≤ ix && ix < 0x4400 then [unitFusion]
  else if 0x4400 ≤ ix && ix < 0x44C0 then [unitCan ((ix - 0x4400) / 16), unitPd 12]
  else if 0x4501 ≤ ix && ix < 0x450D then [unitEth (ix - 0x4501), unitPd 11]
  else if 0x4601 ≤ ix && ix < 0x4603 then [unitFab (ix - 0x4601), unitPd 11]
  else if 0x4901 ≤ ix && ix < 0x4903 then [unitPanel (ix - 0x4901), unitPd 15]
  else if 0x2101 ≤ ix && ix < 0x2105 then [unitPll (ix - 0x2101)]
  else if 0x2200 ≤ ix && ix < 0x2210 then [unitPd (ix - 0x2200)]
  else if 0x2230 ≤ ix && ix < 0x2250 then [unitSensor (ix - 0x2230)]
  else if 0x2224 ≤ ix && ix < 0x222F then [unitSensor (32 + (ix - 0x2224))]
  else []

/-- The object belongs to an ashed unit. -/
def keyAshed (c : Chip) (key : Nat) : Bool := (unitsOfKey key).any (unitAshed c)

/-- A tile is left to run the tasks of R450: one that is not ashed, nor was since the last KINDLING (R448).
[DEDUCED: log 84] -/
def tilesRun (c : Chip) : Bool :=
  !([0, 1].all fun n => unitAshed c (unitTile n) || c.flt.tilesOut.contains n)

/-! ## Injections that wait for their occasion -/

/-- An injection of an object with a number is armed. -/
def armedAt (c : Chip) (key value : Nat) : Bool := c.flt.armed.any fun a => a.key = key && a.value = value

/-- An injection of an object acts at an epoch: it is armed with a time not yet over. [DEDUCED: log 85] -/
def armedFor (k : Keeper) (c : Chip) (key value : Nat) : Bool :=
  c.flt.armed.any fun a => a.key = key && a.value = value && k.epoch < a.until_

/-- Uses up an armed injection. [DEDUCED: log 85] -/
def disarm (c : Chip) (key value : Nat) : Chip :=
  { c with flt := { c.flt with armed := c.flt.armed.filter fun a => !(a.key = key && a.value = value) } }

/-- Arms an injection until an epoch. [DEDUCED: log 85] -/
def arm (c : Chip) (key value until_ : Nat) : Chip :=
  { c with flt := { c.flt with
    armed := c.flt.armed.filter (fun a => !(a.key = key && a.value = value)) ++ [⟨key, value, until_⟩] } }

/-! ## The recorder's count of an event -/

/-- A saturating U32 increment. -/
def satInc (n : Nat) : Nat := min (n + 1) 0xFFFFFFFF

/-- Adds one to a bin. -/
def binInc : List (Nat × Nat) → Nat → List (Nat × Nat)
  | [], b => [(b, 1)]
  | (k, n) :: t, b =>
    if b = k then (k, satInc n) :: t else if b < k then (b, 1) :: (k, n) :: t else (k, n) :: binInc t b

/-- An empty fault record (Table 15.2). -/
def emptyFault : RecBody := .fault 0 0 0 0 0 0 0 (List.replicate 8 0) []

/-- An empty measure record: extremes NaN with epochs 0 (R396). -/
def emptyMeas : RecBody := .meas 0 0 0 0 0 (List.replicate 4 ⟨fmt32.nan, 0, 0⟩) []

/-- The record of a number, empty where none is held. -/
def recFind (r : RecS) (id : Nat) : RecX :=
  match r.recs.find? (·.id = id) with
  | some x => x
  | none => ⟨id, if id < 0x10000 then emptyMeas else emptyFault, if id < 0x10000 then emptyMeas else emptyFault, 0,
      false, none, 0, false⟩

/-- Puts a record in its place, numbers rising. -/
def recInsert : List RecX → RecX → List RecX
  | [], x => [x]
  | y :: t, x => if x.id = y.id then x :: t else if x.id < y.id then x :: y :: t else y :: recInsert t x

/-- Stores a record. -/
def recStore (c : Chip) (x : RecX) : Chip := { c with recd := { c.recd with recs := recInsert c.recd.recs x } }

/-- GNSS millisecond of the newest edge, 0 while not aligned (R27). -/
def gnssMs (c : Chip) : Nat := if c.flag Key.Epoch.EPOCH_ALIGNED then c.num Key.Epoch.EDGE_GNSS_MS else 0

/-- The recorder notes an event (R390, R391): injected, counted, or suppressed when FAULT_RATE_MS have not passed. -/
def recNote (k : Keeper) (c : Chip) (code : Nat) (injected : Bool) : Chip :=
  let x := recFind c.recd (0x10000 + code)
  match x.live with
  | .fault count supp inj first firstMs last lastMs byMode bins =>
    let body :=
      if injected then RecBody.fault count supp (satInc inj) first firstMs last lastMs byMode bins
      else if count ≠ 0 && k.epoch < last + c.num Key.Rec.FAULT_RATE_MS then
        .fault count (satInc supp) inj first firstMs last lastMs byMode bins
      else
        let bin := min (c.num Key.Rec.RUN_S / (3600 * c.num Key.Rec.FAULT_BIN_H)) 63
        let m := modeCode c.mode
        .fault (satInc count) supp inj (if count = 0 then wireEpoch k.epoch else first)
          (if count = 0 then gnssMs c else firstMs) (wireEpoch k.epoch) (gnssMs c)
          (byMode.set m (satInc (byMode.getD m 0))) (binInc bins bin)
    recStore c { x with live := body, dirty := true }
  | .meas .. => c

/-! ## Events -/

/-- Events of an instance within RETRY_WINDOW before now (R442). [DEDUCED: log 85] -/
def inWindow (k : Keeper) (c : Chip) (code unit : Nat) : Nat :=
  let w := c.num Key.Flt.RETRY_WINDOW * 1000000
  (c.flt.budget.filter fun b => b.1 = code && b.2.1 = unit && nowUs k c ≤ b.2.2 + w).length

/-- Enters an event in its instance's budget record. [DEDUCED: log 85] -/
def budgetAdd (k : Keeper) (c : Chip) (code unit : Nat) : Chip :=
  { c with flt := { c.flt with budget := c.flt.budget ++ [(code, unit, nowUs k c)] } }

/-- One EVENT_LOG record (Table 18.7). -/
def logRecord (epoch code unit sev flags count : Nat) : List Byte :=
  leBytes 6 epoch ++ leBytes 2 code ++ leBytes 4 unit ++ leBytes 1 sev ++ leBytes 1 flags ++ leBytes 1 (min count 255) ++
    leBytes 1 0

/-- Logs an event; the newest 256 records stay. -/
def logEvent (k : Keeper) (c : Chip) (e : Event) (queued : Bool) (count : Nat) : Chip :=
  let flags := (if e.perm then 1 else 0) + (if e.injected then 2 else 0) + (if queued then 4 else 0)
  let l := c.blob Key.Flt.EVENT_LOG ++ logRecord k.epoch e.code e.unit e.sev flags count
  c.putBlob Key.Flt.EVENT_LOG (l.drop (l.length - 4096))

/-- QUEUE_DEPTH, QUEUE_PEAK and HANDLING follow the handler (Table 18.7). -/
def fltShow (c : Chip) : Chip :=
  let d := c.flt.queue.length
  ((c.put Key.Flt.QUEUE_DEPTH d).put Key.Flt.QUEUE_PEAK (max d (c.num Key.Flt.QUEUE_PEAK))).put Key.Flt.HANDLING
    ((c.flt.cur.map (·.code)).getD 0)

/-- Hands an event to the handler (R444): taken at once when the handler is idle, pre-empting a handling of lower
severity, else queued; none when it must wait and the queue of 16 is full. [DEDUCED: log 83] -/
def offer (c : Chip) (e : Event) : Option Chip :=
  match c.flt.cur with
  | none => some (fltShow { c with flt := { c.flt with cur := some e } })
  | some h =>
    if h.sev < e.sev then some (fltShow { c with flt := { c.flt with cur := some e, stack := h :: c.flt.stack } })
    else if c.flt.queue.length ≥ 16 || armedAt c (mkKey 0x2380 8) 1 then none
    else some (fltShow { c with flt := { c.flt with queue := c.flt.queue ++ [e] } })

/-- The unit a permanent event ashes: a short to ground of a valve channel ashes its bank (Table 7.8). -/
def ashTarget (code u : Nat) : Nat := if code = 0x0703 then unitBank (unitNum u / 4) else u

/-- The instance has a handling (R443): waiting, occupying the handler, pre-empted, open, or awaiting its ash. -/
def handlingOf (c : Chip) (code unit : Nat) : Bool :=
  let f := fun e : Event => e.code = code && e.unit = unit
  (c.flt.cur.toList ++ c.flt.stack ++ c.flt.queue ++ c.flt.opens).any f || c.flt.due.any fun d => d.code = code && d.unit = ashTarget code unit

/-- An event that must wait finds the queue full by an injection alone (Table 18.5, FAULT_QUEUE). -/
def queueInjected (c : Chip) : Bool := armedAt c (mkKey 0x2380 8) 1 && c.flt.queue.length < 16

/-- Raises FAULT_QUEUE, handled ahead of every waiting event (R444); a recurrence during its handling is folded (R443). -/
def raiseQueueFull (k : Keeper) (c : Chip) : Chip :=
  let inj := queueInjected c
  let c := budgetAdd k (disarm c (mkKey 0x2380 8) 1) 0x1209 theModule
  if handlingOf c 0x1209 theModule then c else
  let e : Event := ⟨0x1209, theModule, 3, inj, nowUs k c, true⟩
  let c := logEvent k (recNote k ((c.bump Key.Flt.EVENTS).bump Key.Flt.PERMANENTS) 0x1209 inj) e false
    (inWindow k c 0x1209 theModule)
  match c.flt.cur with
  | none => fltShow { c with flt := { c.flt with cur := some e } }
  | some h =>
    if h.sev < 3 then fltShow { c with flt := { c.flt with cur := some e, stack := h :: c.flt.stack } }
    else fltShow { c with flt := { c.flt with queue := e :: c.flt.queue } }

/-- Marks an instance's handling permanent. -/
def markPerm (code unit : Nat) (e : Event) : Event := if e.code = code && e.unit = unit then { e with perm := true } else e

/-- A handling that becomes permanent at once (R443): an open one is handed to the handler again. -/
def makePermanent (k : Keeper) (c : Chip) (code unit : Nat) : Chip :=
  let f := fun e : Event => e.code = code && e.unit = unit
  let mk := markPerm code unit
  match c.flt.opens.find? f with
  | some e =>
    if e.perm then c
    else
      let c := { c with flt := { c.flt with opens := c.flt.opens.filter (fun e => !f e) } }.bump Key.Flt.PERMANENTS
      match offer c { e with perm := true } with
      | some c' => c'
      | none => raiseQueueFull k (logEvent k c { e with perm := true } true (inWindow k c code unit))
  | none =>
    let was := ((c.flt.cur.toList ++ c.flt.stack ++ c.flt.queue).find? f).map (·.perm)
    let c := { c with flt := { c.flt with cur := c.flt.cur.map mk, stack := c.flt.stack.map mk, queue := c.flt.queue.map mk } }
    if was = some false then c.bump Key.Flt.PERMANENTS else c

/-- An event of an instance is permanent at its detection (R442). `force` says that the rule of its chapter judges it so. -/
def permNow (k : Keeper) (c : Chip) (code unit : Nat) (force : Bool) : Bool :=
  detClass code = .P || force || (detClass code = .B && c.num Key.Flt.RETRY_COUNT ≤ inWindow k c code unit)

/-- A detector reports an event of an instance (R442–R444). `force` says that the rule of the detector's own chapter
judges it permanent (class L, R237 and R240). A recurrence during a handling of the instance is folded into it.
[DEDUCED: log 83] -/
def raiseCore (k : Keeper) (c : Chip) (code unit : Nat) (injected force : Bool) : Chip :=
  let before := inWindow k c code unit
  let perm := permNow k c code unit force
  let c := budgetAdd k c code unit
  if handlingOf c code unit then (if perm then makePermanent k c code unit else c)
  else
    let e : Event := ⟨code, unit, severity code unit, injected, nowUs k c, perm⟩
    let c := recNote k (c.bump Key.Flt.EVENTS) code injected
    let c := if perm then c.bump Key.Flt.PERMANENTS else c
    match offer c e with
    | some c' => logEvent k c' e false (before + 1)
    | none => raiseQueueFull k (logEvent k c e true (before + 1))

/-- The health condition breaks (R376): a GREEN set becomes FAILED. Causes: 1 FAULT, 2 KINDLING, 3 MIGRATION,
4 NOT_ACCEPTED, 5 WINDOW. -/
def healthBreak (k : Keeper) (c : Chip) (cause : Nat) (injected : Bool) : Chip :=
  if c.num Key.Health.HEALTH = 1 then
    raiseCore k ((c.put Key.Health.HEALTH 2).put Key.Health.HEALTH_CAUSE cause) 0x0E04 theModule injected false
  else c

/-- A detector reports an event, as `raiseCore`; a permanent fault of severity SAFE or STOP breaks the health condition,
injected events excepted (R376, R441). -/
def raiseWith (k : Keeper) (c : Chip) (code unit : Nat) (injected force : Bool) : Chip :=
  let d := raiseCore k c code unit injected force
  if (!injected && permNow k c code unit force && 3 ≤ severity code unit) || (handlingOf d 0x1209 theModule
      && !handlingOf c 0x1209 theModule && !queueInjected c) then
    healthBreak k d 1 false
  else d

/-- A detector reports an event. [DEDUCED: log 83] -/
def raise (k : Keeper) (c : Chip) (code unit : Nat) (injected : Bool := false) : Chip :=
  raiseWith k c code unit injected false

/-- The outcome of an open transient handling is known (R443): it closes. -/
def closeHandling (c : Chip) (code unit : Nat) : Chip :=
  { c with flt := { c.flt with opens := c.flt.opens.filter fun e => !(e.code = code && e.unit = unit && !e.perm) } }

/-- Decides SAFE for an edge with a cause (R94). -/
def decideSafe (c : Chip) (edge cause fault : Nat) (stop : Bool) : Chip :=
  { c with modes := { c.modes with safeDue := c.modes.safeDue ++ [⟨edge, cause, fault, stop⟩] } }

/-- Detectors of class T whose row states when the event is transient: their handlings stay open until then (R443). -/
def staysOpen (code : Nat) : Bool :=
  [0x0508, 0x0708, 0x0805, 0x0808, 0x080B, 0x0906, 0x0907, 0x0A01, 0x0B03, 0x0B04, 0x0C01, 0x0C04, 0x0C06, 0x0D01, 0x0D02,
    0x1004, 0x1101].contains code

/-- The handler completes step 3 of Table 18.2 for the handling that occupies it: a permanent one decides its ash and
its SAFE entry for the first open edge, a transient one that awaits its outcome stays open, any other is done (R443). -/
def classify (k : Keeper) (c : Chip) (e : Event) : Chip :=
  if e.perm then
    let edge := openEdge k
    let c := if ashesUnit e.code e.unit then
        { c with flt := { c.flt with due := c.flt.due ++ [⟨edge, ashTarget e.code e.unit, e.code, e.injected⟩] } } else c
    if e.sev ≥ 3 then decideSafe c edge (if c.mode = .kindling then 6 else 2) e.code (e.sev = 4) else c
  else if detClass e.code = .B || detClass e.code = .L || staysOpen e.code then { c with flt := { c.flt with opens := c.flt.opens ++ [e] } }
  else c

/-- The waiting event taken next: of the highest severity the earliest (R444); the rest stay in order.
[DEDUCED: log 83] -/
def takeNext : List Event → Option (Event × List Event)
  | [] => none
  | e :: t =>
    match takeNext t with
    | none => some (e, [])
    | some (f, r) => if e.sev < f.sev then some (f, e :: r) else some (e, t)

/-- The handler is free: a pre-empted handling resumes, else the next waiting event is taken (R444). FAULT_QUEUE stands
at the front of the queue and is taken ahead of every waiting event. [DEDUCED: log 83] -/
def handlerNext (c : Chip) : Chip :=
  match c.flt.stack with
  | h :: t => fltShow { c with flt := { c.flt with cur := some h, stack := t } }
  | [] =>
    match c.flt.queue with
    | [] => fltShow { c with flt := { c.flt with cur := none } }
    | q :: t =>
      if q.code = 0x1209 then fltShow { c with flt := { c.flt with cur := some q, queue := t } }
      else match takeNext (q :: t) with
        | some (e, r) => fltShow { c with flt := { c.flt with cur := some e, queue := r } }
        | none => c

/-- A clock gate is open (R419). -/
def gateOpen (c : Chip) (j : Nat) : Bool := c.num (Key.Gate.GATE_STATE j) = 1

/-! ## Writes that wait for an edge -/

/-- The last-writer record of an object is kept where its access is RW, RWS or carries C (R74). -/
def noteWriter (k : Keeper) (c : Chip) (key : Nat) (org : Origin) (viaCord : Bool) : Chip :=
  match objInfo key with
  | some o =>
    if o.acc = .rw || o.acc = .rws || o.acc = .rwc then
      { c with dict := { c.dict with
        writers := c.dict.writers.filter (fun w => decide (w.key ≠ key)) ++ [⟨key, org, k.epoch, viaCord⟩] } }
    else c
  | none => c

/-- A tile-produced write applied at the edge being processed (R30, R187). -/
def tileApply (k : Keeper) (c : Chip) (key n : Nat) : Chip := noteWriter k (c.put key n) key .tile false

/-- A tile-produced value due at the first open edge (R30, R41). -/
def tileWrite (k : Keeper) (c : Chip) (key : Nat) (v : Val) : Chip :=
  { c with dict := { c.dict with tile := c.dict.tile ++ [⟨openEdge k, .tile, key, v⟩] } }

/-- Makes an accepted ordinary write due (R29); one that the close has moved counts in LATE_WRITES. -/
def acceptWrite (k : Keeper) (c : Chip) (org : Origin) (key : Nat) (v : Val) : Chip :=
  let c := { c with dict := { c.dict with pend := c.dict.pend ++ [⟨openEdge k, org, key, v⟩] } }
  if k.setClosed then c.bump Key.Epoch.LATE_WRITES else c

/-- The objects as they will stand once every accepted write still pending has applied (R53, R125). -/
def prospect (c : Chip) : OD := c.dict.pend.foldl (fun od w => odSet od w.key w.val) c.od

/-- A meaning that changes the chip alone. The outputs of the command before are gone. [DESIGN CHOICE: log 5] -/
def onChip (f : Keeper → Chip → Chip) (s : State) : Host.Outcome State Fault Refusal :=
  .next { s with chip := f s.keeper { s.chip with out := [] } }

end Sys2Proof.Machine
end

