-- ==== Sys2Proof/Machine/Engine.lean ====
section
/-! DEFINITION. The control engine (04): binary32 with flush to zero, trees, admission, the wheel and the computes. -/

namespace Sys2Proof.Machine

/-! ## Arithmetic (R103–R105) -/

/-- binary32 precision with a range no operation of the engine leaves. -/
def fmtWide : Fmt := ⟨24, 13⟩

/-- An operand: a subnormal is read as a zero of its sign (R104). -/
def clIn (a : Nat) : Nat := fConv fmt32 fmtWide (fFlush fmt32 a)

/-- A result: rounded at binary32 precision, flushed below 2^−126, infinite above the range (R103, R104). -/
def clOut (a : Nat) : Nat :=
  match fUnpack fmtWide a with
  | .nan => fmt32.nan
  | .inf s => fSign fmt32 s fmt32.inf
  | .fin s m e => if m * 2 ^ (e + 200).toNat < 2 ^ 74 then fSign fmt32 s 0 else fRound fmt32 s m e false

def clAdd (a b : Nat) : Nat := clOut (fAdd fmtWide (clIn a) (clIn b))
def clSub (a b : Nat) : Nat := clOut (fSub fmtWide (clIn a) (clIn b))
def clMul (a b : Nat) : Nat := clOut (fMul fmtWide (clIn a) (clIn b))
def clDiv (a b : Nat) : Nat := clOut (fDiv fmtWide (clIn a) (clIn b))

/-- clamp(x, lo, hi) = min(max(x, lo), hi) (R113). -/
def clClamp (x lo hi : Nat) : Nat := fMin fmt32 (fMax fmt32 x lo) hi

/-- A value of a type as binary32 (R105); blocks have none. -/
def toF32 (t : Ty) (n : Nat) : Nat :=
  match t with
  | .bool => if n = 0 then 0 else fNat fmt32 1
  | .u8 | .u16 | .u32 | .u64 => fNat fmt32 n
  | .i8 | .i16 | .i32 => fInt fmt32 (toInt (tyBits t) n)
  | .f16 => fConv fmt16 fmt32 n
  | .f32 => fFlush fmt32 n
  | .vstr | .domain => fmt32.nan

/-! ## Items -/

/-- An object of an item: cells are items 0–511, nodes follow (R126). -/
def itemKey (i sub : Nat) : Nat := if i < 512 then mkKey (0x3000 + i) sub else mkKey (0x3200 + (i - 512)) sub

/-- The item an object of 0x3000–0x32FF belongs to; none for the engine-wide objects. -/
def itemOfKey (key : Nat) : Option Nat :=
  let ix := key / 256
  if 0x3000 ≤ ix && ix < 0x3300 && key % 256 < 0x80 then some (ix - 0x3000) else none

def odNum (od : OD) (key : Nat) : Nat := (odGet od key).toNum

def itemRateSub (i : Nat) : Nat := if i < 512 then 0x04 else 0x0A
def itemPhaseSub (i : Nat) : Nat := if i < 512 then 0x05 else 0x0B
def itemTargetSub (i : Nat) : Nat := if i < 512 then 0x09 else 0x0C
def itemOutSub (i : Nat) : Nat := if i < 512 then 0x24 else 0x22
/-- STATE value ASHED and FROZEN of an item (Tables 4.8 and 4.9). -/
def itemAshed (i : Nat) : Nat := if i < 512 then 7 else 3
def itemFrozen (i : Nat) : Nat := if i < 512 then 6 else 2

/-- Period in slots of a rate code (Table 4.1). -/
def ratePeriod (code : Nat) : Nat := [1, 2, 4, 10, 20, 40, 100, 200].getD code 200

/-- Period of an item in slots. -/
def itemPeriod (od : OD) (i : Nat) : Nat := ratePeriod (odNum od (itemKey i (itemRateSub i)))

/-- A cell has a law and a process value, a node has inputs (Tables 4.3 and 4.9). [DESIGN CHOICE: log 93] -/
def itemConfigured (od : OD) (i : Nat) : Bool :=
  if i < 512 then odNum od (itemKey i 0x03) ≠ 0 && odNum od (itemKey i 0x06) ≠ 0 else odNum od (itemKey i 0x01) ≠ 0

/-- The configured items, in order of number: a configured item has an entry for LAW or IN_COUNT. -/
def configuredItems (od : OD) : List Nat :=
  od.filterMap fun e =>
    match itemOfKey e.1 with
    | some i => if (e.1 % 256 = if i < 512 then 0x03 else 0x01) && itemConfigured od i then some i else none
    | none => none

/-- The input references of a node. -/
def nodeRefs (od : OD) (i : Nat) : List Nat :=
  (List.range (odNum od (itemKey i 0x01))).map fun j => odNum od (itemKey i (0x02 + j))

/-- The item a CELL or NODE reference names. -/
def refItem (r : Nat) : Option Nat :=
  match refKind r with
  | 1 => some (refWhich r)
  | 2 => some (512 + refWhich r)
  | _ => none

/-- Child and parent of every node input that names an item. -/
def treeEdges (od : OD) (items : List Nat) : List (Nat × Nat) :=
  (items.filter (· ≥ 512)).flatMap fun n => (nodeRefs od n).filterMap fun r => (refItem r).map fun i => (i, n)

/-- The parent of an item. -/
def parentIn (edges : List (Nat × Nat)) (i : Nat) : Option Nat := (edges.find? (·.1 = i)).map (·.2)

/-- Climbs to the root: the root and the number of levels climbed; none where more than `fuel` levels lie above. -/
def climb (edges : List (Nat × Nat)) : Nat → Nat → Nat → Option (Nat × Nat)
  | 0, _, _ => none
  | fuel + 1, i, up =>
    match parentIn edges i with
    | none => some (i, up)
    | some p => climb edges fuel p (up + 1)

/-- Root of an item and levels below it; the item itself where the climb does not end. -/
def rootOf (edges : List (Nat × Nat)) (i : Nat) : Nat × Nat := (climb edges 6 i 0).getD (i, 0)

/-! ## References (R122) -/

/-- The objects the chapters list as CLE sources. -/
def isCleSource (key : Nat) : Bool :=
  let ix := key / 256
  let sub := key % 256
  (0x2500 ≤ ix && ix < 0x2510 && 0x0A ≤ sub && sub ≤ 0x0D)
  || (ix = 0x2601 && 1 ≤ sub && sub ≤ 5)
  || (ix = 0x2702 && 1 ≤ sub && sub ≤ 6)
  || (0x3400 ≤ ix && ix < 0x3430 && sub = 0x2F)
  || (0x3600 ≤ ix && ix < 0x3680 && 0x20 ≤ sub && sub ≤ 0x22)
  || (ix = 0x4001 && (sub = 8 || sub = 9))
  || (ix = 0x4002 && 1 ≤ sub && sub ≤ 3)
  || key = Key.Fus.PROX_CAP
  || (0x4330 ≤ ix && ix < 0x4338 && sub = 0x20)
  || key = Key.Cart.SWING_SP || key = Key.Cart.TIP_SP
  || (0x4400 ≤ ix && ix < 0x44C0 && 4 ≤ (ix - 0x4400) % 16 && sub = 8)

/-- The objects the chapters list as CLE targets: COMMAND, DO_CMD, CAN_CMD. -/
def isCleTarget (key : Nat) : Bool :=
  let ix := key / 256
  let sub := key % 256
  (((0x3400 ≤ ix && ix < 0x3430) || (0x3500 ≤ ix && ix < 0x3530) || (0x3600 ≤ ix && ix < 0x3680)) && sub = 1)
  || (0x2400 ≤ ix && ix < 0x241E && sub = 0x20)

/-- The input references of an item, whether its IN_COUNT reaches them or not (R122). -/
def allRefs (od : OD) (i : Nat) : List Nat :=
  if i < 512 then [odNum od (itemKey i 0x06), odNum od (itemKey i 0x07), odNum od (itemKey i 0x08)]
  else (List.range 8).map fun j => odNum od (itemKey i (0x02 + j))

/-- The input references of an item. -/
def inputRefs (od : OD) (i : Nat) : List Nat :=
  if i < 512 then [odNum od (itemKey i 0x06), odNum od (itemKey i 0x07), odNum od (itemKey i 0x08)] else nodeRefs od i

/-- An item's references break R122. -/
def refsBad (od : OD) (i : Nat) : Bool :=
  (allRefs od i).any (fun r => refKind r = 3 && !isCleSource (refWhich r))
  || (let t := odNum od (itemKey i (itemTargetSub i)); refKind t = 3 && !isCleTarget (refWhich t))

/-! ## Admission (R119, R125, R126) -/

/-- An item stands too deep, or above itself. -/
def tooDeep (edges : List (Nat × Nat)) (i : Nat) : Bool :=
  match climb edges 6 i 0 with
  | none => true
  | some (_, up) => (if i < 512 then 4 else 3) < up

/-- The items above an item, up to six. -/
def above (edges : List (Nat × Nat)) : Nat → Nat → List Nat
  | 0, _ => []
  | fuel + 1, i => ((edges.filter (·.1 = i)).map (·.2)).flatMap fun p => p :: above edges fuel p

/-- A child that its tree may not hold: it has two parents, or an OUT_TARGET of its own. -/
def childBad (od : OD) (edges : List (Nat × Nat)) (i : Nat) : Bool :=
  1 < (edges.filter (·.1 = i)).length || (edges.any (·.1 = i) && odNum od (itemKey i (itemTargetSub i)) ≠ 0)

/-- Items that break the first rule of R125: an item that breaks it by itself, and the parents and children it breaks it
with. [DEDUCED: log 104] -/
def treeBad (od : OD) (items : List Nat) (edges : List (Nat × Nat)) (i : Nat) : Bool :=
  (i ≥ 512 && (nodeRefs od i).any fun r =>
    refKind r = 0 || match refItem r with
      | some j => !itemConfigured od j
      | none => false)
  || (!itemConfigured od i && edges.any (·.1 = i))
  || childBad od edges i || (edges.any fun e => e.2 = i && childBad od edges e.1)
  || tooDeep edges i || (items.any fun j => tooDeep edges j && (above edges 5 j).contains i)

/-- A member of a tree whose rate or phase differs from its root's (R119). -/
def memberBad (od : OD) (edges : List (Nat × Nat)) (i : Nat) : Bool :=
  let r := (rootOf edges i).1
  let rate := fun i => odNum od (itemKey i (itemRateSub i))
  let phase := fun i => odNum od (itemKey i (itemPhaseSub i))
  r ≠ i && (rate i ≠ rate r || (phase i ≠ 0xFF && phase i ≠ phase r))

/-- Items that break R119's rule on rates and phases: the member, its root, and what stands between.
[DEDUCED: log 104] -/
def groupBad (od : OD) (items : List Nat) (edges : List (Nat × Nat)) (i : Nat) : Bool :=
  memberBad od edges i || items.any fun j => memberBad od edges j && (above edges 5 j).contains i

/-- A tree, or an item alone, as the wheel carries it: root, period, phase, updates per frame, lowest member. -/
structure Group where
  root : Nat
  period : Nat
  phase : Nat
  weight : Nat
  lowest : Nat
deriving DecidableEq, Repr

/-- Updates of a slot. -/
def slotLoad (gs : List Group) (s : Nat) : Nat :=
  (gs.filter fun g => s % g.period = g.phase).foldl (fun n g => n + g.weight) 0

/-- Highest load over the slots of a phase. -/
def phasePeak (gs : List Group) (period phase : Nat) : Nat :=
  ((List.range (200 / period)).map fun n => slotLoad gs (n * period + phase)).foldl max 0

/-- The phase with the lowest peak, the lowest among equals (R126): tries phases below `n`, given the best so far. -/
def bestPhase (gs : List Group) (period : Nat) : Nat → Nat × Nat
  | 0 => (0, phasePeak gs period 0)
  | n + 1 =>
    let (b, v) := bestPhase gs period n
    let w := phasePeak gs period (n + 1)
    if w < v then (n + 1, w) else (b, v)

/-- Order of placement: by period, then by lowest member (R126). -/
def placeBefore (a b : Group) : Bool := a.period < b.period || (a.period = b.period && a.lowest ≤ b.lowest)

/-- Inserts a group in the order of placement. -/
def placeInsert (g : Group) : List Group → List Group
  | [] => [g]
  | h :: t => if placeBefore g h then g :: h :: t else h :: placeInsert g t

/-- The groups of a configuration with the phase their root's PHASE gives, 0xFF automatic, in order of placement. -/
def groupsOf (od : OD) (items : List Nat) (edges : List (Nat × Nat)) : List Group :=
  let roots := items.filter fun i => !(edges.any (·.1 = i))
  (roots.map fun r =>
    let ms := items.filter fun i => (rootOf edges i).1 = r
    (⟨r, itemPeriod od r, odNum od (itemKey r (itemPhaseSub r)), ms.length, ms.foldl min 767⟩ : Group)).foldl
      (fun l g => placeInsert g l) []

/-- Places groups one after another: a fixed PHASE stands, an automatic one is chosen. -/
def placeAuto (placed : List Group) : List Group → List Group
  | [] => placed
  | g :: t => placeAuto (placed ++ [if g.phase ≠ 0xFF then g else { g with phase := (bestPhase placed g.period (g.period - 1)).1 }]) t

/-- Phases of every group: a group that did not change keeps its phase, the rest are placed in their order (R126). `kept` gives the unchanged groups' phases by root. -/
def placeGroups (kept : List (Nat × Nat)) (gs : List Group) : List Group :=
  let keep := fun g : Group => (kept.find? (·.1 = g.root)).map fun p => { g with phase := p.2 }
  placeAuto (gs.filterMap keep) (gs.filter fun g => (keep g).isNone)

/-- The engine's view of a configuration. -/
structure WheelPlan where
  items : List Nat
  edges : List (Nat × Nat)
  groups : List Group
deriving DecidableEq, Repr

/-- Phases kept: roots in `have` whose tree holds none of the changed items. -/
def keptPhases (now : List ItemX) (edges : List (Nat × Nat)) (changed : List Nat) : List (Nat × Nat) :=
  let touched := now.filter fun x => changed.contains x.item
  (now.filter fun x => x.root = x.item && !(touched.any fun y => y.root = x.root)
    && !(changed.any fun i => (rootOf edges i).1 = x.root)).map fun x => (x.item, x.phase)

/-- The plan of a configuration in which some items have changed. -/
def wheelPlan (od : OD) (now : List ItemX) (changed : List Nat) : WheelPlan :=
  let items := configuredItems od
  let edges := treeEdges od items
  ⟨items, edges, placeGroups (keptPhases now edges changed) (groupsOf od items edges)⟩

/-- Slots above 256 updates. -/
def fullSlots (gs : List Group) : List Nat := (List.range 200).filter fun s => 256 < slotLoad gs s

/-- The judgement of admission (R125): OK, or the first rule broken with the items that break it. -/
def admission (od : OD) (now : List ItemX) (changed : List Nat) : Nat × List Nat :=
  let items := configuredItems od
  let edges := treeEdges od items
  let bad := (changed ++ items).filter (treeBad od items edges)
  if bad ≠ [] then (Rc.TREE_INVALID, bad)
  else
    let bad := (changed ++ items).filter (refsBad od)
    if bad ≠ [] then (Rc.NOT_CLE_SOURCE, bad)
    else
      let bad := items.filter (groupBad od items edges)
      if bad ≠ [] then (Rc.GROUP_MISMATCH, bad)
      else
        let p := wheelPlan od now changed
        match fullSlots p.groups with
        | [] => (Rc.OK, [])
        | full => (Rc.WHEEL_FULL, items.filter fun i =>
            match p.groups.find? (·.root = (rootOf edges i).1) with
            | some g => full.any fun s => s % g.period = g.phase
            | none => false)

/-- Objects that fix the wheel: LAW, RATE, PHASE, the references and IN_COUNT (04, "Admission control"). -/
def isStructural (key : Nat) : Bool :=
  match itemOfKey key with
  | none => false
  | some i => let s := key % 256; if i < 512 then 3 ≤ s && s ≤ 9 else 1 ≤ s && s ≤ 0x0C

/-- The first write that concerns an item breaking the rule; the first write where none does. -/
def firstOffending (bad keys : List Nat) : Nat :=
  match keys.find? fun k => match itemOfKey k with
    | some i => bad.contains i
    | none => false with
  | some k => k
  | none => keys.headD 0

/-- Judges admission for a list of structural writes and records it in ADMIT_CODE and ADMIT_OBJECT (R125). -/
def judgeAdmission (c : Chip) (od : OD) (keys : List Nat) : Nat × Chip :=
  let (code, bad) := admission od c.eng.items (keys.filterMap itemOfKey)
  (code, (c.put Key.Eng.ADMIT_CODE code).put Key.Eng.ADMIT_OBJECT (if code = Rc.OK then 0 else firstOffending bad keys))

/-! ## Structural writes at their edge (Table 4.3, R491) -/

/-- KI_T = fl(KI / rate), computed when KI or RATE applies (R113). -/
def putKit (c : Chip) (n : Nat) : Chip :=
  c.put (Key.Cell.KI_T n) (clDiv (c.num (Key.Cell.KI n)) (fNat fmt32 (20000 / itemPeriod c.od n)))

/-- An item's state as the configuration now asks: a configured one that was not becomes DISABLED or RUNNING, one
whose law is gone UNCONFIGURED, one that stays configured is entered again as on enable (Table 4.3, R135). -/
def itemRestate (c : Chip) (i : Nat) (conf : Bool) : Chip :=
  let st := c.num (itemKey i 0x20)
  if st = itemAshed i then c
  else if i < 512 then
    if conf then
      (if st = 0 then (c.put (itemKey i 0x20) 1).put (itemKey i 0x24) (c.num (Key.Cell.OUT_INIT i))
        else if 2 ≤ st && st ≤ 5 && !c.flag (Key.Cell.ENABLE i) then c.put (itemKey i 0x20) 1 else c)
    else ((c.put (itemKey i 0x20) 0).put (itemKey i 0x24) (c.num (Key.Cell.OUT_INIT i))).put (itemKey i 0x28) 0xFF
  else if conf then (if st = 0 then c.put (itemKey i 0x20) 1 else c)
  else ((c.put (itemKey i 0x20) 0).put (itemKey i 0x21) 0xFF).put (itemKey i 0x26) 0

/-- WHEEL_PEAK, WHEEL_PEAK_SLOT and WHEEL_RATE (Table 4.10). -/
def wheelStats (c : Chip) (gs : List Group) : Chip :=
  let loads := (List.range 200).map (slotLoad gs)
  let peak := loads.foldl max 0
  ((c.put Key.Eng.WHEEL_PEAK peak).put Key.Eng.WHEEL_PEAK_SLOT (if peak = 0 then 0 else loads.idxOf peak)).put
    Key.Eng.WHEEL_RATE (gs.foldl (fun n g => n + g.weight * (20000 / g.period)) 0)

/-- The items of a plan with no work in flight. -/
def planItems (od : OD) (p : WheelPlan) : List ItemX :=
  p.items.map fun i =>
    let (root, up) := rootOf p.edges i
    { item := i, root, depth := up + 1, period := itemPeriod od i
      phase := ((p.groups.find? (·.root = root)).map (·.phase)).getD 0 }

/-- Same period, phase and tree. -/
def sameAssignment (a b : ItemX) : Bool := a.root = b.root && a.period = b.period && a.phase = b.phase

/-- Trees, by their roots before and after, that an item with a changed wheel assignment belongs to (R491). -/
def brokenTrees (old new : List ItemX) : List Nat :=
  let differs := fun (l : List ItemX) (x : ItemX) => !(l.any fun y => y.item = x.item && sameAssignment x y)
  ((old.filter (differs new)).map (·.root)) ++ (new.filter (differs old)).map (·.root)

/-- Applies a configuration in which some items have changed: states, depths, phases, and a wheel on which the trees of items
whose assignment changed start afresh (R491). A cell that is written structurally discards its work and is entered again
(Table 4.3). -/
def engineRebuild (c : Chip) (changed : List Nat) : Chip :=
  let p := wheelPlan c.od c.eng.items changed
  let c := (changed.eraseDups).foldl (fun c i => itemRestate c i (itemConfigured c.od i)) c
  let new := planItems c.od p
  let broken := brokenTrees c.eng.items new
  let items := new.map fun y =>
    match c.eng.items.find? (·.item = y.item) with
    | some x =>
      let drop := broken.contains x.root || broken.contains y.root || (y.item < 512 && changed.contains y.item)
      { y with sample := if drop then none else x.sample, ready := if drop then none else x.ready, prior := x.prior,
               reenter := x.reenter || changed.contains y.item }
    | none => y
  let c := items.foldl (fun c x => if x.item < 512 then c.put (itemKey x.item 0x28) x.phase
    else c.put (itemKey x.item 0x26) x.depth) c
  wheelStats { c with eng := { c.eng with items } } p.groups

/-! ## Slots and overrides, as the engine sees them -/

/-- The item of a slot's root r; none where it is NONE. -/
def slotRoot (od : OD) (s r : Nat) : Option Nat := refItem (odNum od (Key.Slot.ROOT s r))

/-- FS26 and FS27 have no actuator: their roots bid into the tree of FS24 (R142). -/
def isComposite (s : Nat) : Bool := s = 25 || s = 26

/-- A root drives in ACTIVE, and in DEGRADED unless it is lost (R145). -/
def rootDrives (c : Chip) (s r : Nat) : Bool :=
  let st := c.num (Key.Slot.STATE s)
  st = 2 || (st = 3 && !bitOf (c.num (Key.Slot.LOST_ROOTS s)) r)

/-- Slots and roots, thirty by four. -/
def allRoots : List (Nat × Nat) := (List.range 30).flatMap fun s => (List.range 4).map fun r => (s, r)

/-- A composite root whose cell is withdrawn (R146). -/
def withdrawn (c : Chip) (i : Nat) : Bool :=
  [25, 26].any fun s => (List.range 4).any fun r => slotRoot c.od s r = some i && !rootDrives c s r

/-- The object an item's OUT_TARGET names. -/
def itemTarget (od : OD) (i : Nat) : Option Nat :=
  let t := odNum od (itemKey i (itemTargetSub i))
  if refKind t = 3 then some (refWhich t) else none

/-- The items on the wheel whose tree drives a target. -/
def driversOf (c : Chip) (tk : Nat) : List ItemX :=
  c.eng.items.filter fun x => itemTarget c.od x.root = some tk

/-- Safe values hold in KINDLING, SAFE, BANKED and OFF (R87, R93, R96). -/
def modeSafe (m : Mode) : Bool := m = .kindling || m = .safe || m = .banked || m = .off

/-- A slot holds a target: one of its roots names it and is not driving (R145). -/
def slotHolds (c : Chip) (tk : Nat) : Bool :=
  allRoots.any fun (s, r) =>
    match slotRoot c.od s r with
    | some i => !isComposite s && itemTarget c.od i = some tk && !rootDrives c s r
    | none => false

/-- The link of a command object: a DXV carries 16 valve channels, a DXS 8 load switches, a DXI 16 channels. -/
def linkOfKey (key : Nat) : Nat :=
  let ix := key / 256
  if ix < 0x3500 then (ix - 0x3400) / 16 else if ix < 0x3600 then 3 + (ix - 0x3500) / 8 else 9 + (ix - 0x3600) / 16

/-- An actuator's device holds its safe values on its own, since a silence (R22, R248). -/
def deviceSafe (c : Chip) (tk : Nat) : Bool :=
  let ix := tk / 256
  (0x3400 ≤ ix && ix < 0x3680)
    && ((nth c.link.links (linkOfKey tk) {}).safe
      || (0x3600 ≤ ix && c.num (Key.Grp.GROUP_STATE ((ix - 0x3600) / 16)) = 1))

/-- A target is overridden (R118, R135): a safe value is held, a slot holds it, its unit is ashed, or an item of the
tree that drives it is ashed. -/
def overridden (c : Chip) (tk : Nat) : Bool :=
  modeSafe c.mode || deviceSafe c tk || slotHolds c tk || keyAshed c tk || (driversOf c tk).any fun x => unitAshed c (unitItem x.item)

/-! ## Presentation (R123) -/

/-- The value a target takes from the engine: COMMAND of a valve within 0 and PEAK_MAX, of a load switch within 0 and
1 (R228), DO_CMD true from 0.5 (R247), CAN_CMD as it stands. -/
def targetValue (c : Chip) (tk v : Nat) : Nat :=
  let ix := tk / 256
  if 0x3400 ≤ ix && ix < 0x3430 then fClamp fmt32 0 (c.num (Key.Valve.PEAK_MAX (ix - 0x3400))) v
  else if 0x3500 ≤ ix && ix < 0x3530 then fClamp fmt32 0 0x3F800000 v
  else if 0x3600 ≤ ix && ix < 0x3680 then (if fLe fmt32 0x3F000000 v then 1 else 0)
  else v

/-- A command object stands on a device behind a drive link. -/
def isDeviceKey (key : Nat) : Bool := 0x3400 ≤ key / 256 && key / 256 < 0x3680

/-- An isolated I/O channel that is an input takes no DO_CMD (R247). -/
def isInputKey (c : Chip) (tk : Nat) : Bool :=
  let ix := tk / 256
  0x3600 ≤ ix && ix < 0x3680 && c.num (Key.Dio.DIR (ix - 0x3600)) = 0

/-- The engine writes a target: the command object shows it, and a device takes it with the next frame (R32, R123). A
target of an ashed unit, and an input, take none. -/
def present (c : Chip) (tk v : Nat) : Chip :=
  let v := targetValue c tk v
  if keyAshed c tk || isInputKey c tk then c
  else
  let c := c.put tk v
  if isDeviceKey tk then { c with link := { c.link with now := c.link.now ++ [(tk, v)] } } else c

/-! ## Samples (R109, R110, R121) -/

/-- Reads an input reference: an output, a live object, NaN where its unit is ashed (R106, R121, R122). -/
def readRef (c : Chip) (r : Nat) : Nat :=
  match refKind r with
  | 1 => c.num (itemKey (refWhich r) 0x24)
  | 2 => c.num (itemKey (512 + refWhich r) 0x22)
  | 3 =>
    if keyAshed c (refWhich r) then fmt32.nan
    else match objInfo (refWhich r) with
      | some o => toF32 o.ty (c.num (refWhich r))
      | none => fmt32.nan
  | _ => 0

/-- Samples a cell at the start of a frame. -/
def sampleCell (c : Chip) (n : Nat) : CellSample :=
  let g := fun sub => c.num (itemKey n sub)
  { law := g 0x03, enable := g 0x01 ≠ 0, dir := g 0x0A = 1
    sp := if g 0x07 = 0 then g 0x02 else readRef c (g 0x07)
    pv := readRef c (g 0x06), ff := readRef c (g 0x08)
    kp := g 0x0B, kit := g 0x29, kf := g 0x0D, bandIn := g 0x0E, bandOut := g 0x0F
    iMin := g 0x10, iMax := g 0x11, outMin := g 0x12, outMax := g 0x13, rest := g 0x14 }

/-- OUT_MAX of a node: in ROAD FS24's root takes the lesser of it and ROAD_SPEED_CAP (R147). -/
def nodeOutMax (c : Chip) (i : Nat) : Nat :=
  let m := c.num (itemKey i 0x0E)
  if c.mode = .road && (List.range 4).any (fun r => slotRoot c.od 23 r = some i) then
    fMin fmt32 m (c.num Key.Mode.ROAD_SPEED_CAP) else m

/-- Samples a node. -/
def sampleNode (c : Chip) (i : Nat) : Sample :=
  .node ((nodeRefs c.od i).map fun r =>
    match refKind r with
    | 1 => if withdrawn c (refWhich r) then .withdrawn (refWhich r) else .item (refWhich r)
    | 2 => .item (512 + refWhich r)
    | 4 => .value (c.num (itemKey i 0x0F))
    | _ => .value (readRef c r)) (c.num (itemKey i 0x0D)) (nodeOutMax c i)

/-- Samples an item. -/
def sampleItem (c : Chip) (i : Nat) : Sample := if i < 512 then .cell (sampleCell c i) else sampleNode c i

/-! ## Computes (R112–R117) -/

/-- What a compute of a cell gives: the new state, the integrator candidate, the output, the error and the process
value; `preload` where the integrator was preloaded. -/
structure CellResult where
  state : Nat
  cand : Nat
  out : Nat
  err : Nat
  pv : Nat
  preload : Bool
deriving DecidableEq, Repr

/-- One compute of a BANDED_PI cell (R113): `base` is the state the compute starts from, 1 for the first after an
enable; none where the cell freezes. -/
def computePi (s : CellSample) (base i uPrev : Nat) : Option CellResult :=
  if fIsNan fmt32 s.sp || fIsNan fmt32 s.pv || fIsNan fmt32 s.ff then none
  else
    let d := clSub s.sp s.pv
    let e := if s.dir then d else fOpp fmt32 d
    let p := clMul s.kp e
    let f := clMul s.kf s.ff
    let fin := fFinite fmt32
    if base = 1 then
      let raw := clSub (clSub uPrev p) f
      let i := clClamp raw s.iMin s.iMax
      let act := fLt fmt32 s.bandIn (fAbs fmt32 e)
      let out := clAdd (clAdd p i) f
      if fin e && fin p && fin f && fin raw && (!act || fin out) then
        some ⟨if act then 3 else 2, i, if act then clClamp out s.outMin s.outMax else uPrev, e, s.pv, true⟩
      else none
    else
      let act := if base = 3 then !fLe fmt32 (fAbs fmt32 e) s.bandIn else fLt fmt32 s.bandOut (fAbs fmt32 e)
      if act then
        let raw := clAdd i (clMul s.kit e)
        let cand := clClamp raw s.iMin s.iMax
        let out := clAdd (clAdd p cand) f
        if fin e && fin p && fin f && fin raw && fin out then
          some ⟨3, cand, clClamp out s.outMin s.outMax, e, s.pv, false⟩
        else none
      else if fin e && fin p && fin f then some ⟨2, i, uPrev, e, s.pv, false⟩
      else none

/-- One compute of a RELAY cell (R114, Table 4.3). -/
def computeRelay (s : CellSample) (base i : Nat) : Option CellResult :=
  if fIsNan fmt32 s.sp || fIsNan fmt32 s.pv || fIsNan fmt32 s.ff then none
  else
    let d := clSub s.sp s.pv
    let e := if s.dir then d else fOpp fmt32 d
    if !fFinite fmt32 e then none
    else
      let up := fLt fmt32 s.bandOut e
      let down := fLt fmt32 e (fOpp fmt32 s.bandOut)
      let inBand := fLe fmt32 (fAbs fmt32 e) s.bandIn
      let st :=
        if base = 4 then (if down then 5 else if inBand then 2 else 4)
        else if base = 5 then (if up then 4 else if inBand then 2 else 5)
        else if up then 4 else if down then 5 else 2
      some ⟨st, i, if st = 4 then s.outMax else if st = 5 then s.outMin else s.rest, e, s.pv, false⟩

/-- One compute of a cell by its law. -/
def computeCell (s : CellSample) (base i uPrev : Nat) : Option CellResult :=
  if s.law = 2 then computeRelay s base i else computePi s base i uPrev

/-- What a compute of a node gives. -/
structure NodeResult where
  out : Nat
  win : Nat
  sat : Bool
deriving DecidableEq, Repr

/-- The lowest of the inputs from position `j` on, given the best so far: ties go to the lowest index, a withdrawn
input never wins (R116, R146). -/
def pickLowest : List (Nat × Bool) → Nat → Option (Nat × Nat) → Option (Nat × Nat)
  | [], _, best => best
  | (v, out) :: t, j, best =>
    pickLowest t (j + 1) (if out then best
      else match best with
        | none => some (v, j)
        | some (b, _) => if fLt fmt32 v b then some (v, j) else best)

/-- One compute of a node over its input values, each with a mark for a withdrawn one (R116); none where it freezes. -/
def computeNode (ins : List (Nat × Bool)) (outMin outMax : Nat) : Option NodeResult :=
  if ins.any fun v => fIsNan fmt32 v.1 then none
  else
    let (best, win) := (pickLowest ins 0 none).getD (fmt32.inf, 0)
    let y := clClamp best outMin outMax
    some ⟨y, win, !fEq fmt32 y best⟩

/-- Freezes an item: output and integrator held, CLE_NONFINITE raised on entry (R106, Table 4.3). -/
def freezeItem (k : Keeper) (c : Chip) (i : Nat) (injected : Bool) : Chip :=
  let st := c.num (itemKey i 0x20)
  if st = itemFrozen i then c
  else
    let prior := if st = 2 ∨ st = 3 ∨ st = 4 ∨ st = 5 then st else 1
    let c := { c with eng := { c.eng with
      items := c.eng.items.map fun x : ItemX => if x.item = i then { x with prior := prior } else x } }
    let c := c.put (itemKey i 0x20) (itemFrozen i)
    raise k (if i < 512 then c.bump (Key.Cell.FREEZES i) else c) 0x0401 (unitItem i) injected

/-- How many updates of the slot ran again in a retry position. -/
abbrev Retries := Nat

/-- An update on which the instances disagree (R130, R131): whether it is lost, the retries used, and the chip after. -/
def lockstepUpdate (k : Keeper) (c : Chip) (i : Nat) (fault : Option LockFault) (used : Retries) :
    Bool × Retries × Chip :=
  let inj := armedAt c Key.InjCle.INJ_LOCKSTEP i
  let side := [0, 1].find? fun n => armedAt c Key.InjCle.INJ_SIDE n && !c.eng.down.contains n
  let injSide := fault.isNone && !inj && side.isSome
  let c := disarm c Key.InjCle.INJ_LOCKSTEP i
  let c := if injSide then disarm c Key.InjCle.INJ_SIDE (side.getD 0) else c
  let fault := if inj && fault.isNone then some LockFault.disagree
    else if injSide then some (LockFault.residue (side = some 1)) else fault
  match fault with
  | none => (false, used, c)
  | some f =>
    let single := c.num Key.Eng.ENGINE_STATE ≠ 0
    match f with
    | .residue side =>
      -- A residue check on the instance that is already out of use cannot fire.
      if c.eng.down.contains (if side then 1 else 0) then (false, used, c)
      else
        let c := raise k c 0x0403 (unitCle (if side then 1 else 0)) injSide
        if single then (true, used, c.bump Key.Eng.RETRIES_LOST)
        else if used ≥ 8 then (true, used, c.bump Key.Eng.RETRIES_LOST)
        else (false, used + 1, c.bump Key.Eng.LOCKSTEP_RETRIES)
    | .disagree =>
      if single then (false, used, c)
      else
        let c := raise k c 0x0402 (unitItem i) inj
        if used ≥ 8 then (true, used, c.bump Key.Eng.RETRIES_LOST)
        else (false, used + 1, closeHandling (c.bump Key.Eng.LOCKSTEP_RETRIES) 0x0402 (unitItem i))
    | .disagreeAgain =>
      if single then (false, used, c)
      else
        let c := raise k c 0x0402 (unitItem i) inj
        let c := if used ≥ 8 then c else raise k (c.bump Key.Eng.LOCKSTEP_RETRIES) 0x0402 (unitItem i) inj
        (true, min (used + 1) 8, c.bump Key.Eng.RETRIES_LOST)

/-- What is carried through the computes of a slot: the chip, retries used, and the cells whose integrator decision
waits for the stall marks, and the items whose update was lost. -/
structure SlotRun where
  chip : Chip
  used : Retries
  cands : List (Nat × CellResult × Nat)
  /-- Items whose update was lost. -/
  lost : List Nat := []

/-- The compute of one cell up to the stall decision. -/
def runCell (k : Keeper) (f : Option LockFault) (r : SlotRun) (x : ItemX) (s : CellSample) : SlotRun :=
  let i := x.item
  let c := r.chip
  let st := c.num (itemKey i 0x20)
  if st = 7 || st = 0 then r
  else
    let (lost, used, c) := lockstepUpdate k c i f r.used
    if lost then { r with chip := c, used, lost := r.lost ++ [i] }
    else if !s.enable then
      let c := disarm c Key.InjCle.INJ_NONFINITE i
      { r with chip := if st = 1 then c else c.put (itemKey i 0x20) 1, used }
    else
      let base := if x.reenter then 1 else if st = 6 then x.prior else st
      let inj := armedAt c Key.InjCle.INJ_NONFINITE i
      let c := disarm c Key.InjCle.INJ_NONFINITE i
      match (if inj then none else computeCell s base (c.num (itemKey i 0x23)) (c.num (itemKey i 0x24))) with
      | none => { r with chip := freezeItem k c i inj, used }
      | some res =>
        let c := if st = 6 then closeHandling c 0x0401 (unitItem i) else c
        let entered := 3 ≤ res.state && res.state ≠ (if st = 6 then x.prior else st)
        let c := if entered then c.bump (Key.Cell.ACT_ENTRIES i) else c
        let c := (((c.put (itemKey i 0x20) res.state).put (itemKey i 0x21) res.err).put (itemKey i 0x22) res.pv).put
          (itemKey i 0x24) res.out
        let c := { c with eng := { c.eng with
          items := c.eng.items.map fun y : ItemX => if y.item = i then { y with reenter := false } else y } }
        { r with chip := c, used, cands := r.cands ++ [(i, res, x.root)] }

/-- The value of a node input in a compute: outputs of this same compute (R121). -/
def nodeInput (c : Chip) : NodeIn → Nat × Bool
  | .value v => (v, false)
  | .item i => (c.num (itemKey i (itemOutSub i)), false)
  | .withdrawn _ => (fmt32.inf, true)

/-- The compute of one node. -/
def runNode (k : Keeper) (f : Option LockFault) (r : SlotRun) (x : ItemX) (ins : List NodeIn) (outMin outMax began : Nat) :
    SlotRun :=
  let i := x.item
  let st := r.chip.num (itemKey i 0x20)
  if st = 3 || st = 0 then r
  else
    let (lost, used, c) := lockstepUpdate k r.chip i f r.used
    if lost then { r with chip := c, used, lost := r.lost ++ [i] }
    else
      let inj := armedAt c Key.InjCle.INJ_NONFINITE i
      let c := disarm c Key.InjCle.INJ_NONFINITE i
      match (if inj then none else computeNode (ins.map (nodeInput c)) outMin outMax) with
      | none => { r with chip := freezeItem k c i inj, used }
      | some res =>
        let c := if st = 2 then closeHandling c 0x0401 (unitItem i) else c
        let c := if c.num (itemKey i 0x21) ≠ res.win then
            (c.bump (itemKey i 0x24)).put (itemKey i 0x25) (wireEpoch began) else c
        { r with used, chip := (((c.put (itemKey i 0x20) 1).put (itemKey i 0x21) res.win).put (itemKey i 0x22)
          res.out).putFlag (itemKey i 0x23) res.sat }

/-- Stall marks a node passes down to its inputs (R117): item and mark. -/
def nodeMarks (c : Chip) (stalled : Bool) (i : Nat) (ins : List NodeIn) : List (Nat × Bool) :=
  let st := c.num (itemKey i 0x20)
  let blocked := stalled || c.flag (itemKey i 0x23) || st = 2 || st = 3
  (ins.zip (List.range ins.length)).filterMap fun (x, j) =>
    match x with
    | .value _ => none
    | .item m => some (m, blocked || j ≠ c.num (itemKey i 0x21))
    | .withdrawn m => some (m, true)

/-- Stall marks of every item of a slot, from the roots down, one depth after another. -/
def stallMarks (c : Chip) (due : List (ItemX × Sample × Nat)) : List (Nat × Bool) :=
  let roots := (due.filter fun d => d.1.root = d.1.item).map fun d =>
    (d.1.item, match itemTarget c.od d.1.item with
      | some tk => overridden c tk
      | none => false)
  [1, 2, 3, 4].foldl (fun marks depth =>
    marks ++ (due.filter fun d => d.1.depth = depth).flatMap fun d =>
      match d.2.1 with
      | .node ins _ _ => nodeMarks c (((marks.find? (·.1 = d.1.item)).map (·.2)).getD false) d.1.item ins
      | .cell _ => []) roots

/-- Commits a cell: STALLED, and the integrator unless the cell is stalled; a preload is taken at once (R113).
[DEDUCED: log 60] -/
def commitCell (marks : List (Nat × Bool)) (c : Chip) (r : Nat × CellResult × Nat) : Chip :=
  let stalled := ((marks.find? (·.1 = r.1)).map (·.2)).getD false
  if stalled && !r.2.1.preload then c else c.put (itemKey r.1 0x23) r.2.1.cand

/-- An overrun or ECC injection on the slot (Table 4.7). -/
def slotInjections (k : Keeper) (c : Chip) (slot : Nat) (due : List ItemX) : Chip :=
  let c := if armedAt c Key.InjCle.INJ_OVERRUN slot then raise k (disarm c Key.InjCle.INJ_OVERRUN slot) 0x0407 theModule true
    else c
  due.foldl (fun c x =>
    let c := if armedAt c Key.InjCle.INJ_ECC_CORR x.item then
        raise k ((disarm c Key.InjCle.INJ_ECC_CORR x.item).bump Key.Eng.ECC_CORRECTED) 0x0404 (unitItem x.item) true else c
    if armedAt c Key.InjCle.INJ_ECC_UNCORR x.item then
      raise k (disarm c Key.InjCle.INJ_ECC_UNCORR x.item) 0x0406 (unitItem x.item) true else c) c

/-- A slot of the wheel begins (R107–R117, Table 4.2): items whose frame begins here present the output of two frames
ago, sample, and run the compute of the frame that has just ended: cells, then nodes from the deepest level up. -/
def runSlot (k : Keeper) (c : Chip) (slot : Nat) (faults : List (Nat × LockFault)) : Chip :=
  let begins := fun x : ItemX => decide (slot % x.period = x.phase)
  let dueX := c.eng.items.filter begins
  let c := slotInjections k c slot dueX
  -- Presentation of the outputs of two frames ago (R123); an override suppresses it (R118).
  let c := dueX.foldl (fun c x =>
    match x.ready, itemTarget c.od x.item with
    | some v, some tk => if x.root = x.item && !overridden c tk then present c tk v else c
    | _, _ => c) c
  let samples := dueX.map fun x => (x.item, sampleItem c x.item)
  let due := dueX.filterMap fun x => x.sample.map fun s => (x, s.1, s.2)
  let fault := fun i => (faults.find? (·.1 = i)).map (·.2)
  let r : SlotRun := due.foldl (fun r d => match d.2.1 with
    | .cell s => runCell k (fault d.1.item) r d.1 s
    | .node .. => r) ⟨c, 0, [], []⟩
  let r := [4, 3, 2, 1].foldl (fun r depth => due.foldl (fun r d => match d.2.1 with
    | .node ins lo hi => if d.1.depth = depth then runNode k (fault d.1.item) r d.1 ins lo hi d.2.2 else r
    | .cell _ => r) r) r
  let marks := stallMarks r.chip due
  let c := due.foldl (fun c d => match d.2.1 with
    | .cell _ => if r.lost.contains d.1.item then c else c.putFlag (itemKey d.1.item 0x25) (((marks.find? (·.1 = d.1.item)).map (·.2)).getD false)
    | .node .. => c) r.chip
  let c := r.cands.foldl (commitCell marks) c
  { c with eng := { c.eng with items := c.eng.items.map fun x : ItemX =>
    if (begins x) then
      { x with ready := if x.sample.isSome then some (c.num (itemKey x.item (itemOutSub x.item))) else x.ready
               sample := (samples.find? (·.1 = x.item)).map fun s => (s.2, k.epoch) }
    else x } }

/-- WHEEL_SLOT: slot s begins 50·(s mod 20) µs after its edge (R107). Nothing runs before the configuration is loaded
at K5, in OFF and BANKED, or once the engine has stopped. [DESIGN CHOICE: log 4] -/
def execWheelSlot (slot : Fin 200) (faults : List (Fin 768 × LockFault)) (s : State) :
    Host.Outcome State Fault Refusal :=
  onChip (fun k c =>
    let c := { c with us := 50 * (slot.val % 20) }
    if c.mode = .off || c.mode = .banked || c.num Key.Eng.ENGINE_STATE = 3 then c
    else runSlot k c slot.val (faults.map fun f => (f.1.val, f.2))) s

end Sys2Proof.Machine
end

