-- ==== Sys2Proof/Machine/Slots.lean ====
section
/-! DEFINITION. Function slots, impact sensing, crop flow and the yield map (05). -/

namespace Sys2Proof.Machine

/-! ## Source epochs and speed (R36, R143, R144) -/

/-- The source epoch of an object produced below 1 kHz; none for values produced at 1 kHz or faster (R36, R37). -/
def sourceEpoch (c : Chip) (key : Nat) : Option Nat :=
  let ix := key / 256
  let sub := key % 256
  if ix = 0x2601 && sub = 5 then some (c.num Key.Speed.SLOPE_EPOCH)
  else if ix = 0x2601 && sub = 0x0B then some (c.num Key.Speed.GROUND_SPEED_EPOCH)
  else if ix = 0x2702 then some (c.num Key.GErr.SOURCE_EPOCH)
  else if ix = 0x4001 then some (match c.gnss.fix with
    | some f => if 4 ≤ sub && sub ≤ 0x0B then f.edge else c.num Key.Sol.SOL_EPOCH
    | none => c.num Key.Sol.SOL_EPOCH)
  else if ix = 0x4002 && sub ≠ 8 then some (c.num Key.Hdg.HDG_EPOCH)
  else if 0x4220 ≤ ix && ix < 0x4228 then some (c.num (Key.CamSt.FRAME_EPOCH (ix - 0x4220)))
  else if ix = 0x4300 && sub ≤ 5 then some (c.num Key.Fus.PROX_EPOCH)
  else if ix = 0x4302 && 1 ≤ sub && sub ≤ 5 then some (c.num Key.Cart.CART_EPOCH)
  else if 0x4330 ≤ ix && ix < 0x4338 && 0x20 ≤ sub then some (c.num Key.Fus.PROX_EPOCH)
  else if 0x4400 ≤ ix && ix < 0x44C0 && 4 ≤ (ix - 0x4400) % 16 then some (c.num (mkKey ix 9))
  else if (0x2230 ≤ ix && ix < 0x2250) || (0x2224 ≤ ix && ix < 0x222F) then some (c.num (mkKey ix 0x21))
  else none

/-- A referenced object is older than a limit in ms, or its unit is ashed (R143). -/
def refStale (k : Keeper) (c : Chip) (ref limit : Nat) : Bool :=
  refKind ref = 3 && (keyAshed c (refWhich ref)
    || match sourceEpoch c (refWhich ref) with
      | some e => e + limit < k.epoch
      | none => false)

/-- The number an OBJECT reference reads as binary32; NaN where it reads nothing (R105, R106). -/
def refValue (c : Chip) (ref : Nat) : Nat := if refKind ref = 3 then readRef c ref else fmt32.nan

/-- GROUND_SPEED and its companions at an edge (R144): the magnitude of FS24's SENSOR0 while bound and not stale. -/
def groundSpeedEdge (k : Keeper) (c : Chip) : Chip :=
  let ref := c.num (Key.Slot.SENSOR 23 0)
  if refKind ref = 3 && !refStale k c ref (c.num (Key.Slot.STALE 23 0)) then
    ((c.put Key.Speed.GROUND_SPEED (fAbs fmt32 (refValue c ref))).put Key.Speed.GROUND_SPEED_EPOCH
      ((sourceEpoch c (refWhich ref)).getD k.epoch)).putFlag Key.Speed.GROUND_SPEED_VALID true
  else c.putFlag Key.Speed.GROUND_SPEED_VALID false

/-- The horizontal GNSS speed in m/s, of the newest solution other than NONE where it is no older than 200 ms (R144, R264). -/
def gnssSpeed (k : Keeper) (c : Chip) : Option Nat :=
  match c.gnss.fix with
  | some f => if k.epoch ≤ f.edge + 200 then some (c.num Key.Sol.SPEED) else none
  | none => none

/-- The machine's speed in km/h; none where it is unknown (R144). -/
def machineSpeed (k : Keeper) (c : Chip) : Option Nat :=
  if c.flag Key.Speed.GROUND_SPEED_VALID then some (c.num Key.Speed.GROUND_SPEED)
  else (gnssSpeed k c).map fun v => fMul fmt32 v 0x40666666

/-- Speed ≤ 0.5 km/h; an unknown speed fails it (R144). [DEDUCED: log 46] -/
def speedLow (k : Keeper) (c : Chip) : Bool :=
  match machineSpeed k c with
  | some v => fLe fmt32 v 0x3F000000
  | none => false

/-- Speed within 0.5–30 km/h; an unknown speed is outside (R144). -/
def speedInGuideRange (k : Keeper) (c : Chip) : Bool :=
  match machineSpeed k c with
  | some v => fLe fmt32 0x3F000000 v && fLe fmt32 v 0x41F00000
  | none => false

/-! ## Slot states (R145–R150) -/

/-- Classes of slots (Table 3.4, Table 5.1); slot FSnn has number nn − 1 here. -/
inductive SlotClass where
  | header | threshing | unloading | speed | steering | engine
deriving DecidableEq, Repr

def slotClass (s : Nat) : SlotClass :=
  if s < 7 || s = 27 || s = 28 then .header
  else if s < 19 || s = 25 then .threshing
  else if s < 23 || s = 29 then .unloading
  else if s = 23 then .speed
  else if s = 24 then .steering
  else .engine

/-- Table 3.4: 0 LOCKED, 1 at most STANDBY, 2 ACTIVE. -/
def tableCeiling (m : Mode) (s : Nat) : Nat :=
  match m with
  | .road => if slotClass s = .speed || slotClass s = .engine then 2 else 0
  | .field => if slotClass s = .threshing then 1 else 2
  | .harvest => 2
  | _ => 0

/-- The mode's bit in PERMIT. -/
def permits (c : Chip) (s : Nat) : Bool :=
  let p := c.num (Key.Slot.PERMIT s)
  match c.mode with
  | .road => bitOf p 0
  | .field => bitOf p 1
  | .harvest => bitOf p 2
  | _ => true

/-- A slot's ceiling in the present mode (R147). -/
def ceiling (c : Chip) (s : Nat) : Nat := if permits c s then tableCeiling c.mode s else 0

/-- The bound roots of a slot. -/
def boundRoots (c : Chip) (s : Nat) : List Nat := (List.range 4).filter fun r => c.num (Key.Slot.ROOT s r) ≠ 0

/-- Why a root is lost: 0 not lost, 4 an ashed item or target, 3 a stale sensor (R143). -/
def rootLoss (k : Keeper) (c : Chip) (s r : Nat) : Nat :=
  match slotRoot c.od s r with
  | none => 0
  | some i =>
    let root := ((c.eng.items.find? (·.item = i)).map (·.root)).getD i
    let members := i :: (c.eng.items.filter (·.root = root)).map (·.item)
    if members.any (fun m => unitAshed c (unitItem m)) then 4
    else if (itemTarget c.od i).any (keyAshed c) then 4
    else if (List.range 4).any (fun j => bitOf (c.num (Key.Slot.DEP s j)) r
        && refStale k c (c.num (Key.Slot.SENSOR s j)) (c.num (Key.Slot.STALE s j))) then 3
    else if armedAt c Key.InjFs.INJ_FS_LOST (s + 1) || (r = 0 && armedAt c Key.InjFs.INJ_FS_DEGRADED (s + 1)) then 3
    else 0

/-- The mask of lost roots. -/
def lostMask (k : Keeper) (c : Chip) (s : Nat) : Nat :=
  ((boundRoots c s).filter fun r => rootLoss k c s r ≠ 0).foldl (fun m r => m + 2 ^ r) 0

/-- Moves a slot to a state with a cause; STATE_EPOCH takes the edge of a change. [DEDUCED: log 60] -/
def slotTo (k : Keeper) (c : Chip) (s st cause : Nat) : Chip :=
  if c.num (Key.Slot.STATE s) = st then c
  else ((c.put (Key.Slot.STATE s) st).put (Key.Slot.STATE_EPOCH s) (wireEpoch k.epoch)).put (Key.Slot.CAUSE s) cause

/-- The loss rows of Table 5.2 for a slot in ACTIVE or DEGRADED. [DEDUCED: log 60] -/
def slotLoss (k : Keeper) (c : Chip) (s mask : Nat) : Chip :=
  let roots := boundRoots c s
  let lost := roots.filter (bitOf mask)
  let cause := lost.foldl (fun m r => max m (rootLoss k c s r)) 0
  let inj := armedAt c Key.InjFs.INJ_FS_LOST (s + 1) || armedAt c Key.InjFs.INJ_FS_DEGRADED (s + 1)
  let st := c.num (Key.Slot.STATE s)
  if lost = [] then (if st = 3 then slotTo k c s 2 0 else c)
  else if lost.length = roots.length || !c.flag (Key.Slot.DEGRADE_OK s) then
    raise k ((slotTo k c s 1 cause).putFlag (Key.Slot.LOST s) true) 0x0501 (unitSlot (s + 1)) inj
  else if st = 2 then raise k (slotTo k c s 3 cause) 0x0502 (unitSlot (s + 1)) inj
  else c

/-- One slot at an edge (Table 5.2). [DEDUCED: log 60] -/
def slotEdge (k : Keeper) (c : Chip) (s : Nat) : Chip :=
  let mask := lostMask k c s
  let c := c.put (Key.Slot.LOST_ROOTS s) mask
  let st := c.num (Key.Slot.STATE s)
  let ceil := ceiling c s
  let req := c.num (Key.Slot.MODE_REQ s)
  let applied := c.crop.reqs.any (·.1 = s)
  let c' :=
    if ceil = 0 then slotTo k c s 4 (if permits c s then 1 else 2)
    else if st = 4 then
      if req = 0 then slotTo k c s 0 1 else if boundRoots c s = [] then slotTo k c s 0 6 else slotTo k c s 1 1
    else if st = 0 && applied && req = 1 then slotTo k c s 1 5
    else if (st = 0 || st = 1) && applied && req = 2 then
      if ceil = 2 then slotLoss k ((slotTo k c s 2 5).putFlag (Key.Slot.LOST s) false) s mask else slotTo k c s 1 1
    else if st ≠ 0 && applied && req = 0 then slotTo k c s 0 5
    else if st = 2 || st = 3 then
      if applied && req = 1 then slotTo k c s 1 5 else if ceil = 1 then slotTo k c s 1 1 else slotLoss k c s mask
    else c
  disarm (disarm c' Key.InjFs.INJ_FS_LOST (s + 1)) Key.InjFs.INJ_FS_DEGRADED (s + 1)

/-! ## Safe values a target takes (R92, R145, R204) -/

/-- A slot's root puts its target at the safe value: LOCKED, OFF, or held under STANDBY_KIND SAFE. -/
def rootSafe (c : Chip) (s r : Nat) : Bool :=
  let st := c.num (Key.Slot.STATE s)
  st = 4 || st = 0 || (!rootDrives c s r && c.num (Key.Slot.STANDBY_KIND s) = 1)

/-- A slot puts a target at its safe value. -/
def rootsSafe (c : Chip) (tk : Nat) : Bool :=
  allRoots.any fun (s, r) =>
    match slotRoot c.od s r with
    | some i => !isComposite s && itemTarget c.od i = some tk && rootSafe c s r
    | none => false

/-- The programmed safe value of a target is applied: by the mode, by a slot, for an ashed item (R135), or kept by a hold
that began from it (R145). -/
def safeApplied (c : Chip) (tk : Nat) : Bool :=
  modeSafe c.mode
  || (driversOf c tk).any (fun x => unitAshed c (unitItem x.item))
  || rootsSafe c tk || c.crop.keepSafe.contains tk

/-- The targets of the bound roots that have a target of their own. -/
def boundTargets (c : Chip) : List Nat :=
  (allRoots.filterMap fun (s, r) => if isComposite s then none else (slotRoot c.od s r).bind (itemTarget c.od)).eraseDups

/-- A hold under STANDBY_KIND HOLD begins at this edge: the target goes back to its value at the edge before, and what the
engine presented since then does not reach the device (R145). [DEDUCED: log 96] -/
def holdBack (c : Chip) (tk : Nat) : Chip :=
  match c.crop.applied.find? (·.1 = tk) with
  | none => c
  | some (_, v) =>
    let c := (c.put tk v)
    if isDeviceKey tk then
      { c with link := { c.link with now := c.link.now.filter (fun m => decide (m.1 ≠ tk)) ++ [(tk, v)] } }
    else c

/-- The holds of an edge, from the chip before its slots moved: a target newly held goes back to the value of the edge
before, and one that came from a safe value keeps that one. A mapped message has no device to keep it.
[DEDUCED: log 96] -/
def holdsEdge (was c : Chip) : Chip :=
  let ts := boundTargets c
  let held := ts.filter fun tk => slotHolds c tk && !rootsSafe c tk
  let fromSafe := held.filter fun tk => isDeviceKey tk && safeApplied was tk
  let c := (held.filter fun tk => !slotHolds was tk && !safeApplied was tk).foldl holdBack c
  { c with crop := { c.crop with keepSafe := fromSafe, applied := ts.map fun tk => (tk, c.num tk) } }

/-- Every slot at an edge (R149). The MODE_REQ writes of the edge are used up. -/
def slotsEdge (k : Keeper) (c : Chip) : Chip :=
  let c := holdsEdge c ((List.range 30).foldl (slotEdge k) c)
  { c with crop := { c.crop with reqs := [] } }

/-- Targets that slots or items can override: those of the bound roots and of the items on the wheel. -/
def drivenTargets (c : Chip) : List Nat :=
  ((allRoots.filterMap fun (s, r) => (slotRoot c.od s r).bind (itemTarget c.od))
    ++ c.eng.items.filterMap fun x => itemTarget c.od x.item).eraseDups

/-! ## CAN-mapped messages (R152–R155) -/

/-- Highest raw value of a signal (R154). -/
def rawMax (bits : Nat) : Nat :=
  match bits with
  | 8 => 0xFA | 16 => 0xFAFF | 24 => 0xFAFFFF | 32 => 0xFAFFFFFF | 1 => 1 | b => 2 ^ b - 3

/-- The raw value of CAN_CMD (R154). -/
def rawOf (cmd offset scale bits : Nat) : Nat :=
  let q := clDiv (clSub cmd offset) scale
  if q = fmt32.inf then rawMax bits
  else if q = fSign fmt32 true fmt32.inf then 0
  else min (fNearestEven fmt32 q).toNat (rawMax bits)

/-- The frame's bytes: the fill with the raw value in its bits, CAN_LEN bytes (R154). -/
def mapBytes (fill start bits raw len : Nat) : List Byte :=
  let hole := (2 ^ bits - 1) * 2 ^ start
  leBytes len ((fill - (fill &&& hole) + raw % 2 ^ bits * 2 ^ start) % 2 ^ 64)

/-! ## Impact sensing (R157–R161) -/

/-- The magnitude of a sample. -/
def sampleMag (s : Int) : Nat := s.natAbs

/-- Counts a finished event by the limits of its beginning (R157, R159): of an event that began in the epoch before, in
that epoch. -/
def impCount (x : ImpX) (e : ImpEvent) : ImpX :=
  let grain := e.aMin ≤ e.peak && e.rise ≤ e.riseMax
  let x := { x with event := none }
  match e.prev, x.hist with
  | true, (g, o, m, cl) :: t =>
    if grain then { x with hist := (g + 1, o, m, cl) :: t, late := (x.late.1 + 1, x.late.2) }
    else { x with hist := (g, o + 1, m, cl) :: t, late := (x.late.1, x.late.2 + 1) }
  | _, _ => if grain then { x with grain := x.grain + 1 } else { x with other := x.other + 1 }

/-- The run of samples within ±2 codes of one value after one more sample: it reaches back to the newest sample that is
more than 4 codes away. -/
def impStill (x : ImpX) (s : Int) : ImpX :=
  let seen := x.seen.map fun v => (v.1, v.2 + 1)
  let still := seen.foldl (fun n v => if 4 < (v.1 - s).natAbs then min n (v.2 - 1) else n) (x.still + 1)
  { x with still, last := s
           seen := (s, 1) :: seen.filter fun v => v.1 ≠ s && v.2 ≤ still }

/-- One sample of an enabled channel (R157, R159). -/
def impSample (x : ImpX) (s : Int) : ImpX :=
  let mag := sampleMag s
  let x := { impStill x s with clipped := x.clipped || s ≤ -8192 || 8191 ≤ s }
  match x.event with
  | none =>
    if x.limits.1 ≤ mag then { x with event := some ⟨1, mag, 1, x.limits.2.1, x.limits.2.2, false⟩ } else x
  | some e =>
    let e := { e with count := e.count + 1, peak := max e.peak mag, rise := if e.peak < mag then e.count + 1 else e.rise }
    if e.count = 5 then impCount x e else { x with event := some e }

/-- A channel that senses: enabled and not ashed. -/
def impOn (c : Chip) (ch : Nat) : Bool := c.flag (Key.Imp.ENABLE ch) && !keyAshed c (Key.Imp.ENABLE ch)

/-- A good DXA frame: ten samples per channel (R23); an injected freeze repeats the sample before it (Table 5.13). -/
def impFrame (k : Keeper) (c : Chip) (samples : List (Nat × List Int)) : Chip :=
  let take := fun (x : ImpX) (ch : Nat) =>
    let frozen := armedFor k c Key.InjFs.INJ_IMP_STUCK ch
    if impOn c ch then
      (((samples.find? (·.1 = ch)).map (·.2)).getD []).foldl (fun x s => impSample x (if frozen then x.last else s)) x
    else x
  { c with crop := { c.crop with imps := (c.crop.imps.zip (List.range 16)).map fun p => take p.1 p.2 } }

/-- A missing DXA frame: 5 µs less live time, and an event that needs it is discarded (R159). -/
def impGap (c : Chip) : Chip :=
  { c with crop := { c.crop with imps := c.crop.imps.map fun x => { x with missing := x.missing + 1, event := none } } }

/-- Rates of a window (R160): N_GRAIN, N_OTHER, M_GRAIN, M_OTHER and whether n·τ is above 0.9; `forced` computes at
n·τ = 0.95. -/
def impRates (cg co tUs : Nat) (forced : Bool) : Nat × Nat × Nat × Nat × Bool :=
  let t := fNat fmt32 tUs
  let lim := 0x3F666666
  let x := if forced then 0x3F733333 else fDiv fmt32 (fRatio fmt32 (5 * (cg + co)) 2) t
  let sat := fLt fmt32 lim x
  let x := if sat then lim else x
  let one := 0x3F800000
  let g := fDiv fmt32 one (fSub fmt32 one x)
  let ng := fDiv fmt32 (fNat fmt32 (cg * 1000000)) t
  let no := fDiv fmt32 (fNat fmt32 (co * 1000000)) t
  (ng, no, fMul fmt32 ng g, fMul fmt32 no g, sat)

/-- The epoch that ended goes into a channel's history, and the thresholds of the edge come into force (R159, R160). -/
def impAge (c : Chip) (ch : Nat) (x : ImpX) (clipped : Bool) : ImpX :=
  { x with hist := ((x.grain, x.other, x.missing, clipped) :: x.hist).take 1000
           grain := 0, other := 0, missing := 0, clipped := false, late := (0, 0)
           limits := (c.num (Key.Imp.TRIG ch), c.num (Key.Imp.GRAIN_A_MIN ch), c.num (Key.Imp.GRAIN_RISE_MAX ch))
           event := x.event.map fun e => { e with prev := true } }

/-- Samples of a channel in 100 ms, at 2 MS/s (R23). -/
def stuckSamples : Nat := 200000

/-- One channel at an edge (R160, Table 5.4, Table 5.12). A channel that does not sense has no events, and its history
goes on. -/
def impEdge (k : Keeper) (c : Chip) (ch : Nat) : Chip :=
  let x := nth c.crop.imps ch {}
  if !impOn c ch then
    let c := { c with crop := { c.crop with
      imps := c.crop.imps.set ch { impAge c ch x false with event := none, still := 0, seen := [] } } }
    if !c.flag (Key.Imp.ENABLE ch) then c
    else [Key.Imp.N_GRAIN ch, Key.Imp.N_OTHER ch, Key.Imp.M_GRAIN ch, Key.Imp.M_OTHER ch].foldl
      (fun c key => c.put key fmt32.nan) c
  else
    let clipInj := armedAt c Key.InjFs.INJ_IMP_CLIPPED ch
    let satInj := armedAt c Key.InjFs.INJ_IMP_SATURATED ch
    let stuckInj := c.flt.armed.any fun a => a.key = Key.InjFs.INJ_IMP_STUCK && a.value = ch && k.epoch ≤ a.until_
    let clipped := x.clipped || clipInj
    let hist := ((x.grain, x.other, x.missing, clipped) :: x.hist).take 1000
    let w := c.num (Key.Imp.WINDOW ch)
    let win := hist.take w
    let cg := win.foldl (fun n h => n + h.1) 0
    let co := win.foldl (fun n h => n + h.2.1) 0
    let miss := win.foldl (fun n h => n + h.2.2.1) 0
    let tUs := w * 1000 - 5 * miss
    let (ng, no, mg, mo, sat) := impRates cg co tUs satInj
    let stuck := stuckSamples ≤ x.still
    let flags := (if sat then 1 else 0) + (if miss ≠ 0 then 2 else 0) + (if win.any (·.2.2.2) then 4 else 0)
    let (g0, o0) := (x.grain + x.late.1, x.other + x.late.2)
    let x := impAge c ch x clipped
    let x := if stuck then { x with still := 0, seen := [] } else x
    let c := { c with crop := { c.crop with imps := c.crop.imps.set ch x } }
    let c := (c.bump (Key.Imp.COUNT_GRAIN ch) g0).bump (Key.Imp.COUNT_OTHER ch) o0
    let c := (((c.put (Key.Imp.N_GRAIN ch) ng).put (Key.Imp.N_OTHER ch) no).put (Key.Imp.M_GRAIN ch) mg).put
      (Key.Imp.M_OTHER ch) mo
    let c := (c.put (Key.Imp.LIVE_US ch) tUs).put (Key.Imp.FLAGS ch) flags
    let c := if clipped then raise k (disarm c Key.InjFs.INJ_IMP_CLIPPED ch) 0x0504 (unitImp ch) clipInj else c
    let c := if sat then raise k (disarm c Key.InjFs.INJ_IMP_SATURATED ch) 0x0505 (unitImp ch) satInj else c
    if stuck then raise k (disarm c Key.InjFs.INJ_IMP_STUCK ch) 0x0506 (unitImp ch) stuckInj else c

/-! ## Crop flow (R163) -/

/-- Adds two ratios. [DEDUCED: log 61] -/
def ratAdd (a b : Int × Nat) : Int × Nat := (a.1 * b.2 + b.1 * a.2, a.2 * b.2)

/-- Σ M_GRAIN · KERNEL_MASS / COVERAGE over the enabled channels of a role, exact, in kg/s; none where a channel reads
NaN. [DEDUCED: log 61] -/
def roleSum (c : Chip) (role : Nat) : Option (Int × Nat) :=
  let chans := (List.range 16).filter fun ch => c.flag (Key.Imp.ENABLE ch) && c.num (Key.Imp.ROLE ch) = role
  let mass := fExact fmt32 (c.num (Key.Crop.KERNEL_MASS (c.num Key.Map.CROP)))
  if chans.any (fun ch => !fFinite fmt32 (c.num (Key.Imp.M_GRAIN ch))) then none
  else some (chans.foldl (fun acc ch =>
    let m := fExact fmt32 (c.num (Key.Imp.M_GRAIN ch))
    let cov := fExact fmt32 (c.num (Key.Imp.COVERAGE ch))
    ratAdd acc (m.1 * mass.1 * cov.2, m.2 * mass.2 * cov.1.toNat * 1000000)) (0, 1))

/-- A sum scaled by a calibration, rounded once. [DEDUCED: log 61] -/
def calRound (sum : Option (Int × Nat)) (cal : Nat) : Nat :=
  match sum with
  | none => fmt32.nan
  | some s => let k := fExact fmt32 cal; fRatio fmt32 (s.1 * k.1) (s.2 * k.2)

/-- GRAIN_FLOW, LOSS_RATE and LOSS_PCT at an edge (R163). [DEDUCED: log 61] -/
def cropFlowEdge (c : Chip) : Chip :=
  let crop := c.num Key.Map.CROP
  let flow := calRound (roleSum c 2) (c.num (Key.Crop.YIELD_CAL crop))
  let loss := calRound (roleSum c 1) (c.num (Key.Crop.LOSS_CAL crop))
  let pct :=
    if !fFinite fmt32 flow || !fFinite fmt32 loss then fmt32.nan
    else
      let f := fExact fmt32 flow
      let l := fExact fmt32 loss
      let s := ratAdd f l
      if s.1 = 0 then 0 else fRatio fmt32 (100 * l.1 * s.2) (l.2 * s.1.toNat)
  ((c.put Key.Speed.GRAIN_FLOW flow).put Key.Speed.LOSS_RATE loss).put Key.Speed.LOSS_PCT pct

/-! ## Slope cap (R164) -/

/-- The cap for a tilt magnitude. [DEDUCED: log 61] -/
def slopeCap (v0 v1 a0 a1 a : Nat) : Nat :=
  if fLe fmt32 a a0 then v0
  else if fLe fmt32 a a1 then
    let x := fExact fmt32 a
    let l := fExact fmt32 a0
    let h := fExact fmt32 a1
    -- (a − a0) / (a1 − a0) as a ratio
    let n := (x.1 * l.2 - l.1 * x.2) * h.2
    let d := (h.1 * l.2 - l.1 * h.2) * x.2
    fLerp fmt32 v0 v1 n.toNat d.toNat
  else v1

/-- SLOPE_CAP_CYCLE: from the end of K4, at every edge that is a multiple of 50, the tiles take the tilt (R164). -/
def execSlopeCapCycle (s : State) : Host.Outcome State Fault Refusal :=
  onChip (fun k c =>
    if k.epoch % 50 ≠ 0 || !tilesRun c || c.mode = .off || c.mode = .banked
        || (c.mode = .kindling && c.num Key.Kindling.KINDLING_STEP < 5) then c
    else
      let tilt := c.flag Key.Hdg.HDG_VALID
      let v0 := c.num Key.Speed.SLOPE_V0
      let v1 := c.num Key.Speed.SLOPE_V1
      let cap := if tilt then slopeCap v0 v1 (c.num Key.Speed.SLOPE_A0) (c.num Key.Speed.SLOPE_A1)
          (fAbs fmt32 (c.num Key.Hdg.TILT)) else v1
      let epoch := if tilt then c.num Key.Hdg.HDG_EPOCH else wireEpoch k.epoch
      { c with crop := { c.crop with slope := some (k.epoch, cap, epoch) } }) s

/-- SLOPE_CAP_COMPLETE: within 5 ms of its edge the cycle's cap becomes due at the first open edge (R164).
[DEDUCED: log 7] -/
def execSlopeCapComplete (s : State) : Host.Outcome State Fault Refusal :=
  onChip (fun k c =>
    match c.crop.slope with
    | none => c
    | some (_, cap, epoch) =>
      let c := tileWrite k c Key.Speed.SLOPE_CAP (.num cap)
      let c := tileWrite k c Key.Speed.SLOPE_EPOCH (.num epoch)
      { c with crop := { c.crop with slope := none } }) s

/-! ## Yield map (R167–R173) -/

/-- D: the active crop's DELAY in whole epochs (R167). -/
def transportDelay (c : Chip) : Nat :=
  let d := fExact fmt32 (c.num (Key.Crop.DELAY (c.num Key.Map.CROP)))
  ((2 * 1000 * d.1 + d.2) / (2 * d.2)).toNat

/-- A finite binary32 value in units of 2^−149. -/
def fUnits (a : Nat) : Int :=
  match fUnpack fmt32 a with
  | .fin s m e => (if s then -1 else 1) * ((m * 2 ^ (e + 149).toNat : Nat) : Int)
  | _ => 0

/-- The speed the map integrates, m/s in units of 2^−149 per 3.6 of GROUND_SPEED; none where neither speed is
available (R168). The result is a numerator over a denominator. -/
def mapSpeed (k : Keeper) (c : Chip) : Option (Nat × Nat) :=
  match gnssSpeed k c with
  | some v => some ((fUnits v).toNat, 1)
  | none => if c.flag Key.Speed.GROUND_SPEED_VALID then some (5 * (fUnits (c.num Key.Speed.GROUND_SPEED)).toNat, 18)
    else none

/-- MRAM buffer or, while MRAM writing is not permitted, the holding area: the area that must take the next record is
full, or below half (R171). -/
def deferArea (c : Chip) : Nat := if c.num Key.WrHold.MRAM_WRITE = 0 then c.crop.mram.length else c.crop.held.length

def deferFull (k : Keeper) (c : Chip) : Bool :=
  (c.num Key.WrHold.UFS_WRITE ≠ 0 && 32768 ≤ deferArea c) || armedFor k c Key.InjFs.INJ_MAP_HELD 1

/-- The records of a map, in order. -/
def mapRecords (c : Chip) (n : Nat) : List (List Byte) := ((c.crop.maps.find? (·.number = n)).map (·.records)).getD []

/-- MAP_DATA of a map: its 16-byte header and its records (R173). [DEDUCED: log 62] -/
def mapData (m : YMap) : List Byte :=
  leBytes 2 m.number ++ leBytes 1 m.crop ++ leBytes 1 1 ++ leBytes 4 m.records.length ++ ((m.records.headD []).take 6 ++
    List.replicate (6 - (m.records.headD []).length) 0) ++ leBytes 2 0 ++ m.records.flatten

/-- RECORDS, MAPS, DEFERRED and MAP_DATA follow the stored maps (Table 5.10). [DEDUCED: log 62] -/
def mapShow (c : Chip) : Chip :=
  let c := ((c.put Key.Map.RECORDS (mapRecords c (c.num Key.Map.MAP_NUMBER)).length).put Key.Map.MAPS
    c.crop.maps.length).put Key.Map.DEFERRED (c.crop.mram.length + c.crop.held.length)
  c.putBlob Key.Map.MAP_DATA (((c.crop.maps.find? (·.number = c.num Key.Map.MAP_SELECT)).map mapData).getD [])

/-- Propagates a coordinate linearly to an edge: degrees in 1e-7 and a velocity north or east in m/s over `ms`, by a
metre's length in 1e-7°, exact but for the rounding to the nearest unit (R169). [DESIGN CHOICE: log 14] -/
def propagate (deg : Nat) (vel ms : Nat) (unitsPerMetre : Int × Nat) : Nat :=
  if deg = 0x80000000 then deg
  else
    let v := fExact fmt32 vel
    let num := v.1 * ms * unitsPerMetre.1
    let den := v.2 * 1000 * unitsPerMetre.2
    ofInt 32 (toInt 32 deg + (2 * num + den) / (2 * den))

/-- The open interval closes at this edge: its record waits for its grain (R168, R169). Its position is that of the newest
solution, where one is no older than 200 ms. [DESIGN CHOICE: log 97] -/
def closeInterval (k : Keeper) (c : Chip) (iv : Interval) (byDist last : Bool) : Chip :=
  let newest := c.gnss.fix.filter fun f : FixX => decide (k.epoch ≤ f.edge + 200)
  let (lat, lon) := match newest with
    | some f => (propagate f.lat f.velN (k.epoch - f.edge) Config.latUnits,
        propagate f.lon f.velE (k.epoch - f.edge) (Config.lonUnits f.lat))
    | none => (0x80000000, 0x80000000)
  let href := c.num Key.Map.HEADER_REF
  let hv := refValue c href
  let header : Int := if fFinite fmt32 hv then fNearest fmt32 hv else 0
  let mean := if iv.count = 0 then 0 else (2 * iv.dist * 1000 / (18 * 2 ^ 149) + iv.count) / (2 * iv.count)
  let flags := c.num Key.Map.CROP * 4096 + (if iv.first then 256 else 0) + (if last then 128 else 0)
    + (if iv.gap then 64 else 0) + (if iv.saturated then 32 else 0)
    + (if toInt 16 (c.num Key.Map.CUT_HEIGHT_MAX) < header then 8 else 0) + (if byDist then 4 else 0)
    + (if newest.any fun f => decide (f.kind = 5) then 2 else 0) + (if newest.isSome then 0 else 1)
  let t : Transit := { start := iv.start, stop := k.epoch, gnssMs := gnssMs c, lat, lon, speed := min mean 0xFFFF
                       width := c.num Key.Map.CUT_WIDTH, header := ofInt 16 header, flags }
  { c with crop := { c.crop with interval := none, transit := c.crop.transit ++ [t], lastClose := k.epoch } }

/-- An interval opens at this edge. -/
def openInterval (k : Keeper) (c : Chip) : Chip :=
  { c with crop := { c.crop with interval := some { start := k.epoch, first := c.crop.first }, first := false } }

/-- Flow and moisture of this edge's epoch go into the records whose grain now passes (R169). [DESIGN CHOICE: log 97] -/
def transitEdge (k : Keeper) (c : Chip) : Chip :=
  let d := transportDelay c
  let gf := c.num Key.Speed.GRAIN_FLOW
  let mref := c.num Key.Map.MOIST_REF
  let mv := refValue c mref
  let stale := refKind mref ≠ 3 || refStale k c mref (c.num Key.Map.MOIST_STALE)
  { c with crop := { c.crop with transit := c.crop.transit.map fun t =>
    if t.start + d ≤ k.epoch && k.epoch < t.stop + d then
      { t with flow := t.flow + (fUnits gf).toNat, flowBad := t.flowBad || !fFinite fmt32 gf, moist := t.moist + fUnits mv, moistBad := t.moistBad || !fFinite fmt32 mv
               stale := t.stale || stale, count := t.count + 1 }
    else t } }

/-- The open interval takes this epoch's distance and flags (R168). -/
def intervalEdge (k : Keeper) (c : Chip) (iv : Interval) : Interval :=
  let yieldOn := fun ch => c.flag (Key.Imp.ENABLE ch) && c.num (Key.Imp.ROLE ch) = 2
  let any := fun bit => (List.range 16).any fun ch => yieldOn ch && bitOf (c.num (Key.Imp.FLAGS ch)) bit
  let gap := (List.range 16).any fun ch => c.flag (Key.Imp.ENABLE ch) && bitOf (c.num (Key.Imp.FLAGS ch)) 1
  let iv := { iv with gap := iv.gap || gap, saturated := iv.saturated || any 0 }
  match mapSpeed k c with
  | some (n, den) => { iv with dist := iv.dist + n * (18 / den), count := iv.count + 1 }
  | none => iv

/-- Map states at an edge (Table 5.7). -/
def mapEdge (k : Keeper) (c : Chip) : Chip :=
  let run := c.flag Key.Map.MAP_RUN && c.mode = .harvest
  let st := c.num Key.Map.MAP_STATE
  let c := transitEdge k c
  let full := deferFull k c
  let toHeld := fun c : Chip =>
    raise k ({ c with crop := { c.crop with first := true } }.put Key.Map.MAP_STATE 3) 0x0508 theModule
      (armedFor k c Key.InjFs.INJ_MAP_HELD 1)
  match st with
  | 0 => if run then (openInterval k { c with crop := { c.crop with first := true } }).put Key.Map.MAP_STATE 1 else c
  | 1 =>
    match c.crop.interval with
    | none => if run then openInterval k c else c.put Key.Map.MAP_STATE 2
    | some iv =>
      let iv := intervalEdge k c iv
      let c := { c with crop := { c.crop with interval := some iv } }
      -- 2.00 m: the sum of speeds over 1 ms epochs, in units of 2^−149 · 18 m/s · ms
      let far := 2000 * 18 * 2 ^ 149 ≤ iv.dist
      if full then toHeld (closeInterval k c iv far true)
      else if !run then (closeInterval k c iv far true).put Key.Map.MAP_STATE 2
      else if far || iv.start + 1000 ≤ k.epoch then openInterval k (closeInterval k c iv far false)
      else c
  | 2 =>
    if full then toHeld c
    else if run then (openInterval k c).put Key.Map.MAP_STATE 1
    else if c.crop.lastClose + transportDelay c ≤ k.epoch && c.crop.transit = [] then c.put Key.Map.MAP_STATE 0
    else c
  | _ =>
    if deferArea c < 16384 && !armedFor k c Key.InjFs.INJ_MAP_HELD 1 then
      let c := closeHandling c 0x0508 theModule
      if run then (openInterval k c).put Key.Map.MAP_STATE 1 else c.put Key.Map.MAP_STATE 0
    else c

/-- A mean in units of 2^−149 as F16, nearest even (R172). -/
def meanF16 (sum : Int) (count : Nat) : Nat := fRatio fmt16 sum (2 ^ 149 * max count 1)

/-- The 32 bytes of a record (Table 5.8). -/
def yieldBytes (t : Transit) : List Byte :=
  let moist := if t.moistBad then fmt16.nan else meanF16 t.moist t.count
  let flow := if t.flowBad then fmt16.nan else meanF16 t.flow t.count
  leBytes 6 t.stop ++ leBytes 6 t.gnssMs ++ leBytes 4 t.lat ++ leBytes 4 t.lon ++ leBytes 2 flow ++
    leBytes 2 moist ++ leBytes 2 t.speed ++ leBytes 2 t.width ++ leBytes 2 t.header ++
    leBytes 2 (t.flags + if t.stale then 16 else 0)

/-- Appends a record to its map in UFS, creating the map where it is new (R170). [DEDUCED: log 80] -/
def ufsAppend (c : Chip) (n : Nat) (r : List Byte) : Chip :=
  let maps := if c.crop.maps.any (·.number = n) then
      c.crop.maps.map fun m => if m.number = n then { m with records := m.records ++ [r] } else m
    else c.crop.maps ++ [⟨n, c.num Key.Map.CROP, [r]⟩]
  { c with crop := { c.crop with maps } }

/-- The next completed record goes to UFS at once. -/
def recordDirect (c : Chip) : Bool :=
  c.num Key.WrHold.UFS_WRITE = 0 && !armedAt c Key.InjFs.INJ_MAP_DEFERRED 1 && c.crop.mram = [] && c.crop.held = []

/-- The next deferred record goes to the MRAM buffer, not to the holding area. -/
def recordToMram (c : Chip) : Bool := c.num Key.WrHold.MRAM_WRITE = 0 && c.crop.held = []

/-- The area that must take the next completed record has room for it: each holds 32,768 (R171). -/
def recordRoom (c : Chip) : Bool :=
  recordDirect c || (if recordToMram c then c.crop.mram.length < 32768 else c.crop.held.length < 32768)

/-- A completed record is written, or deferred while writing is not permitted (R171); order is kept. -/
def queueRecord (k : Keeper) (c : Chip) (r : List Byte) : Chip :=
  let n := c.num Key.Map.MAP_NUMBER
  let inj := armedAt c Key.InjFs.INJ_MAP_DEFERRED 1
  if recordDirect c then mapShow (ufsAppend c n r)
  else
    let c := disarm c Key.InjFs.INJ_MAP_DEFERRED 1
    let c := if recordToMram c then
        { c with crop := { c.crop with mram := c.crop.mram ++ [(n, r)] } }
      else { c with crop := { c.crop with held := c.crop.held ++ [(n, r)] } }
    mapShow (raise k c 0x0507 theModule inj)

/-- YIELD_RECORD_COMPLETE: at edge e + D the oldest record in transit is completed and queued (R169). None is dropped: one
that finds no room waits for it (R171). [DESIGN CHOICE: log 97] -/
def execYieldRecordComplete (s : State) : Host.Outcome State Fault Refusal :=
  onChip (fun k c =>
    match c.crop.transit with
    | [] => c
    | t :: rest =>
      if k.epoch < t.stop + transportDelay c || !recordRoom c then c
      else queueRecord k { c with crop := { c.crop with transit := rest } } (yieldBytes t)) s

/-- DEFERRED_RECORD_FLUSH: with UFS writing permitted every deferred record is written in order; with only MRAM writing
permitted the holding area moves into the MRAM buffer (R171). -/
def execDeferredRecordFlush (s : State) : Host.Outcome State Fault Refusal :=
  onChip (fun _ c =>
    if c.mode = .off || c.mode = .banked then c
    else if c.num Key.WrHold.UFS_WRITE = 0 then
      let all := c.crop.mram ++ c.crop.held
      mapShow { all.foldl (fun c r => ufsAppend c r.1 r.2) c with
        crop := { (all.foldl (fun c r => ufsAppend c r.1 r.2) c).crop with mram := [], held := [] } }
    else if c.num Key.WrHold.MRAM_WRITE = 0 then
      let room := 32768 - c.crop.mram.length
      mapShow { c with crop := { c.crop with mram := c.crop.mram ++ c.crop.held.take room, held := c.crop.held.drop room } }
    else c) s

end Sys2Proof.Machine
end

