-- ==== Sys2Proof/Machine/Gnss.lean ====
section
/-! DEFINITION. GNSS, position and time (09): measurements, solutions, corrections, the time state, pulses. -/

namespace Sys2Proof.Machine

/-! ## Binary64 -/

def dAdd (a b : Nat) : Nat := fAdd fmt64 a b
def dSub (a b : Nat) : Nat := fSub fmt64 a b
def dMul (a b : Nat) : Nat := fMul fmt64 a b
def dDiv (a b : Nat) : Nat := fDiv fmt64 a b
def dRat (n : Int) (d : Nat) : Nat := fRatio fmt64 n d
def dOpp (a : Nat) : Nat := fOpp fmt64 a
def dLe (a b : Nat) : Bool := fLe fmt64 a b
/-- A binary32 object in binary64. -/
def Chip.d (c : Chip) (key : Nat) : Nat := fConv fmt32 fmt64 (c.num key)
/-- Millimetres of an I32 object in metres. -/
def Chip.mm (c : Chip) (key : Nat) : Nat := dRat (toInt 32 (c.num key)) 1000
/-- An exact fixed-point number rounded to binary64. -/
def dFx (x : Int) : Nat := dRat x fxOne

/-! ## Positions -/

/-- e² of the WGS 84 ellipsoid: f (2 − f) with f = 1 / 298.257223563. -/
def wgsE2 : Nat := dRat (1000000000 * (2 * 298257223563 - 1000000000)) (298257223563 * 298257223563)

/-- ECEF coordinates of a position in 1e-7 degrees and mm, in metres. -/
def ecef (lat lon hgt : Int) : Nat × Nat × Nat :=
  let p := fxSinCos lat 10000000
  let l := fxSinCos lon 10000000
  let (sp, cp) := (dFx p.1, dFx p.2)
  let (sl, cl) := (dFx l.1, dFx l.2)
  let n := dDiv (dRat 6378137 1) (fSqrt fmt64 (dSub (dRat 1 1) (dMul wgsE2 (dMul sp sp))))
  let h := dRat hgt 1000
  let r := dMul (dAdd n h) cp
  (dMul r cl, dMul r sl, dMul (dAdd (dMul n (dSub (dRat 1 1) wgsE2)) h) sp)

/-! ## Antennas (R259) -/

/-- ANT_STATUS of an antenna. -/
def antStatus (c : Chip) (a : Nat) : Nat := c.num Key.Gnss.ANT_STATUS / 4 ^ a % 4

/-- Sets ANT_STATUS of an antenna. -/
def setAntStatus (c : Chip) (a v : Nat) : Chip :=
  c.put Key.Gnss.ANT_STATUS (c.num Key.Gnss.ANT_STATUS - antStatus c a * 4 ^ a + v * 4 ^ a)

/-- An antenna's bias is on. -/
def biasOn (c : Chip) (a : Nat) : Bool := bitOf (c.num Key.Gnss.ANT_BIAS) a

/-- An antenna reads open: reported unless its bit of ANT_BIAS is cleared. -/
def antOpen (k : Keeper) (c : Chip) (a : Nat) (injected : Bool) : Chip :=
  if antStatus c a ≠ 0 || !biasOn c a then c else raise k (setAntStatus c a 1) 0x0901 (unitAnt a) injected

/-- ANT_BIAS is written: OPEN is not judged where the bias is off, and none stands (R259). [DEDUCED: log 99] -/
def antBiasApply (c : Chip) : Chip :=
  [0, 1].foldl (fun c a => if antStatus c a = 1 && !biasOn c a then setAntStatus c a 0 else c) c

/-- ANTENNA_BIAS_OPEN: below 2 mA for 1 s. -/
def execAntennaBiasOpen (ant : Fin 2) (s : State) : Host.Outcome State Fault Refusal :=
  onChip (fun k c => if up c 8 then antOpen k c ant.val false else c) s

/-- A bias above 150 mA is cut, SHORT is reported, and a retry follows after 1 s. -/
def antShort (k : Keeper) (c : Chip) (a : Nat) (injected : Bool) : Chip :=
  if antStatus c a = 3 || !biasOn c a then c
  else
    let c := { setAntStatus c a 2 with gnss := { c.gnss with
      biasRetry := c.gnss.biasRetry.set a (some (nowUs k c + 1000000)) } }
    raise k c 0x0902 (unitAnt a) injected

/-- ANTENNA_BIAS_SHORT. -/
def execAntennaBiasShort (ant : Fin 2) (s : State) : Host.Outcome State Fault Refusal :=
  onChip (fun k c => if up c 8 then antShort k c ant.val false else c) s

/-- ANTENNA_BIAS_RETRY: 1 s after the cut the bias returns; it holds, or it is short again. An antenna that reads open
holds again when its bias current is back. -/
def execAntennaBiasRetry (ant : Fin 2) (holds : Bool) (s : State) : Host.Outcome State Fault Refusal :=
  onChip (fun k c =>
    let a := ant.val
    let clear := { c with gnss := { c.gnss with biasRetry := c.gnss.biasRetry.set a none } }
    match antStatus c a, nth c.gnss.biasRetry a none with
    | 1, _ => if holds then setAntStatus c a 0 else c
    | 2, some t =>
      if nowUs k c < t then c
      else if holds || !biasOn c a then closeHandling (setAntStatus clear a 0) 0x0902 (unitAnt a)
      else antShort k c a false
    | _, _ => c) s

/-! ## Measurements and words (R260–R262) -/

/-- An edge is a measurement edge for a multiple of milliseconds (R260). -/
def isMeasEdge (k : Keeper) (c : Chip) (ms : Nat) : Bool :=
  if c.flag Key.Epoch.EPOCH_ALIGNED then c.num Key.Epoch.EDGE_GNSS_MS % ms = 0 else k.epoch % ms = 0

/-- What an injected noise rise reads: above 10 dB. [DESIGN CHOICE: log 103] -/
def injectedRise : Nat :=
  if fFinite fmt32 Config.injectedNoise && fLt fmt32 (fNat fmt32 10) Config.injectedNoise then Config.injectedNoise
  else fRatio fmt32 11 1

/-- NOISE_RISE above 10 dB for 1 s raises GNSS_NOISE (Table 9.10). -/
def noiseEdge (k : Keeper) (c : Chip) (measured : Nat) : Chip :=
  let inj := armedFor k c Key.Inj.GNSS_NOISE 1
  let rise := if inj then injectedRise else measured
  let high := inj || fLt fmt32 (fNat fmt32 10) rise
  let c := c.put Key.Gnss.NOISE_RISE rise
  let g := c.gnss
  match g.noiseAt with
  | none => if high then { c with gnss := { g with noiseAt := some k.epoch } } else c
  | some t =>
    if !high then { c with gnss := { g with noiseAt := none } }
    else if t ≠ 0 && t + 1000 ≤ k.epoch then
      raise k { c with gnss := { g with noiseAt := some 0 } } 0x0903 theModule inj
    else c

/-! ## Channels (R257) -/

/-- Puts a signal behind those of no lower elevation. -/
def byElevation (x : GnssSignal) : List GnssSignal → List GnssSignal
  | [] => [x]
  | y :: t => if fLe fmt32 x.elevation.toNat y.elevation.toNat then y :: byElevation x t else x :: y :: t

/-- A satellite stands above ELEV_MASK. [DEDUCED: log 99] -/
def aboveMask (c : Chip) (x : GnssSignal) : Bool := fLe fmt32 (c.num Key.Gnss.ELEV_MASK) x.elevation.toNat

/-- The signals that get a channel, `cap` in all and 512 at an antenna: those of satellites above ELEV_MASK on ANT0 by
descending elevation, the same signals on ANT1, then the rest on ANT0. [DEDUCED: log 99] -/
def channelsGiven (c : Chip) (cap : Nat) (signals : List GnssSignal) : List GnssSignal :=
  let on := signals.filter fun x => bitOf (c.num Key.Gnss.SIG_ENABLE) x.signal.val && antStatus c x.ant.val ≠ 3
  let ant0 := (on.filter fun x => x.ant.val = 0).foldl (fun l x => byElevation x l) []
  let first := (ant0.filter (aboveMask c)).take 512
  let same := (first.filterMap fun x => on.find? fun y => y.ant.val = 1 && y.signal = x.signal && y.sv = x.sv).take 512
  let rest := (ant0.filter fun x => !aboveMask c x).take (512 - first.length)
  (first ++ same ++ rest).take cap

/-- The system of a signal (Table 9.1). -/
def signalSystem (n : Nat) : Nat :=
  if n ≤ 3 then 0 else if n ≤ 6 then 1 else if n ≤ 8 then 2 else if n ≤ 11 then 3 else if n ≤ 13 then 4 else 5

/-- Satellites a solution uses: those with a tracked signal above both masks (R257, R263). [DEDUCED: log 99] -/
def satsUsed (c : Chip) : Nat :=
  ((c.gnss.tracks.filter fun x => aboveMask c x && 4 * c.num Key.Gnss.CN0_MASK ≤ x.cn0).map fun x =>
    (signalSystem x.signal.val, x.sv)).eraseDups.length

/-- Channels are given out, and the hearth temperature is taken for the solution (R257, R272). -/
def trackSignals (c : Chip) (cap : Nat) (signals : List GnssSignal) : Chip :=
  let tracks := channelsGiven c cap signals
  { c with gnss := { c.gnss with tracks, measTemp := c.num (Key.Sensor.TEMP 40) } }.put Key.Gnss.CHANNELS_USED tracks.length

/-- MEASUREMENT_EDGE: correlator outputs are latched for the raw set and the solution of this edge (R260). -/
def execMeasurementEdge (noiseRise : F32) (signals : List GnssSignal) (s : State) : Host.Outcome State Fault Refusal :=
  onChip (fun k c =>
    if !up c 8 then c
    else
      let blocks := (List.range 16).filter fun b => !unitAshed c (unitGnb b)
      let c := trackSignals (noiseEdge k c noiseRise.toNat) (64 * blocks.length) signals
      let g := c.gnss
      let raw := if isMeasEdge k c 100 then some (k.epoch, gnssMs c) else g.raw
      let sol := if isMeasEdge k c 50 then some k.epoch else g.sol
      { c with gnss := { g with raw, sol } }) s

/-- ANT0_DELAY as a distance in 0.1 mm, at 0.299792458 m/ns (R261, R276). [DEDUCED: log 99] -/
def delayTenths (c : Chip) : Int :=
  let d := fExact fmt32 (c.num Key.Gnss.ANT0_DELAY)
  (2 * d.1 * 299792458 + d.2 * 100000) / (2 * (d.2 * 100000 : Nat) : Int)

/-- ANT0_DELAY in ps, rounded. [DEDUCED: log 99] -/
def delayPs (c : Chip) : Int :=
  let d := fExact fmt32 (c.num Key.Gnss.ANT0_DELAY)
  (2000 * d.1 + d.2) / (2 * d.2 : Nat)

/-- One record of a raw set (Table 9.3), its pseudorange corrected for ANT0_DELAY (R261); a switch of the GNSS domain marks
it SLIP (R415). [DEDUCED: log 99] -/
def rawBytes (c : Chip) (r : RawRec) : List Byte :=
  let slip := c.gnss.slip
  let range := ((r.pseudorange : Int) - delayTenths c).toNat
  leBytes 1 r.signal ++ leBytes 1 r.sv ++ leBytes 1 r.ant ++ leBytes 1 r.cn0 ++ leBytes 8 range ++
    leBytes 8 (ofInt 64 r.carrier) ++ leBytes 4 (ofInt 32 r.doppler) ++ leBytes 2 (min r.lockMs 0xFFFF) ++
    leBytes 1 (r.flags % 32 ||| (if slip then 8 else 0)) ++ leBytes 1 0

/-- RAW_SET_COMPLETE: the set of the latched edge, one record per tracked signal, becomes due at the first open edge (R261,
R264). -/
def execRawSetComplete (records : List RawRec) (s : State) : Host.Outcome State Fault Refusal :=
  onChip (fun k c =>
    match c.gnss.raw with
    | none => c
    | some (edge, ms) =>
      let use := records.filter fun r => c.gnss.tracks.any fun t =>
        t.ant.val = r.ant && t.signal.val = r.signal && t.sv = r.sv
      let b := leBytes 6 edge ++ leBytes 6 ms ++ leBytes 2 use.length ++ leBytes 2 0 ++ use.flatMap (rawBytes c)
      tileWrite k { c with gnss := { c.gnss with raw := none, slip := false } } Key.Raw.RAW_DATA (.blob b)) s

/-- Length of the first record of NAV_DATA. -/
def navLen (b : List Byte) : Nat := 12 + (ofLeBytes ((b.drop 10).take 2) + 7) / 8

/-- Bits as bytes, the first bit in bit 7, padded with zeros to a whole byte (R262). -/
def bitBytes (w : List Bool) : List Byte :=
  (List.range ((w.length + 7) / 8)).map fun i =>
    BitVec.ofNat 8 ((List.range 8).foldl (fun v j => 2 * v + (if nth w (8 * i + j) false then 1 else 0)) 0)

/-- NAV_WORD_DECODED: the word goes into the ring of the newest 4,096; one that fails its check is kept, counted and
raised; leap seconds are taken from a word that passes (R262). -/
def execNavWordDecoded (word : NavWord) (s : State) : Host.Outcome State Fault Refusal :=
  onChip (fun k c =>
    if !up c 8 || !bitOf (c.num Key.Gnss.SIG_ENABLE) word.signal.val then c
    else
      let inj := armedAt c Key.Inj.NAV_CHECK word.signal.val
      let w := wordBits word.data word.bits
      let check := if inj then 1 else navCheck word.signal.val word.before w
      let c := disarm c Key.Inj.NAV_CHECK word.signal.val
      let r := leBytes 6 k.epoch ++ leBytes 1 word.signal.val ++ leBytes 1 word.sv ++ leBytes 1 word.ant.val ++
        leBytes 1 check ++ leBytes 2 word.bits ++ bitBytes w
      let b := c.blob Key.Raw.NAV_DATA ++ r
      let full := 4096 ≤ c.gnss.navs
      let c := { c with gnss := { c.gnss with navs := min (c.gnss.navs + 1) 4096 } }.putBlob Key.Raw.NAV_DATA
        (if full then b.drop (navLen b) else b)
      if check = 1 then raise k (c.bump Key.Raw.NAV_FAILS) 0x0904 theModule inj
      else match check, word.leap with
        | 0, some l => (c.put Key.Raw.LEAP_S (ofInt 8 l)).putFlag Key.Raw.LEAP_VALID true
        | _, _ => c) s

/-! ## Solutions (R263–R265, R270) -/

/-- Length of the baseline of the lever arms, m, binary64 (R178, R265). -/
def armBaseline (c : Chip) : Nat :=
  let d := fun sub : Nat => (toInt 32 (c.num (mkKey 0x2700 (sub + 3))) - toInt 32 (c.num (mkKey 0x2700 sub))).natAbs
  fSqrt fmt64 (fRatio fmt64 (d 1 * d 1 + d 2 * d 2 + d 3 * d 3) 1000000)

/-- The measured baseline, 100 mm long while INJ_HDG_BASELINE acts. -/
def measBaseline (k : Keeper) (c : Chip) (b : Nat) : Nat :=
  if armedFor k c Key.Inj.HDG_BASELINE 1 then fAdd fmt32 b (fRatio fmt32 1 10) else b

/-- A measured baseline lies within BASELINE_TOL of the computed one (R265). -/
def baselineOk (c : Chip) (b : Nat) : Bool :=
  fLe fmt64 (fAbs fmt64 (fSub fmt64 (fConv fmt32 fmt64 b) (armBaseline c)))
    (fRatio fmt64 (c.num Key.Hdg.BASELINE_TOL) 1000)

/-- The heading part of a solution becomes due with it; HDG_VALID needs five resolved satellites, the baseline within
its tolerance, and ANT1 well (R259, R265). -/
def headingDue (k : Keeper) (c : Chip) (sol : Solution) : Chip :=
  match sol.heading with
  | none => tileWrite k c Key.Hdg.HDG_VALID (.num 0)
  | some h =>
    if antStatus c 1 ≠ 0 then tileWrite k c Key.Hdg.HDG_VALID (.num 0)
    else
      let b := measBaseline k c h.baseline.toNat
      let ok := baselineOk c b
      let inj := armedFor k c Key.Inj.HDG_BASELINE 1
      let g := c.gnss
      let since := if ok then none else some (g.baseAt.getD sol.edge)
      let bad := match since with
        | some t => t + 10000 ≤ sol.edge
        | none => false
      let c := { c with gnss := { g with baseAt := since, baseBad := bad } }
      let c := if bad && !g.baseBad then raise k c 0x0906 theModule inj else if ok then closeHandling c 0x0906 theModule else c
      let w := fun (c : Chip) (key v : Nat) => tileWrite k c key (.num v)
      let c := w (w (w c Key.Hdg.HEADING h.heading.toNat) Key.Hdg.TILT h.tilt.toNat) Key.Hdg.HDG_RATE h.rate.toNat
      let c := w (w (w c Key.Hdg.BASELINE b) Key.Hdg.HDG_SD h.sd.toNat) Key.Hdg.HDG_EPOCH sol.edge
      w c Key.Hdg.HDG_VALID (if ok && 5 ≤ h.resolved then 1 else 0)

/-- The corrections of the base are not older than CORR_MAX_AGE (R268). -/
def corrFresh (k : Keeper) (c : Chip) : Bool :=
  match c.gnss.corrAt with
  | some t => k.epoch ≤ t + 1000 * c.num Key.Rtcm.CORR_MAX_AGE
  | none => false

/-- The distance of a position from the base's reference point, km (Table 9.8). [DEDUCED: log 67] -/
def baseDist (arp : Int × Int × Int) (lat lon hgt : Int) : Nat :=
  let p := ecef lat lon hgt
  let d := fun (a : Nat) (b : Int) => dSub a (dRat b 10000)
  let (x, y, z) := (d p.1 arp.1, d p.2.1 arp.2.1, d p.2.2 arp.2.2)
  fConv fmt64 fmt32 (dDiv (fSqrt fmt64 (dAdd (dAdd (dMul x x) (dMul y y)) (dMul z z))) (dRat 1000 1))

/-- The position part of a solution becomes due at the first open edge; NONE keeps the velocities and accuracies
(R264). Without fresh corrections the solution falls back to SINGLE, where it was no SBAS one, and no RTK solution is
formed before the base's reference point is known (R268). A restarted RTK filter gives a FLOAT solution first. Fewer than 4
satellites give none (R263). [DEDUCED: log 99] -/
def positionDue (k : Keeper) (c : Chip) (sol : Solution) : Chip :=
  let kind := if (3 ≤ sol.kind.val && !corrFresh k c) || (4 ≤ sol.kind.val && c.gnss.arp.isNone) then 1 else sol.kind.val
  let kind := if satsUsed c < 4 then 0 else if kind = 5 && c.gnss.rtkFloat then 4 else kind
  let w := fun (c : Chip) (key v : Nat) => tileWrite k c key (.num v)
  let c := w (w c Key.Sol.SOL_TYPE kind) Key.Sol.SOL_EPOCH sol.edge
  if kind = 0 then w (w c Key.Sol.LAT 0x80000000) Key.Sol.LON 0x80000000
  else
    let c := w (w (w c Key.Sol.LAT (ofInt 32 sol.lat)) Key.Sol.LON (ofInt 32 sol.lon)) Key.Sol.HGT (ofInt 32 sol.hgt)
    let c := match c.gnss.arp with
      | some p => w c Key.Rtcm.BASE_DIST (baseDist p sol.lat sol.lon sol.hgt)
      | none => c
    let c := w (w (w c Key.Sol.VEL_N sol.velN.toNat) Key.Sol.VEL_E sol.velE.toNat) Key.Sol.VEL_U sol.velU.toNat
    let c := w (w (w c Key.Sol.SPEED sol.speed.toNat) Key.Sol.COURSE sol.course.toNat) Key.Sol.H_ACC sol.hAcc.toNat
    let c := w (w c Key.Sol.PDOP sol.pdop.toNat) Key.Sol.CORR_AGE (match sol.corrAge with
      | some a => min a 65534
      | none => 0xFFFF)
    if 4 ≤ kind then { c with gnss := { c.gnss with rtkFloat := false } } else c

/-- Time solutions are withheld by an injection (Table 9.14). -/
def timeWithheld (k : Keeper) (c : Chip) : Bool :=
  c.flt.armed.any fun a => a.key = Key.Inj.TIME_UNSYNC && decide (k.epoch < a.until_)

/-- A valid time solution of an edge becomes due; INJ_TIME_STEP makes its offset +1.5 ms. -/
def timeQueue (k : Keeper) (c : Chip) (edge : Nat) (o : Int) (ms err temp : Nat) : Chip :=
  let inj := armedAt c Key.Inj.TIME_STEP 1
  let o : Int := if inj then 1500000000 else o
  let c := disarm c Key.Inj.TIME_STEP 1
  { c with gnss := { c.gnss with timeSols := c.gnss.timeSols ++ [⟨openEdge k, edge, o, ms, err, temp, inj⟩] } }

/-- The time solution of a solution, where it is valid (R270). -/
def timeDue (k : Keeper) (c : Chip) (sol : Solution) : Chip :=
  if sol.kind.val = 0 || satsUsed c < 4 || !sol.weekKnown || 100 < sol.timeErrNs || timeWithheld k c then c
  else
    let c : Chip := { c with fab := { c.fab with ownAt := some sol.edge, ownErr := sol.timeErrNs } }
    -- Another module of the fabric is the time source (R365).
    let src := c.num Key.Fab.TIME_SOURCE
    if c.flag Key.Fab.FAB_ENABLE && src ≠ 0 && src ≠ c.num Key.Fab.MODULE_NUMBER then c else
    timeQueue k c sol.edge (sol.offsetPs - delayPs c) sol.gpsMs sol.timeErrNs c.gnss.measTemp

/-- SOLUTION_COMPLETE: the solution of the latched edge becomes due at the first open edge (R264). -/
def execSolutionComplete (sol : Solution) (s : State) : Host.Outcome State Fault Refusal :=
  onChip (fun k c =>
    if c.gnss.sol ≠ some sol.edge || !tilesRun c then c
    else
      let c := { c with gnss := { c.gnss with sol := none } }.put Key.Gnss.SATS_USED (min (satsUsed c) 255)
      timeDue k (headingDue k (positionDue k c sol) sol) sol) s

/-- At an edge the newest solution other than NONE is the one the objects now show (R264). -/
def fixEdge (c : Chip) : Chip :=
  if c.num Key.Sol.SOL_TYPE = 0 then c
  else
    let f : FixX := ⟨c.num Key.Sol.SOL_EPOCH, c.num Key.Sol.SOL_TYPE, c.num Key.Sol.LAT, c.num Key.Sol.LON,
      c.num Key.Sol.HGT, c.num Key.Sol.VEL_N, c.num Key.Sol.VEL_E⟩
    { c with gnss := { c.gnss with fix := some f } }

/-! ## Corrections (R266–R268) -/

/-- Bits of a message, most significant first: `n` bits from bit `i`. [PRESUMED: log 66] -/
def msgBits (b : List Byte) (i n : Nat) : Nat :=
  (List.range n).foldl (fun v j =>
    2 * v + (nth b ((i + j) / 8) 0).toNat / 2 ^ (7 - (i + j) % 8) % 2) 0

/-- Messages of Table 9.6. [PRESUMED: log 66] -/
def rtcmUsed (m : Nat) : Bool :=
  [1005, 1006, 1074, 1077, 1084, 1087, 1094, 1097, 1114, 1117, 1124, 1127].contains m

/-- The reference point of a 1005 or 1006, ECEF in 0.1 mm. [PRESUMED: log 66] -/
def rtcmArp (b : List Byte) : Int × Int × Int :=
  (toInt 38 (msgBits b 34 38), toInt 38 (msgBits b 74 38), toInt 38 (msgBits b 114 38))

/-- Squared distance of two points. -/
def dist2 (a b : Int × Int × Int) : Nat :=
  let d := fun x y : Int => ((x - y) * (x - y)).toNat
  d a.1 b.1 + d a.2.1 b.2.1 + d a.2.2 b.2.2

/-- A message with a good CRC (R267, R268): used where the table lists it and it comes from the base.
[PRESUMED: log 66] -/
def rtcmMessage (k : Keeper) (c : Chip) (msg : List Byte) : Chip :=
  let m := msgBits msg 0 12
  let station := msgBits msg 12 12
  let c := c.bump Key.Rtcm.RTCM_FRAMES
  if !rtcmUsed m then c.bump Key.Rtcm.RTCM_IGNORED
  else
    let want := c.num Key.Rtcm.BASE_ID
    let active := c.num Key.Rtcm.BASE_ACTIVE
    let base := if want ≠ 0xFFFF then want else if active ≠ 0xFFFF then active else station
    if station ≠ base then c.bump Key.Rtcm.RTCM_IGNORED
    else
      let c := if active ≠ base then
          { c with gnss := { c.gnss with arp := none, rtkFloat := true } }.put Key.Rtcm.BASE_ACTIVE base else c
      let g := c.gnss
      if m = 1005 || m = 1006 then
        let p := rtcmArp msg
        let moved := match g.arp with
          | some q => 1000 * 1000 < dist2 p q
          | none => true
        { c with gnss := { g with arp := some p, rtkFloat := g.rtkFloat || moved } }
      else
        let gap := match g.corrAt with
          | some t => t + 1000 * c.num Key.Rtcm.CORR_MAX_AGE < k.epoch
          | none => true
        { c with gnss := { g with corrAt := some k.epoch, rtkFloat := g.rtkFloat || gap } }

/-- Takes frames from a framer's bytes: a frame that fails CRC-24Q is counted and raised, and the search goes on at the
next preamble (R266). Answers the bytes that wait for more. -/
def rtcmFrames (k : Keeper) : Nat → Chip → List Byte → Chip × List Byte
  | 0, c, b => (c, b)
  | fuel + 1, c, b =>
    match b with
    | [] => (c, [])
    | p :: t =>
      if p ≠ 0xD3 then rtcmFrames k fuel c t
      else if b.length < 3 then (c, b)
      else
        let n := msgBits b 14 10
        if b.length < n + 6 then (c, b)
        else
          let inj := armedAt c Key.Inj.RTCM_CRC 1
          let crc := msgBits (b.drop (n + 3)) 0 24
          if crc24q (b.take (n + 3)) ≠ crc || inj then
            let c := raise k ((disarm c Key.Inj.RTCM_CRC 1).bump Key.Rtcm.RTCM_CRC_ERR) 0x0905 theModule inj
            rtcmFrames k fuel c t
          else rtcmFrames k fuel (rtcmMessage k c ((b.drop 3).take n)) (b.drop (n + 6))

/-- Bytes arrive on a path: `udp` or RTCM_IN (R266). -/
def rtcmBytes (k : Keeper) (c : Chip) (udp : Bool) (b : List Byte) : Chip :=
  let held := (if udp then c.gnss.framerUdp else c.gnss.framerIn) ++ b
  let (c, rest) := rtcmFrames k (held.length + 1) c held
  if udp then { c with gnss := { c.gnss with framerUdp := rest } } else { c with gnss := { c.gnss with framerIn := rest } }

/-- RTCM_FRAME: one complete frame of a path is checked and used, ignored or discarded. -/
def execRtcmFrame (udp : Bool) (frame : List Byte) (s : State) : Host.Outcome State Fault Refusal :=
  onChip (fun k c => if up c 8 then rtcmBytes k c udp frame else c) s

/-- RTCM_DATAGRAM: a UDP datagram to port 47601 is passed to its framer. [DESIGN CHOICE: log 9] -/
def execRtcmDatagram (data : List Byte) (s : State) : Host.Outcome State Fault Refusal :=
  onChip (fun k c => if up c 8 then rtcmBytes k c true data else c) s

/-- Corrections lapse: the base is forgotten where it was the first heard (R268). -/
def corrLapse (c : Chip) : Chip :=
  let c := { c with gnss := { c.gnss with corrAt := none, rtkFloat := true } }
  if c.num Key.Rtcm.BASE_ID = 0xFFFF then
    { c with gnss := { c.gnss with arp := none } }.put Key.Rtcm.BASE_ACTIVE 0xFFFF else c

/-- CORRECTIONS_LAPSE: the newest corrections are older than CORR_MAX_AGE. -/
def execCorrectionsLapse (s : State) : Host.Outcome State Fault Refusal :=
  onChip (fun k c =>
    match c.gnss.corrAt with
    | some t => if t + 1000 * c.num Key.Rtcm.CORR_MAX_AGE < k.epoch then corrLapse c else c
    | none => c) s

/-! ## Time (R269–R274) -/

/-- CLOCK_CORRECTION_UPDATE: once per GPS second while a valid time solution exists, within ±2,000 ppb (R269). -/
def execClockCorrectionUpdate (ppt : Int) (s : State) : Host.Outcome State Fault Refusal :=
  onChip (fun k c =>
    let fresh := match c.gnss.lastValid with
      | some t => k.epoch < t + c.num Key.Time.LOSS_MS
      | none => false
    if c.mode = .off || !fresh then c
    else { c with gnss := { c.gnss with corr := max (-2000000) (min 2000000 ppt) } }) s

/-- TIME_STATE values. -/
abbrev timeNone : Nat := 0
abbrev timeLocked : Nat := 1
abbrev timeHoldover : Nat := 2
abbrev timeUnsync : Nat := 3
abbrev timeSlewing : Nat := 4
abbrev timeStepPending : Nat := 5

/-- Enters a time state; EPOCH_ALIGNED and EDGE_GNSS_MS follow (R270). -/
def timeTo (c : Chip) (st : Nat) : Chip :=
  let c := if st = timeLocked then closeHandling c 0x0907 theModule else c
  let c := (c.put Key.Time.TIME_STATE st).putFlag Key.Epoch.EPOCH_ALIGNED (st = timeLocked || st = timeHoldover)
  c.put Key.Epoch.EDGE_GNSS_MS (if st = timeLocked || st = timeHoldover then c.gnss.label.getD 0 else 0)

/-- TIME_OFFSET shows the residual, ns (R273). -/
def showOffset (c : Chip) : Chip := c.put Key.Time.TIME_OFFSET (fRatio fmt32 c.gnss.residual 1000)

/-- The offset of a time solution against the module's label of its edge: the label where the edges carry one. -/
def moduleMs (k : Keeper) (c : Chip) (t : TimeSol) : Nat :=
  match c.gnss.label with
  | some l => l - (k.epoch - t.edge)
  | none => t.gpsMs

/-- Epochs from an edge to the next one whose pulse an output gives: the first whole second at least 500 ms after its last
pulse (R275). -/
def pulseIn (label epoch last : Nat) : Nat :=
  let d := 1000 - label % 1000
  if last ≠ 0 && epoch + d < last + 500 then d + 1000 else d

/-- A step shortens the pulses in progress whose successors it brings nearer than their rest (R275).
[DESIGN CHOICE: log 100] -/
def pulsesStep (k : Keeper) (c : Chip) : Chip :=
  match c.gnss.label with
  | none => c
  | some l => [0, 1].foldl (fun c n =>
    let x := nth c.gnss.pps n {}
    let d := pulseIn l k.epoch x.edge
    if x.high && d ≤ 100 then
      { c with gnss := { c.gnss with pps := c.gnss.pps.set n { x with high := false, next := 0 } } }.emit
        (.pps n (c.num (Key.Pps.PPS_POLARITY n) = 1))
    else if d ≤ 100 then { c with gnss := { c.gnss with pps := c.gnss.pps.set n { x with next := 0 } } }
    else c) c

/-- A step is taken at this edge (R274): the epoch is lengthened so that the next edge falls on a GPS millisecond.
[DEDUCED: log 67; DESIGN CHOICE: log 89] -/
def timeStep (k : Keeper) (c : Chip) (t : TimeSol) : Chip :=
  -- GPS time of this edge, ps
  let gps : Int := ((moduleMs k c t + (k.epoch - t.edge) : Nat) : Int) * 1000000000 - t.offset
  let next := gps + 1000000000
  let delta := ((-next) % 1000000000).toNat
  let label := ((next + delta) / 1000000000).toNat
  let g := c.gnss
  -- The label of this edge is one below that of the next.
  let c := { c with gnss := { g with label := some (label - 1), residual := 0, stretch := delta, step := none } }
  let c := (c.bump Key.Time.TIME_STEPS).put Key.Time.LAST_STEP_MS (fRatio fmt32 t.offset 1000000000)
  raise k ((showOffset (pulsesStep k c)).put Key.Time.STEP_EPOCH (wireEpoch k.epoch)) 0x0908 theModule t.injected

/-- An offset under 1 ms is slewed out (R273). -/
def timeSlew (c : Chip) (o : Int) : Chip :=
  timeTo (showOffset { c with gnss := { c.gnss with residual := o } })
    (if o.natAbs ≤ 1000 * c.num Key.Time.SYNC_THRESH then timeLocked else timeSlewing)

/-- TIME_UNSYNC is injected: time solutions are withheld (Table 9.10). -/
def unsyncInjected (k : Keeper) (c : Chip) : Bool :=
  c.flt.armed.any fun a => a.key = Key.Inj.TIME_UNSYNC && decide (k.epoch < a.until_)

/-- A valid time solution is applied at this edge (Table 9.7). [DESIGN CHOICE: log 89] -/
def timeApply (k : Keeper) (c : Chip) (t : TimeSol) : Chip :=
  let st := c.num Key.Time.TIME_STATE
  let g := c.gnss
  let harvest := decide (c.mode = Mode.harvest)
  let c := { c with gnss := { g with lastValid := some t.edge, validTemp := t.temp } }.put
    Key.Time.TIME_UNC (fNat fmt32 t.unc)
  let later := fun c : Chip => { c with gnss := { c.gnss with step := some (k.epoch + 1, t), pulses := true } }
  -- Edges keep their phase while the step is pending.
  let pend := fun c : Chip => showOffset { c with gnss := { c.gnss with
    step := some (0, t), residual := 0, fromNone := decide (st = timeNone) } }
  if st = timeNone then (if harvest then timeTo (pend c) timeStepPending else timeTo (later c) timeLocked)
  else if st = timeStepPending then { c with gnss := { c.gnss with step := some (0, t) } }
  else
    let mag := t.offset.natAbs
    if 1000000000 ≤ mag then
      if harvest then timeTo (pend c) timeStepPending else timeTo (later c) timeLocked
    else timeSlew c t.offset

/-- What TIME_UNC grows from: TIME_UNC and the residual as the solutions are lost, and the temperature at the last valid
one (R271, R272). [DEDUCED: log 67] -/
def uncBase (c : Chip) : Chip :=
  let g := c.gnss
  let unc0 := fAdd fmt32 (c.num Key.Time.TIME_UNC) (fRatio fmt32 g.residual.natAbs 1000)
  { c with gnss := { g with unc0, temp0 := g.validTemp } }

/-- No valid time solution for LOSS_MS (Table 9.7). -/
def timeLoss (k : Keeper) (c : Chip) : Chip :=
  let st := c.num Key.Time.TIME_STATE
  let lost := match c.gnss.lastValid with
    | some t => decide (t + c.num Key.Time.LOSS_MS ≤ k.epoch)
    | none => true
  if !lost then c
  else if st = timeStepPending then
    let c := { c with gnss := { c.gnss with step := none } }
    if c.gnss.fromNone then timeTo c timeNone else raise k (timeTo (uncBase c) timeUnsync) 0x0907 theModule (unsyncInjected k c)
  else if st = timeLocked || st = timeSlewing then
    timeTo ((uncBase c).put Key.Time.HOLD_EPOCH (wireEpoch k.epoch)) timeHoldover
  else c

/-- TIME_SOLUTION_LOSS: LOSS_MS have passed without a valid time solution (R271). -/
def execTimeSolutionLoss (s : State) : Host.Outcome State Fault Refusal :=
  onChip (fun k c => if c.mode = .off then c else timeLoss k c) s

/-- TIME_UNC in HOLDOVER and UNSYNC, ns (R272). -/
def timeUnc (k : Keeper) (c : Chip) : Nat :=
  let t := fRatio fmt64 (k.epoch - c.gnss.lastValid.getD k.epoch : Nat) 1000
  let f := fun key : Nat => fConv fmt32 fmt64 (c.num key)
  let dt := fAbs fmt64 (fSub fmt64 (f (Key.Sensor.TEMP 40)) (fConv fmt32 fmt64 c.gnss.temp0))
  let dt := if fFinite fmt64 dt then dt else 0
  let a := fAdd fmt64 (fConv fmt32 fmt64 c.gnss.unc0) (fMul fmt64 (f Key.Time.HOLD_K1) t)
  let b := fMul fmt64 (fMul fmt64 (f Key.Time.HOLD_K2) t) t
  let d := fMul fmt64 (fMul fmt64 (f Key.Time.HOLD_KT) dt) t
  fConv fmt64 fmt32 (fAdd fmt64 (fAdd fmt64 a b) d)

/-- The time state at an edge: the label advances, a step or a slew acts, solutions apply, HOLDOVER ends (R271–R274).
[DEDUCED: log 67] -/
def timeEdge (k : Keeper) (c : Chip) : Chip :=
  let g := c.gnss
  let slew : Int := c.num Key.Time.SLEW_RATE
  let residual := if g.residual.natAbs ≤ slew.toNat then 0 else if 0 < g.residual then g.residual - slew else g.residual + slew
  let c := showOffset { c with gnss := { g with label := g.label.map (· + 1), stretch := 0, residual } }
  let c : Chip := match c.gnss.step with
    | some (e, t) =>
      if c.num Key.Time.TIME_STATE = timeStepPending then
        let fresh := match c.gnss.lastValid with
          | some v => decide (k.epoch < v + c.num Key.Time.LOSS_MS)
          | none => false
        if (c.mode ≠ Mode.harvest && fresh) then
          if c.gnss.fromNone || 1000000000 ≤ t.offset.natAbs then
            let c := timeStep k c t
            timeTo { c with gnss := { c.gnss with pulses := true } } timeLocked
          else timeSlew { c with gnss := { c.gnss with step := none } } t.offset
        else c
      else if e ≠ k.epoch then c
      else if c.mode = Mode.harvest then
        -- Edges never step in HARVEST (R274): a step due as HARVEST begins waits.
        timeTo { c with gnss := { c.gnss with step := some (0, t), fromNone := false } } timeStepPending
      else timeStep k c t
    | none => c
  let now := c.gnss.timeSols.filter fun t : TimeSol => decide (t.due ≤ k.epoch)
  let c := { c with gnss := { c.gnss with timeSols := c.gnss.timeSols.filter fun t : TimeSol => !decide (t.due ≤ k.epoch) } }
  let c := now.foldl (timeApply k) c
  let st := c.num Key.Time.TIME_STATE
  let c := if st = timeHoldover || st = timeUnsync then c.put Key.Time.TIME_UNC (timeUnc k c) else c
  let c := if st = timeHoldover && (fLt fmt32 (fNat fmt32 (c.num Key.Time.SYNC_THRESH)) (c.num Key.Time.TIME_UNC)
        || decide (c.num Key.Time.HOLD_EPOCH + 1000 * c.num Key.Time.HOLD_LIMIT ≤ k.epoch)) then
      raise k (timeTo c timeUnsync) 0x0907 theModule (unsyncInjected k c)
    else c
  c.put Key.Epoch.EDGE_GNSS_MS (if c.flag Key.Epoch.EPOCH_ALIGNED then c.gnss.label.getD 0 else 0)

/-- Injections of the antennas that last 2 s end. -/
def antInjectEnd (k : Keeper) (c : Chip) (a : Nat) : Chip :=
  if c.flt.armed.any fun x => x.key = Key.Inj.ANT_OPEN && x.value = a && decide (x.until_ ≤ k.epoch) then
    let c := disarm c Key.Inj.ANT_OPEN a
    if antStatus c a = 1 then setAntStatus c a 0 else c
  else c

/-- GNSS and time at an edge. -/
def gnssEdge (k : Keeper) (c : Chip) : Chip :=
  if c.mode = .off then c else timeEdge k (fixEdge ([0, 1].foldl (antInjectEnd k) c))

/-! ## Pulses (R275) -/

/-- The edge a pulse leaving now belongs to: the next edge, or this one at its instant, that starts a GPS second. -/
def pulseEdge (k : Keeper) (c : Chip) : Option Nat :=
  match c.gnss.label with
  | none => none
  | some l =>
    if (l + 1) % 1000 = 0 then some (k.epoch + 1) else if l % 1000 = 0 && c.us = 0 then some k.epoch else none

/-- The pin's level of an active or resting output. -/
def pulseLevel (c : Chip) (p : Nat) (active : Bool) : Bool := active != (c.num (Key.Pps.PPS_POLARITY p) = 1)

/-- PPS_LEADING_EDGE: a pulse leaves PPS_DELAY before its edge, once the output has rested for 100 ms; after a step, not
before 500 ms since the last pulse. -/
def execPpsLeadingEdge (p : Fin 2) (s : State) : Host.Outcome State Fault Refusal :=
  onChip (fun k c =>
    let n := p.val
    let x := nth c.gnss.pps n {}
    if c.mode = .off || c.mode = .banked || !c.gnss.pulses || !c.flag (Key.Pps.PPS_ENABLE n) || x.high
        || nowUs k c < x.next then c
    else match pulseEdge k c with
      | none => c
      | some e =>
        if x.edge ≠ 0 && e < x.edge + 500 then c
        else
          let c := { c with gnss := { c.gnss with pps := c.gnss.pps.set n { high := true, edge := e, lead := nowUs k c } } }
          ((c.put (Key.Pps.PPS_EPOCH n) (wireEpoch e)).put (Key.Pps.PPS_STATE n) (c.num Key.Time.TIME_STATE)).emit
            (.pps n (pulseLevel c n true))) s

/-- PPS_TRAILING_EDGE: PPS_WIDTH after the leading edge, or 100 ms before the next pulse. -/
def execPpsTrailingEdge (p : Fin 2) (s : State) : Host.Outcome State Fault Refusal :=
  onChip (fun k c =>
    let n := p.val
    let x := nth c.gnss.pps n {}
    let soon := match c.gnss.label with
      | some l => pulseIn l k.epoch x.edge ≤ 100
      | none => true
    if x.high && (x.lead + 1000 * c.num (Key.Pps.PPS_WIDTH n) ≤ nowUs k c || soon) then
      { c with gnss := { c.gnss with
        pps := c.gnss.pps.set n { x with high := false, next := nowUs k c + 100000 } } }.emit (.pps n (pulseLevel c n false))
    else c) s

/-- Outputs rest at their inactive level, as in BANKED (R275). -/
def pulsesRest (c : Chip) : Chip :=
  { c with gnss := { c.gnss with pps := c.gnss.pps.map fun p : PpsX => { p with high := false } } }

/-- Pulses stop until the first LOCKED state after NONE (R275). -/
def pulsesStop (c : Chip) : Chip := pulsesRest { c with gnss := { c.gnss with pulses := false } }

/-- KINDLING from OFF: the time state is NONE and edges are unlabelled (Table 9.7). -/
def timeReset (c : Chip) : Chip :=
  pulsesStop (timeTo { c with gnss := { c.gnss with label := none, timeSols := [], lastValid := none, residual := 0
                                                    step := none, fix := none, corr := 0 } } timeNone)

end Sys2Proof.Machine
end

