-- ==== Sys2Proof/Machine/Guide.lean ====
section
/-! DEFINITION. Guidance and steering (06): lines, the guidance cycle in binary64, engagement. -/

namespace Sys2Proof.Machine

/-! ## Angles -/

/-- Degrees wrapped to (−180, 180]. -/
def wrap180 (a : Nat) : Nat :=
  if !fFinite fmt64 a then a
  else
    let x := fExact fmt64 a
    let turn : Int := 360 * x.2
    let r := x.1 % turn
    dRat (if turn < 2 * r then r - turn else r) x.2

/-! ## Lines (R180–R182) -/

/-- Fields of a line block (Table 6.1). -/
def lineU (b : List Byte) (off size : Nat) : Nat := ofLeBytes ((b.drop off).take size)

/-- Vertices of a line block, mm east and north. -/
def lineVertices (b : List Byte) : List (Int × Int) :=
  (List.range (lineU b 2 2)).map fun i => (toInt 32 (lineU b (32 + 8 * i) 4), toInt 32 (lineU b (36 + 8 * i) 4))

/-- Steps between consecutive vertices. -/
def lineSteps : List (Int × Int) → List (Int × Int)
  | a :: b :: t => (b.1 - a.1, b.2 - a.2) :: lineSteps (b :: t)
  | _ => []

/-- Squared length of a vector. -/
def norm2 (v : Int × Int) : Nat := (v.1 * v.1 + v.2 * v.2).toNat

/-- Every heading change is at most 90°. -/
def turnsOk : List (Int × Int) → Bool
  | a :: b :: t => 0 ≤ a.1 * b.1 + a.2 * b.2 && turnsOk (b :: t)
  | _ => true

/-- A block keeps Table 6.1 and R181. -/
def lineOk (b : List Byte) : Bool :=
  let ty := lineU b 0 1
  let n := lineU b 2 2
  let vs := lineVertices b
  let steps := lineSteps vs
  let zeroed := b.take 28 ++ [0, 0, 0, 0] ++ b.drop 32
  32 ≤ b.length && b.length = 32 + 8 * n && lineU b 1 1 = 1
    && (if ty = 1 then n = 2 else if ty = 2 then n = 1 else ty = 3 && 2 ≤ n && n ≤ 10000)
    && (if ty = 2 then lineU b 16 4 ≤ 359999999 && 10000 ≤ lineU b 20 4 && lineU b 20 4 ≤ 20000000
        else lineU b 16 4 = 0 && lineU b 20 4 = 0)
    && lineU b 24 2 ≤ 5000 && lineU b 26 2 = 0 && crc32 zeroed = lineU b 28 4
    && vs.all (fun v => norm2 v ≤ 10000000 * 10000000)
    && (if ty = 1 then steps.all fun v => 10000 * 10000 ≤ norm2 v
        else steps.all (fun v => 100 * 100 ≤ norm2 v && norm2 v ≤ 100000 * 100000) && turnsOk steps)

/-- The block of a line; empty where none is stored or it failed its CHECK at K7 (Table 6.7). -/
def lineBlock (c : Chip) (n : Nat) : List Byte :=
  if c.guide.badLines.contains n then [] else ((c.guide.lines.find? (·.1 = n)).map (·.2)).getD []

/-- A line is stored and valid. -/
def lineValid (c : Chip) (n : Nat) : Bool := lineBlock c n ≠ []

/-- A line store with one line stored. -/
def linesWith (l : List (Nat × List Byte)) (n : Nat) (b : List Byte) : List (Nat × List Byte) :=
  l.filter (fun x => decide (x.1 ≠ n)) ++ [(n, b)]

/-- A line store without a line. -/
def linesWithout (l : List (Nat × List Byte)) (n : Nat) : List (Nat × List Byte) := l.filter fun x => decide (x.1 ≠ n)

/-- Vertices of a line store. -/
def verticesOf (l : List (Nat × List Byte)) : Nat := l.foldl (fun s x => s + lineU x.2 2 2) 0

/-- The line store as it will stand once every accepted write still pending has applied (R53, R180). -/
def linesDue (c : Chip) : List (Nat × List Byte) :=
  (c.dict.pend.foldl (fun (r : Nat × List (Nat × List Byte)) w =>
    if w.key = Key.Line.LINE_SELECT then (w.val.toNum, r.2)
    else if w.key = Key.Line.LINE_DATA then (r.1, linesWith r.2 r.1 w.val.toBlob)
    else if w.key = Key.Line.LINE_DELETE then (r.1, linesWithout r.2 w.val.toNum)
    else r) (c.num Key.Line.LINE_SELECT, c.guide.lines)).2

/-- Guidance holds its line: ENGAGED or COASTING (R192). -/
def guideHolds (c : Chip) : Bool := c.num Key.Guide.STATE = 3 || c.num Key.Guide.STATE = 4

/-- Result of a write of LINE_DATA for a line beyond the checks of R59 (R180, R192). -/
def lineCheck (c : Chip) (n : Nat) (b : List Byte) : Nat :=
  if !lineOk b then Rc.LINE_INVALID
  else if guideHolds c && c.num Key.GLine.ACTIVE_LINE = n then Rc.GUIDE_BUSY
  else if 240000 < verticesOf (linesWith (linesDue c) n b) then Rc.NO_ROOM
  else Rc.OK

/-- LINES, VERTICES_FREE and LINE_DATA follow the store and LINE_SELECT. [DEDUCED: log 63] -/
def lineShow (c : Chip) : Chip :=
  let c := (c.put Key.Line.LINES c.guide.lines.length).put Key.Line.VERTICES_FREE (240000 - verticesOf c.guide.lines)
  c.putBlob Key.Line.LINE_DATA (lineBlock c (c.num Key.Line.LINE_SELECT))

/-- Stores a line. [DEDUCED: log 63] -/
def lineStore (c : Chip) (n : Nat) (b : List Byte) : Chip :=
  let g := c.guide
  lineShow (closeHandling { c with guide := { g with
    lines := linesWith g.lines n b
    badLines := g.badLines.filter (fun m => decide (m ≠ n)) } } 0x0604 (unitLine n))

/-- Deletes a line. -/
def lineRemove (c : Chip) (n : Nat) : Chip :=
  let g := c.guide
  lineShow { c with guide := { g with
    lines := linesWithout g.lines n, badLines := g.badLines.filter (fun m => decide (m ≠ n)) } }

/-- KINDLING step K7: stored lines are checked; one that fails reads empty (Table 6.7). [DEDUCED: log 63] -/
def lineKindling (k : Keeper) (c : Chip) (bad : List Nat) : Chip :=
  lineShow ((c.guide.lines.map (·.1)).foldl (fun c n =>
    let inj := armedAt c Key.Inj.LINE_CHECK n
    if inj || bad.contains n then
      let c := disarm c Key.Inj.LINE_CHECK n
      let c := if c.guide.badLines.contains n then c
        else { c with guide := { c.guide with badLines := c.guide.badLines ++ [n] } }
      raise k c 0x0604 (unitLine n) inj
    else c) c)

/-! ## Positions (R179, R181) -/

/-- East and north of a position in the plane tangent at an origin. -/
def toPlane (olat olon ohgt lat lon hgt : Int) : Nat × Nat :=
  let o := ecef olat olon ohgt
  let q := ecef lat lon hgt
  let (dx, dy, dz) := (dSub q.1 o.1, dSub q.2.1 o.2.1, dSub q.2.2 o.2.2)
  let p := fxSinCos olat 10000000
  let l := fxSinCos olon 10000000
  let (sp, cp) := (dFx p.1, dFx p.2)
  let (sl, cl) := (dFx l.1, dFx l.2)
  (dSub (dMul cl dy) (dMul sl dx),
    dSub (dMul cp dz) (dMul sp (dAdd (dMul cl dx) (dMul sl dy))))

/-- Azimuth of the lever-arm baseline in the machine frame, clockwise from forward (R178). -/
def armAzimuth (c : Chip) : Nat :=
  let a := fun sub : Nat => toInt 32 (c.num (mkKey 0x2700 (sub + 3))) - toInt 32 (c.num (mkKey 0x2700 sub))
  dFx (fxAzimuth (-(a 2)) (a 1))

/-- The machine heading of a measured azimuth. -/
def machineHeading (c : Chip) (azimuth : Nat) : Nat := wrap180 (dSub azimuth (armAzimuth c))

/-- The lever arm from ANT0 to CP turned by heading and tilt: east and north (R179). The tilt turns about the axis
perpendicular to the baseline. -/
def armToCp (c : Chip) (psi tilt : Nat) : Nat × Nat :=
  let x := dSub (c.mm (mkKey 0x2700 7)) (c.mm (mkKey 0x2700 1))
  let y := dSub (c.mm (mkKey 0x2700 8)) (c.mm (mkKey 0x2700 2))
  let z := dOpp (c.mm (mkKey 0x2700 3))
  let az := armAzimuth c
  -- Unit vector of the baseline in the machine frame: forward and left.
  let bx := fCosDeg fmt64 az
  let by_ := dOpp (fSinDeg fmt64 az)
  let u := dAdd (dMul x bx) (dMul y by_)
  let w := dSub (dMul y bx) (dMul x by_)
  let u := dSub (dMul u (fCosDeg fmt64 tilt)) (dMul z (fSinDeg fmt64 tilt))
  let fx := dSub (dMul u bx) (dMul w by_)
  let fy := dAdd (dMul u by_) (dMul w bx)
  let (s, q) := (fSinDeg fmt64 psi, fCosDeg fmt64 psi)
  (dSub (dMul fx s) (dMul fy q), dAdd (dMul fx q) (dMul fy s))

/-! ## The line as segments -/

/-- A segment in metres: start, unit direction east and north, length, heading. -/
structure Seg where
  e : Nat
  n : Nat
  te : Nat
  tn : Nat
  len : Nat
  head : Nat
deriving DecidableEq, Repr

/-- The segment between two vertices. -/
def mkSeg (a b : Nat × Nat) : Seg :=
  let de := dSub b.1 a.1
  let dn := dSub b.2 a.2
  let len := fSqrt fmt64 (dAdd (dMul de de) (dMul dn dn))
  let x := fExact fmt64 de
  let y := fExact fmt64 dn
  ⟨a.1, a.2, dDiv de len, dDiv dn len, len, dFx (fxAzimuth (x.1 * y.2) (y.1 * x.2))⟩

/-- Segments between consecutive points. -/
def mkSegs : List (Nat × Nat) → List Seg
  | a :: b :: t => mkSeg a b :: mkSegs (b :: t)
  | _ => []

/-- Lengthens the first segment backwards and the last forwards (R182). -/
def extendSegs (ext : Nat) (l : List Seg) : List Seg :=
  let l := match l with
    | s :: t => { s with e := dSub s.e (dMul ext s.te), n := dSub s.n (dMul ext s.tn), len := dAdd s.len ext } :: t
    | [] => []
  match l.reverse with
  | s :: t => ({ s with len := dAdd s.len ext } :: t).reverse
  | [] => []

/-- The segments of a line block. -/
def lineSegs (b : List Byte) : List Seg :=
  let vs := (lineVertices b).map fun v => (dRat v.1 1000, dRat v.2 1000)
  let pts := if lineU b 0 1 = 2 then
      match vs with
      | a :: _ =>
        let h := dRat (lineU b 16 4) 1000000
        let l := dRat (lineU b 20 4) 1000
        [a, (dAdd a.1 (dMul l (fSinDeg fmt64 h)), dAdd a.2 (dMul l (fCosDeg fmt64 h)))]
      | [] => []
    else vs
  extendSegs (dRat (lineU b 24 2) 1) (mkSegs pts)

/-- Unclamped parameter, signed distance left, and squared distance of the segment from a point. -/
def segFind (s : Seg) (p : Nat × Nat) : Nat × Nat × Nat :=
  let de := dSub p.1 s.e
  let dn := dSub p.2 s.n
  let along := dAdd (dMul de s.te) (dMul dn s.tn)
  let left := dSub (dMul dn s.te) (dMul de s.tn)
  let past := if dLe along 0 then along else if dLe along s.len then 0 else dSub along s.len
  (dDiv along s.len, left, dAdd (dMul left left) (dMul past past))

/-- The nearest segment, the lowest of equals: place, parameter, signed distance (R184). -/
def nearestSeg (segs : List Seg) (p : Nat × Nat) (allowed : Nat → Bool) : Option (Nat × Nat × Nat × Nat) :=
  ((segs.zip (List.range segs.length)).filter fun x => allowed x.2).foldl (fun best x =>
    let (t, l, d) := segFind x.1 p
    match best with
    | some (_, _, _, d0) => if fLt fmt64 d d0 then some (x.2, t, l, d) else best
    | none => some (x.2, t, l, d)) none

/-! ## The cycle (R184) -/

/-- The wheel angle from which the set-point continues while not engaged: WHEEL_REF times STEER_SIGN; 0 without one. -/
def measuredWheel (c : Chip) : Nat :=
  let v := fConv fmt32 fmt64 (refValue c (c.num (mkKey 0x2700 0x0B)))
  if fFinite fmt64 v then dMul v (dRat (toInt 8 (c.num (mkKey 0x2700 0x0A))) 1) else 0

/-- Offset of the pass from the stored line, m (R183). -/
def passOffset (c : Chip) : Nat :=
  dRat (toInt 16 (c.num Key.GLine.PASS_INDEX) * c.num Key.GLine.PASS_WIDTH + toInt 16 (c.num Key.GLine.SHIFT)) 1000

/-- The curvature of a curve at a segment, 1/m (R184). [DEDUCED: log 64] -/
def segCurvature (segs : List Seg) (i : Nat) : Nat :=
  match segs[i]?, segs[i + 1]? with
  | some a, some b =>
    let turn := fExact fmt64 (wrap180 (dSub b.head a.head))
    -- degrees to radians
    let rad := dFx (-(turn.1 * fxPi) / ((180 * turn.2 : Nat) : Int))
    dDiv rad (dMul (dAdd a.len b.len) (dRat 1 2))
  | _, _ => 0

/-- Sum of the lengths before a segment. -/
def lenBefore (segs : List Seg) (i : Nat) : Nat := (segs.take i).foldl (fun s x => dAdd s x.len) 0

/-- The guidance cycle for an edge; none without a line, a solution or a segment. [DEDUCED: log 64] -/
def guideCompute (k : Keeper) (c : Chip) : Option GuideRes :=
  match c.gnss.fix, lineBlock c (c.num Key.GLine.ACTIVE_LINE) with
  | none, _ => none
  | some _, [] => none
  | some f, b =>
    let g := k.epoch
    let dt := dRat (g - f.edge : Nat) 1000
    let i32 := fun off => toInt 32 (lineU b off 4)
    let p := toPlane (i32 4) (i32 8) (i32 12) (toInt 32 f.lat) (toInt 32 f.lon) (toInt 32 f.hgt)
    let p0e := dAdd p.1 (dMul (fConv fmt32 fmt64 f.velE) dt)
    let p0n := dAdd p.2 (dMul (fConv fmt32 fmt64 f.velN) dt)
    let ht := dRat (g - c.num Key.Hdg.HDG_EPOCH : Nat) 1000
    let psi := machineHeading c (dAdd (c.d Key.Hdg.HEADING) (dMul (c.d Key.Hdg.HDG_RATE) ht))
    let arm := armToCp c psi (c.d Key.Hdg.TILT)
    let cp := (dAdd p0e arm.1, dAdd p0n arm.2)
    let segs := lineSegs b
    let engaged := guideHolds c
    let prev := match c.guide.due.getLast?, c.guide.result with
      | some r, _ => some r.2.seg
      | none, some r => some r.seg
      | none, none => none
    let allowed := fun i => match engaged, prev with
      | true, some j => decide (i ≤ j + 20 ∧ j ≤ i + 20)
      | _, _ => true
    match nearestSeg segs cp allowed with
    | none => none
    | some (i, t, left, _) =>
      let head := ((segs[i]?).map (·.head)).getD 0
      let he0 := wrap180 (dSub head psi)
      let back := if engaged then toInt 8 (c.num Key.GLine.DIRECTION) < 0
        else !dLe (fAbs fmt64 he0) (dRat 90 1)
      let dir := dRat (if back then -1 else 1) 1
      let d := passOffset c
      let xte := dMul dir (dSub left d)
      let he := wrap180 (dSub (if back then dAdd head (dRat 180 1) else head) psi)
      let kc := if lineU b 0 1 = 3 then segCurvature segs i else 0
      let den := dSub (dRat 1 1) (dMul kc d)
      let limited := fLt fmt64 den (dRat 1 10)
      let kp := dDiv (dMul dir kc) (if limited then dRat 1 10 else den)
      let base := dRat (c.num (mkKey 0x2700 9)) 1000
      let delta := dSub (dSub (fAtanDeg fmt64 (dMul base kp)) (dMul (c.d Key.GPar.K_HE) he))
        (dMul (c.d Key.GPar.K_XTE) xte)
      let prevD := if engaged then c.guide.dPrev else measuredWheel c
      let step := dMul (c.d Key.GPar.DELTA_RATE) (dRat 2 100)
      let rated := fClamp fmt64 (dSub prevD step) (dAdd prevD step) delta
      let dmax := c.d Key.GPar.DELTA_MAX
      let out := fClamp fmt64 (dOpp dmax) dmax rated
      let last := segs.length - 1
      let len := ((segs[i]?).map (·.len)).getD 0
      let along := dAdd (lenBefore segs i) (dMul t len)
      let total := lenBefore segs segs.length
      let toEnd := if back then along else dSub total along
      let one := dRat 1 1
      let flags := (if fLt fmt64 toEnd (c.d Key.Guide.END_WARN) then 1 else 0) + (if rated ≠ delta then 2 else 0)
        + (if out ≠ rated then 4 else 0) + (if c.num Key.Guide.STATE = 4 then 8 else 0)
        + (if f.kind = 5 then 16 else 0) + (if limited then 32 else 0)
      some { g, xte, he, curv := dMul dir kc, delta := out, along, toEnd, flags, age := min (g - f.edge) 65535
             seg := i, left, back, held := engaged
             inside := (i ≠ 0 || dLe 0 t) && (i ≠ last || dLe t one)
             past := if back then i = 0 && fLt fmt64 t 0 else i = last && fLt fmt64 one t }

/-- GUIDANCE_CYCLE: at each edge that is a multiple of 20, while GUIDE_ENABLE is true, a line is active and a solution
exists, the newest solution and heading are taken and the cycle computes (R184, Table 6.2). -/
def execGuidanceCycle (s : State) : Host.Outcome State Fault Refusal :=
  onChip (fun k c =>
    if k.epoch % 20 ≠ 0 || !up c 5 || !tilesRun c || !c.flag Key.Guide.GUIDE_ENABLE || unitAshed c unitGuide
        || !lineValid c (c.num Key.GLine.ACTIVE_LINE) || c.gnss.fix.isNone then c
    else
      let two := armedAt c Key.Inj.GUIDE_CYCLE_LOST 2
      let one := armedAt c Key.Inj.GUIDE_CYCLE_LOST 1
      let c := disarm (disarm c Key.Inj.GUIDE_CYCLE_LOST 2) Key.Inj.GUIDE_CYCLE_LOST 1
      let c := if two then arm c Key.Inj.GUIDE_CYCLE_LOST 1 0 else c
      let r := if one || two then none else guideCompute k c
      { c with guide := { c.guide with cycle := some (k.epoch, r) } }) s

/-- GUIDANCE_CYCLE_COMPLETE: within 5 ms of its edge a cycle's results become due at the first open edge, each in
binary32 (R184, R185). -/
def execGuidanceCycleComplete (s : State) : Host.Outcome State Fault Refusal :=
  onChip (fun k c =>
    match c.guide.cycle with
    | some (g, some r) =>
      if 1000 * g + 5000 < nowUs k c then c
      else
        let w := fun (c : Chip) (key v : Nat) => tileWrite k c key (.num (fConv fmt64 fmt32 v))
        let n := fun (c : Chip) (key v : Nat) => tileWrite k c key (.num v)
        let sp := dMul (dRat (toInt 8 (c.num (mkKey 0x2700 0x0A))) 1) r.delta
        let c := w (w (w c Key.GErr.XTE r.xte) Key.GErr.HE r.he) Key.GErr.CURVATURE r.curv
        let c := w (w (w c Key.GErr.WHEEL_SP sp) Key.GErr.ALONG r.along) Key.GErr.TO_END r.toEnd
        let c := n (n (n c Key.GErr.SOURCE_EPOCH (wireEpoch r.g)) Key.GErr.FLAGS r.flags) Key.GErr.SOLUTION_AGE r.age
        let g := c.guide
        closeHandling { c with guide := { g with
          cycle := none, due := g.due ++ [(openEdge k, r)], dPrev := if r.held then r.delta else g.dPrev
          lost := 0, compute := false } } 0x0603 unitGuide
    | _ => c) s

/-- GUIDANCE_CYCLE_LOST: a cycle not complete 5 ms after its edge; the second in a row disengages with COMPUTE (R186). -/
def execGuidanceCycleLost (s : State) : Host.Outcome State Fault Refusal :=
  onChip (fun k c =>
    match c.guide.cycle with
    | some (e, r) =>
      if nowUs k c < 1000 * e + 5000 then c
      else
        let g := c.guide
        let c := { c with guide := { g with cycle := none, lost := g.lost + 1, compute := guideHolds c && 1 ≤ g.lost } }
        raise k (c.bump Key.GErr.CYCLES_LOST) 0x0603 unitGuide r.isNone
    | none => c) s

/-! ## Engagement (R187–R190) -/

/-- The speed guidance judges is within 0.5–30 km/h: GNSS speed, or GROUND_SPEED without a valid one (R188). -/
def guideSpeedOk (k : Keeper) (c : Chip) : Bool :=
  let ok := fun v => fLe fmt32 0x3F000000 v && fLe fmt32 v 0x41F00000
  match gnssSpeed k c with
  | some v => ok (fMul fmt32 v 0x40666666)
  | none => c.flag Key.Speed.GROUND_SPEED_VALID && ok (c.num Key.Speed.GROUND_SPEED)

/-- An injection treats the fix as lost until its time is over (Table 6.7). -/
def coastInjected (k : Keeper) (c : Chip) : Bool :=
  c.flt.armed.any fun a => a.key = Key.Inj.GUIDE_COAST && decide (k.epoch < a.until_)

/-- The newest solution is RTK-fixed and no more than 200 ms old. -/
def rtkFixed (k : Keeper) (c : Chip) : Bool :=
  match c.gnss.fix with
  | some f => f.kind = 5 && k.epoch ≤ f.edge + 200 && !coastInjected k c
  | none => false

/-- A solution of any type is newer than 200 ms (R190). -/
def anyFix (k : Keeper) (c : Chip) : Bool :=
  match c.gnss.fix with
  | some f => k.epoch < f.edge + 200
  | none => false

/-- The value read through OVERRIDE_REF is zero or false; an injection acts as the override input. -/
def overrideClear (c : Chip) : Bool :=
  let r := c.num Key.Guide.OVERRIDE_REF
  !armedAt c Key.Inj.GUIDE_DISENGAGED 1 && (refKind r ≠ 3 || fEq fmt32 (refValue c r) 0)

/-- FS25 is bound, its ceiling is ACTIVE, it stands in STANDBY or ACTIVE and no root is lost. -/
def slotReady (c : Chip) : Bool :=
  let st := c.num (Key.Slot.STATE 24)
  boundRoots c 24 ≠ [] && ceiling c 24 = 2 && (st = 1 || st = 2) && c.num (Key.Slot.LOST_ROOTS 24) = 0

/-- The velocity lies within 90° of the machine heading. -/
def forwardOk (c : Chip) : Bool :=
  match c.gnss.fix with
  | none => true
  | some f =>
    let psi := machineHeading c (c.d Key.Hdg.HEADING)
    dLe 0 (dAdd (dMul (fConv fmt32 fmt64 f.velN) (fCosDeg fmt64 psi)) (dMul (fConv fmt32 fmt64 f.velE) (fSinDeg fmt64 psi)))

/-- Conditions of Table 6.3 by their cause codes, in order, each with whether it is met. [DEDUCED: log 65] -/
def engageConds (k : Keeper) (c : Chip) : List (Nat × Bool) :=
  let res := c.guide.result
  let within := fun (v : GuideRes → Nat) (key : Nat) => match res with
    | some r => dLe (fAbs fmt64 (v r)) (c.d key)
    | none => false
  [(1, c.mode = .field || c.mode = .harvest), (2, lineValid c (c.num Key.GLine.ACTIVE_LINE)), (3, rtkFixed k c),
    (4, guideSpeedOk k c), (5, c.flag Key.Guide.OP_PRESENT), (6, overrideClear c), (7, slotReady c),
    (8, c.flag Key.Hdg.HDG_VALID), (9, within (·.xte) Key.Guide.ENGAGE_XTE_MAX),
    (10, within (·.he) Key.Guide.ENGAGE_HE_MAX), (12, (res.map (·.inside)).getD false), (15, forwardOk c)]

/-- The first unmet condition; 0 when ready (R188). [DEDUCED: log 65] -/
def firstUnmet (k : Keeper) (c : Chip) : Nat := (((engageConds k c).find? (!·.2)).map (·.1)).getD 0

/-- The disengage cause at an edge: the lowest code of those that hold; 0 for none (R190). `fresh` is the result that
applies at this edge. [DEDUCED: log 98] -/
def disengageCause (k : Keeper) (c : Chip) (fresh : Option GuideRes) : Nat :=
  let unmet := (engageConds k c).filterMap fun x =>
    if !x.2 && [1, 5, 6, 7, 8, 15].contains x.1 then some x.1 else none
  let xte := match fresh with
    | some r => if dLe (fAbs fmt64 r.xte) (c.d Key.Guide.DISENGAGE_XTE) then [] else [9]
    | none => []
  let ended := if (fresh.map (·.past)).getD false then [11] else []
  let rtk := if c.num Key.Guide.RTK_COAST = 0 && !rtkFixed k c then [3] else []
  let sol := if anyFix k c then [] else [14]
  let cmd := if c.guide.cmd = some 2 then [16] else []
  let lost := if c.guide.compute then [17] else []
  let passed := fun (t : Option Nat) (ms : Nat) => (t.map fun e => decide (e + ms ≤ k.epoch)).getD false
  let slow := if passed c.guide.speedOut 500 then [4] else []
  let coasted := if c.num Key.Guide.STATE = 4 && passed c.guide.coastAt (c.num Key.Guide.RTK_COAST) then [13] else []
  ((unmet ++ xte ++ ended ++ rtk ++ sol ++ cmd ++ lost ++ slow ++ coasted).foldl (fun m x => if m = 0 || x < m then x else m) 0)

/-- Moves guidance to a state. -/
def guideTo (k : Keeper) (c : Chip) (st : Nat) : Chip :=
  (c.put Key.Guide.STATE st).put Key.Guide.STATE_EPOCH (wireEpoch k.epoch)

/-- Guidance applies FS25's MODE_REQ at the edge of the change (R187). -/
def guideModeReq (k : Keeper) (c : Chip) (v : Nat) : Chip :=
  let c := tileApply k c (Key.Slot.MODE_REQ 24) v
  { c with crop := { c.crop with reqs := c.crop.reqs.filter (fun r => decide (r.1 ≠ 24)) ++ [(24, v)] } }

/-- Guidance disengages with a cause; GUIDE_DISENGAGED is raised by any but COMMAND (Table 6.7). -/
def disengage (k : Keeper) (c : Chip) (cause : Nat) : Chip :=
  let inj := armedAt c Key.Inj.GUIDE_DISENGAGED 1
  let c := guideModeReq k (guideTo k c 1) 1
  let c := { c with guide := { c.guide with coastAt := none, compute := false } }
  let c := (c.put Key.Guide.CAUSE cause).put Key.GLine.DIRECTION 0
  if cause = 16 then c else raise k c 0x0601 unitGuide (inj && cause = 6)

/-- The pass nearest CP, ties toward zero (R183). -/
def nearestPass (c : Chip) (left : Nat) : Int :=
  let x := fExact fmt64 left
  let shift : Int := toInt 16 (c.num Key.GLine.SHIFT)
  let w := c.num Key.GLine.PASS_WIDTH
  -- (left · 1000 − shift) / width as a ratio
  let n := 1000 * x.1 - shift * x.2
  let d := w * x.2
  let q : Int := ((2 * n.natAbs + d - 1) / (2 * d) : Nat)
  max (-1000) (min 1000 (if n < 0 then -q else q))

/-- Engages: DIRECTION and, with PASS_AUTO, PASS_INDEX are set (R183), and the set-point goes on from the measured wheel
angle (R184). -/
def engage (k : Keeper) (c : Chip) : Chip :=
  let c := { c with guide := { c.guide with dPrev := measuredWheel c, compute := false } }
  let c := guideModeReq k ((guideTo k c 3).bump Key.Guide.ENGAGEMENTS) 2
  let c := c.put Key.Guide.ENGAGE_RESULT 0
  match c.guide.result with
  | some r =>
    let c := c.put Key.GLine.DIRECTION (ofInt 8 (if r.back then -1 else 1))
    if c.flag Key.GLine.PASS_AUTO then tileApply k c Key.GLine.PASS_INDEX (ofInt 16 (nearestPass c r.left)) else c
  | none => c

/-- ENGAGED or COASTING at an edge. -/
def heldEdge (k : Keeper) (c : Chip) (fresh : Option GuideRes) : Chip :=
  let cause := disengageCause k c fresh
  if cause ≠ 0 then disengage k c cause
  else if c.num Key.Guide.STATE = 3 then
    if rtkFixed k c then c
    else
      raise k (guideTo k { c with guide := { c.guide with coastAt := some k.epoch } } 4) 0x0602 unitGuide (coastInjected k c)
  else if rtkFixed k c then guideTo k { c with guide := { c.guide with coastAt := none } } 3
  else c

/-- Guidance at an edge, after the mode and before the slots (R189, Table 6.4). [DEDUCED: log 65] -/
def guideEdge (k : Keeper) (c : Chip) : Chip :=
  let g := c.guide
  let nowDue := g.due.filter fun r => decide (r.1 ≤ k.epoch)
  let fresh := (nowDue.getLast?).map (·.2)
  let result := match fresh with
    | some r => some r
    | none => g.result
  let ok := guideSpeedOk k c
  let speedOut := if ok then none else some (g.speedOut.getD k.epoch)
  let c : Chip := { c with guide := { g with due := g.due.filter (fun r => !decide (r.1 ≤ k.epoch)), result, speedOut } }
  let st : Nat := c.num Key.Guide.STATE
  let enabled := c.flag Key.Guide.GUIDE_ENABLE && !unitAshed c unitGuide
  let unmet := firstUnmet k c
  let c : Chip :=
    if st = 0 then (if enabled then guideModeReq k (guideTo k c 1) 1 else c)
    else if !enabled then
      let c := if st = 3 || st = 4 then guideModeReq k c 1 else c
      let c := { c with guide := { c.guide with coastAt := none, compute := false } }
      ((guideTo k c 0).put Key.Guide.CAUSE 18).put Key.GLine.DIRECTION 0
    else if st = 1 then
      if unmet = 0 then (guideTo k c 2).put Key.Guide.CAUSE 0
      else
        let c := c.put Key.Guide.CAUSE unmet
        if c.guide.cmd = some 1 then c.put Key.Guide.ENGAGE_RESULT unmet else c
    else if st = 2 then
      if unmet ≠ 0 then (guideTo k c 1).put Key.Guide.CAUSE unmet
      else if c.guide.cmd = some 1 then engage k c else c
    else
      heldEdge k c fresh
  let c := disarm c Key.Inj.GUIDE_DISENGAGED 1
  { c with guide := { c.guide with cmd := none } }

/-- OP_PRESENT_CHANGE: the operator-present input, filtered (R188). -/
def execOpPresentChange (active : Bool) (s : State) : Host.Outcome State Fault Refusal :=
  onChip (fun _ c => if c.mode = .off || c.mode = .banked then c else c.putFlag Key.Guide.OP_PRESENT active) s

/-- SPEED_OUT_OF_RANGE_EXPIRY: the speed has stayed outside 0.5–30 km/h for 500 ms (R190). The edge at which the time is
up has judged it with the other causes; a guidance that still holds disengages now. [DEDUCED: log 98] -/
def execSpeedOutOfRangeExpiry (s : State) : Host.Outcome State Fault Refusal :=
  onChip (fun k c =>
    match c.guide.speedOut with
    | some t => if guideHolds c && t + 500 ≤ k.epoch then disengage k c 4 else c
    | none => c) s

/-- COAST_EXPIRY: guidance has been COASTING for RTK_COAST (R190). The edge at which the time is up has judged it with the
other causes; a guidance that still coasts disengages now. [DEDUCED: log 98] -/
def execCoastExpiry (s : State) : Host.Outcome State Fault Refusal :=
  onChip (fun k c =>
    match c.guide.coastAt with
    | some t => if c.num Key.Guide.STATE = 4 && t + c.num Key.Guide.RTK_COAST ≤ k.epoch then disengage k c 13 else c
    | none => c) s

/-- Guidance is ashed: DISABLED until cleared in SERVICE. An engaged one is thereby disengaged, by a cause other than
COMMAND (Table 6.7). [DEDUCED: log 98] -/
def guideAsh (k : Keeper) (c : Chip) : Chip :=
  let st : Nat := c.num Key.Guide.STATE
  if st = 0 then c
  else
    let c := if st = 3 || st = 4 then raise k (guideModeReq k c 1) 0x0601 unitGuide false else c
    let c := { c with guide := { c.guide with coastAt := none, compute := false } }
    ((guideTo k c 0).put Key.Guide.CAUSE 18).put Key.GLine.DIRECTION 0

end Sys2Proof.Machine
end

