-- ==== Sys2Proof/Machine/Vision.lean ====
section
/-! DEFINITION. Cameras and the image pipeline (10): reception, correction, demosaic, outputs, the encoder's streams. -/

namespace Sys2Proof.Machine

def camOf (c : Chip) (n : Nat) : CamX := nth c.vis.cams n {}
def camSet (c : Chip) (n : Nat) (x : CamX) : Chip := { c with vis := { c.vis with cams := c.vis.cams.set n x } }

/-! ## Admission (R282) -/

/-- Sum of exact non-negative ratios. -/
def ratSum (l : List (Int × Nat)) : Int × Nat :=
  l.foldl (fun a b => (a.1 * b.2 + b.1 * a.2, a.2 * b.2)) (0, 1)

/-- An F32 object of a store as an exact ratio. -/
def odRat (od : OD) (key : Nat) : Int × Nat := fExact fmt32 (odNum od key)

/-- Pixel rate of a camera (R282). -/
def pixelRate (od : OD) (n : Nat) : Int × Nat :=
  let f := odRat od (Key.CamCfg.FPS n)
  (f.1 * (odNum od (Key.CamCfg.WIDTH n) * odNum od (Key.CamCfg.HEIGHT n) * odNum od (Key.CamCfg.EXPOSURES n) : Nat), f.2)

/-- Coded pixel rate of a camera. -/
def codedRate (od : OD) (n : Nat) : Int × Nat :=
  let f := odRat od (Key.CamCfg.FPS n)
  (f.1 * (odNum od (Key.CamCfg.WIDTH n) * odNum od (Key.CamCfg.HEIGHT n) : Nat), f.2 * odNum od (Key.CamCfg.CODE_DIV n))

/-- Cameras that are enabled, and those that are coded. -/
def camsOn (od : OD) : List Nat := (List.range 8).filter fun n => odNum od (Key.CamCfg.CAM_ENABLE n) ≠ 0
def camsCoded (od : OD) : List Nat := (camsOn od).filter fun n => bitOf (odNum od (Key.CamCfg.OUT_MASK n)) 1

/-- Loads of the memory pipe, the port and the encoder. -/
def visLoads (od : OD) : (Int × Nat) × (Int × Nat) × (Int × Nat) :=
  let on := camsOn od
  (ratSum ((on.filter (· ≠ 0)).map (pixelRate od)), if on.contains 0 then pixelRate od 0 else (0, 1),
    ratSum ((camsCoded od).map (codedRate od)))

/-- A ratio is at most a number. -/
def ratLe (r : Int × Nat) (n : Nat) : Bool := r.1 ≤ (n : Int) * r.2

/-- A configuration is admitted (R282). -/
def visAdmitted (od : OD) : Bool :=
  let mem := (visLoads od).1
  let port := pixelRate od 0
  let enc := ratSum (((List.range 8).filter fun n => bitOf (odNum od (Key.CamCfg.OUT_MASK n)) 1).map (codedRate od))
  let sent := ((List.range 8).filter fun n => odNum od (Key.CamCfg.CODE_DEST n) ≠ 0).foldl
    (fun s n => s + odNum od (Key.CamCfg.CODE_RATE n)) 0
  let rings := (List.range 8).foldl (fun s n => s + odNum od (Key.CamCfg.RING_MIB n)) 0
  ratLe port 150000000 && ratLe mem 600000000 && ratLe enc 600000000 && sent ≤ 60000000 && rings ≤ 262144

/-- MEM_LOAD, PORT_LOAD and ENC_LOAD show the admitted loads, whole pixels per second. -/
def visShow (c : Chip) : Chip :=
  let (mem, port, enc) := visLoads c.od
  let f := fun r : Int × Nat => (r.1 / r.2).toNat
  ((c.put Key.Vis.MEM_LOAD (f mem)).put Key.Vis.PORT_LOAD (f port)).put Key.Vis.ENC_LOAD (f enc)

/-! ## Correction (R288, R289) -/

/-- An image as rows of components. -/
abbrev Img := Array (Array Nat)

/-- A component, mirrored at the borders: the border itself is not repeated. -/
def mirror (i : Int) (n : Nat) : Nat :=
  let m := if i < 0 then (-i).toNat else i.toNat
  if m < n then m else 2 * (n - 1) - m

/-- The value at a place. -/
def at_ (m : Img) (w h : Nat) (x y : Int) : Nat := (m.getD (mirror y h) #[]).getD (mirror x w) 0

/-- A new image of the same size. -/
def mapImg (w h : Nat) (f : Nat → Nat → Nat) : Img :=
  ((List.range h).map fun y => ((List.range w).map fun x => f x y).toArray).toArray

/-- Two-byte words of a table. -/
def tableWord (b : List Byte) (i : Nat) : Nat := ofLeBytes ((b.drop (2 * i)).take 2)

/-- Linearisation of a raw code (R289). -/
def linearise (lin : Array Nat) (bits x : Nat) : Nat :=
  let sh := bits - 8
  let i := x >>> sh
  let f := x - (i <<< sh)
  let a := lin.getD i 0
  if sh = 0 then a
  else ((a : Int) + ((((lin.getD (i + 1) 0 : Int) - a) * f + ((1 <<< (sh - 1) : Nat) : Int)) / ((2 ^ sh : Nat) : Int))).toNat

/-- Merge of up to three linearised exposures, the longest first (R289). -/
def mergeExp (v : List Nat) (knee ra rb : Nat) : Nat :=
  let v0 := nth v 0 0
  let v1 := nth v 1 0
  if 3 ≤ v.length && knee ≤ v0 && knee ≤ v1 then nth v 2 0 * ra * rb
  else if 2 ≤ v.length && knee ≤ v0 then v1 * ra
  else v0

/-- CFA position of a site: 0–3, row by row. -/
def cfaPos (x y : Nat) : Nat := 2 * (y % 2) + x % 2

/-- Colour of a CFA position: 0 red, 1 green, 2 blue (Table 10.9). -/
def cfaColour (cfa pos : Nat) : Nat :=
  match cfa with
  | 0 => nth [0, 1, 1, 2] pos 1
  | 1 => nth [1, 0, 2, 1] pos 1
  | 2 => nth [1, 2, 0, 1] pos 1
  | 3 => nth [2, 1, 1, 0] pos 1
  | _ => 1

/-- Insertion into a rising list. -/
def insSorted (v : Nat) : List Nat → List Nat
  | [] => [v]
  | a :: t => if v ≤ a then v :: a :: t else a :: insSorted v t

/-- The mean of the middle two of four neighbours. -/
def medianOf4 (l : List Nat) : Nat :=
  let s := l.foldr insSorted []
  (nth s 1 0 + nth s 2 0 + 1) >>> 1

/-- Listed defective sites. -/
def defectSites (b : List Byte) : List (Nat × Nat) :=
  (List.range (b.length / 4)).map fun i => (tableWord b (2 * i), tableWord b (2 * i + 1))

/-- The shading gain of a site: bilinear between the four nearest points of the 17 × 13 grid, rounded to nearest. -/
def shadeGain (g : Array Nat) (w h x y : Nat) : Nat :=
  let p := cfaPos x y
  let dx := w - 1
  let dy := h - 1
  let ix := min (16 * x / dx) 15
  let iy := min (12 * y / dy) 11
  let fx := 16 * x - ix * dx
  let fy := 12 * y - iy * dy
  let v := fun i j => g.getD (4 * (17 * (iy + j) + ix + i) + p) 0
  let top := v 0 0 * (dx - fx) + v 1 0 * fx
  let low := v 0 1 * (dx - fx) + v 1 1 * fx
  (2 * (top * (dy - fy) + low * fy) + dx * dy) / (2 * dx * dy)

/-- Black level, defective pixels and lens shading on one image (R289). [DEDUCED: log 75] -/
def correctStages (cfg : OD) (n w h top : Nat) (m : Img) : Img :=
  let black := odNum cfg (Key.CamCfg.BLACK n)
  let m := mapImg w h fun x y => (at_ m w h x y) - black
  let sites := defectSites (odGet cfg (Key.CamCfg.DEFECTS n)).toBlob
  let d : Int := if odNum cfg (Key.CamCfg.CFA n) = 4 then 1 else 2
  let m' := if sites = [] then m
    else mapImg w h fun x y =>
      if sites.contains (x, y) then
        medianOf4 [at_ m w h (x - d) y, at_ m w h (x + d) y, at_ m w h x (y - d), at_ m w h x (y + d)]
      else at_ m w h x y
  let tab := (odGet cfg (Key.CamCfg.SHADING n)).toBlob
  let g := ((List.range (tab.length / 2)).map (tableWord tab)).toArray
  mapImg w h fun x y => min ((at_ m' w h x y * shadeGain g w h x y + 2048) >>> 12) top

/-- The five correction stages in a camera's ORDER (Table 10.3): raw lines in, corrected values out. -/
def correct (cfg : OD) (n : Nat) (rows : List (List Nat)) : Img :=
  let w := odNum cfg (Key.CamCfg.WIDTH n)
  let h := odNum cfg (Key.CamCfg.HEIGHT n)
  let e := odNum cfg (Key.CamCfg.EXPOSURES n)
  let bits := odNum cfg (Key.CamCfg.BITS n)
  let raw := (rows.map List.toArray).toArray
  let tab := (odGet cfg (Key.CamCfg.LIN_TABLE n)).toBlob
  let lin := ((List.range (tab.length / 2)).map (tableWord tab)).toArray
  let merge := fun l : List Nat => mergeExp (l.map (linearise lin bits)) (odNum cfg (Key.CamCfg.KNEE n))
    (odNum cfg (Key.CamCfg.RATIO_A n)) (odNum cfg (Key.CamCfg.RATIO_B n))
  let exposure := fun i => mapImg w h fun x y => (raw.getD (e * y + i) #[]).getD x 0 % 2 ^ bits
  if odNum cfg (Key.CamCfg.ORDER n) = 0 then
    let es := (List.range e).map exposure
    correctStages cfg n w h (2 ^ 24 - 1) (mapImg w h fun x y => merge (es.map fun m => at_ m w h x y))
  else
    let es := (List.range e).map fun i => correctStages cfg n w h (2 ^ bits - 1) (exposure i)
    mapImg w h fun x y => merge (es.map fun m => at_ m w h x y)

/-! ## Demosaic and colour (R290, R291) -/

/-- Clamps to 24 bits. -/
def clamp24 (v : Int) : Nat := (max 0 (min v (2 ^ 24 - 1))).toNat

/-- Green at a site (R290). -/
def greenAt (m : Img) (w h cfa : Nat) (x y : Nat) : Nat :=
  let c := fun dx dy : Int => (at_ m w h (x + dx) (y + dy) : Int)
  if cfaColour cfa (cfaPos x y) = 1 then (c 0 0).toNat
  else
    let dh := (c (-1) 0 - c 1 0).natAbs + (2 * c 0 0 - c (-2) 0 - c 2 0).natAbs
    let dv := (c 0 (-1) - c 0 1).natAbs + (2 * c 0 0 - c 0 (-2) - c 0 2).natAbs
    let gh := (2 * (c (-1) 0 + c 1 0) + 2 * c 0 0 - c (-2) 0 - c 2 0) / 4
    let gv := (2 * (c 0 (-1) + c 0 1) + 2 * c 0 0 - c 0 (-2) - c 0 2) / 4
    clamp24 (if dh < dv then gh else if dv < dh then gv else (gh + gv) / 2)

/-- Red or blue at a site, from the green plane. -/
def colourAt (m g : Img) (w h cfa colour : Nat) (x y : Nat) : Nat :=
  let here := cfaColour cfa (cfaPos x y)
  if here = colour then at_ m w h x y
  else
    let sites : List (Int × Int) :=
      if here = 1 then
        -- The colour stands in the same row or in the same column.
        if cfaColour cfa (cfaPos (x + 1) y) = colour then [(-1, 0), (1, 0)] else [(0, -1), (0, 1)]
      else [(-1, -1), (1, -1), (-1, 1), (1, 1)]
    let sum := sites.foldl (fun s d =>
      s + ((at_ m w h (x + d.1) (y + d.2) : Int) - at_ g w h (x + d.1) (y + d.2))) 0
    clamp24 ((at_ g w h x y : Int) + sum / (sites.length : Int))

/-- The three planes of a frame; a MONO frame has R = G = B. -/
def demosaic (m : Img) (w h cfa : Nat) : Img × Img × Img :=
  if cfa = 4 then (m, m, m)
  else
    let g := mapImg w h (greenAt m w h cfa)
    (mapImg w h (colourAt m g w h cfa 0), g, mapImg w h (colourAt m g w h cfa 2))

/-- An entry of the colour matrix, Q4.12. -/
def ccmEntry (b : List Byte) (i j : Nat) : Int := toInt 16 (tableWord b (3 * i + j))

/-- Colour correction of one pixel (R291); a MONO camera takes WB_G only and no matrix. -/
def colourCorrect (cfg : OD) (n : Nat) (p : Nat × Nat × Nat) : Nat × Nat × Nat :=
  let gain := fun v key => (v * odNum cfg key + 2048) >>> 12
  if odNum cfg (Key.CamCfg.CFA n) = 4 then
    let g := clamp24 (gain p.2.1 (Key.CamCfg.WB_G n))
    (g, g, g)
  else
    let r := gain p.1 (Key.CamCfg.WB_R n)
    let g := gain p.2.1 (Key.CamCfg.WB_G n)
    let b := gain p.2.2 (Key.CamCfg.WB_B n)
    let m := (odGet cfg (Key.CamCfg.CCM n)).toBlob
    let row := fun i => clamp24 ((ccmEntry m i 0 * r + ccmEntry m i 1 * g + ccmEntry m i 2 * b + 2048) / 4096)
    (row 0, row 1, row 2)

/-! ## Outputs (R292–R294, R299, R305) -/

/-- A vision component (R293). -/
def visValue (shift x : Nat) : Nat := min ((x + (if shift = 0 then 0 else 2 ^ (shift - 1))) >>> shift) 65535

/-- The sRGB transfer of IEC 61966-2-1 reaches the lower edge of a code of 0 to `m` at n/d: m·s ≥ c − 1/2, in exact
arithmetic. -/
def srgbReaches (m n d c : Nat) : Bool :=
  -- x = (2c − 1) / 2m is the encoded value at the edge.
  if (2 * c - 1) * 100000 ≤ 2 * m * 4045 then
    -- linear part: 12.92 · v
    (2 * c - 1) * 100 * d ≤ 2 * m * 1292 * n
  else
    -- v^5 ≥ y^12 with y = (x + 0.055) / 1.055
    let yn := (2 * c - 1) * 1000 + 2 * m * 55
    let yd := 2 * m * 1055
    yn ^ 12 * d ^ 5 ≤ n ^ 5 * yd ^ 12

/-- The highest of the first `k` codes a value reaches. [DESIGN CHOICE: log 15] -/
def srgbCode (m n d : Nat) : Nat → Nat
  | 0 => 0
  | k + 1 => if srgbReaches m n d (k + 1) then k + 1 else srgbCode m n d k

/-- A component of 0 to `m`, normalised as min(n / d, 1), encoded and rounded exactly (R294). -/
def srgbValue (m n d : Nat) : Nat := if d ≤ n then m else srgbCode m n d m

/-- A display component: the exact rounding, missed by at most one code (R294). [DESIGN CHOICE: log 15] -/
def dispValue (n d : Nat) : Nat :=
  let v := srgbValue 255 n d
  min (v + Config.srgbMiss (v + 256 * n) % 3 - 1) 255

/-- The largest power of two not above a ratio of two sizes. -/
def boxSize (from_ to_ : Nat) : Nat :=
  [2, 4, 8, 16, 32, 64, 128, 256].foldl (fun b k => if k * to_ ≤ from_ then k else b) 1

/-- Sum of a box of a plane. -/
def boxSum (m : Img) (w h bx by_ x y : Nat) : Nat :=
  (List.range by_).foldl (fun s j => (List.range bx).foldl (fun s i =>
    s + at_ m w h (min (bx * x + i) (w - 1) : Nat) (min (by_ * y + j) (h - 1) : Nat)) s) 0

/-- A component of the display image before its transfer: box average, then bilinear between box centres, exact
(R294). The result is a ratio. -/
def dispLinear (m : Img) (w h dw dh x y : Nat) : Nat × Nat :=
  let bx := boxSize w dw
  let by_ := boxSize h dh
  let sw := w / bx
  let sh := h / by_
  -- Source position of the pixel's centre, in half steps over 2·dw.
  let px : Int := (2 * x + 1) * sw - dw
  let py : Int := (2 * y + 1) * sh - dh
  let px := (max 0 (min px ((2 * dw * (sw - 1) : Nat) : Int))).toNat
  let py := (max 0 (min py ((2 * dh * (sh - 1) : Nat) : Int))).toNat
  let ix := px / (2 * dw)
  let iy := py / (2 * dh)
  let fx := px % (2 * dw)
  let fy := py % (2 * dh)
  let v := fun i j => boxSum m w h bx by_ (min (ix + i) (sw - 1)) (min (iy + j) (sh - 1))
  let top := v 0 0 * (2 * dw - fx) + v 1 0 * fx
  let low := v 0 1 * (2 * dw - fx) + v 1 1 * fx
  (top * (2 * dh - fy) + low * fy, 4 * dw * dh * bx * by_)

/-- Header of a frame DOMAIN (R305). -/
def frameHeader (epoch w h format number : Nat) : List Byte :=
  leBytes 6 epoch ++ leBytes 2 w ++ leBytes 2 h ++ leBytes 1 format ++ leBytes 1 0 ++ leBytes 4 number

/-- Statistics of a frame (R299, Table 10.6). -/
def statsBytes (r g b : Img) (w h epoch : Nat) : List Byte :=
  let all := (List.range h).flatMap fun y : Nat => (List.range w).map fun x : Nat =>
    let p := (at_ r w h x y, at_ g w h x y, at_ b w h x y)
    ((x, y), p, (p.1 + 2 * p.2.1 + p.2.2) >>> 2)
  let hist := fun (f : (Nat × Nat) × (Nat × Nat × Nat) × Nat → Nat) (n : Nat) =>
    let a := all.foldl (fun (a : Array Nat) p => let i := min (f p) (n - 1); a.set! i (a.getD i 0 + 1)) (Array.replicate n 0)
    a.toList.flatMap (leBytes 4)
  let zone := fun (f : (Nat × Nat) × (Nat × Nat × Nat) × Nat → Nat) =>
    all.foldl (fun (a : Array (Nat × Nat)) p =>
      let i := 32 * (24 * p.1.2 / h) + 32 * p.1.1 / w
      let s := a.getD i (0, 0)
      a.set! i (s.1 + f p, s.2 + 1)) (Array.replicate 768 (0, 0))
  let zr := zone fun p => p.2.1.1
  let zg := zone fun p => p.2.1.2.1
  let zb := zone fun p => p.2.1.2.2
  let zy := zone fun p => p.2.2
  let avg := fun (a : Array (Nat × Nat)) i => let s := a.getD i (0, 0); s.1 / max s.2 1
  leBytes 6 epoch ++ leBytes 4 (w * h) ++ List.replicate 6 (0 : Byte) ++ hist (fun p => p.2.2 >>> 16) 256 ++
    hist (fun p => p.2.1.1 >>> 18) 64 ++ hist (fun p => p.2.1.2.1 >>> 18) 64 ++ hist (fun p => p.2.1.2.2 >>> 18) 64 ++
    (List.range 768).flatMap fun i =>
      leBytes 4 (avg zr i) ++ leBytes 4 (avg zg i) ++ leBytes 4 (avg zb i) ++ leBytes 4 (avg zy i)

/-- Source epoch of a frame: the epoch that contains its exposure start (R286). -/
def frameEpoch (f : FrameX) : Nat := (f.ref - 1000 * odNum f.cfg (Key.CamCfg.EXPO_OFFSET f.cam)) / 1000000

/-- A ratio rounded to the nearest integer. -/
def nearestInt (n : Int) (d : Nat) : Nat := ((2 * n + d) / (2 * d)).toNat

/-- The coded picture's samples from the 10-bit R′G′B′ of a frame, by the coefficients of BT.709, in limited range; a
chroma sample is the mean of its 2 × 2 block (R295). [DESIGN CHOICE: log 16] -/
def codingPlanes (w h : Nat) (rgb : Nat → Nat → Nat × Nat × Nat) : List (List Nat) :=
  -- E′Y · 10000
  let luma := fun p : Nat × Nat × Nat => 2126 * p.1 + 7152 * p.2.1 + 722 * p.2.2
  let block := fun (f : Nat × Nat × Nat → Int) (x y : Nat) =>
    f (rgb (2 * x) (2 * y)) + f (rgb (2 * x + 1) (2 * y)) + f (rgb (2 * x) (2 * y + 1)) + f (rgb (2 * x + 1) (2 * y + 1))
  let chroma := fun (f : Nat × Nat × Nat → Int) (den : Nat) => (List.range (h / 2)).flatMap fun y : Nat =>
    (List.range (w / 2)).map fun x : Nat => nearestInt (512 * (4 * den * 1023 : Nat) + 896 * block f x y) (4 * den * 1023)
  let ys := (List.range h).flatMap fun y : Nat => (List.range w).map fun x : Nat =>
    nearestInt (64 * 10230000 + 876 * luma (rgb x y)) 10230000
  [ys, chroma (fun p => (10000 * p.2.2 : Nat) - (luma p : Int)) 18556, chroma (fun p => (10000 * p.1 : Nat) - (luma p : Int)) 15748]

/-- Hands a picture to the encoder; a waiting picture of the same camera is replaced and never coded (R466). -/
def encQueue (c : Chip) (e : EncX) : Chip :=
  match c.vis.enc with
  | [] => { c with vis := { c.vis with enc := [e] } }
  | p :: t =>
    if (t.any fun q => decide (q.cam = e.cam)) then
      { c with vis := { c.vis with enc := p :: t.map fun q : EncX => if q.cam = e.cam then e else q } }.bump Key.Load.ENC_REPLACED
    else { c with vis := { c.vis with enc := p :: t ++ [e] } }

/-- Outputs of a processed frame become due at the first open edge (R292, R304). [DESIGN CHOICE: log 16] -/
def frameOutputs (k : Keeper) (c : Chip) (f : FrameX) : Chip :=
  let n := f.cam
  let cfg := f.cfg
  let g := fun key => odNum cfg key
  let w := g (Key.CamCfg.WIDTH n)
  let h := g (Key.CamCfg.HEIGHT n)
  let mono := g (Key.CamCfg.CFA n) = 4
  let epoch := frameEpoch f
  let x := camOf c n
  let (r, gr, b) := demosaic (correct cfg n f.rows) w h (g (Key.CamCfg.CFA n))
  let cc := ((List.range h).map fun y : Nat => ((List.range w).map fun x : Nat =>
    colourCorrect cfg n (at_ r w h x y, at_ gr w h x y, at_ b w h x y)).toArray).toArray
  let plane := fun (pick : Nat × Nat × Nat → Nat) => mapImg w h fun x y => pick ((cc.getD y #[]).getD x (0, 0, 0))
  let planes := if mono then [plane (·.2.1)] else [plane (·.1), plane (·.2.1), plane (·.2.2)]
  let shift := g (Key.CamCfg.VIS_SHIFT n)
  let mask := g (Key.CamCfg.OUT_MASK n)
  let raws := (List.range h).flatMap fun y : Nat => (List.range w).flatMap fun x : Nat => planes.map fun p => at_ p w h x y
  let clipped := raws.foldl (fun s v =>
    if 65535 < (v + (if shift = 0 then 0 else 2 ^ (shift - 1))) >>> shift then s + 1 else s) 0
  let c := tileWrite k c (Key.CamSt.STATS n) (.blob (statsBytes r gr b w h epoch))
  let c := if bitOf mask 2 then
      tileWrite k (tileWrite k c (Key.CamSt.VIS_CLIPPED n) (.num clipped)) (Key.CamSt.VIS_FRAME n)
        (.blob (frameHeader epoch w h (if mono then 4 else 3) x.done ++ raws.flatMap fun v => leBytes 2 (visValue shift v)))
    else c
  let dw := g (Key.CamCfg.DISP_W n)
  let dh := g (Key.CamCfg.DISP_H n)
  let white := g (Key.CamCfg.DISP_WHITE n)
  let c := if bitOf mask 0 && x.done % g (Key.CamCfg.DISP_DIV n) = 0 then
      let px := (List.range dh).flatMap fun y : Nat => (List.range dw).flatMap fun x : Nat => planes.map fun p =>
        let v := dispLinear p w h dw dh x y
        BitVec.ofNat 8 (dispValue v.1 (v.2 * white))
      tileWrite k c (Key.CamSt.DISP_FRAME n) (.blob (frameHeader epoch dw dh (if mono then 2 else 1) x.done ++ px))
    else c
  let div := g (Key.CamCfg.CODE_DIV n) * 2 ^ c.num Key.Vis.ENC_DERATE
  let x := camOf c n
  let codes := bitOf mask 1 && x.coded % div = 0 && !unitAshed c (unitPipe 2)
  let c := camSet c n { x with done := x.done + 1, coded := if bitOf mask 1 then x.coded + 1 else x.coded }
  let c := if codes then
      let s := fun v => srgbValue 1023 v white
      encQueue c ⟨n, epoch, cfg, codingPlanes w h fun x y =>
        let p := (cc.getD y #[]).getD x (0, 0, 0)
        (s p.1, s p.2.1, s p.2.2)⟩
    else c
  tileWrite k c (Key.CamSt.FRAME_EPOCH n) (.num (wireEpoch epoch))

/-! ## 802.1AS time (R286, R351) -/

/-- 802.1AS time in ns of an instant `ns` after the newest edge (R351): GPS time plus 19 s while EPOCH_ALIGNED, else module
time. [DEDUCED: log 56] -/
def gptpNs (k : Keeper) (c : Chip) (ns : Int) : Int :=
  if c.flag Key.Epoch.EPOCH_ALIGNED then c.num Key.Epoch.EDGE_GNSS_MS * 1000000 + ns + 19000000000
  else k.epoch * 1000000 + ns

/-- The epoch that contains an 802.1AS time (R351). [DEDUCED: log 56] -/
def gptpEpoch (k : Keeper) (c : Chip) (t : Nat) : Nat := ((k.epoch : Int) + ((t : Int) - gptpNs k c 0) / 1000000).toNat

/-- Module time, in ns, of an AVTP timestamp: the 802.1AS time nearest to now that ends in its 32 bits (R286).
[DEDUCED: log 56] -/
def avtpRef (k : Keeper) (c : Chip) (stamp : Nat) : Nat :=
  let now := gptpNs k c (1000 * c.us)
  (1000 * nowUs k c + toInt 32 (((stamp : Int) - now) % 2 ^ 32).toNat).toNat

/-! ## Reception (R284–R287, R302) -/

/-- A camera's configuration for a frame whose reference instant lies in an epoch: what stood from that epoch's edge on
(R301). -/
def camConfig (k : Keeper) (c : Chip) (n epoch : Nat) : OD :=
  let od := match k.copies.find? (·.epoch = epoch) with
    | some y => if epoch < k.epoch then y.od else c.od
    | none => c.od
  od.filter fun e => decide (e.1 / 256 = 0x4210 + n)

/-- The pipe of a camera. -/
def camPipe (n : Nat) : Nat := if n = 0 then 0 else 1

/-- A camera receives: vision is up (K9), it is enabled, its pipe is not ashed, and it is not withheld. -/
def camRuns (k : Keeper) (c : Chip) (n : Nat) : Bool :=
  up c 9 && c.flag (Key.CamCfg.CAM_ENABLE n) && !unitAshed c (unitPipe (camPipe n))
    && !(c.flt.armed.any fun a => a.key = Key.Inj.CAM_LINK && a.value = n && decide (k.epoch < a.until_))

/-- A frame is discarded: FRAME_ERRORS and CAM_FRAME. [DEDUCED: log 75] -/
def frameError (k : Keeper) (c : Chip) (n : Nat) (injected : Bool) : Chip :=
  raise k (c.bump (Key.CamSt.FRAME_ERRORS n)) 0x0A02 (unitCam n) injected

/-- Frames a derate level withholds: 0 none, 1 every second, 2 all (Table 10.7). -/
def derateAction (level prio : Nat) : Nat :=
  match level, prio with
  | 0, _ => 0
  | 1, 0 => 1
  | _, 0 => 2
  | 3, 1 => 1
  | 4, 1 => 2 | 5, 1 => 2 | 6, 1 => 2
  | 5, 2 => 1
  | 6, 2 => 2
  | _, _ => 0

/-- Frames closer than 0.95 / FPS to the last accepted one are discarded (R287). -/
def tooSoon (cfg : OD) (n : Nat) (last : Option Nat) (ref : Nat) : Bool :=
  match last with
  | none => false
  | some t =>
    let f := odRat cfg (Key.CamCfg.FPS n)
    -- (ref − t) ns < 0.95 / fps s
    100 * ((ref : Int) - t) * f.1 < 95 * 1000000000 * (f.2 : Int)

/-- A frame's lines have the size its configuration asks for. [DEDUCED: log 75] -/
def frameWhole (f : FrameX) : Bool :=
  !f.broken && f.rows.length = odNum f.cfg (Key.CamCfg.HEIGHT f.cam) * odNum f.cfg (Key.CamCfg.EXPOSURES f.cam)
    && f.rows.all fun r => decide (r.length = odNum f.cfg (Key.CamCfg.WIDTH f.cam))

/-- Pixels of a frame, across its exposures. [DEDUCED: log 75] -/
def framePixels (f : FrameX) : Nat :=
  odNum f.cfg (Key.CamCfg.WIDTH f.cam) * odNum f.cfg (Key.CamCfg.HEIGHT f.cam) * odNum f.cfg (Key.CamCfg.EXPOSURES f.cam)

/-- QUEUE_PX follows the queue. -/
def queueShow (c : Chip) : Chip := c.put Key.Vis.QUEUE_PX (c.vis.queue.foldl (fun s f => s + framePixels f) 0)

/-- The frame to drop for load (R302): of the lowest priority present, the camera next after the one last dropped, its
oldest frame. -/
def dropChoice (c : Chip) : Option FrameX :=
  let q := c.vis.queue
  let prio := fun f : FrameX => odNum f.cfg (Key.CamCfg.PRIORITY f.cam)
  let low := q.foldl (fun m f => min m (prio f)) 3
  let cands := q.filter fun f => prio f = low
  let order := (List.range 7).map fun i => (c.vis.lastDrop + i) % 7 + 1
  (order.filterMap fun n => cands.find? (·.cam = n)).head?

/-- Drops frames one at a time until the queue keeps its limit. -/
def dropForLoad (k : Keeper) : Nat → Chip → Chip
  | 0, c => c
  | fuel + 1, c =>
    if c.vis.queue.foldl (fun s f => s + framePixels f) 0 ≤ c.num Key.Vis.QUEUE_MS * 600000 then c
    else match dropChoice c with
      | none => c
      | some f =>
        let c := { c with vis := { c.vis with queue := c.vis.queue.erase f, lastDrop := f.cam } }
        dropForLoad k fuel (raise k (c.bump (Key.CamSt.DROP_LOAD f.cam)) 0x0A03 (unitCam f.cam))

/-- A complete frame goes into a buffer as briquettes of 64 × 4 samples, each 1 to 16 units of 32 bytes and one byte
(R300). [DESIGN CHOICE: log 16] -/
def briquettes (c : Chip) (f : FrameX) : Chip :=
  let g := fun key => odNum f.cfg key
  let lines := g (Key.CamCfg.HEIGHT f.cam) * g (Key.CamCfg.EXPOSURES f.cam)
  let blocks := (g (Key.CamCfg.WIDTH f.cam) + 63) / 64 * ((lines + 3) / 4)
  let units := blocks + Config.briqUnits c.free % (15 * blocks + 1)
  { c with free := c.free + 1, vis := { c.vis with
    briq := (c.vis.briq.1 + 32 * units + blocks, c.vis.briq.2 + 512 * blocks) } }

/-- A complete frame is judged and goes on into its pipe. [DEDUCED: log 75] -/
def frameDone (k : Keeper) (c : Chip) (f : FrameX) : Chip :=
  let n := f.cam
  let x := camOf c n
  let inj := armedAt c Key.Inj.CAM_FRAME n
  let c := disarm (camSet c n { x with recv := none }) Key.Inj.CAM_FRAME n
  if inj || !frameWhole f || tooSoon f.cfg n x.lastRef f.ref then frameError k c n inj
  else
    let act := if n = 0 then 0 else derateAction (c.num Key.Vis.DERATE_LEVEL) (odNum f.cfg (Key.CamCfg.PRIORITY n))
    let x := { camOf c n with lastRef := some f.ref, since := nowUs k c, taken := x.taken + 1, times := nowUs k c :: x.times }
    let c := closeHandling (((camSet c n x).put (Key.CamSt.CAM_STATE n) 2).bump (Key.CamSt.FRAMES n)) 0x0A01 (unitCam n)
    if act = 2 || (act = 1 && x.taken % 2 = 0) then c.bump (Key.CamSt.DROP_DERATE n)
    else if n = 0 then { c with vis := { c.vis with line := some f } }
    else
      let injD := armedAt c Key.Inj.VISION_DROP n
      if injD then
        let c := { disarm c Key.Inj.VISION_DROP n with vis := { c.vis with lastDrop := n } }
        raise k (c.bump (Key.CamSt.DROP_LOAD n)) 0x0A03 (unitCam n) true
      else
        let c := briquettes c f
        queueShow (dropForLoad k 32 { c with vis := { c.vis with queue := c.vis.queue ++ [f] } })

/-- CAM0_FRAME_START: VSYNC's active edge, timestamped; a frame left incomplete is discarded (R284). -/
def execCam0FrameStart (vsyncNs : Nat) (s : State) : Host.Outcome State Fault Refusal :=
  onChip (fun k c =>
    if !camRuns k c 0 then c
    else
      let f : FrameX := { cam := 0, ref := 1000000 * k.epoch + vsyncNs / 10 * 10, cfg := camConfig k c 0 k.epoch }
      let c := if (camOf c 0).recv.isSome then frameError k c 0 false else c
      camSet c 0 { camOf c 0 with recv := some f }) s

/-- CAM0_FRAME_END: the frame is accepted only with exactly its lines and pixels; data bits above BITS are ignored
(R284). -/
def execCam0FrameEnd (format : FrameFormat) (rows : List (List Nat)) (s : State) : Host.Outcome State Fault Refusal :=
  onChip (fun k c =>
    match (camOf c 0).recv with
    | none => c
    | some f =>
      let sized := rows.length = format.lines && rows.all fun r => decide (r.length = format.width)
      frameDone k c { f with rows, broken := !sized }) s

/-- The stream's format fields agree with the configuration, and are of a form that is supported (R285). -/
def formatAgrees (cfg : OD) (n : Nat) (f : FrameFormat) : Bool :=
  f.width = odNum cfg (Key.CamCfg.WIDTH n)
    && f.lines = odNum cfg (Key.CamCfg.HEIGHT n) * odNum cfg (Key.CamCfg.EXPOSURES n)
    && f.bits = odNum cfg (Key.CamCfg.BITS n) && f.cfa = odNum cfg (Key.CamCfg.CFA n) && f.progressive && f.raw

/-- A frame starts on a stream: a buffer is freed where none is free (R302), a frame left incomplete is discarded, and
format fields that contradict the configuration keep the camera WAITING (R306). -/
def streamStart (k : Keeper) (c : Chip) (n ref : Nat) (format : FrameFormat) : Chip :=
  let x := camOf c n
  let c := if x.recv.isSome then frameError k (camSet c n { x with recv := none }) n false else c
  let cfg := camConfig k c n (ref / 1000000)
  if !formatAgrees cfg n format then
    let c := camSet c n { camOf c n with refused := true }
    frameError k ((c.put (Key.CamSt.CAM_STATE n) 1).put (Key.CamSt.FORMAT_RESULT n) Rc.FRAME_FORMAT) n false
  else
    let mine := c.vis.queue.filter fun f => decide (f.cam = n)
    let busy := mine.length + (if (c.vis.proc.map (·.cam)) = some n then 1 else 0)
    let c := match decide (3 ≤ busy), mine with
      | true, f :: _ => queueShow ({ c with vis := { c.vis with queue := c.vis.queue.erase f } }.bump (Key.CamSt.DROP_RING n))
      | _, _ => c
    (camSet c n { camOf c n with recv := some { cam := n, ref, cfg }, refused := false }).put (Key.CamSt.FORMAT_RESULT n) Rc.OK

/-- RVF_PACKET: a packet of the configured stream; the last one completes its frame. A frame whose first packet is missing
is discarded whole too (R285). -/
def execRvfPacket (cam : Fin 7) (p : RvfPacket) (s : State) : Host.Outcome State Fault Refusal :=
  onChip (fun k c =>
    let n := cam.val + 1
    if !camRuns k c n || p.streamId.toNat ≠ c.num (Key.CamCfg.STREAM_ID n) || c.num (Key.Eth.LINK (n + 3)) ≠ 1 then c
    else
      let c := c.bump (Key.Eth.RX_FRAMES (n + 3))
      let c := match p.first with
        | some stamp => streamStart k c n (avtpRef k c stamp.toNat) p.format
        | none =>
          if (camOf c n).recv.isSome || (camOf c n).refused then c
          else camSet c n { camOf c n with
            recv := some { cam := n, ref := 1000 * nowUs k c, cfg := camConfig k c n k.epoch, broken := true } }
      match (camOf c n).recv with
      | none => if p.last then camSet c n { camOf c n with refused := false } else c
      | some f =>
        let f := { f with rows := f.rows ++ p.rows, broken := f.broken || p.gap || !formatAgrees f.cfg n p.format }
        if p.last then frameDone k c f else camSet c n { camOf c n with recv := some f }) s

/-- MEMORY_PIPE_TAKE: the pipe takes complete frames in order of arrival (R302). -/
def execMemoryPipeTake (s : State) : Host.Outcome State Fault Refusal :=
  onChip (fun _ c =>
    if !up c 9 || unitAshed c (unitPipe 1) then c
    else match c.vis.proc, c.vis.queue with
      | none, f :: q => queueShow { c with vis := { c.vis with proc := some f, queue := q } }
      | _, _ => c) s

/-- FRAME_PROCESSED: a pipe completes a frame and its outputs become due (R304). -/
def execFrameProcessed (cam : Fin 8) (s : State) : Host.Outcome State Fault Refusal :=
  onChip (fun k c =>
    let n := cam.val
    if n = 0 then
      match c.vis.line with
      | some f => frameOutputs k { c with vis := { c.vis with line := none } } f
      | none => c
    else match c.vis.proc with
      | some f => if f.cam = n then frameOutputs k { c with vis := { c.vis with proc := none } } f else c
      | none => c) s

/-- CAMERA_LOST: no accepted frame for 10 / FPS (R287). A camera whose stream contradicts its configuration stays WAITING
(R306). [DEDUCED: log 75] -/
def execCameraLost (cam : Fin 8) (s : State) : Host.Outcome State Fault Refusal :=
  onChip (fun k c =>
    let n := cam.val
    let f := odRat c.od (Key.CamCfg.FPS n)
    let x := camOf c n
    let st := c.num (Key.CamSt.CAM_STATE n)
    let late := 10 * 1000000 * (f.2 : Int) ≤ ((nowUs k c : Int) - x.since) * f.1
    if up c 9 && c.flag (Key.CamCfg.CAM_ENABLE n) && (st = 1 || st = 2) && c.num (Key.CamSt.FORMAT_RESULT n) = 0 && late then
      let inj := c.flt.armed.any fun a => a.key = Key.Inj.CAM_LINK && a.value = n
      raise k (c.put (Key.CamSt.CAM_STATE n) 3) 0x0A01 (unitCam n) inj
    else c) s

/-! ## Coded streams (R296–R298) -/

/-- Sends a UDP datagram from a port whose link is up; what meets a link that is down is lost (R350). -/
def udpSend (c : Chip) (port dst dport sport : Nat) (d : List Byte) : Chip :=
  if c.num (Key.Eth.LINK port) = 1 then (c.emit (.udp port dst dport sport d)).bump (Key.Eth.TX_FRAMES port) else c


/-- Datagrams of a coded picture (R297, Table 10.5): fragments of at most 1,456 data bytes. -/
def codedDatagrams (cam epoch picture : Nat) (irap : Bool) : Nat → Nat → List Byte → List (List Byte)
  | 0, _, _ => []
  | fuel + 1, frag, b =>
    let last := b.length ≤ 1456
    let h := leBytes 1 0x4A ++ leBytes 1 0x56 ++ leBytes 1 1 ++ leBytes 1 cam ++ leBytes 6 epoch ++ leBytes 2 picture ++
      leBytes 2 frag ++ leBytes 1 ((if last then 1 else 0) + if irap then 2 else 0) ++ leBytes 1 0
    (h ++ b.take 1456) :: (if last then [] else codedDatagrams cam epoch picture irap fuel (frag + 1) (b.drop 1456))

/-- Bytes of a recorded picture: its EPOCH as a U48, then its data. -/
def clipBytes (l : List (Nat × List Byte)) : List Byte := l.flatMap fun p => leBytes 6 p.1 ++ p.2

/-- Oldest pictures leave a ring that is over its size. -/
def ringTrim (size : Nat) : List (Nat × List Byte) → List (Nat × List Byte)
  | [] => []
  | p :: t => if size < (clipBytes (p :: t)).length then ringTrim size t else p :: t

/-- Writes a picture to its camera's ring. -/
def ringWrite (c : Chip) (n epoch : Nat) (b : List Byte) : Chip :=
  let x := camOf c n
  let ring := ringTrim (1048576 * c.num (Key.CamCfg.RING_MIB n)) (x.ring ++ [(epoch, b)])
  (camSet c n { x with ring }).putBlob (Key.CamSt.CODE_CLIP n) (clipBytes ring)

/-- Bytes in the hold buffer. -/
def holdBytes (c : Chip) : Nat := c.vis.hold.foldl (fun s p => s + p.2.2.2.length) 0

/-- Size of the hold buffer. -/
abbrev holdSize : Nat := 536870912

/-- Records a picture: to the ring, or to the hold buffer while UFS writes are not permitted (R298). -/
def recordPicture (c : Chip) (n epoch : Nat) (irap : Bool) (b : List Byte) : Chip :=
  let held := c.flag (Key.CamSt.RECORD_HELD n)
  if held && !(irap && holdBytes c < holdSize / 2) then c
  else
    let c := c.putFlag (Key.CamSt.RECORD_HELD n) false
    if c.num Key.WrHold.UFS_WRITE = 0 && c.vis.hold = [] then ringWrite c n epoch b
    else if holdSize < holdBytes c + b.length then
      (camSet c n { camOf c n with wantIrap := true }).putFlag (Key.CamSt.RECORD_HELD n) true
    else
      let c := { c with vis := { c.vis with hold := c.vis.hold ++ [(n, epoch, irap, b)] } }
      c.put Key.Vis.HOLD_USED (holdBytes c)

/-- What rate control makes of a picture (R296): the lowest QP within its bounds at which the bucket does not overflow, with
its bytes; none where it would overflow at CODE_QP_MAX. [DESIGN CHOICE: log 16] -/
def rateChoice (cfg : OD) (n level : Nat) (p : CodedPicture) : Option (Nat × List Byte) :=
  let lo := odNum cfg (Key.CamCfg.CODE_QP_MIN n)
  let hi := odNum cfg (Key.CamCfg.CODE_QP_MAX n)
  (p.codes.filter fun q => decide (lo ≤ q.1 ∧ q.1 ≤ hi
    ∧ 2 * (level + 8 * q.2.length) ≤ odNum cfg (Key.CamCfg.CODE_RATE n))).foldl (fun best q =>
      match best with
      | some b => if q.1 < b.1 then some q else best
      | none => some q) none

/-- PICTURE_CODED: the encoder completes a picture under rate control, sends it and records it, with the values its frame
started with (R296–R298, R301). A picture that is skipped is coded as such, and is no I picture.
[DESIGN CHOICE: log 16] -/
def execPictureCoded (cam : Fin 8) (p : CodedPicture) (s : State) : Host.Outcome State Fault Refusal :=
  onChip (fun k c =>
    let n := cam.val
    let x := camOf c n
    match c.vis.enc with
    | [] => c
    | e :: rest =>
      if e.cam ≠ n then c else
      let g := fun key => odNum e.cfg key
      let drained := x.bucket - g (Key.CamCfg.CODE_RATE n) * (nowUs k c - x.bucketAt) / 1000000
      let choice := rateChoice e.cfg n drained p
      let data := (choice.map (·.2)).getD p.skip
      -- An I picture every CODE_GOP pictures, and where recording resumes (R295, R298).
      let irap := choice.isSome && (x.sinceIrap = 0 || g (Key.CamCfg.CODE_GOP n) ≤ x.sinceIrap
        || (x.wantIrap && decide (holdBytes c < holdSize / 2)))
      let inj := armedAt c Key.Inj.ENC_FAULT 1
      let c := disarm c Key.Inj.ENC_FAULT 1
      let c := { c with vis := { c.vis with enc := rest } }
      let c := camSet c n { x with picture := (x.picture + 1) % 65536, bucket := drained + 8 * data.length
                                   bucketAt := nowUs k c, wantIrap := x.wantIrap && !irap
                                   sinceIrap := if irap then 1 else if x.sinceIrap = 0 then 0 else x.sinceIrap + 1 }
      let c := c.put (Key.CamSt.CODE_QP n) ((choice.map (·.1)).getD (g (Key.CamCfg.CODE_QP_MAX n)))
      let c := if choice.isNone then c.bump (Key.CamSt.CODE_SKIPS n) else c
      let c := if inj || !p.inTime then raise k c 0x0A05 (unitPipe 2) inj else closeHandling c 0x0A05 (unitPipe 2)
      let dest := g (Key.CamCfg.CODE_DEST n)
      let c := if dest = 0 then c
        else (codedDatagrams n e.epoch x.picture irap (data.length / 1456 + 1) 0 data).foldl
          (fun c d => udpSend c 11 dest 47602 47602 d) c
      if g (Key.CamCfg.CODE_RECORD n) ≠ 0 then recordPicture c n e.epoch irap data else c) s

/-- CODED_RECORD_FLUSH: held pictures are written in order once UFS writing is permitted (R298). -/
def execCodedRecordFlush (s : State) : Host.Outcome State Fault Refusal :=
  onChip (fun _ c =>
    if c.mode = .off || c.mode = .banked || c.num Key.WrHold.UFS_WRITE ≠ 0 then c
    else
      let held := c.vis.hold
      let c := { c with vis := { c.vis with hold := [] } }.put Key.Vis.HOLD_USED 0
      held.foldl (fun c p => ringWrite c p.1 p.2.1 p.2.2.2) c) s

/-! ## States, derating, edges -/

/-- CAM_ENABLE applies (R301): true leaves OFF for WAITING; false discards the frame in reception. -/
def camEnableApply (k : Keeper) (c : Chip) (n : Nat) (on : Bool) : Chip :=
  let x := camOf c n
  let st := c.num (Key.CamSt.CAM_STATE n)
  if st = 4 then c
  else if on then
    if st = 0 && up c 9 then (camSet c n { x with since := nowUs k c, lastRef := none }).put (Key.CamSt.CAM_STATE n) 1 else c
  else (camSet c n { x with recv := none }).put (Key.CamSt.CAM_STATE n) 0

/-- K9: vision comes up; enabled cameras wait for frames. -/
def visionUp (k : Keeper) (c : Chip) : Chip :=
  (List.range 8).foldl (fun c n => if c.flag (Key.CamCfg.CAM_ENABLE n) then camEnableApply k c n true else c) c

/-- Vision loses power: frames and held pictures are gone; the held ones are counted in HELD_LOST (R298, R434). -/
def visionDown (c : Chip) : Chip :=
  let lost := c.vis.hold.length
  let c := { c with vis := { c.vis with
    line := none, queue := [], proc := none, hold := [], enc := []
    briq := (0, 0)
    cams := c.vis.cams.map fun x : CamX => { x with recv := none, refused := false, lastRef := none, times := [] } } }
  let c := (List.range 8).foldl (fun c n =>
    if c.num (Key.CamSt.CAM_STATE n) = 4 then c else c.put (Key.CamSt.CAM_STATE n) 0) c
  ((c.put Key.Vis.HOLD_USED 0).put Key.Vis.QUEUE_PX 0).bump Key.WrHold.HELD_LOST lost

/-- DERATE_LEVEL and ENC_DERATE take the higher of the demands; a rise raises VISION_DERATE (R303). -/
def setDerate (k : Keeper) (c : Chip) (level enc : Nat) (injected : Bool) : Chip :=
  let rise := c.num Key.Vis.DERATE_LEVEL < level || c.num Key.Vis.ENC_DERATE < enc
  let c := (c.put Key.Vis.DERATE_LEVEL level).put Key.Vis.ENC_DERATE enc
  if rise then raise k c 0x0A06 theModule injected else c

/-- Vision at an edge: FPS_MEAS over the last second, and BRIQ_RATIO each second in which a buffer was stored (R300).
[DESIGN CHOICE: log 16] -/
def visionEdge (k : Keeper) (c : Chip) : Chip :=
  if !up c 9 then c
  else
    let c := (List.range 8).foldl (fun c n =>
      let x := camOf c n
      if x.times = [] && c.num (Key.CamSt.FPS_MEAS n) = 0 then c
      else
        let l := x.times.filter fun t => decide (nowUs k c < t + 1000000)
        (camSet c n { x with times := l }).put (Key.CamSt.FPS_MEAS n) (fNat fmt32 l.length)) c
    if k.epoch % 1000 = 0 then
      let (stored, raw) := c.vis.briq
      let c := if raw = 0 then c else c.put Key.Vis.BRIQ_RATIO (fRatio fmt32 stored raw)
      { c with vis := { c.vis with briq := (0, 0) } }
    else c

/-- A pipe is ashed: its cameras stop, or coding stops (R307). -/
def pipeAsh (c : Chip) (p : Nat) : Chip :=
  let c := c.putBits Key.Vis.PIPE_ASH (2 ^ p) true
  if p = 2 then { c with vis := { c.vis with enc := [] } }
  else
    let cams := (List.range 8).filter fun n => camPipe n = p
    let c := { c with vis := { c.vis with
      line := if p = 0 then none else c.vis.line, queue := if p = 1 then [] else c.vis.queue
      proc := if p = 1 then none else c.vis.proc } }
    queueShow (cams.foldl (fun c n => (camSet c n { camOf c n with recv := none }).put (Key.CamSt.CAM_STATE n) 4) c)

/-- A pipe's ash is cleared. -/
def pipeUnash (k : Keeper) (c : Chip) (p : Nat) : Chip :=
  let c := c.putBits Key.Vis.PIPE_ASH (2 ^ p) false
  ((List.range 8).filter fun n => camPipe n = p && p ≠ 2).foldl (fun c n =>
    let c := c.put (Key.CamSt.CAM_STATE n) 0
    if c.flag (Key.CamCfg.CAM_ENABLE n) then camEnableApply k c n true else c) c

end Sys2Proof.Machine
end

