-- ==== Sys2Proof/Machine/Fusion.lean ====
section
/-! DEFINITION. Perception and fusion (11, R465): sources, the fusion cycle, tracks, zones, the grain cart. -/

namespace Sys2Proof.Machine

/-! ## Sources (R308–R313) -/

/-- Configuration of fusion at an edge. -/
def fusConfig (c : Chip) : OD := c.od.filter fun e => decide (0x4300 ≤ e.1 / 256 ∧ e.1 / 256 < 0x4338)

/-- A source enabled with a KIND whose input is missing (R308). -/
def sourceInvalid (od : OD) (s : Nat) : Bool :=
  odNum od (Key.Src.SRC_ENABLE s) ≠ 0 &&
    match odNum od (Key.Src.KIND s) with
    | 1 => 8 ≤ odNum od (Key.Src.UNIT s) || !bitOf (odNum od (Key.CamCfg.OUT_MASK (odNum od (Key.Src.UNIT s)))) 2
    | 2 => 4 ≤ odNum od (Key.Src.UNIT s)
    | 3 => refKind (odNum od (Key.Src.REF s)) ≠ 3
    | _ => true

/-- The unit behind a source is ashed (R310). -/
def sourceAshed (c : Chip) (s : Nat) : Bool :=
  let u := c.num (Key.Src.UNIT s)
  match c.num (Key.Src.KIND s) with
  | 1 => unitAshed c (unitPipe (camPipe u)) || unitAshed c (unitPd 8)
  | 2 => unitAshed c (unitEth u) || unitAshed c (unitPd 11)
  | 3 => keyAshed c (refWhich (c.num (Key.Src.REF s)))
  | _ => true

/-- Cosine and sine of a source's MOUNT_YAW, binary64. -/
def yawDir (cfg : OD) (s : Nat) : Nat × Nat :=
  let r := odRat cfg (Key.Src.MOUNT_YAW s)
  let p := fxSinCos r.1 r.2
  (dFx p.2, dFx p.1)

/-- MOUNT_X and MOUNT_Y in metres, binary64. -/
def mountAt (cfg : OD) (s : Nat) : Nat × Nat :=
  (dRat (toInt 32 (odNum cfg (Key.Src.MOUNT_X s))) 1000, dRat (toInt 32 (odNum cfg (Key.Src.MOUNT_Y s))) 1000)

/-- The measurement a RANGE source reads: a point along MOUNT_YAW, an OBSTACLE; none beyond the field of view. -/
def rangeSample (c : Chip) (s : Nat) : List Detection :=
  let d := refValue c (c.num (Key.Src.REF s))
  if fLe fmt32 0 d && fLe fmt32 d (c.num (Key.Src.RANGE_MAX s)) then
    let (q, p) := yawDir c.od s
    let (mx, my) := mountAt c.od s
    let d := fConv fmt32 fmt64 d
    [{ x := BitVec.ofNat 32 (fConv fmt64 fmt32 (dAdd mx (dMul d q)))
       y := BitVec.ofNat 32 (fConv fmt64 fmt32 (dAdd my (dMul d p))), length := 0, width := 0, cls := 4 }]
  else []

/-- The newest sample of a source as it stands at C. -/
def newestSample (k : Keeper) (c : Chip) (s : Nat) : Option (Nat × List Detection) :=
  if c.num (Key.Src.KIND s) = 3 then
    let key := refWhich (c.num (Key.Src.REF s))
    if keyAshed c key then none else some ((sourceEpoch c key).getD k.epoch, rangeSample c s)
  else nth c.fus.samples s none

/-- The camera behind a source is LOST: the source is stale (R287). -/
def cameraGone (c : Chip) (s : Nat) : Bool :=
  c.num (Key.Src.KIND s) = 1 && c.num (Key.CamSt.CAM_STATE (c.num (Key.Src.UNIT s))) = 3

/-- A source's state at C: its sample's age, and whether it is stale, shed and live (R287, R310, R311). A source whose unit
is ashed counts as stale. -/
def sourceAt (k : Keeper) (c : Chip) (s : Nat) : Option Nat × Bool × Bool × Bool :=
  let age := (newestSample k c s).map fun p => min (k.epoch - p.1) 65534
  let on := c.flag (Key.Src.SRC_ENABLE s)
  let stale := on && (armedFor k c Key.Inj.FUSION_STALE s || cameraGone c s || sourceAshed c s || !(match age with
    | some a => decide (a ≤ c.num (Key.Src.STALE_MS s))
    | none => false))
  let shed := on && c.fus.shed.contains s
  (age, stale, shed, on && !stale && !shed)

/-- Order in which live sources are shed (R310): increasing PRIORITY, within a priority decreasing number. -/
def shedNext (k : Keeper) (c : Chip) : Option Nat :=
  let live := ((List.range 16).filter fun s => (sourceAt k c s).2.2.2).reverse
  live.foldl (fun b s => match b with
    | some m => if c.num (Key.Src.PRIORITY s) < c.num (Key.Src.PRIORITY m) then some s else b
    | none => some s) none

/-- FUSION_SHED shows the shed sources. -/
def shedShow (c : Chip) : Chip := c.put Key.Load.FUSION_SHED (c.fus.shed.foldl (fun m s => m + 2 ^ s) 0)

/-- A source turns stale: FUSION_STALE is raised as it does. [DEDUCED: log 59] -/
def staleRaise (k : Keeper) (c : Chip) (s : Nat) : Chip :=
  if (sourceAt k c s).2.1 && !bitOf (c.num (Key.Src.SRC_FLAGS s)) 1 then
    raise k c 0x0B01 (unitSrc s) (armedFor k c Key.Inj.FUSION_STALE s)
  else c

/-- FUSION_CYCLE: at each edge that is a multiple of 50 the newest sample of every live source is taken (R311).
[DESIGN CHOICE: log 6] -/
def execFusionCycle (s : State) : Host.Outcome State Fault Refusal :=
  onChip (fun k c =>
    if k.epoch % 50 ≠ 0 || !up c 9 || !tilesRun c || !gateOpen c 4 || unitAshed c unitFusion || 2 ≤ c.fus.cycles.length
        || (c.fus.cycles.any fun y => decide (y.edge = k.epoch)) then c
    else
      let c := match c.fus.late, shedNext k c with
        | true, some n => shedShow { c with fus := { c.fus with shed := c.fus.shed ++ [n] } }
        | _, _ => c
      let two := armedAt c Key.Inj.FUSION_CYCLE_LOST 2
      let one := armedAt c Key.Inj.FUSION_CYCLE_LOST 1
      let c := disarm (disarm c Key.Inj.FUSION_CYCLE_LOST 2) Key.Inj.FUSION_CYCLE_LOST 1
      let c := if two then arm c Key.Inj.FUSION_CYCLE_LOST 1 0 else c
      let c := (List.range 16).foldl (staleRaise k) c
      let live := (List.range 16).filter fun n => (sourceAt k c n).2.2.2
      let shows := (List.range 16).map fun n =>
        let (age, stale, shed, on) := sourceAt k c n
        (if c.flag (Key.Src.SRC_ENABLE n) then age.getD 0xFFFF else 0xFFFF,
          (if on then 1 else 0) + (if stale then 2 else 0) + (if shed then 4 else 0))
      let taken := live.filterMap fun n => (newestSample k c n).map fun p => (n, p.1, p.2)
      let c := live.foldl (fun c n => if c.num (Key.Src.KIND n) = 3 then c.bump (Key.Src.SAMPLES n) else c) c
      let field := if c.flag Key.Hdg.HDG_VALID then
          c.gnss.fix.map fun f : FixX => (f.lat, f.lon, machineHeading c (c.d Key.Hdg.HEADING)) else none
      let y : FusCycle := { edge := k.epoch, cfg := fusConfig c, taken, live, shows, field, doomed := one || two }
      { c with fus := { c.fus with cycles := c.fus.cycles ++ [y], late := false } }) s

/-- TILE_DETECTIONS_COMPLETE: detections of a camera's VISION output or the clusters of a scan become their source's
newest sample, possibly late (R308, R313). -/
def execTileDetectionsComplete (src : Fin 16) (sourceEpoch : Nat) (found : List Detection) (s : State) :
    Host.Outcome State Fault Refusal :=
  onChip (fun _ c =>
    let n := src.val
    let kind := c.num (Key.Src.KIND n)
    let u := c.num (Key.Src.UNIT n)
    let there := match kind with
      | 1 => true
      | 2 => decide ((nth c.fus.whole u none).map (·.1) = some sourceEpoch)
      | _ => false
    if !up c 9 || !tilesRun c || unitAshed c unitFusion || !c.flag (Key.Src.SRC_ENABLE n) || !there then c
    else
      let first := (sourceEpoch + 49) / 50 * 50
      let late := match c.fus.published with
        | some p => decide (first ≤ p)
        | none => false
      let newer := match nth c.fus.samples n none with
        | some (e, _) => decide (e ≤ sourceEpoch)
        | none => true
      let c := c.bump (Key.Src.SAMPLES n)
      let c := if late then c.bump (Key.Src.LATE n) else c
      if newer then { c with fus := { c.fus with samples := c.fus.samples.set n (some (sourceEpoch, found)) } } else c) s

/-! ## Lidar (R309) -/

/-- Enabled sources fed by a lidar. -/
def lidarSources (c : Chip) (n : Nat) : List Nat :=
  (List.range 16).filter fun s => c.flag (Key.Src.SRC_ENABLE s) && c.num (Key.Src.KIND s) = 2 && c.num (Key.Src.UNIT s) = n

/-- A datagram breaks Table 11.3, or a scan is incomplete: it is discarded and counted. -/
def lidarBad (k : Keeper) (c : Chip) (n : Nat) (injected : Bool) : Chip :=
  let c := (lidarSources c n).foldl (fun c s => c.bump (Key.Src.FRAME_ERRORS s)) c
  raise k { c with fus := { c.fus with scans := c.fus.scans.set n none } } 0x0B07 (unitLidar n) injected

/-- A datagram keeps Table 11.3. -/
def lidarOk (n : Nat) (d : List Byte) : Bool :=
  let count := ofLeBytes ((d.drop 16).take 2)
  let u := fun i => (d.getD i 0).toNat
  20 ≤ d.length && u 0 = 0x4A && u 1 = 0x4C && u 2 = 1 && u 3 = n && 1 ≤ count && count ≤ 180
    && ofLeBytes ((d.drop 18).take 2) = 0 && d.length = 20 + 8 * count
    && (List.range count).all fun i => u (27 + 8 * i) ≤ 1 && (u (27 + 8 * i) = 0 || i + 1 = count)

/-- A datagram reaches LIDn's port: it continues or closes its scan; a scan left without its closing datagram is
discarded whole. -/
def lidarReceive (k : Keeper) (c : Chip) (n : Nat) (d : List Byte) : Chip :=
  if !up c 9 || unitAshed c unitFusion then c
  else if !lidarOk n d then lidarBad k c n false
  else
    let scan := ofLeBytes ((d.drop 4).take 4)
    let stamp := ofLeBytes ((d.drop 8).take 8)
    let points := d.drop 20
    let last := (d.getD (d.length - 1) 0).toNat = 1
    let c := match nth c.fus.scans n none with
      | some (m, _, _) => if m = scan then c else lidarBad k c n false
      | none => c
    let (t0, got) := match nth c.fus.scans n none with
      | some (_, t, b) => (t, b)
      | none => (stamp, [])
    let b := got ++ points
    if last then
      if armedAt c Key.Inj.LIDAR_FORMAT n then lidarBad k (disarm c Key.Inj.LIDAR_FORMAT n) n true
      else
        { c with fus := { c.fus with
          scans := c.fus.scans.set n none, whole := c.fus.whole.set n (some (gptpEpoch k c t0, b)) } }
    else { c with fus := { c.fus with scans := c.fus.scans.set n (some (scan, t0, b)) } }

/-- LIDAR_DATAGRAM. [DESIGN CHOICE: log 9] -/
def execLidarDatagram (n : Fin 4) (data : List Byte) (s : State) : Host.Outcome State Fault Refusal :=
  onChip (fun k c => lidarReceive k c n.val data) s

/-! ## Storage (R321) -/

/-- Highest binary16 number. -/
abbrev f16Max : Nat := 0x7BFF

/-- A variance in binary16, rounded toward +∞, with whether it saturated. -/
def storeVar (v : Nat) : Nat × Bool :=
  if fLt fmt64 (dRat 65504 1) v then (f16Max, true)
  else
    let r := fConv fmt64 fmt16 v
    (if fLt fmt64 (fConv fmt16 fmt64 r) v then r + 1 else r, false)

/-- The largest binary16 magnitude not above (1 − 2^−10)·√(a·b). -/
def covBound (a b : Nat) : Nat :=
  let x := fExact fmt16 a
  let y := fExact fmt16 b
  let r := isqrt ((1023 * 1023 * (x.1 * y.1).toNat * 2 ^ 120) / (1024 * 1024 * x.2 * y.2))
  let f := fRatio fmt16 r (2 ^ 60)
  if fLt fmt64 (dRat r (2 ^ 60)) (fConv fmt16 fmt64 f) then f - 1 else f

/-- A covariance in binary16, to nearest even, then clamped. -/
def storeCov (v a b : Nat) : Nat × Bool :=
  let sat := fLt fmt64 (dRat 65504 1) (fAbs fmt64 v)
  let r := if sat then fSign fmt16 (fNeg fmt64 v) f16Max else fConv fmt64 fmt16 v
  let m := covBound a b
  (if fLt fmt16 m (fAbs fmt16 r) then fSign fmt16 (fNeg fmt16 r) m else r, sat)

/-- LENGTH or WIDTH in binary16, to nearest even, with whether it saturated. [DEDUCED: log 59] -/
def storeSize (v : Nat) : Nat × Bool :=
  if fLt fmt32 (fNat fmt32 65504) v then (f16Max, true) else (fConv fmt32 fmt16 v, false)

/-- Stores the size a measurement gives. -/
def TrackX.sized (t : TrackX) (m : Nat × Nat) : TrackX :=
  let (len, l) := storeSize m.1
  let (wid, w) := storeSize m.2
  { t with len, wid, sat := t.sat || l || w }

/-- Row and column of a covariance term among x, y, vx, vy (Table 11.9). -/
def covPlace (i : Nat) : Nat × Nat :=
  nth [(0, 0), (0, 1), (0, 2), (0, 3), (1, 1), (1, 2), (1, 3), (2, 2), (2, 3), (3, 3)] i (0, 0)

/-- Stores the 14 terms of an estimate in a track. -/
def storeTrack (t : TrackX) (e : List Nat) : TrackX :=
  let f := fun i => fConv fmt64 fmt32 (nth e i 0)
  let v := [storeVar (nth e 4 0), storeVar (nth e 8 0), storeVar (nth e 11 0), storeVar (nth e 13 0)]
  let cov := (List.range 10).map fun i =>
    let (r, q) := covPlace i
    if r = q then nth v r (0, false) else storeCov (nth e (4 + i) 0) (nth v r (0, false)).1 (nth v q (0, false)).1
  { t with x := f 0, y := f 1, vx := f 2, vy := f 3, cov := cov.map (·.1), sat := cov.any (·.2) }

/-- The stored terms of a track, as each cycle reloads them. -/
def trackTerms (t : TrackX) : List Nat := [t.x, t.y, t.vx, t.vy] ++ t.cov

/-! ## Association (R314) -/

/-- A measurement in the machine frame at C. -/
structure Meas where
  src : Nat
  epoch : Nat
  x : Nat
  y : Nat
  len : Nat
  wid : Nat
  cls : Nat

/-- Squared Mahalanobis distance of a measurement from a predicted estimate, in binary64. -/
def mahalanobis (e : List Nat) (x y sd : Nat) : Nat :=
  let dx := dSub (fConv fmt32 fmt64 x) (nth e 0 0)
  let dy := dSub (fConv fmt32 fmt64 y) (nth e 1 0)
  let r := dMul (fConv fmt32 fmt64 sd) (fConv fmt32 fmt64 sd)
  let a := dAdd (nth e 4 0) r
  let b := nth e 5 0
  let d := dAdd (nth e 8 0) r
  let det := dSub (dMul a d) (dMul b b)
  let q := dAdd (dSub (dMul (dMul dx dx) d) (dMul (dRat 2 1) (dMul (dMul dx dy) b))) (dMul (dMul dy dy) a)
  dDiv q det

/-- The track a measurement goes to, with its distance: the nearest within GATE, ties to the lowest ID.
[DEDUCED: log 59] -/
def associate (y : FusCycle) (edge : Nat) (ego : Nat × Nat × Nat) (tracks : List TrackX) (m : Meas) : Option (Nat × Nat) :=
  let gate := fConv fmt32 fmt64 (odNum y.cfg Key.Fus.GATE)
  tracks.foldl (fun b t =>
    let e := Config.trackStep (trackTerms t) ((m.epoch : Int) - edge) (odNum y.cfg Key.Fus.Q_ACCEL) ego []
    let d := mahalanobis e m.x m.y (odNum y.cfg (Key.Src.MEAS_SD m.src))
    if !dLe d gate then b
    else match b with
      | some (i, d0) => if fLt fmt64 d d0 || (fEq fmt64 d d0 && t.id < i) then some (t.id, d) else b
      | none => some (t.id, d)) none

/-- The measurements a track takes: from each source the nearest one. -/
def takenBy (pairs : List (Meas × Option (Nat × Nat))) (id : Nat) : List Meas :=
  (List.range 16).filterMap fun s =>
    ((pairs.filter fun p => decide (p.1.src = s ∧ p.2.map (·.1) = some id)).foldl (fun b p =>
      match b, p.2 with
      | some (_, d0), some (_, d) => if fLt fmt64 d d0 then some (p.1, d) else b
      | none, some (_, d) => some (p.1, d)
      | b, none => b) (none : Option (Meas × Nat))).map (·.1)

/-! ## Fields of view (R310, R317) -/

/-- The direction of a vector in degrees, leftward from forward, −180 to 180, fixed point; both parts exact. -/
def leftAzimuth (fx fy : Int × Nat) : Int :=
  let a := fxAzimuth (fy.1 * fx.2) (fx.1 * fy.2)
  if 180 * fxOne < a then a - 360 * fxOne else a

/-- A point lies in a source's field of view. -/
def inView (cfg : OD) (s x y : Nat) : Bool :=
  let m := mountAt cfg s
  let dx := dSub (fConv fmt32 fmt64 x) m.1
  let dy := dSub (fConv fmt32 fmt64 y) m.2
  let r2 := dAdd (dMul dx dx) (dMul dy dy)
  let rm := fConv fmt32 fmt64 (odNum cfg (Key.Src.RANGE_MAX s))
  let yaw := odRat cfg (Key.Src.MOUNT_YAW s)
  let half := odRat cfg (Key.Src.FOV_HALF s)
  let a := leftAzimuth (fExact fmt64 dx) (fExact fmt64 dy) - yaw.1 * fxOne / (yaw.2 : Int)
  let a := a % (360 * fxOne)
  let a := if 180 * fxOne < a then 360 * fxOne - a else a
  fFinite fmt64 r2 && dLe r2 (dMul rm rm) && a * half.2 ≤ half.1 * fxOne

/-! ## Track life (R317, R318) -/

/-- Claims of a track after a cycle: newest per live source, the four most recent. -/
def evidenceOf (y : FusCycle) (t : TrackX) (ms : List Meas) (covers : List Nat) : List (Nat × Nat × Nat) :=
  let kept := t.evidence.filter fun e => y.live.contains e.1
  let fresh := (List.range 16).filterMap fun s =>
    match ms.find? (·.src = s) with
    | some m => some (s, m.cls, m.epoch)
    | none =>
      if covers.contains s && y.live.contains s then some (s, 0xFE, ((y.taken.find? (·.1 = s)).map (·.2.1)).getD y.edge)
      else none
  let all := fresh ++ kept.filter fun e => !(fresh.any fun f => decide (f.1 = e.1))
  let ins := fun (e : Nat × Nat × Nat) (l : List (Nat × Nat × Nat)) =>
    l.takeWhile (fun f => decide (e.2.2 ≤ f.2.2)) ++ e :: l.dropWhile (fun f => decide (e.2.2 ≤ f.2.2))
  (all.foldl (fun l e => ins e l) []).take 4

/-- CLASS and CONTESTED by the evidence. An uncontested track that only NOT_SEEN claims keeps its class.
[DEDUCED: log 59] -/
def judgeClass (t : TrackX) : TrackX :=
  match t.evidence.map (·.2.1) with
  | [] => { t with contested := false }
  | a :: l =>
    if l.all (· = a) then { t with contested := false, cls := if a = 0xFE then t.cls else a }
    else { t with contested := true, cls := (([1, 4, 2, 3, 0].find? fun x => (a :: l).contains x)).getD t.cls }

/-- One cycle of a track: estimate, evidence, hit or miss; none where it is deleted.
[DESIGN CHOICE: log 14; DESIGN CHOICE: log 17; DEDUCED: log 59] -/
def trackCycle (y : FusCycle) (edge : Nat) (ego : Nat × Nat × Nat) (ms : List Meas) (t : TrackX) : Option TrackX :=
  let g := fun key => odNum y.cfg key
  let e := Config.trackStep (trackTerms t) ((y.edge : Int) - edge) (g Key.Fus.Q_ACCEL) ego
    (ms.map fun m => (m.x, m.y, g (Key.Src.MEAS_SD m.src), y.edge - m.epoch))
  let t := storeTrack t e
  let t := match ms with
    | m :: _ => t.sized (m.len, m.wid)
    | [] => t
  let covers := (List.range 16).filter fun s => g (Key.Src.SRC_ENABLE s) ≠ 0 && inView y.cfg s t.x t.y
  let seen := covers.any y.live.contains
  let hit := !ms.isEmpty
  let missed := if hit then 0 else if seen then t.missed + 1 else t.missed
  let t := { t with hist := (hit :: t.hist).take 16, hits := if hit then t.hits + 1 else t.hits, age := t.age + 1, missed
                    coasted := !hit && !seen, evidence := evidenceOf y t ms covers }
  let t := judgeClass t
  let recent := ((t.hist.take (g Key.Fus.CONFIRM_N)).filter id).length
  if covers = [] then none
  else if t.conf then (if g Key.Fus.DELETE_K ≤ missed then none else some t)
  else if g Key.Fus.CONFIRM_M ≤ recent then some { t with conf := true }
  else if t.hits + (g Key.Fus.CONFIRM_N - t.age) < g Key.Fus.CONFIRM_M then none
  else some t

/-- The next free ID: 1 follows 2^32 − 1, IDs still held are skipped, 0 is never given. -/
def freeId (tracks : List TrackX) : Nat → Nat → Nat
  | 0, i => i
  | fuel + 1, i =>
    let i := if i = 0 ∨ 0xFFFFFFFF < i then 1 else i
    if tracks.any fun t => decide (t.id = i) then freeId tracks fuel (i + 1) else i

/-- Places a track, IDs rising. -/
def insTrack (t : TrackX) : List TrackX → List TrackX
  | [] => [t]
  | u :: l => if t.id < u.id then t :: u :: l else u :: insTrack t l

/-- A born track. -/
def bornTrack (y : FusCycle) (id : Nat) (m : Meas) : TrackX :=
  let e := Config.trackBirth m.x m.y (odNum y.cfg (Key.Src.MEAS_SD m.src))
  let t : TrackX := { id, cls := m.cls, x := m.x, y := m.y, vx := 0, vy := 0, len := 0, wid := 0, cov := [], hist := [true], hits := 1, age := 1
                      evidence := [(m.src, m.cls, m.epoch)] }
  let t := (storeTrack t e).sized (m.len, m.wid)
  { t with conf := odNum y.cfg Key.Fus.CONFIRM_M ≤ 1 }

/-- An unassociated measurement (Table 11.5): a birth, a birth that replaces the TENTATIVE track with the fewest hits, or
a refused one. [DESIGN CHOICE: log 17; DEDUCED: log 59] -/
def birth (k : Keeper) (y : FusCycle) (c : Chip) (m : Meas) : Chip :=
  let inj := armedAt c Key.Inj.TRACKS_FULL 1
  let full := inj || 4096 ≤ c.fus.tracks.length
  let c := disarm c Key.Inj.TRACKS_FULL 1
  let c := if full then raise k (c.bump Key.Fus.TRACKS_FULL_COUNT) 0x0B06 theModule inj else c
  let weak := (c.fus.tracks.filter fun t => !t.conf).foldl (fun b t => match b with
    | some u => if t.hits < TrackX.hits u then some t else b
    | none => some t) (none : Option TrackX)
  let room := match full, weak with
    | false, _ => some c.fus.tracks
    | true, some u => some (c.fus.tracks.filter fun t => decide (t.id ≠ u.id))
    | true, none => none
  match room with
  | none => c
  | some l =>
    let id := freeId l 4097 c.fus.nextId
    { c with fus := { c.fus with tracks := insTrack (bornTrack y id m) l, nextId := id + 1 } }

/-! ## Zones (R319) -/

/-- A track counts in a zone. -/
def counts (cfg : OD) (z : Nat) (t : TrackX) : Bool :=
  let mask := odNum cfg (Key.Zone.CLASS_MASK z)
  (t.conf || bitOf (odNum cfg (Key.Zone.ZONE_OPTS z)) 1)
    && (bitOf mask t.cls || (t.contested && t.evidence.any fun e => e.2.1 < 5 && bitOf mask e.2.1))

/-- Distance of a track from a zone's box, metres in binary32. -/
def zoneDist (cfg : OD) (z : Nat) (t : TrackX) : Nat :=
  let mm := fun key => dRat (toInt 32 (odNum cfg key)) 1000
  let off := fun lo hi v => fMax fmt64 0 (fMax fmt64 (dSub (mm lo) (fConv fmt32 fmt64 v)) (dSub (fConv fmt32 fmt64 v) (mm hi)))
  let dx := off (Key.Zone.X_MIN z) (Key.Zone.X_MAX z) t.x
  let dy := off (Key.Zone.Y_MIN z) (Key.Zone.Y_MAX z) t.y
  let size := dDiv (fConv fmt16 fmt64 (fMax fmt16 t.len t.wid)) (dRat 2 1)
  fConv fmt64 fmt32 (fMax fmt64 0 (dSub (fSqrt fmt64 (dAdd (dMul dx dx) (dMul dy dy))) size))

/-- The counting track nearest a zone, with its distance; ties go to the lowest ID. -/
def zoneNearest (cfg : OD) (z : Nat) (tracks : List TrackX) : Option (Nat × Nat) :=
  (tracks.filter (counts cfg z)).foldl (fun b t =>
    let d := zoneDist cfg z t
    match b with
    | some (_, d0) => if fLt fmt32 d d0 then some (t.id, d) else b
    | none => some (t.id, d)) none

/-- ZONE_CAP and ZONE_STATE, in binary32. -/
def zoneCap (cfg : OD) (z : Nat) (blind : Bool) (near : Option (Nat × Nat)) : Nat × Nat :=
  let g := fun key => odNum cfg key
  let occ := g (Key.Zone.CAP_OCCUPIED z)
  let clr := g (Key.Zone.CAP_CLEAR z)
  let stop := g (Key.Zone.D_STOP z)
  let free := g (Key.Zone.D_FREE z)
  if blind then (occ, 3)
  else match near with
    | none => (clr, 0)
    | some (_, d) =>
      if fLe fmt32 d stop then (occ, 2)
      else if fLe fmt32 free d then (clr, 0)
      else (fAdd fmt32 occ (fDiv fmt32 (fMul fmt32 (fSub fmt32 clr occ) (fSub fmt32 d stop)) (fSub fmt32 free stop)), 1)

/-- The enabled zones. [DEDUCED: log 59] -/
def zonesOn (od : OD) : List Nat := (List.range 8).filter fun z => odNum od (Key.Zone.ZONE_ENABLE z) ≠ 0

/-- PROX_CAP: the least cap of the enabled zones with SPEED, else PROX_DEFAULT. -/
def proxCap (od : OD) (cap : Nat → Nat) : Nat :=
  match (zonesOn od).filter fun z => bitOf (odNum od (Key.Zone.ZONE_OPTS z)) 0 with
  | [] => odNum od Key.Fus.PROX_DEFAULT
  | z :: l => l.foldl (fun m z => fMin fmt32 m (cap z)) (cap z)

/-- Publishes the zones of a cycle, and PROX_CAP; none of its sources live, or ego-motion lost, makes a zone BLIND.
[DESIGN CHOICE: log 18; DEDUCED: log 59] -/
def zonesDue (k : Keeper) (y : FusCycle) (c : Chip) : Chip :=
  let cfg := y.cfg
  let blind := fun z => c.fus.egoLost || armedFor k c Key.Inj.ZONE_BLIND z
    || !(y.live.any fun s => bitOf (odNum cfg (Key.Zone.SRC_MASK z)) s)
  let near := fun z => zoneNearest cfg z c.fus.tracks
  let cap := fun z => (zoneCap cfg z (blind z) (near z)).1
  let c' := (zonesOn cfg).foldl (fun c z =>
    let (v, st) := zoneCap cfg z (blind z) (near z)
    let c := if st = 3 && c.num (Key.Zone.ZONE_STATE z) ≠ 3 then
        raise k c 0x0B04 (unitZone z) (armedFor k c Key.Inj.ZONE_BLIND z)
      else if st ≠ 3 then closeHandling c 0x0B04 (unitZone z) else c
    let (id, d, c) := match near z with
      | some (id, d) => (id, d, c)
      | none => (0, min (fMag fmt32 (Config.zoneDNone c.free)) fmt32.inf, { c with free := c.free + 1 })
    let c := tileWrite k (tileWrite k c (Key.Zone.ZONE_CAP z) (.num v)) (Key.Zone.ZONE_STATE z) (.num st)
    tileWrite k (tileWrite k c (Key.Zone.ZONE_D z) (.num d)) (Key.Zone.ZONE_TRACK z) (.num id)) c
  tileWrite k c' Key.Fus.PROX_CAP (.num (proxCap cfg cap))

/-! ## Grain cart (R320) -/

/-- The cart: the CONFIRMED, uncontested GRAIN_CART track nearest the pivot within CART_RANGE, ties to the lowest ID. -/
def cartOf (cfg : OD) (tracks : List TrackX) : Option TrackX :=
  let px := dRat (toInt 32 (odNum cfg Key.Cart.PIVOT_X)) 1000
  let py := dRat (toInt 32 (odNum cfg Key.Cart.PIVOT_Y)) 1000
  let d2 := fun t : TrackX =>
    let dx := dSub (fConv fmt32 fmt64 t.x) px
    let dy := dSub (fConv fmt32 fmt64 t.y) py
    dAdd (dMul dx dx) (dMul dy dy)
  let r := fConv fmt32 fmt64 (odNum cfg Key.Cart.CART_RANGE)
  ((tracks.filter fun t => t.conf && !t.contested && t.cls = 3 && dLe (d2 t) (dMul r r)).foldl (fun b t =>
    match b with
    | some (u, d0) => if fLt fmt64 (d2 t) d0 then some (t, d2 t) else some (u, d0)
    | none => some (t, d2 t)) (none : Option (TrackX × Nat))).map (·.1)

/-- The cart targets of a cycle. [DESIGN CHOICE: log 18] -/
def cartDue (k : Keeper) (y : FusCycle) (c : Chip) : Chip :=
  let cfg := y.cfg
  let g := fun key => odNum cfg key
  match cartOf cfg c.fus.tracks with
  | none => tileWrite k (tileWrite k c Key.Cart.CART_VALID (.num 0)) Key.Cart.CART_TRACK (.num 0)
  | some t =>
    let vx := fConv fmt32 fmt64 t.vx
    let vy := fConv fmt32 fmt64 t.vy
    let v := fSqrt fmt64 (dAdd (dMul vx vx) (dMul vy vy))
    let still := fMag fmt64 v = 0
    let (ux, uy) := if still then
        let p := fxSinCos (Config.cartCourse c.free) 1000000
        (dFx p.2, dFx p.1)
      else (dDiv vx v, dDiv vy v)
    let c := if still then { c with free := c.free + 1 } else c
    let o := fConv fmt32 fmt64 (g Key.Cart.FILL_OFFSET)
    let dx := dSub (dAdd (fConv fmt32 fmt64 t.x) (dMul o ux)) (dRat (toInt 32 (g Key.Cart.PIVOT_X)) 1000)
    let dy := dSub (dAdd (fConv fmt32 fmt64 t.y) (dMul o uy)) (dRat (toInt 32 (g Key.Cart.PIVOT_Y)) 1000)
    let r := fConv fmt64 fmt32 (fSqrt fmt64 (dAdd (dMul dx dx) (dMul dy dy)))
    let alpha := fRatio fmt32 (leftAzimuth (fExact fmt64 dx) (fExact fmt64 dy)) fxOne
    let swing := fClamp fmt32 (g Key.Cart.SWING_MIN) (g Key.Cart.SWING_MAX) alpha
    let tip := fClamp fmt32 (g Key.Cart.TIP_MIN) (g Key.Cart.TIP_MAX)
      (fMul fmt32 (g Key.Cart.TIP_GAIN) (fSub fmt32 r (g Key.Cart.AUGER_REACH)))
    let w := fun (c : Chip) key v => tileWrite k c key (.num v)
    w (w (w (w (w c Key.Cart.CART_VALID 1) Key.Cart.CART_TRACK t.id) Key.Cart.SWING_SP swing) Key.Cart.TIP_SP tip)
      Key.Cart.CART_EPOCH (wireEpoch y.edge)

/-! ## Records (R316, R325) -/

/-- LAT and LON of a track, and whether it has none. -/
def trackField (c : Chip) (y : FusCycle) (t : TrackX) : Nat × Nat × Bool :=
  match y.field with
  | none => (0x80000000, 0x80000000, true)
  | some (lat, lon, psi) =>
    let fx := dSub (fConv fmt32 fmt64 t.x) (c.mm Key.Geo.ANT0_X)
    let fy := dSub (fConv fmt32 fmt64 t.y) (c.mm Key.Geo.ANT0_Y)
    let (s, q) := (fSinDeg fmt64 psi, fCosDeg fmt64 psi)
    let east := dSub (dMul fx s) (dMul fy q)
    let north := dAdd (dMul fx q) (dMul fy s)
    let go := fun (deg v : Nat) (u : Int × Nat) =>
      let x := fExact fmt64 v
      let num := x.1 * u.1
      let den := x.2 * u.2
      ofInt 32 (toInt 32 deg + (2 * num + den) / (2 * den))
    (go lat north Config.latUnits, go lon east (Config.lonUnits lat), false)

/-- One record of TRACKS (Table 11.9). -/
def trackBytes (c : Chip) (y : FusCycle) (t : TrackX) : List Byte :=
  let (lat, lon, none_) := trackField c y t
  let zones := (List.range 8).foldl (fun m z => if (zonesOn y.cfg).contains z && counts y.cfg z t then m + 2 ^ z else m) 0
  let ev := (List.range 4).flatMap fun i => match t.evidence[i]? with
    | some (s, cl, e) => leBytes 1 s ++ leBytes 1 cl ++ leBytes 2 (min (y.edge - e) 65535)
    | none => leBytes 1 0xFF ++ leBytes 1 0 ++ leBytes 2 0
  leBytes 4 t.id ++ leBytes 1 (if t.conf then 2 else 1) ++ leBytes 1 t.cls
    ++ leBytes 1 ((if t.contested then 1 else 0) + (if t.sat then 2 else 0) + (if none_ then 4 else 0)
      + (if t.coasted then 8 else 0)) ++ leBytes 1 zones
    ++ leBytes 4 t.x ++ leBytes 4 t.y ++ leBytes 4 t.vx ++ leBytes 4 t.vy ++ leBytes 2 t.len ++ leBytes 2 t.wid
    ++ t.cov.flatMap (leBytes 2) ++ leBytes 4 lat ++ leBytes 4 lon ++ ev

/-- TRACKS (R325). -/
def tracksBytes (c : Chip) (y : FusCycle) (valid : Bool) : List Byte :=
  leBytes 6 y.edge ++ leBytes 2 c.fus.tracks.length ++ leBytes 1 (if valid then 1 else 0) ++ leBytes 1 0
    ++ leBytes 4 (y.edge / 50) ++ leBytes 2 0 ++ c.fus.tracks.flatMap (trackBytes c y)

/-! ## The cycle (R311, R465) -/

/-- Measurements of the samples a cycle took, carried to C. [DESIGN CHOICE: log 17] -/
def carried (y : FusCycle) (ego : Nat × Nat × Nat) : List Meas :=
  y.taken.flatMap fun (s, e, l) => l.map fun d =>
    let p := if e = y.edge then (d.x.toNat, d.y.toNat) else Config.egoCarry d.x.toNat d.y.toNat (y.edge - e) ego
    ⟨s, e, p.1, p.2, d.length.toNat, d.width.toNat, d.cls.val⟩

/-- A cycle has ego-motion: scan matching or odometry gave it, from a live LIDAR or CAMERA source (R315). -/
def egoHad (k : Keeper) (y : FusCycle) (c : Chip) (given : Bool) : Bool :=
  let held := c.flt.armed.any fun a => a.key = Key.Inj.EGO_LOST && decide (k.epoch < a.until_)
  given && !held && y.live.any fun s => odNum y.cfg (Key.Src.KIND s) = 1 || odNum y.cfg (Key.Src.KIND s) = 2

/-- Takes the ego-motion of a cycle. [DESIGN CHOICE: log 17] -/
def egoTake (y : FusCycle) (c : Chip) : Chip :=
  closeHandling { c with free := c.free + 1, fus := { c.fus with
    egoAt := y.edge, egoGiven := true, egoLost := false, ego := Config.egoMotion c.free } } 0x0B03 theModule

/-- Whether ego-motion was given within EGO_COAST. -/
def egoValid (c : Chip) (y : FusCycle) : Bool :=
  c.fus.egoGiven && y.edge ≤ c.fus.egoAt + odNum y.cfg Key.Fus.EGO_COAST

/-- How late step 3 was decides what is shed and what returns (R465). -/
def shedJudge (c : Chip) (ms : Nat) : Chip :=
  let f := c.fus
  if 45 < ms then { c with fus := { f with late := true, quick := 0 } }
  else if ms ≤ 30 then
    if 19 ≤ f.quick then shedShow { c with fus := { f with quick := 0, shed := f.shed.dropLast } }
    else { c with fus := { f with quick := f.quick + 1 } }
  else { c with fus := { f with quick := 0 } }

/-- FUSION_CYCLE_COMPLETE: the oldest cycle in progress completes, and its results become due at the first open edge.
[DESIGN CHOICE: log 6] -/
def execFusionCycleComplete (ego : Bool) (s : State) : Host.Outcome State Fault Refusal :=
  onChip (fun k c =>
    match c.fus.cycles with
    | [] => c
    | y :: rest =>
      if y.doomed || 1000 * y.edge + 100000 < nowUs k c then c
      else
        let c := { c with fus := { c.fus with cycles := rest } }
        let had := egoHad k y c ego
        let c := if had then egoTake y c else c
        let ms := carried y c.fus.ego
        let pairs := ms.map fun m => (m, associate y c.fus.edge c.fus.ego c.fus.tracks m)
        let tracks := c.fus.tracks.filterMap fun t => trackCycle y c.fus.edge c.fus.ego (takenBy pairs t.id) t
        let c := { c with fus := { c.fus with tracks, edge := y.edge } }
        let c := (pairs.filter fun p => p.2.isNone).foldl (fun c p => birth k y c p.1) c
        let valid := egoValid c y
        let w := fun (c : Chip) key v => tileWrite k c key (.num v)
        let c := (List.range 16).foldl (fun c n =>
          let (age, flags) := nth y.shows n (0xFFFF, 0)
          let used := had && y.live.contains n && odNum y.cfg (Key.Src.KIND n) ≠ 3
          w (w c (Key.Src.SRC_AGE n) age) (Key.Src.SRC_FLAGS n) (flags + if used then 8 else 0)) c
        let c := w (w (w c Key.Fus.TRACK_COUNT c.fus.tracks.length) Key.Fus.EGO_VALID (if valid then 1 else 0))
          Key.Fus.PROX_EPOCH (wireEpoch y.edge)
        let c := tileWrite k c Key.Fus.TRACKS (.blob (tracksBytes c y valid))
        let c := cartDue k y (zonesDue k y c)
        let c := { c with fus := { c.fus with due := c.fus.due ++ [(openEdge k, y.edge)] } }
        closeHandling (shedJudge c (nowUs k c / 1000 - y.edge)) 0x0B02 unitFusion) s

/-- FUSION_CYCLE_LOST: the oldest cycle is not complete at C + 100 ms; what is published stands (R312). -/
def execFusionCycleLost (s : State) : Host.Outcome State Fault Refusal :=
  onChip (fun k c =>
    match c.fus.cycles with
    | [] => c
    | y :: rest =>
      if nowUs k c < 1000 * y.edge + 100000 then c
      else raise k ({ c with fus := { c.fus with cycles := rest } }.bump Key.Fus.CYCLES_LOST) 0x0B02 unitFusion y.doomed) s

/-- EGO_COAST_EXPIRY: EGO_COAST has passed without ego-motion; every zone becomes BLIND (R315, R319).
[DESIGN CHOICE: log 94] -/
def execEgoCoastExpiry (s : State) : Host.Outcome State Fault Refusal :=
  onChip (fun k c =>
    if !up c 9 || unitAshed c unitFusion || c.fus.egoLost || k.epoch < c.fus.egoAt + c.num Key.Fus.EGO_COAST then c
    else
      let inj := c.flt.armed.any fun a => a.key = Key.Inj.EGO_LOST && decide (k.epoch < a.until_)
      let c := raise k { c with fus := { c.fus with egoLost := true } } 0x0B03 theModule inj
      let w := fun (c : Chip) key v => tileWrite k c key (.num v)
      let c := w c Key.Fus.EGO_VALID 0
      let c := (zonesOn c.od).foldl (fun c z =>
        let c := if c.num (Key.Zone.ZONE_STATE z) ≠ 3 then raise k c 0x0B04 (unitZone z) inj else c
        w (w c (Key.Zone.ZONE_CAP z) (c.num (Key.Zone.CAP_OCCUPIED z))) (Key.Zone.ZONE_STATE z) 3) c
      if c.fus.published.isSome then w c Key.Fus.PROX_CAP (proxCap c.od fun z => c.num (Key.Zone.CAP_OCCUPIED z)) else c) s

/-! ## Edges, KINDLING, ashes -/

/-- Fusion at an edge: cycles whose results have applied are published; before the first one, and while ashed, the caps
read as R319 and R327 say. -/
def fusionEdge (k : Keeper) (c : Chip) : Chip :=
  let f := c.fus
  let c := { c with fus := { f with
    published := (f.due.filter fun p => decide (p.1 ≤ k.epoch)).foldl (fun _ p => some p.2) f.published
    due := f.due.filter fun p => decide (k.epoch < p.1) } }
  let ashed := unitAshed c unitFusion
  let c := (List.range 8).foldl (fun c z =>
    if c.fus.published.isNone || ashed || !c.flag (Key.Zone.ZONE_ENABLE z) then
      c.put (Key.Zone.ZONE_CAP z) (c.num (Key.Zone.CAP_OCCUPIED z)) else c) c
  if ashed then (c.put Key.Fus.PROX_CAP (proxCap c.od fun z => c.num (Key.Zone.CAP_OCCUPIED z))).put Key.Cart.CART_VALID 0
  else if c.fus.published.isNone then c.put Key.Fus.PROX_CAP 0 else c

/-- K9: fusion comes up with every track FREE. -/
def fusionUp (k : Keeper) (c : Chip) : Chip :=
  let c : Chip := { c with fus := { egoAt := k.epoch } }
  shedShow c

/-- Fusion is ashed (R327). -/
def fusionAsh (c : Chip) : Chip :=
  let c : Chip := { c with fus := { c.fus with cycles := [], tracks := [] } }
  (c.put Key.Fus.TRACK_COUNT 0).put Key.Cart.CART_VALID 0

/-- An uncorrectable word of the fusion SRAM: the reload leaves every track FREE (Table 11.10). -/
def fusionSram (k : Keeper) (c : Chip) (injected : Bool) : Chip :=
  raise k { c with fus := { c.fus with tracks := [] } } 0x0B05 unitFusion injected

end Sys2Proof.Machine
end

