-- ==== Sys2Proof/Machine/Can.lean ====
section
/-! DEFINITION. The CAN ports (12, R152–R155): filters, FIFOs, receive signals, the transmit queue, address claim, time
reference messages. -/

namespace Sys2Proof.Machine

def canOf (c : Chip) (p : Nat) : CanX := nth c.cans p {}
def canSet (c : Chip) (p : Nat) (x : CanX) : Chip := { c with cans := c.cans.set p x }

/-- QUEUE_USED follows the queue. -/
def canShow (c : Chip) (p : Nat) : Chip := c.put (Key.Can.QUEUE_USED p) (canOf c p).queue.length

/-- Sets a port's state and shows its queue. -/
def canPut (c : Chip) (p : Nat) (x : CanX) : Chip := canShow (canSet c p x) p

/-! ## Timing (R328, R331) -/

/-- The pairs and rates of R331 that a configuration breaks. -/
def canTimingBad (od : OD) (p : Nat) : Bool :=
  let g := fun key => odNum od key
  let nb := g (Key.Can.NOM_BRP p) * (1 + g (Key.Can.NOM_SEG1 p) + g (Key.Can.NOM_SEG2 p))
  let db := g (Key.Can.DATA_BRP p) * (1 + g (Key.Can.DATA_SEG1 p) + g (Key.Can.DATA_SEG2 p))
  nb < 80 || 8000 < nb || nb < db || db < 10 || g (Key.Can.NOM_SEG2 p) < g (Key.Can.NOM_SJW p)
    || g (Key.Can.DATA_SEG2 p) < g (Key.Can.DATA_SJW p) || (g (Key.Can.TRIPLE p) ≠ 0 && nb < 320)

/-- Lengths of R328. -/
def canLenOk (fdf : Bool) (n : Nat) : Bool :=
  n ≤ 8 || (fdf && (n = 12 || n = 16 || n = 20 || n = 24 || n = 32 || n = 48 || n = 64))

/-- A frame some controller can send (R328): identifier within its format, length, no remote FD frame, BRS with FD.
[DESIGN CHOICE: log 8] -/
def canFrameOk (f : CanFrame) : Bool :=
  canLenOk f.fdf f.data.length && (f.ext || f.id.toNat < 0x800) && !(f.fdf && f.rtr) && (f.fdf || (!f.brs && !f.esi))

/-! ## Port state -/

/-- A port takes part on its bus: CAN is up (K8), it is enabled and not ashed. -/
def canActive (c : Chip) (p : Nat) : Bool :=
  up c 8 && c.flag (Key.Can.PORT_ENABLE p) && !unitAshed c (unitCan p) && !unitAshed c (unitPd 12)

/-- A port receives, and unless it only listens sends: ERROR_ACTIVE or ERROR_PASSIVE. -/
def canOnBus (c : Chip) (p : Nat) : Bool :=
  canActive c p && (c.num (Key.Can.CAN_STATE p) = 2 || c.num (Key.Can.CAN_STATE p) = 3)

/-- A port that re-integrates still completes a frame begun before its settings changed: FD_ENABLE and LISTEN_ONLY as they
were for a frame of that start (R333). [DEDUCED: log 51] -/
def canOld (c : Chip) (p sof : Nat) : Option (Bool × Bool) :=
  match (canOf c p).before with
  | some (e, fd, listen) =>
    if canActive c p && c.num (Key.Can.CAN_STATE p) = 1 && sof / 1000000 < e then some (fd, listen) else none
  | none => none

/-- State by the transmit error counter (R344). -/
def canErrState (c : Chip) (p : Nat) : Nat := if c.num (Key.Can.TEC p) < 128 && c.num (Key.Can.REC p) < 128 then 2 else 3

/-- The port enters BUS_OFF (R344). [PRESUMED: log 53] -/
def canBusOff (k : Keeper) (c : Chip) (p tec rec_ : Nat) (injected : Bool) : Chip :=
  let c := ((c.put (Key.Can.CAN_STATE p) 4).put (Key.Can.TEC p) (min tec 256)).put (Key.Can.REC p) (min rec_ 255)
  raise k (c.bump (Key.Can.BUS_OFFS p)) 0x0C01 (unitCan p) injected

/-- The error counters decide between ERROR_ACTIVE and ERROR_PASSIVE. -/
def canJudge (k : Keeper) (c : Chip) (p : Nat) (injected : Bool) : Chip :=
  let st := c.num (Key.Can.CAN_STATE p)
  let next := canErrState c p
  if st = 2 && next = 3 then raise k (c.put (Key.Can.CAN_STATE p) 3) 0x0C02 (unitCan p) injected
  else if st = 3 && next = 2 then c.put (Key.Can.CAN_STATE p) 2
  else c

/-! ## The transmit queue (R339, R340) -/

/-- The identifier a frame leaves with: mapped frames take the address in force (R152, R343). -/
def txId (c : Chip) (p : Nat) (f : TxFrame) : Nat :=
  match f.kind with
  | .mapped .. => f.id + c.num (Key.Can.ADDRESS p)
  | _ => f.id

/-- Arbitration order: the lower goes first. A base identifier precedes the extended ones that begin with it. -/
def arbKey (id : Nat) (ext : Bool) : Nat := if ext then id / 0x40000 * 0x80000 + 0x40000 + id % 0x40000 else id * 0x80000

/-- A frame is evicted, discarded or dropped (R340). -/
def txDrop (k : Keeper) (c : Chip) (p : Nat) (f : TxFrame) (lifetime injected : Bool) : Chip :=
  let c := raise k (c.bump (Key.Can.TX_DROPPED p)) 0x0C03 (unitCan p) injected
  match f.kind with
  | .mapped s _ _ =>
    let c := c.bump (Key.Slot.CAN_DROPPED s)
    if lifetime then raise k c 0x0509 (unitSlot (s + 1)) injected else c
  | .time .. => canSet c p { canOf c p with lastMsg := none, sofFirst := none }
  | _ => c

/-- The queued frame last in arbitration order; among equal identifiers the last to enter. -/
def txLast (c : Chip) (p : Nat) : List TxFrame → Option TxFrame
  | [] => none
  | f :: t => match txLast c p t with
    | none => some f
    | some g => if arbKey (txId c p g) g.ext < arbKey (txId c p f) f.ext then some f else some g

/-- The frame that comes first in arbitration order; among equal identifiers the first to enter. -/
def txFirst (c : Chip) (p : Nat) : List TxFrame → Option TxFrame
  | [] => none
  | f :: t => match txFirst c p t with
    | none => some f
    | some g => if arbKey (txId c p g) g.ext < arbKey (txId c p f) f.ext then some g else some f

/-- Removes the last occurrence of a frame. -/
def eraseLast (l : List TxFrame) (f : TxFrame) : List TxFrame := (l.reverse.erase f).reverse

/-- A frame enters a port's queue (R340). -/
def txEnter (k : Keeper) (c : Chip) (p : Nat) (f : TxFrame) : Chip :=
  let x := canOf c p
  if armedAt c Key.Inj.CAN_TX_DROP p then txDrop k (disarm c Key.Inj.CAN_TX_DROP p) p f false true
  else if x.queue.length < 32 then canPut c p { x with queue := x.queue ++ [f] }
  else match txLast c p x.queue with
    | none => c
    | some g =>
      if arbKey (txId c p f) f.ext < arbKey (txId c p g) g.ext then
        txDrop k (canPut c p { x with queue := eraseLast x.queue g ++ [f] }) p g false false
      else txDrop k c p f false false

/-- TX_SUBMIT records of an edge enter behind its mapped frames. -/
def canFlush (k : Keeper) (c : Chip) (p : Nat) : Chip :=
  let l := (canOf c p).submits
  if l = [] then c else l.foldl (fun c f => txEnter k c p f) (canSet c p { canOf c p with submits := [] })

/-- Every port's records enter. -/
def canFlushAll (k : Keeper) (c : Chip) : Chip := (List.range 12).foldl (canFlush k) c

/-- Mapped frames may be sent (R343). -/
def mapAllowed (c : Chip) (p : Nat) : Bool := !c.flag (Key.Can.CLAIM_ENABLE p) || c.num (Key.Can.CLAIM_STATE p) = 2

/-- The frames that may be offered: of the queue those allowed, and the two buffers' (R339, R342). -/
def txCandidates (c : Chip) (p : Nat) : List TxFrame :=
  let x := canOf c p
  x.claim.toList ++ x.time.take 1 ++ x.queue.filter fun f => match f.kind with
    | .mapped .. => mapAllowed c p
    | _ => true

/-- The frame in offer; one whose lifetime is over begins no attempt. [DESIGN CHOICE: log 87] -/
def txOffered (k : Keeper) (c : Chip) (p : Nat) : Option TxFrame :=
  if canOnBus c p && !c.flag (Key.Can.LISTEN_ONLY p) then
    txFirst c p ((txCandidates c p).filter fun f => decide (nowUs k c ≤ f.born + 1000 * f.life))
  else none

/-- The frame that was in offer when the port began to re-integrate, and completes (R333). [DEDUCED: log 51] -/
def txFinishing (k : Keeper) (c : Chip) (p sof : Nat) : Option TxFrame :=
  match canOld c p sof with
  | some (_, false) => txFirst c p ((txCandidates c p).filter fun f => decide (nowUs k c ≤ f.born + 1000 * f.life))
  | _ => none

/-- Removes a frame from its buffer. -/
def txRemove (c : Chip) (p : Nat) (f : TxFrame) : Chip :=
  let x := canOf c p
  match f.kind with
  | .claim => canSet c p { x with claim := none }
  | .time .. => canSet c p { x with time := x.time.erase f }
  | _ => canPut c p { x with queue := x.queue.erase f }

/-- TIME and its GNSS bit of a reference message for an SOF: the label of the edge before it, else its epoch (Table 12.3). -/
def sofLabel (k : Keeper) (c : Chip) (sof : Nat) : Bool × Nat :=
  let e := sof / 1000000
  if c.flag Key.Epoch.EPOCH_ALIGNED then (true, c.num Key.Epoch.EDGE_GNSS_MS - (k.epoch - e)) else (false, e)

/-- What follows a frame that has been sent, by its kind. -/
def txDone (k : Keeper) (c : Chip) (p : Nat) (f : TxFrame) (sof : Nat) : Chip :=
  let x := canOf c p
  match f.kind with
  | .mapped s raw e => (c.put (Key.Slot.CAN_TX_EPOCH s) (wireEpoch e)).put (Key.Slot.CAN_TX_RAW s) raw
  | .claim => if c.num (Key.Can.CLAIM_STATE p) = 1 then canSet c p { x with claimAt := some (nowUs k c) } else c
  | .time first last =>
    let s0 := if first then sof else x.sofFirst.getD sof
    let (g, t) := sofLabel k c s0
    canSet c p { x with sofFirst := some s0, lastMsg := if last then some (s0, g, t) else x.lastMsg }
  | _ => c

/-- A frame is sent: it leaves its buffer and the port, TEC falls, and with TDC the loop delay is measured (R332, R339).
[DEDUCED: log 51] -/
def txSent (k : Keeper) (c : Chip) (p : Nat) (f : TxFrame) (sof : Nat) (loop : Option Nat) : Chip :=
  let c := (txRemove c p f).emit (.can p (txId c p f) f.ext f.fdf f.brs f.data)
  let c := (c.bump (Key.Can.TX_SENT p)).put (Key.Can.TEC p) (c.num (Key.Can.TEC p) - 1)
  let c := match loop with
    | some n => if c.flag (Key.Can.TDC_ENABLE p) && f.brs then c.put (Key.Can.TDC_MEAS p) (min n 127) else c
    | none => c
  canJudge k (txDone k c p f sof) p false

/-- CAN_FRAME_TRANSMITTED: the frame in offer is sent, or an error ends its attempt and it is offered again (R339, R344);
a frame begun before the port re-integrates completes (R333). -/
def execCanFrameTransmitted (port : Fin 12) (outcome : TxEnd) (s : State) : Host.Outcome State Fault Refusal :=
  onChip (fun k c =>
    let p := port.val
    let c := canFlush k c p
    match txOffered k c p, outcome with
    | none, .sent sof loop => match txFinishing k c p sof with
      | some f => txSent k c p f sof loop
      | none => c
    | none, .error => c
    | some f, .sent sof loop => txSent k c p f sof loop
    | some _, .error =>
      let c := c.bump (Key.Can.ERR_FRAMES p)
      let t := c.num (Key.Can.TEC p) + 8
      if 255 < t then canBusOff k c p t (c.num (Key.Can.REC p)) false
      else canJudge k (c.put (Key.Can.TEC p) t) p false) s

/-- CAN_FRAME_LIFETIME_EXPIRY: frames whose lifetime is over are dropped (R340). [DEDUCED: log 7] -/
def execCanFrameLifetimeExpiry (port : Fin 12) (s : State) : Host.Outcome State Fault Refusal :=
  onChip (fun k c =>
    let p := port.val
    let c := canFlush k c p
    let x := canOf c p
    let beyond := fun f : TxFrame => decide (f.born + 1000 * f.life ≤ nowUs k c)
    let dead := x.queue.filter beyond ++ x.time.filter beyond
    let c := canPut c p { x with queue := x.queue.filter fun f => !beyond f
                                 time := x.time.filter fun f => !beyond f }
    dead.foldl (fun c f => txDrop k c p f true false) c) s

/-! ## CAN-mapped messages (R152–R155) -/

/-- CAN_MAP_COMPOSE: a slot's frame is composed at every edge that is a multiple of its CAN_PERIOD and enters its port's
queue. In KINDLING a HOLD with no last raw value sends that of CAN_CMD. [DESIGN CHOICE: log 95] -/
def execCanMapCompose (slot : Fin 30) (s : State) : Host.Outcome State Fault Refusal :=
  onChip (fun k c =>
    let n := slot.val
    let g := fun key => c.num key
    let p := g (Key.Slot.CAN_PORT n)
    let last := c.crop.composed.find? (·.1 = n)
    let done := match last with
      | some (_, _, e) => decide (e = k.epoch)
      | none => false
    let safe := safeApplied c (Key.Slot.CAN_CMD n)
    if !up c 8 || isComposite n || 12 ≤ p || k.epoch % max (g (Key.Slot.CAN_PERIOD n)) 1 ≠ 0 || done
        || (safe && g (Key.Slot.CAN_SAFE_KIND n) = 2) then c
    else
      let bits := g (Key.Slot.CAN_BITS n)
      let here := rawOf (g (Key.Slot.CAN_CMD n)) (g (Key.Slot.CAN_OFFSET n)) (g (Key.Slot.CAN_SCALE n)) bits
      let raw := if !safe then here
        else if g (Key.Slot.CAN_SAFE_KIND n) = 1 then g (Key.Slot.CAN_SAFE_RAW n) % 2 ^ bits
        else (last.map (·.2.1)).getD here
      let data := mapBytes (g (Key.Slot.CAN_FILL n)) (g (Key.Slot.CAN_START n)) bits raw (g (Key.Slot.CAN_LEN n))
      let c := { c with crop := { c.crop with
        composed := c.crop.composed.filter (fun q => decide (q.1 ≠ n)) ++ [(n, raw, k.epoch)] } }
      let f : TxFrame := { id := g (Key.Slot.CAN_ID n) % 0x20000000 / 256 * 256, ext := true, data
                           born := nowUs k c, life := g (Key.Slot.CAN_PERIOD n), kind := .mapped n raw k.epoch }
      if armedAt c Key.InjFs.INJ_CANMAP_DROP (n + 1) then
        txDrop k (disarm c Key.InjFs.INJ_CANMAP_DROP (n + 1)) p f true true
      else txEnter k c p f) s

/-! ## TX_SUBMIT (R341) -/

/-- Records of a TX_SUBMIT block; none where one is malformed or there are more than 32. -/
def txRecords : Nat → List Byte → Option (List (Nat × Nat × Nat × List Byte))
  | 0, b => if b = [] then some [] else none
  | fuel + 1, b =>
    if b = [] then some []
    else if b.length < 8 then none
    else
      let id := ofLeBytes (b.take 4)
      let flags := ofLeBytes ((b.drop 4).take 1)
      let len := ofLeBytes ((b.drop 5).take 1)
      let life := ofLeBytes ((b.drop 6).take 2)
      let ext := id ≥ 0x80000000
      let idOk := if ext then id < 0xA0000000 else id < 0x800
      if idOk && flags ≤ 3 && flags ≠ 2 && canLenOk (flags % 2 = 1) len && 1 ≤ life && life ≤ 10000
          && len ≤ b.length - 8 then
        (txRecords fuel (b.drop (8 + len))).map fun l => (id, flags, life, (b.drop 8).take len) :: l
      else none

/-- Result of a TX_SUBMIT beyond the checks of R59. -/
def txSubmitCheck (od : OD) (p : Nat) (b : List Byte) : Nat :=
  match txRecords 32 b with
  | none => Rc.OUT_OF_RANGE
  | some l =>
    if odNum od (Key.Can.PORT_ENABLE p) = 0 || odNum od (Key.Can.LISTEN_ONLY p) ≠ 0
        || (odNum od (Key.Can.FD_ENABLE p) = 0 && l.any fun r => decide (r.2.1 % 2 = 1)) then Rc.PORT_INACTIVE
    else Rc.OK

/-- The records of an accepted block enter at the block's edge. -/
def txSubmitApply (k : Keeper) (c : Chip) (p : Nat) (b : List Byte) : Chip :=
  let l := ((txRecords 32 b).getD []).map fun r =>
    ({ id := r.1 % 0x80000000, ext := r.1 ≥ 0x80000000, fdf := r.2.1 % 2 = 1, brs := 2 ≤ r.2.1, data := r.2.2.2
       born := 1000 * k.epoch, life := r.2.2.1, kind := .submit } : TxFrame)
  canSet c p { canOf c p with submits := (canOf c p).submits ++ l }

/-! ## Receiving (R334–R338) -/

/-- A FILTER_LIST block is well formed (R336). -/
def filterListOk (b : List Byte) : Bool :=
  b.length % 12 = 0 && b.length ≤ 512 * 12 && (List.range (b.length / 12)).all fun i =>
    let u := fun off size => ofLeBytes ((b.drop (12 * i + off)).take size)
    u 0 1 ≤ 3 && u 1 1 ≤ 7 && u 2 2 = 0 && u 4 4 < 0x20000000 && u 8 4 < 0x20000000

/-- The decision of a memory list: none where nothing matches, else rejected or a FIFO. -/
def listJudge (b : List Byte) (id : Nat) (ext : Bool) : Option (Bool × Nat) :=
  (List.range (b.length / 12)).findSome? fun i =>
    let u := fun off size => ofLeBytes ((b.drop (12 * i + off)).take size)
    let (i1, i2) := (u 4 4, u 8 4)
    let hit := match u 0 1 with
      | 1 => decide (i1 ≤ id ∧ id ≤ i2)
      | 2 => decide (id = i1 ∨ id = i2)
      | 3 => decide (id &&& i2 = i1 &&& i2)
      | _ => false
    if hit && bitOf (u 1 1) 2 = ext then some (bitOf (u 1 1) 1, u 1 1 % 2) else none

/-- The decision of the pairs (R335). -/
def pairsJudge (l : List (Nat × Nat × Nat)) (id : Nat) (ext : Bool) : Option (Bool × Nat) :=
  l.findSome? fun (m, mask, ctrl) =>
    let w := if ext then 0x1FFFFFFF else 0x7FF
    if bitOf ctrl 0 && bitOf ctrl 2 = ext && id &&& mask &&& w = m &&& mask &&& w then
      some (bitOf ctrl 3, if bitOf ctrl 1 then 1 else 0)
    else none

/-- The FIFO a filter set puts a frame into; none where the set does not accept it. -/
def filterJudge (f : FilterSet) (id : Nat) (ext : Bool) : Option Nat :=
  match if f.list then listJudge f.block id ext else pairsJudge f.pairs id ext with
  | some (false, n) => some n
  | _ => none

/-- The filter set of the present objects and mode (R334). [DEDUCED: log 54] -/
def filterNow (c : Chip) (p : Nat) : FilterSet :=
  { list := c.mode = .kindling || c.mode = .service || c.flag (Key.Can.LIST_FORCE p)
    pairs := (List.range 32).map fun n => (c.num (mkKey (0x4402 + 16 * p) (1 + n)),
      c.num (mkKey (0x4402 + 16 * p) (0x21 + n)), c.num (mkKey (0x4402 + 16 * p) (0x41 + n)))
    block := c.blob (Key.CanX.FILTER_LIST p) }

/-- A FIFO record (R337). -/
def fifoRecord (seq sof : Nat) (f : CanFrame) : List Byte :=
  leBytes 4 seq ++ leBytes 6 (sof / 1000000) ++ leBytes 4 (sof % 1000000)
    ++ leBytes 4 (f.id.toNat + if f.ext then 0x80000000 else 0)
    ++ leBytes 1 ((if f.fdf then 1 else 0) + (if f.brs then 2 else 0) + (if f.esi then 4 else 0) + (if f.rtr then 8 else 0))
    ++ leBytes 1 f.data.length ++ leBytes 4 0 ++ f.data ++ List.replicate (64 - f.data.length) 0

/-- An accepted frame enters a FIFO, which keeps the 64 newest. [DEDUCED: log 54] -/
def fifoAdd (c : Chip) (p n sof : Nat) (f : CanFrame) : Chip :=
  let x := canOf c p
  let key := if n = 0 then Key.CanX.RX_FIFO0 p else Key.CanX.RX_FIFO1 p
  let seq := nth x.seqs n 0
  let b := c.blob key ++ fifoRecord seq sof f
  ((canSet c p { x with seqs := x.seqs.set n ((seq + 1) % 0x100000000) }).putBlob key (b.drop (b.length - 64 * 88))).bump
    (Key.Can.RX_ACCEPTED p)

/-- A signal decodes an accepted data frame (R338). -/
def signalTake (k : Keeper) (p : Nat) (f : CanFrame) (c : Chip) (n : Nat) : Chip :=
  let g := fun key => c.num key
  let opts := g (Key.Rxs.RXS_OPTS p n)
  let id := g (Key.Rxs.RXS_ID p n)
  let mask := g (Key.Rxs.RXS_ID_MASK p n)
  if !bitOf opts 0 || bitOf id 31 ≠ f.ext || f.id.toNat &&& mask ≠ id % 0x20000000 &&& mask then c
  else
    let start := g (Key.Rxs.RXS_START p n)
    let bits := g (Key.Rxs.RXS_BITS p n)
    if 8 * f.data.length < start + bits then c.bump (Key.Rxs.RXS_SKIPPED p n)
    else
      let raw := ofLeBytes f.data / 2 ^ start % 2 ^ bits
      let signed := bitOf opts 1
      let na := bitOf opts 2 && !signed && [2, 4, 8, 16, 24, 32].contains bits && rawMax bits < raw
      if na then c.bump (Key.Rxs.RXS_SKIPPED p n)
      else
        let v : Int := if signed then toInt bits raw else raw
        let sc := fExact fmt32 (fFlush fmt32 (g (Key.Rxs.RXS_SCALE p n)))
        let q := clOut (fRatio fmtWide (v * sc.1) sc.2)
        let value := clAdd q (g (Key.Rxs.RXS_OFFSET p n))
        (((c.put (Key.Rxs.RXS_VALUE p n) value).put (Key.Rxs.RXS_EPOCH p n) (wireEpoch k.epoch)).bump
          (Key.Rxs.RXS_COUNT p n)).put (Key.Rxs.RXS_SRC p n) (f.id.toNat % 256)

/-- The filters and signals take a received frame; `known` says that it was recognised ahead of every filter.
[DEDUCED: log 54] -/
def canAccept (k : Keeper) (c : Chip) (p : Nat) (f : CanFrame) (sof : Nat) (known : Bool) : Chip :=
  let x := canOf c p
  let set := if sof / 1000000 < x.since then x.old else x.cur
  match filterJudge set f.id.toNat f.ext with
  | none => if known then c else c.bump (Key.Can.RX_NO_MATCH p)
  | some n =>
    let c := fifoAdd c p n sof f
    if f.rtr then c else (List.range 12).foldl (signalTake k p f) c

/-- A good reception lowers REC (ISO 11898-1). -/
def recGood (k : Keeper) (c : Chip) (p : Nat) : Chip :=
  let r := c.num (Key.Can.REC p)
  canJudge k (c.put (Key.Can.REC p) (if 127 < r then 127 else r - 1)) p false

/-! ## Address claim (R343) -/

/-- Sends the claim of an address from the claim buffer: PGN 0xEE00, priority 6, the NAME as data (SAE J1939-81).
[PRESUMED: log 52] -/
def claimFrame (k : Keeper) (c : Chip) (p a : Nat) : TxFrame :=
  { id := 0x18EEFF00 + a, ext := true, data := leBytes 8 (c.num (Key.Can.NAME p)), born := nowUs k c, life := 1000000000
    kind := .claim }

/-- The port begins to claim an address. [PRESUMED: log 52] -/
def claimStart (k : Keeper) (c : Chip) (p a : Nat) : Chip :=
  let c := canSet c p { canOf c p with
    claim := some (claimFrame k c p a), claimAddr := a, claimAt := none
    claimFor := some (c.num (Key.Can.PREF_ADDR p), c.num (Key.Can.NAME p)) }
  (c.put (Key.Can.CLAIM_STATE p) 1).put (Key.Can.ADDRESS p) 0xFF

/-- The port cannot claim: it says so from address 254. [PRESUMED: log 52] -/
def claimNone (k : Keeper) (c : Chip) (p : Nat) : Chip :=
  let c := canSet c p { canOf c p with claim := some (claimFrame k c p 254), claimAt := none }
  (c.put (Key.Can.CLAIM_STATE p) 3).put (Key.Can.ADDRESS p) 0xFE

/-- The next free address of 128–247, ascending. [PRESUMED: log 52] -/
def nextAddr (others : List Nat) : Option Nat := ((List.range 120).map (· + 128)).find? fun a => !others.contains a

/-- A claim of another NAME is heard: of a higher priority (a lower number) for the port's address it takes the address
away; any other contest is answered with the port's own claim. [PRESUMED: log 52] -/
def claimHeard (k : Keeper) (c : Chip) (p name a : Nat) (injected : Bool) : Chip :=
  let x := canOf c p
  let c := if a < 254 && !x.others.contains a then canSet c p { x with others := x.others ++ [a] } else c
  let x := canOf c p
  let st := c.num (Key.Can.CLAIM_STATE p)
  let own := c.num (Key.Can.NAME p)
  if !c.flag (Key.Can.CLAIM_ENABLE p) || (st ≠ 1 && st ≠ 2) || a ≠ x.claimAddr then c
  else if name < own then
    let c := raise k c 0x0C04 (unitCan p) injected
    match bitOf own 63, nextAddr x.others with
    | true, some b => claimStart k c p b
    | _, _ => claimNone k c p
  else
    canSet c p { x with others := x.others.filter (fun b => decide (b ≠ a)), claim := some (claimFrame k c p x.claimAddr) }

/-- ADDRESS_CLAIM_RECEIVED. -/
def execAddressClaimReceived (port : Fin 12) (name : BitVec 64) (addr : Byte) (s : State) :
    Host.Outcome State Fault Refusal :=
  onChip (fun k c => if canOnBus c port.val then claimHeard k c port.val name.toNat addr.toNat false else c) s

/-- A request for the address-claimed PGN is answered. [PRESUMED: log 52] -/
def claimAsked (k : Keeper) (c : Chip) (p : Nat) : Chip :=
  let x := canOf c p
  match c.flag (Key.Can.CLAIM_ENABLE p), c.num (Key.Can.CLAIM_STATE p) with
  | true, 1 => canSet c p { x with claim := some (claimFrame k c p x.claimAddr) }
  | true, 2 => canSet c p { x with claim := some (claimFrame k c p x.claimAddr) }
  | true, 3 => canSet c p { x with claim := some (claimFrame k c p 254) }
  | _, _ => c

/-- CLAIM_SETTLE_EXPIRY: 250 ms after an uncontested claim was sent the address is the port's and mapped frames may be
sent. -/
def execClaimSettleExpiry (port : Fin 12) (s : State) : Host.Outcome State Fault Refusal :=
  onChip (fun k c =>
    let p := port.val
    match c.num (Key.Can.CLAIM_STATE p), (canOf c p).claimAt with
    | 1, some t =>
      if canOnBus c p && t + 250000 ≤ nowUs k c then
        closeHandling ((c.put (Key.Can.CLAIM_STATE p) 2).put (Key.Can.ADDRESS p) (canOf c p).claimAddr) 0x0C04 (unitCan p)
      else c
    | _, _ => c) s

/-! ## Bus-off (R344) -/

/-- BUS_OFF. -/
def execBusOff (port : Fin 12) (tec rec : Nat) (s : State) : Host.Outcome State Fault Refusal :=
  onChip (fun k c => if canOnBus c port.val then canBusOff k c port.val tec rec false else c) s

/-- RECOVER applies: it starts recovery in BUS_OFF and has no effect elsewhere. [PRESUMED: log 53] -/
def recoverApply (c : Chip) (p : Nat) : Chip :=
  if c.num (Key.Can.CAN_STATE p) = 4 && canActive c p then c.put (Key.Can.CAN_STATE p) 5 else c

/-- A port takes part again with its error counters 0 (R344). [DEDUCED: log 51] -/
def canRestart (c : Chip) (p st : Nat) : Chip :=
  closeHandling (((c.put (Key.Can.CAN_STATE p) st).put (Key.Can.TEC p) 0).put (Key.Can.REC p) 0) 0x0C01 (unitCan p)

/-- RECOVERY_COMPLETE (Table 12.2, step 3). [DEDUCED: log 7] -/
def execRecoveryComplete (port : Fin 12) (s : State) : Host.Outcome State Fault Refusal :=
  onChip (fun k c =>
    let p := port.val
    if c.num (Key.Can.CAN_STATE p) ≠ 5 || !canActive c p then c
    else
      -- The first reference message leaves at an edge after this one: one still in its buffer is dropped.
      let c := (canOf c p).time.foldl (fun c _ => raise k (c.bump (Key.Can.TX_DROPPED p)) 0x0C03 (unitCan p)) c
      let c := canSet c p { canOf c p with time := [], lastMsg := none, sofFirst := none }
      let c := canRestart c p 2
      if c.flag (Key.Can.CLAIM_ENABLE p) then claimStart k c p (c.num (Key.Can.PREF_ADDR p)) else c) s

/-! ## Time reference messages (R345, R346) -/

/-- Nanoseconds of TIME_UNC in units of 10 ns, to nearest, saturating. [DEDUCED: log 55] -/
def uncField (c : Chip) : Nat :=
  let u := c.num Key.Time.TIME_UNC
  if fFinite fmt32 u then min (fNearest fmt32 (fDiv fmt32 u 0x41200000)).toNat 65535 else 65535

/-- The 16 bytes of a message (Table 12.3). [DEDUCED: log 55] -/
def timeMessage (c : Chip) (p seq : Nat) (prev : Option (Nat × Bool × Nat)) : List Byte :=
  let (g, t, off) := match prev with
    | some (sof, g, t) => (g, t, sof % 1000000)
    | none => (false, 0, 0)
  leBytes 1 1 ++ leBytes 1 seq
    ++ leBytes 1 (c.num Key.Time.TIME_STATE % 8 + (if prev.isNone then 8 else 0) + (if g then 16 else 0)) ++ leBytes 1 p
    ++ leBytes 6 t ++ leBytes 4 off ++ leBytes 2 (uncField c)

/-- TIME_REFERENCE_MESSAGE: at each edge that is a multiple of TIME_PERIOD. [DEDUCED: log 55] -/
def execTimeReferenceMessage (port : Fin 12) (s : State) : Host.Outcome State Fault Refusal :=
  onChip (fun k c =>
    let p := port.val
    let period := c.num (Key.CanX.TIME_PERIOD p)
    if !canActive c p || !c.flag (Key.CanX.TIME_ENABLE p) || k.epoch % max period 1 ≠ 0 then c
    else
      -- A message still in its buffer has had its lifetime.
      let c := (canOf c p).time.foldl (fun c f => txDrop k c p f true false) c
      let seq := (c.num (Key.CanX.TIME_SEQ p) + 1) % 256
      let x := canOf c p
      let b := timeMessage c p seq x.lastMsg
      let id := c.num (Key.CanX.TIME_ID p)
      let ext := decide (0x80000000 ≤ id)
      let n := id % 0x20000000
      let f := fun (i : Nat) (d : List Byte) (fd first last : Bool) =>
        ({ id := i, ext, fdf := fd, data := d, born := nowUs k c, life := period, kind := .time first last } : TxFrame)
      let frames := if c.flag (Key.Can.FD_ENABLE p) then [f n b true true true]
        else [f n (b.take 8) false true false, f (n + 1) (b.drop 8) false false true]
      canSet (c.put (Key.CanX.TIME_SEQ p) seq) p { x with time := frames, sofFirst := none }) s

/-! ## Edges, KINDLING, ashes -/

/-- A configuration write makes the controller re-integrate (R333). [DEDUCED: log 51] -/
def canReintegrate (k : Keeper) (c : Chip) (p : Nat) : Chip :=
  let st := c.num (Key.Can.CAN_STATE p)
  let x := canOf c p
  if st = 2 || st = 3 then
    canSet (c.put (Key.Can.CAN_STATE p) 1) p { x with
      readyAt := some (k.epoch + 1), before := some (k.epoch, x.fd, x.listen) }
  else c

/-- One port at an edge: enabling, integration, the filter set in force, the claim. A port that was stopped starts with its
error counters 0 and claims anew. [PRESUMED: log 53] -/
def canPortEdge (k : Keeper) (c : Chip) (p : Nat) : Chip :=
  let c := canFlush k c p
  let st := c.num (Key.Can.CAN_STATE p)
  let act := canActive c p
  let c := if st = 6 then c
    else if !act then (if st = 0 then c else canSet (c.put (Key.Can.CAN_STATE p) 0) p { canOf c p with readyAt := none, claimFor := none })
    else if st = 0 then canSet (canRestart c p 1) p { canOf c p with readyAt := some (k.epoch + 1), before := none }
    else match st, (canOf c p).readyAt with
      | 1, some e =>
        if e ≤ k.epoch then canSet (c.put (Key.Can.CAN_STATE p) (canErrState c p)) p { canOf c p with readyAt := none, before := none } else c
      | _, _ => c
  let c := canSet c p { canOf c p with fd := c.flag (Key.Can.FD_ENABLE p), listen := c.flag (Key.Can.LISTEN_ONLY p) }
  let x := canOf c p
  let f := filterNow c p
  let c := if f = x.cur then c else canSet c p { x with cur := f, old := x.cur, since := k.epoch }
  let c := if c.flag (Key.CanX.TIME_ENABLE p) then c
    else canSet c p { canOf c p with time := [], lastMsg := none, sofFirst := none }
  if !c.flag (Key.Can.CLAIM_ENABLE p) then
    let c := if up c 8 then c.put (Key.Can.ADDRESS p) (c.num (Key.Can.PREF_ADDR p)) else c
    canSet (c.put (Key.Can.CLAIM_STATE p) 0) p { canOf c p with claim := none, claimAt := none, claimFor := none }
  else if canOnBus c p && (canOf c p).claimFor ≠ some (c.num (Key.Can.PREF_ADDR p), c.num (Key.Can.NAME p)) then
    claimStart k c p (c.num (Key.Can.PREF_ADDR p))
  else c

/-- Every port at an edge. -/
def canEdge (k : Keeper) (c : Chip) : Chip := (List.range 12).foldl (canPortEdge k) c

/-- PD12 loses power: queued frames are gone. -/
def canDown (c : Chip) : Chip :=
  (List.range 12).foldl (fun c p => (canShow c p).put (Key.Can.CAN_STATE p) (if c.num (Key.Can.CAN_STATE p) = 6 then 6 else 0))
    { c with cans := List.replicate 12 {} }

/-- A port is ashed: it sends and receives nothing, and its queued frames drop at their lifetimes (R355). -/
def canAsh (c : Chip) (p : Nat) : Chip := c.put (Key.Can.CAN_STATE p) 6

/-- A port's ash is cleared: it starts from STOPPED. -/
def canUnash (c : Chip) (p : Nat) : Chip := c.put (Key.Can.CAN_STATE p) 0

end Sys2Proof.Machine
end

