-- ==== Sys2Proof/Machine/Valve.lean ====
section
/-! DEFINITION. The valve drive (07): channels, shaper programs, budgets, quenches, the coil model. -/

namespace Sys2Proof.Machine

/-! ## Channels -/

/-- Bits of a ratio as binary32. -/
def ratio (n d : Nat) : Nat := fRatio fmt32 n d

/-- A channel's own state. -/
def vcOf (c : Chip) (n : Nat) : VcX := nth c.valve.chans n {}

/-- Sets a channel's own state. -/
def vcSet (c : Chip) (n : Nat) (x : VcX) : Chip := { c with valve := { c.valve with chans := c.valve.chans.set n x } }

/-- The channels of a bank (R196). -/
def bankChans (b : Nat) : List Nat := (List.range 4).map (4 * b + ·)

/-- The channels of a group. -/
def groupChans (g : Nat) : List Nat := (List.range 16).map (16 * g + ·)

/-- Half the dither amplitude, A (R209). -/
def ditherHalf (x : VcX) : Nat := ratio x.ditherA 200

/-- The target with half the dither amplitude, within the channel's limits (R209, R212). -/
def ditherHigh (c : Chip) (n : Nat) (target : Nat) : Nat :=
  fMin fmt32 (fAdd fmt32 target (ditherHalf (vcOf c n))) (fMax fmt32 target (c.num (Key.Valve.PEAK_MAX n)))

/-- A channel is energised: a target other than zero or a current above 50 mA (R207). -/
def energised (c : Chip) (n : Nat) : Bool :=
  fMag fmt32 (c.num (Key.Valve.TARGET n)) ≠ 0 || fLt fmt32 (ratio 1 20) (vcOf c n).current

/-- The demand of a channel with a target (R212). -/
def demandWith (c : Chip) (n target : Nat) : Nat := fMax fmt32 (ditherHigh c n target) (vcOf c n).current

/-- The demand of a channel. -/
def demand (c : Chip) (n : Nat) : Nat := demandWith c n (c.num (Key.Valve.TARGET n))

/-- The sum of the demands of some channels, binary32, in channel order. -/
def demandSum (c : Chip) (l : List Nat) : Nat := l.foldl (fun s n => fAdd fmt32 s (demand c n)) 0

/-- What the budgets of bank and group leave to a channel: the lesser of the two rooms (R212, R213). -/
def budgetRoom (c : Chip) (n : Nat) : Nat :=
  let others := fun l : List Nat => demandSum c (l.filter (· ≠ n))
  let bank := fSub fmt32 (c.num (Key.Bank.BANK_BUDGET (n / 4))) (others (bankChans (n / 4)))
  let grp := fSub fmt32 (c.num (Key.VGroup.GROUP_BUDGET (n / 16))) (others (groupChans (n / 16)))
  fMin fmt32 bank grp

/-- A target fits: bank and group demand within their budgets, and the bank is not quenching (R213). -/
def targetFits (c : Chip) (n target : Nat) : Bool :=
  let others := fun l : List Nat => demandSum c (l.filter (· ≠ n))
  let d := demandWith c n target
  fLe fmt32 (fAdd fmt32 (others (bankChans (n / 4))) d) (c.num (Key.Bank.BANK_BUDGET (n / 4)))
    && fLe fmt32 (fAdd fmt32 (others (groupChans (n / 16))) d) (c.num (Key.VGroup.GROUP_BUDGET (n / 16)))
    && c.num (Key.Bank.BANK_STATE (n / 4)) ≠ 2

/-- The bank switch is closed while a channel of the bank is energised and no quench is in progress (R199); a tripped or
ashed bank stays as it is. BANK_DEMAND and GROUP_DEMAND follow. [DESIGN CHOICE: log 69] -/
def bankShow (c : Chip) (b : Nat) : Chip :=
  let st := c.num (Key.Bank.BANK_STATE b)
  let c := if st = 0 || st = 1 then c.put (Key.Bank.BANK_STATE b) (if (bankChans b).any (energised c) then 1 else 0) else c
  (c.put (Key.Bank.BANK_DEMAND b) (demandSum c (bankChans b))).put (Key.VGroup.GROUP_DEMAND (b / 4))
    (demandSum c (groupChans (b / 4)))

/-- The thermal ceiling of a target; none where T_WINDING is below T_DERATE (R216). -/
def thermalCeiling (c : Chip) (n : Nat) : Option Nat :=
  let t := c.num (Key.Valve.T_WINDING n)
  let lo := c.num (Key.Valve.T_DERATE n)
  let hi := c.num (Key.Valve.T_TRIP n)
  if fLt fmt32 t lo then none
  else
    let floor := c.num (Key.Valve.DERATE_FLOOR n)
    if fLe fmt32 hi t then some floor
    else
      let x := fExact fmt32 t
      let l := fExact fmt32 lo
      let h := fExact fmt32 hi
      some (fLerp fmt32 (c.num (Key.Valve.HOLD_MAX n)) floor ((x.1 * l.2 - l.1 * x.2) * h.2).toNat
        ((h.1 * l.2 - l.1 * h.2) * x.2).toNat)

/-- The target of a channel under its limits, with the FLAGS bits it sets: PEAK_MAX and the peak time (R202), the
thermal ceiling with its exemption (R216), the budgets for a target that follows COMMAND (R214). `beyond` says that the
peak time has run out. -/
def limitWith (c : Chip) (n : Nat) (beyond : Bool) : Nat × Nat :=
  let x := vcOf c n
  let hold := c.num (Key.Valve.HOLD_MAX n)
  let t := fClamp fmt32 0 (c.num (Key.Valve.PEAK_MAX n)) x.req
  let peak := fLt fmt32 hold t
  let (t, f) := if peak && beyond then (hold, 0x20) else (t, 0)
  let (t, f) := match thermalCeiling c n with
    | some m => if peak && !beyond then (t, f) else (fMin fmt32 t m, f ||| 0x40)
    | none => (t, f)
  if x.follow then
    let room := fMax fmt32 0 (fSub fmt32 (budgetRoom c n) (ditherHalf x))
    let room := if c.num (Key.Bank.BANK_STATE (n / 4)) = 2 then 0 else room
    if fLe fmt32 t room then (t, f) else (room, f ||| 0x10)
  else (t, f)

/-- The target of a channel under its limits. -/
def limitTarget (c : Chip) (n : Nat) : Nat × Nat := limitWith c n (vcOf c n).peakOver

/-- Recomputes a channel's TARGET, its peak time and its bank after any change (R199, R202): the time counts from the
instant at which the target, under every other limit, first exceeds HOLD_MAX.
[DESIGN CHOICE: log 69; DEDUCED: log 70] -/
def vcSettle (k : Keeper) (c : Chip) (n : Nat) : Chip :=
  let x := vcOf c n
  let beyond := fLt fmt32 (c.num (Key.Valve.HOLD_MAX n)) (limitWith c n false).1
  let x := if beyond then { x with peakAt := some (x.peakAt.getD (nowUs k c)) }
    else { x with peakAt := none, peakOver := false }
  let c := vcSet c n x
  let (t, f) := limitTarget c n
  let c := vcSet c n { x with epFlags := x.epFlags ||| f }
  bankShow (c.put (Key.Valve.TARGET n) t) (n / 4)

/-- Sets the target a channel asks for, constant or following COMMAND. -/
def vcAsk (k : Keeper) (c : Chip) (n req : Nat) (follow : Bool) : Chip :=
  vcSettle k (vcSet c n { vcOf c n with req, follow, ramp := none }) n

/-- Abandons a program. -/
def vcAbandon (c : Chip) (n : Nat) : Chip :=
  (vcSet c n { vcOf c n with prog := none, due := false, ramp := none, rampUs := none, waitEnd := none, quenchEnd := none
                             loops := [], tryAt := none }).put (Key.Valve.STEP n) 0xFF

/-- A channel with no target: slow decay. -/
def vcZero (k : Keeper) (c : Chip) (n : Nat) : Chip :=
  let c := vcAbandon c n
  vcAsk k (vcSet c n { vcOf c n with ditherA := 0, held := false }) n 0 false

/-! ## Programs (R208, R211) -/

/-- The words of a program's bytes. -/
def codeWords : List Byte → List Nat
  | a :: b :: t => (a.toNat + 256 * b.toNat) :: codeWords t
  | _ => []

/-- An operand agrees with Table 7.3. -/
def operandOk (op v step : Nat) : Bool :=
  match op with
  | 0 => v = 0
  | 1 => v ≤ 3000 || v = 0xFFF
  | 2 => 1 ≤ v
  | 3 => 1 ≤ v % 1024
  | 4 => true
  | 5 => v / 64 < step
  | 6 => v / 256 = 0
  | 7 => 1 ≤ v % 64 && v / 64 < v % 64
  | 8 => 1 ≤ v
  | _ => false

/-- A word keeps its program running within R211: its operand, the SETI behind a RAMP, time inside an endless LOOP. -/
def wordOk (ws : List Nat) (i : Nat) : Bool :=
  let w := ws.getD i 0
  let op := w / 4096
  let v := w % 4096
  let timed := fun j => [2, 3, 7, 8].contains (ws.getD j 0 / 4096)
  operandOk op v i
    && (op ≠ 2 || (i + 1 < ws.length && ws.getD (i + 1) 0 / 4096 = 1))
    && (op ≠ 5 || v % 64 ≠ 0 || (List.range ws.length).any fun j => v / 64 ≤ j && j < i && timed j)

/-- A block is a valid program (R211). -/
def codeOk (b : List Byte) : Bool :=
  let ws := codeWords b
  b.length % 2 = 0 && 2 ≤ b.length && b.length ≤ 128 && ws.getLast? = some 0
    && (List.range ws.length).all (wordOk ws)

/-- A program starts: VALID, of a number a program has. -/
def progValid (c : Chip) (p : Nat) : Bool := p < 128 && c.flag (Key.Prog.VALID p)

/-- A channel names a program and stands in a state in which it may run it (R211). -/
def progBusy (c : Chip) (p : Nat) : Bool :=
  (List.range 48).any fun n =>
    (c.num (Key.Valve.PROGRAM_ON n) = p || c.num (Key.Valve.PROGRAM_OFF n) = p)
      && !([0, 7, 8].contains (c.num (Key.Valve.STATE n)))

/-- Result of a write of CODE beyond the checks of R59 (R211, Table 7.7). -/
def codeCheck (c : Chip) (p : Nat) (b : List Byte) : Nat :=
  if !codeOk b then Rc.SHAPER_INVALID else if progBusy c p then Rc.BUSY else Rc.OK

/-- CODE applies: WORDS and VALID follow, and a rewrite clears SHAPER_FAULT (Table 7.6, Table 7.8). -/
def codeApply (c : Chip) (p : Nat) (b : List Byte) : Chip :=
  closeHandling (((c.putBlob (Key.Prog.CODE p) b).put (Key.Prog.WORDS p) (b.length / 2)).putFlag (Key.Prog.VALID p) true)
    0x070B (unitProg p)

/-- USERS: the channels that name a program (Table 7.6). -/
def progUsers (c : Chip) (p : Nat) : Nat :=
  ((List.range 48).filter fun n => c.num (Key.Valve.PROGRAM_ON n) = p || c.num (Key.Valve.PROGRAM_OFF n) = p).length

/-- USERS of the programs a write of PROGRAM_ON or PROGRAM_OFF concerns. -/
def usersShow (c : Chip) (l : List Nat) : Chip :=
  (l.filter (· < 128)).foldl (fun c p => c.put (Key.Prog.USERS p) (progUsers c p)) c

/-! ## Quench (R207) -/

/-- A quench begins: switch open, low sides off. [DEDUCED: log 70] -/
def quenchStart (c : Chip) (b : Nat) : Chip := (c.put (Key.Bank.BANK_STATE b) 2).bump (Key.Bank.QUENCHES b)

/-- A quench that runs as slow decay: QUENCH_DEFERRED is set, counted and raised. [DEDUCED: log 70] -/
def quenchDefer (k : Keeper) (c : Chip) (n : Nat) (injected : Bool) : Chip :=
  raise k ((c.putBits (Key.Valve.FLAGS n) 8 true).bump (Key.Valve.QUENCH_DEFERS n)) 0x070A (unitValve n) injected

/-- A bank whose switch can open for a quench: not tripped or ashed. -/
def bankCanQuench (c : Chip) (b : Nat) : Bool := c.num (Key.Bank.BANK_STATE b) ≤ 2

/-! ## Commands (R203, Table 7.2) -/

/-- A program start clears the flags and the hold of the low side kept until it (Table 7.5, R222). -/
def vcStarted (c : Chip) (n : Nat) : Chip :=
  (vcSet c n { vcOf c n with cut := false }).putBits (Key.Valve.FLAGS n) 0x0F false

/-- Names a program to start at the next tick. -/
def vcBegin (c : Chip) (n p : Nat) : Chip :=
  let c := vcAbandon (vcStarted c n) n
  (vcSet c n { vcOf c n with prog := some p, step := 0, due := true }).put (Key.Valve.STEP n) 0

/-- COMMAND goes from 0 to another value. -/
def vcOn (k : Keeper) (c : Chip) (n : Nat) : Chip :=
  let p := c.num (Key.Valve.PROGRAM_ON n)
  if p = 0xFF then
    let c := vcAbandon (vcStarted c n) n
    vcAsk k ((c.put (Key.Valve.STATE n) 2).put (Key.Valve.CMD_RESULT n) Rc.OK) n (vcOf c n).cmd true
  else if progValid c p then ((vcBegin c n p).put (Key.Valve.STATE n) 1).put (Key.Valve.CMD_RESULT n) Rc.OK
  else ((vcZero k c n).put (Key.Valve.STATE n) 4).put (Key.Valve.CMD_RESULT n) Rc.SHAPER_INVALID

/-- COMMAND goes to 0. -/
def vcOff (k : Keeper) (c : Chip) (n : Nat) : Chip :=
  let p := c.num (Key.Valve.PROGRAM_OFF n)
  if p ≠ 0xFF && progValid c p then (vcBegin c n p).put (Key.Valve.STATE n) 5
  else (vcZero k c n).put (Key.Valve.STATE n) 0

/-- The DXV takes a COMMAND: only a change between zero and not zero starts a program (R203). -/
def valveAct (k : Keeper) (c : Chip) (n v : Nat) : Chip :=
  let x := vcOf c n
  let st := c.num (Key.Valve.STATE n)
  let was := fMag fmt32 x.cmd ≠ 0
  let now := fMag fmt32 v ≠ 0
  let c := vcSet c n { x with cmd := v }
  if !was && now && (st = 0 || st = 5) then vcOn k c n
  else if was && !now && (st = 1 || st = 2 || st = 3) then vcOff k c n
  else if was && !now && st = 4 then c.put (Key.Valve.STATE n) 0
  else if x.follow && x.ramp.isNone && (st = 1 || st = 2 || st = 3) then vcAsk k c n v true
  else c

/-! ## Shaper instructions (R209): each answers the chip and whether the program goes on in this tick. -/

/-- The program passes to its next step. -/
def vcNext (c : Chip) (n : Nat) : Chip :=
  let s := (vcOf c n).step + 1
  (vcSet c n { vcOf c n with step := s }).put (Key.Valve.STEP n) s

/-- A channel becomes REFUSED for budget (Table 7.2, R213). -/
def vcRefuse (k : Keeper) (c : Chip) (n : Nat) (injected : Bool) : Chip :=
  let c := ((vcZero k c n).put (Key.Valve.STATE n) 4).put (Key.Valve.CMD_RESULT n) Rc.OVERLAP_REFUSED
  raise k ((c.putBits (Key.Valve.FLAGS n) 4 true).bump (Key.Valve.REFUSALS n)) 0x0709 (unitValve n) injected

/-- The word of a channel's program at a step. -/
def wordAt (c : Chip) (n step : Nat) : Nat :=
  match (vcOf c n).prog with
  | some p => (codeWords (c.blob (Key.Prog.CODE p))).getD step 0
  | none => 0

/-- The duration of the ramp a SETI makes, µs: its RAMP stands in the step before, however the program came to it (R209). -/
def rampOf (c : Chip) (n : Nat) : Option Nat :=
  let x := vcOf c n
  let w := wordAt c n (x.step - 1)
  if x.rampUs.isSome then x.rampUs
  else if 1 ≤ x.step && w / 4096 = 2 then some (100 * (w % 4096)) else none

/-- A SETI that fits sets its target; one that raises it is what PEAKWIN measures from. -/
def setiDone (k : Keeper) (c : Chip) (n target : Nat) (follow : Bool) : Chip :=
  let x := vcOf c n
  let x := if fLt fmt32 (c.num (Key.Valve.TARGET n)) target then
      { x with raisedAt := nowUs k c, raisedTo := target, peakHit := none } else x
  let x := { x with tryAt := none, rampUs := none }
  match rampOf c n with
  | some d => vcSet c n { x with ramp := some ⟨c.num (Key.Valve.TARGET n), target, nowUs k c, d, follow⟩ }
  | none => vcNext (vcAsk k (vcSet c n x) n target follow) n

/-- The target of a SETI's operand: 2 mA a unit, never above PEAK_MAX (R202), or COMMAND. -/
def setiTarget (c : Chip) (n v : Nat) : Nat × Bool :=
  if v = 0xFFF then ((vcOf c n).cmd, true) else (fMin fmt32 (ratio v 500) (c.num (Key.Valve.PEAK_MAX n)), false)

/-- SETI sets the target, after a RAMP in 10 µs steps; one that would raise it must fit (R213). A target that follows
COMMAND is never refused (R214). -/
def opSeti (k : Keeper) (c : Chip) (n v : Nat) : Chip × Bool :=
  let x := vcOf c n
  match x.ramp with
  | some r =>
    let t := nowUs k c
    if r.t0 + r.dur ≤ t then
      (vcNext (vcAsk k c n (if r.follow then x.cmd else r.stop) r.follow) n, true)
    else
      let req := fLerp fmt32 r.start r.stop (t - r.t0) r.dur
      (vcSettle k (vcSet c n { x with req, follow := false }) n, false)
  | none =>
    let (target, follow) := setiTarget c n v
    let inj := armedAt c Key.InjValve.INJ_OVERLAP n
    let raises := fLt fmt32 (c.num (Key.Valve.TARGET n)) target
    if inj then (vcRefuse k (disarm c Key.InjValve.INJ_OVERLAP n) n true, false)
    else if follow || !raises || targetFits c n target then
      let ramps := (rampOf c n).isSome
      let c := setiDone k c n target follow
      (c.put (Key.Valve.STATE n) (if c.num (Key.Valve.STATE n) = 3 then 1 else c.num (Key.Valve.STATE n)), !ramps)
    else if c.num (Key.Bank.OVERLAP_WIN (n / 4)) = 0 then (vcRefuse k c n false, false)
    else
      let c := vcSet c n { x with tryAt := some (x.tryAt.getD (nowUs k c)) }
      (if c.num (Key.Valve.STATE n) = 1 then c.put (Key.Valve.STATE n) 3 else c, false)

/-- RAMP gives the following SETI its duration, 100 µs a unit. -/
def opRamp (c : Chip) (n v : Nat) : Chip × Bool :=
  (vcNext (vcSet c n { vcOf c n with rampUs := some (100 * v) }) n, true)

/-- Unit of a WAIT, µs. -/
def waitUnit (u : Nat) : Nat := match u with | 0 => 10 | 1 => 100 | 2 => 1000 | _ => 10000

/-- WAIT holds the program for its duration, from the tick at which it begins. -/
def opWait (k : Keeper) (c : Chip) (n v : Nat) : Chip × Bool :=
  let x := vcOf c n
  match x.waitEnd with
  | none => (vcSet c n { x with waitEnd := some (nowUs k c + waitUnit (v / 1024) * (v % 1024)) }, false)
  | some t => if t ≤ nowUs k c then (vcNext (vcSet c n { x with waitEnd := none }) n, true) else (c, false)

/-- DITHER adds a square wave to the target until the next DITHER. -/
def opDither (k : Keeper) (c : Chip) (n v : Nat) : Chip × Bool :=
  let c := vcSet c n { vcOf c n with ditherA := v / 64, ditherN := v % 64, ditherT := nowUs k c }
  (vcNext (vcSettle k c n) n, true)

/-- LOOP with count k jumps k times to its target step, then falls through; count 0 jumps until abandoned. -/
def opLoop (c : Chip) (n v : Nat) : Chip × Bool :=
  let x := vcOf c n
  let jump := fun x : VcX => (vcSet c n { x with step := v / 64 }).put (Key.Valve.STEP n) (v / 64)
  if v % 64 = 0 then (jump x, true)
  else
    let left := ((x.loops.find? (·.1 = x.step)).map (·.2)).getD (v % 64)
    let rest := x.loops.filter (·.1 ≠ x.step)
    if left = 0 then (vcNext (vcSet c n { x with loops := rest }) n, true)
    else (jump { x with loops := rest ++ [(x.step, left - 1)] }, true)

/-- MARK writes LAST_MARK and MARK_EPOCH. -/
def opMark (k : Keeper) (c : Chip) (n v : Nat) : Chip × Bool :=
  (vcNext ((c.put (Key.Valve.LAST_MARK n) (v % 256)).put (Key.Valve.MARK_EPOCH n) (wireEpoch k.epoch)) n, true)

/-- Time to peak, µs: when the current first reached the target of the last SETI that raised it, which may be before
PEAKWIN begins (R209). -/
def peakTime (k : Keeper) (c : Chip) (n : Nat) : Option Nat :=
  let x := vcOf c n
  match x.peakHit with
  | some t => some (t - x.raisedAt)
  | none => if fLe fmt32 x.raisedTo x.current then some (nowUs k c - x.raisedAt) else none

/-- PEAKWIN waits for the peak or for t_max, stores TTP_US, flags an early or late peak and raises VALVE_TTP. -/
def opPeakwin (k : Keeper) (c : Chip) (n v : Nat) : Chip × Bool :=
  let x := vcOf c n
  let lo := 250 * (v / 64)
  let hi := 250 * (v % 64)
  let inj := armedAt c Key.InjValve.INJ_TTP n
  let late := fun c : Chip =>
    let c := disarm ((c.put (Key.Valve.TTP_US n) hi).putBits (Key.Valve.FLAGS n) 2 true) Key.InjValve.INJ_TTP n
    (raise k (vcNext c n) 0x0704 (unitValve n) inj, true)
  if inj then late c
  else match peakTime k c n with
    | some t =>
      if hi < t then late c
      else
        let c := vcNext (c.put (Key.Valve.TTP_US n) t) n
        (if t < lo then raise k (c.putBits (Key.Valve.FLAGS n) 1 true) 0x0704 (unitValve n) else c, true)
    | none => if hi ≤ nowUs k c - x.raisedAt then late c else (c, false)

/-- QUENCH zeroes the target and asks for a bank quench, deferred where another channel of the bank is energised; it
waits for a current below 50 mA or for its timeout. -/
def opQuench (k : Keeper) (c : Chip) (n v : Nat) : Chip × Bool :=
  let x := vcOf c n
  match x.quenchEnd with
  | none =>
    let inj := armedAt c Key.InjValve.INJ_QUENCH_DEFER n
    let others := (bankChans (n / 4)).any fun m => m ≠ n && energised c m
    let c := vcAsk k (vcSet c n { x with quenchEnd := some (nowUs k c + 100 * v) }) n 0 false
    let c := if inj || others || !bankCanQuench c (n / 4) then
        quenchDefer k (disarm c Key.InjValve.INJ_QUENCH_DEFER n) n inj
      else quenchStart c (n / 4)
    (c, false)
  | some t =>
    if t ≤ nowUs k c || fLt fmt32 x.current (ratio 1 20) then (vcNext (vcSet c n { x with quenchEnd := none }) n, true)
    else (c, false)

/-- END ends the program with its target as it stands; in OFF_RUN the target becomes 0. -/
def opEnd (k : Keeper) (c : Chip) (n : Nat) : Chip × Bool :=
  if c.num (Key.Valve.STATE n) = 5 then ((vcZero k c n).put (Key.Valve.STATE n) 0, false)
  else ((vcAbandon c n).put (Key.Valve.STATE n) 2, false)

/-- One instruction word. -/
def runWord (k : Keeper) (c : Chip) (n w : Nat) : Chip × Bool :=
  let v := w % 4096
  match w / 4096 with
  | 1 => opSeti k c n v
  | 2 => opRamp c n v
  | 3 => opWait k c n v
  | 4 => opDither k c n v
  | 5 => opLoop c n v
  | 6 => opMark k c n v
  | 7 => opPeakwin k c n v
  | 8 => opQuench k c n v
  | _ => opEnd k c n

/-- A program runs on a channel: its state is ON, WAITING or OFF_RUN. -/
def progRuns (c : Chip) (n : Nat) : Bool :=
  let st := c.num (Key.Valve.STATE n)
  (vcOf c n).prog.isSome && (st = 1 || st = 3 || st = 5)

/-- A channel's instructions in one tick: at most `fuel`, up to a timed one that has not ended (R210). -/
def runProg (k : Keeper) (n : Nat) : Nat → Chip → Chip
  | 0, c => c
  | fuel + 1, c =>
    match (vcOf c n).prog with
    | none => c
    | some _ =>
      let (c, on) := runWord k c n (wordAt c n (vcOf c n).step)
      if on then runProg k n fuel c else c

/-- A channel executes one instruction outside a tick's count. -/
def execOp (ch : Fin 48) (op : Keeper → Chip → Nat → Chip × Bool) (s : State) : Host.Outcome State Fault Refusal :=
  onChip (fun k c => if progRuns c ch.val then (op k c ch.val).1 else c) s

/-- SETI: The SETI instruction sets or ramps the target, subject to the overlap budgets (R209). -/
def execSeti (ch : Fin 48) (operand : BitVec 12) (s : State) : Host.Outcome State Fault Refusal :=
  execOp ch (fun k c n => opSeti k c n operand.toNat) s

/-- RAMP: The RAMP instruction sets the duration of the linear ramp of the following SETI (R209). -/
def execRamp (ch : Fin 48) (operand : BitVec 12) (s : State) : Host.Outcome State Fault Refusal :=
  execOp ch (fun _ c n => opRamp c n operand.toNat) s

/-- WAIT: The WAIT instruction holds the program for its duration (R209). -/
def execWait (ch : Fin 48) (operand : BitVec 12) (s : State) : Host.Outcome State Fault Refusal :=
  execOp ch (fun k c n => opWait k c n operand.toNat) s

/-- DITHER: The DITHER instruction adds a square wave to the target (R209). -/
def execDither (ch : Fin 48) (operand : BitVec 12) (s : State) : Host.Outcome State Fault Refusal :=
  execOp ch (fun k c n => opDither k c n operand.toNat) s

/-- LOOP: The LOOP instruction jumps back to a target step a counted number of times (R209). -/
def execLoop (ch : Fin 48) (operand : BitVec 12) (s : State) : Host.Outcome State Fault Refusal :=
  execOp ch (fun _ c n => opLoop c n operand.toNat) s

/-- MARK: The MARK instruction writes LAST_MARK and MARK_EPOCH (R209). -/
def execMark (ch : Fin 48) (operand : BitVec 12) (s : State) : Host.Outcome State Fault Refusal :=
  execOp ch (fun k c n => opMark k c n operand.toNat) s

/-- PEAKWIN: The PEAKWIN instruction waits for the peak, records TTP_US, and flags an early or late peak (R209). -/
def execPeakwin (ch : Fin 48) (operand : BitVec 12) (s : State) : Host.Outcome State Fault Refusal :=
  execOp ch (fun k c n => opPeakwin k c n operand.toNat) s

/-- QUENCH: The QUENCH instruction zeroes the target and requests a bank quench, or a deferred slow decay (R209). -/
def execQuench (ch : Fin 48) (operand : BitVec 12) (s : State) : Host.Outcome State Fault Refusal :=
  execOp ch (fun k c n => opQuench k c n operand.toNat) s

/-- END: The END instruction ends the program with the target as it stands, or at 0 in OFF_RUN (R209). -/
def execEndProgram (ch : Fin 48) (s : State) : Host.Outcome State Fault Refusal :=
  execOp ch (fun k c n => opEnd k c n) s

/-! ## The 10 µs tick -/

/-- The regulator's set-point: the target with its square wave, high in even half periods (R209). -/
def setPoint (k : Keeper) (c : Chip) (n : Nat) : Nat :=
  let x := vcOf c n
  let t := c.num (Key.Valve.TARGET n)
  if x.ditherA = 0 || fMag fmt32 t = 0 then t
  else if 2 * (50 + 10 * x.ditherN) * (nowUs k c - x.ditherT) / 1000000 % 2 = 0 then ditherHigh c n t
  else fMax fmt32 0 (fSub fmt32 t (ditherHalf x))

/-- The newest current of a channel, 0 while INJ_VALVE_OPEN acts; CURRENT_FAST is the mean of five ticks (R201). The
instant at which it first reaches the target a SETI raised is what PEAKWIN measures (R209). -/
def vcSense (k : Keeper) (c : Chip) (n a : Nat) : Chip :=
  let x := vcOf c n
  let a := if armedFor k c Key.InjValve.INJ_VALVE_OPEN n then 0 else a
  let fast := (a :: x.fast).take 5
  let hit := if fLe fmt32 x.raisedTo a then x.peakHit.or (some (nowUs k c)) else x.peakHit
  let c := vcSet c n { x with current := a, fast, peakHit := hit }
  c.put (Key.Valve.CURRENT_FAST n) (fDiv fmt32 (fast.foldl (fAdd fmt32) 0) (fNat fmt32 fast.length))

/-- A non-negative current in units of 2^−149 A. -/
def ampUnits (a : Nat) : Nat := (fUnits a).toNat

/-- Ticks of an off span enter the epoch's sums by the levels at its ends: the turn-off level and the one given (R201). -/
def offSpan (x : VcX) (now : Nat) : VcX :=
  let a := ampUnits x.offLevel
  let b := ampUnits now
  { x with sum2 := x.sum2 + x.offOpen * (a + b), sq3 := x.sq3 + x.offOpen * (a * a + a * b + b * b), offOpen := 0 }

/-- The tick's share of the epoch's mean (R201): the sensed current while the low side conducts, else by the levels of the
off span; beyond 2 ms the span is extrapolated, and the current the tick brings is that extrapolation.
[DEDUCED: log 70] -/
def vcBuild (x : VcX) : VcX :=
  let u := ampUnits x.current
  let whole := fun x : VcX => { x with sum2 := x.sum2 + 2 * u, sq3 := x.sq3 + 3 * (u * u) }
  if x.low then { whole x with onTicks := x.onTicks + 1 }
  else if x.offTicks < 200 then { x with offTicks := x.offTicks + 1, offOpen := x.offOpen + 1 }
  else { whole (offSpan x x.current) with offTicks := x.offTicks + 1, estimated := x.estimated || u ≠ 0 || x.offLevel ≠ 0 }

/-- Half the regulator's band, A. -/
def bandHalf (c : Chip) (n : Nat) : Nat := ratio (c.num (Key.Valve.BAND_MA n)) 2000

/-- The low side may conduct: a set-point, the bank switch closed, no cut that waits for a program start. -/
def lowFree (c : Chip) (n : Nat) : Bool :=
  !(vcOf c n).cut && c.num (Key.Bank.BANK_STATE (n / 4)) = 1 && !([7, 8].contains (c.num (Key.Valve.STATE n)) && !(vcOf c n).held)

/-- The low side goes on or off. -/
def lowTo (k : Keeper) (c : Chip) (n : Nat) (on : Bool) : Chip :=
  let x := vcOf c n
  if x.low = on then c
  else if on then
    vcSet c n { offSpan x x.current with low := true, lowAt := nowUs k c, turns := x.turns + 1, offTicks := 0 }
  else vcSet c n { x with low := false, lowAt := nowUs k c, offLevel := x.current, offTicks := 0 }

/-- Hysteretic chopping (R199, R200): on when the current falls to target − h/2, off when it rises to target + h/2, each
state for at least 20 µs; a bank switch that opens and a cut act at once. [DEDUCED: log 70] -/
def regulate (k : Keeper) (c : Chip) (n : Nat) : Chip :=
  let x := vcOf c n
  let half := bandHalf c n
  if !x.low && fMag fmt32 x.drive = 0 then c
  else if !lowFree c n then lowTo k c n false
  else if nowUs k c < x.lowAt + 20 then c
  else if fMag fmt32 x.drive = 0 then lowTo k c n false
  else if x.low then (if fLe fmt32 (fAdd fmt32 x.drive half) x.current then lowTo k c n false else c)
  else if fLe fmt32 x.current (fSub fmt32 x.drive half) then lowTo k c n true
  else c

/-- A channel that chops, carries current, or stands in an off span takes part in a tick. -/
def vcLive (c : Chip) (n : Nat) : Bool :=
  let x := vcOf c n
  x.low || fMag fmt32 x.current ≠ 0 || fMag fmt32 x.drive ≠ 0 || x.offOpen ≠ 0

/-- A channel's sense and build-up in a tick. -/
def vcTick (k : Keeper) (c : Chip) (n : Nat) : Chip :=
  let c := if armedFor k c Key.InjValve.INJ_VALVE_OPEN n then vcSense k c n 0 else c
  if vcLive c n then
    let x := vcBuild (vcOf c n)
    vcSet c n { x with reached := x.reached || fLe fmt32 x.drive x.current }
  else c

/-- VALVE_OPEN: a target of 0.1 A or more, low side on, supply at 9 V or more, and less than 50 mA for 2 ms;
reported once, until the current returns. [DEDUCED: log 70] -/
def vcOpen (k : Keeper) (c : Chip) (n : Nat) : Chip :=
  let x := vcOf c n
  let bad := fLe fmt32 (ratio 1 10) (c.num (Key.Valve.TARGET n)) && fLt fmt32 x.current (ratio 1 20) && !x.cut
    && c.num (Key.Bank.BANK_STATE (n / 4)) = 1 && fLe fmt32 (fNat fmt32 9) (c.num (Key.VGroup.SUPPLY_V (n / 16)))
  match x.openAt with
  | none => if bad then vcSet c n { x with openAt := some (nowUs k c) } else c
  | some t =>
    if !bad then vcSet c n { x with openAt := none }
    else if t ≠ 0 && t + 2000 ≤ nowUs k c then
      raise k (vcSet c n { x with openAt := some 0 }) 0x0701 (unitValve n) (armedFor k c Key.InjValve.INJ_VALVE_OPEN n)
    else c

/-- Waiting channels in order of their first try (R213). -/
def waiting (c : Chip) : List Nat :=
  let l := (List.range 48).filterMap fun n => ((vcOf c n).tryAt).map fun t => (t, n)
  (l.foldl (fun acc p => acc.filter (fun q => decide (q.1 ≤ p.1)) ++ [p] ++ acc.filter (fun q => decide (p.1 < q.1))) []).map
    (·.2)

/-- SHAPER_TICK: 10 µs pass; currents are sensed; waiting SETIs are tried in order of their first try; then every
channel runs up to eight instructions, in channel order (R210, R213). [DESIGN CHOICE: log 4; DEDUCED: log 70] -/
def execShaperTick (currents : List (Fin 48 × F32)) (s : State) : Host.Outcome State Fault Refusal :=
  onChip (fun k c =>
    let c := { c with us := c.us + 10 }
    if !c.modes.drives then c
    else
      let c := currents.foldl (fun c p => vcSense k c p.1.val p.2.toNat) c
      let c := (List.range 48).foldl (vcTick k) { c with valve := { c.valve with ticks := c.valve.ticks + 1 } }
      let c := (List.range 12).foldl bankShow c
      let late := waiting c
      let c := late.foldl (fun c n => runProg k n 1 c) c
      let c := (List.range 48).foldl (fun c n =>
        if progRuns c n && !(late.contains n && (vcOf c n).tryAt.isSome) then
          runProg k n (if late.contains n then 7 else 8) (vcSet c n { vcOf c n with due := false }) else c) c
      (List.range 48).foldl (fun c n =>
        let c := if (vcOf c n).follow then vcSettle k c n else c
        vcOpen k (regulate k (vcSet c n { vcOf c n with drive := setPoint k c n }) n) n) c) s

/-- PEAK_TIME_EXPIRY: the target has stood above HOLD_MAX for PEAK_TIME_MAX and is clamped to it (R202).
[DEDUCED: log 7] -/
def execPeakTimeExpiry (ch : Fin 48) (s : State) : Host.Outcome State Fault Refusal :=
  onChip (fun k c =>
    let n := ch.val
    match (vcOf c n).peakAt with
    | some t =>
      if t + 1000 * c.num (Key.Valve.PEAK_TIME_MAX n) ≤ nowUs k c then
        vcSettle k (vcSet c n { vcOf c n with peakOver := true }) n
      else c
    | none => c) s

/-- OVERLAP_WIN_EXPIRY: a SETI has waited OVERLAP_WIN since its first try (R213). [DEDUCED: log 7] -/
def execOverlapWinExpiry (ch : Fin 48) (s : State) : Host.Outcome State Fault Refusal :=
  onChip (fun k c =>
    let n := ch.val
    match (vcOf c n).tryAt with
    | some t => if t + 1000 * c.num (Key.Bank.OVERLAP_WIN (n / 4)) ≤ nowUs k c then vcRefuse k c n false else c
    | none => c) s

/-- QUENCH_COMPLETE: every current of the bank is below 50 mA; the switch closes again where a channel needs it, and the
energy the clamp took is shown (R207). -/
def execQuenchComplete (bank : Fin 12) (clampJ : F32) (s : State) : Host.Outcome State Fault Refusal :=
  onChip (fun k c =>
    let b := bank.val
    if c.num (Key.Bank.BANK_STATE b) ≠ 2 then c
    else
      let c := (bankChans b).foldl (fun c n => vcSet c n { vcOf c n with current := fMin fmt32 (vcOf c n).current (ratio 1 20) }) c
      let c := (c.put (Key.Bank.BANK_STATE b) 0).put (Key.Bank.CLAMP_ENERGY b) clampJ.toNat
      (bankChans b).foldl (vcSettle k) (bankShow c b)) s

/-- LOW_SIDE_HARD_CUT: the low side is cut above 8 A and stays off until the next program start (R197, R222).
[DEDUCED: log 70] -/
def execLowSideHardCut (ch : Fin 48) (s : State) : Host.Outcome State Fault Refusal :=
  onChip (fun k c =>
    if !c.modes.drives then c
    else raise k (vcSet c ch.val { vcOf c ch.val with cut := true }) 0x0702 (unitValve ch.val)) s

/-- A bank switch opens for a fault (Table 7.8). -/
def bankTrip (k : Keeper) (c : Chip) (b code : Nat) (injected : Bool) : Chip :=
  if c.num (Key.Bank.BANK_STATE b) = 4 then c
  else
    let c := { c with valve := { c.valve with trips := c.valve.trips.set b (some (nowUs k c, code)) } }
    raise k (c.put (Key.Bank.BANK_STATE b) 3) code (unitBank b) injected

/-- BANK_SWITCH_TRIP: above 16 A for 10 µs the bank switch opens (R197). -/
def execBankSwitchTrip (bank : Fin 12) (s : State) : Host.Outcome State Fault Refusal :=
  onChip (fun k c =>
    if !c.modes.drives then c else bankTrip k c bank.val 0x0707 false) s

/-- BANK_RECLOSE: 10 ms after its trip the switch recloses as the fault's retry (R222). -/
def execBankReclose (bank : Fin 12) (s : State) : Host.Outcome State Fault Refusal :=
  onChip (fun k c =>
    let b := bank.val
    match nth c.valve.trips b none with
    | some (t, _) =>
      if c.num (Key.Bank.BANK_STATE b) = 3 && t + 10000 ≤ nowUs k c then
        let c := { c with valve := { c.valve with trips := c.valve.trips.set b none } }
        bankShow (c.put (Key.Bank.BANK_STATE b) 0) b
      else c
    | none => c) s

/-! ## Safe values (R204, R206) -/

/-- A channel's safe value applies: HOLD keeps the target of the edge before, and resolves to OFF in KINDLING and
BANKED; its peak time runs on (R206). A QUENCH is decided for its bank afterwards. -/
def vcSafe (k : Keeper) (c : Chip) (n : Nat) : Chip :=
  let hold := c.num (Key.Valve.SAFE_KIND n) = 1 && c.mode ≠ .kindling && c.mode ≠ .banked && c.mode ≠ .off
  let x := vcOf c n
  let c := if c.num (Key.Valve.STATE n) = 6 then closeHandling c 0x0705 (unitValve n) else c
  let amp := x.ditherA
  let kept := x.edgeTarget
  let c := (vcZero k c n).put (Key.Valve.STATE n) 7
  if hold then
    vcAsk k (vcSet c n { vcOf c n with ditherA := amp, held := fMag fmt32 kept ≠ 0
                                       peakAt := x.peakAt, peakOver := x.peakOver }) n kept false
  else c

/-- A bank whose channels `l` just took a QUENCH safe value quenches, unless another channel keeps current under a HOLD
safe value or outside any safe value; then they decay slowly (R207). -/
def bankSafeQuench (k : Keeper) (c : Chip) (b : Nat) (l : List Nat) : Chip :=
  if l = [] then c
  else
    let keeps := (bankChans b).any fun m => !l.contains m && energised c m
      && ((vcOf c m).held || !([7, 8].contains (c.num (Key.Valve.STATE m))))
    if keeps || !bankCanQuench c b then l.foldl (fun c n => quenchDefer k c n false) c
    else if (bankChans b).any (energised c) then quenchStart c b
    else c

/-- Overrides begin on a list of channels at once. -/
def valvesSafe (k : Keeper) (c : Chip) (l : List Nat) : Chip :=
  let c := l.foldl (vcSafe k) c
  (List.range 12).foldl (fun c b =>
    bankSafeQuench k c b (l.filter fun n => n / 4 = b && c.num (Key.Valve.SAFE_KIND n) = 2)) c

/-- SAFE_KIND changes under an override that lasts: the channel takes the safe value it names now. -/
def vcResafe (k : Keeper) (c : Chip) (n : Nat) : Chip :=
  if c.num (Key.Valve.STATE n) = 7 then valvesSafe k c [n] else c

/-- What a HOLD keeps: the target applied at an edge, once the DXV has acted on the edge's commands (R92). -/
def vcLatch (c : Chip) (n : Nat) : Chip :=
  if c.num (Key.Valve.STATE n) = 7 then c else vcSet c n { vcOf c n with edgeTarget := c.num (Key.Valve.TARGET n) }

/-- An override ends: IDLE, and a COMMAND other than 0 counts as a change from 0. -/
def vcRelease (k : Keeper) (c : Chip) (n : Nat) : Chip :=
  let c := (vcZero k c n).put (Key.Valve.STATE n) 0
  valveAct k (vcSet c n { vcOf c n with cmd := 0 }) n (c.num (Key.Valve.COMMAND n))

/-- A channel's DXV holds its safe values since a link silence (R22). -/
def valveLinkSafe (c : Chip) (n : Nat) : Bool := (nth c.link.links (n / 16) {}).safe

/-- Overrides that begin or end at an edge. -/
def valveOverrides (k : Keeper) (c : Chip) : Chip :=
  let driven := drivenTargets c
  let want := fun n => modeSafe c.mode || valveLinkSafe c n
    || (driven.contains (Key.Valve.COMMAND n) && safeApplied c (Key.Valve.COMMAND n))
  let st := fun n => c.num (Key.Valve.STATE n)
  let on := (List.range 48).filter fun n => want n && st n ≠ 7 && st n ≠ 8
  let off := (List.range 48).filter fun n => !want n && st n = 7
  off.foldl (vcRelease k) (valvesSafe k c on)

/-- A channel is ashed: it takes its safe value once and is then held with its low side off (R224). -/
def valveAsh (k : Keeper) (c : Chip) (n : Nat) : Chip :=
  if c.num (Key.Valve.STATE n) = 8 then c
  else
    let c := if c.num (Key.Valve.STATE n) = 7 then c else valvesSafe k c [n]
    let c := vcZero k c n
    (vcSet c n { vcOf c n with cut := true }).put (Key.Valve.STATE n) 8

/-- A bank is ashed, with its four channels, which take their safe values together (R224, Table 7.8). -/
def bankAsh (k : Keeper) (c : Chip) (b : Nat) : Chip :=
  let c := valvesSafe k c ((bankChans b).filter fun n => !([7, 8].contains (c.num (Key.Valve.STATE n))))
  ((bankChans b).foldl (valveAsh k) c).put (Key.Bank.BANK_STATE b) 4

/-- A channel's ash is cleared: IDLE with COMMAND 0 (Table 7.2). -/
def valveUnash (k : Keeper) (c : Chip) (n : Nat) : Chip :=
  if keyAshed c (Key.Valve.COMMAND n) then c
  else
    let c := (vcSet c n { vcOf c n with cmd := 0, cut := false }).put (Key.Valve.COMMAND n) 0
    (vcZero k c n).put (Key.Valve.STATE n) 0

/-- A bank's ash is cleared. -/
def bankUnash (k : Keeper) (c : Chip) (b : Nat) : Chip :=
  let c := { c with valve := { c.valve with trips := c.valve.trips.set b none } }.put (Key.Bank.BANK_STATE b) 0
  bankShow ((bankChans b).foldl (valveUnash k) c) b

/-! ## Every edge -/

/-- Ambient temperature of a coil (R215): the newest housekeeping reading of a channel, or the fixed one. -/
def coilAmbient (c : Chip) (n : Nat) : Nat :=
  let ch := c.num (Key.Valve.AMBIENT_CH n)
  if ch = 0xFF then c.num (Key.Valve.AMBIENT_FIXED n) else c.num (Key.Sensor.TEMP ch)

/-- One epoch of the coil model, binary32 under R103 (R215). -/
def coilStep (c : Chip) (n i2 : Nat) : Chip :=
  let g := fun key : Nat => c.num key
  let ta := coilAmbient c n
  let tw := g (Key.Valve.T_WINDING n)
  let tb := g (Key.Valve.T_BODY n)
  let ms := ratio 1 1000
  let r := clMul (g (Key.Valve.R20 n)) (clAdd (fNat fmt32 1) (clMul (ratio 393 100000) (clSub tw (fNat fmt32 20))))
  let p := clMul i2 r
  let flow := fun tw tb => clDiv (clSub tw tb) (g (Key.Valve.RTH_WB n))
  let tw' := clAdd tw (clDiv (clMul ms (clSub p (flow tw tb))) (g (Key.Valve.CTH_W n)))
  let tb' := clAdd tb (clDiv (clMul ms (clSub (flow tw' tb) (clDiv (clSub tb ta) (g (Key.Valve.RTH_BA n)))))
    (g (Key.Valve.CTH_B n)))
  (c.put (Key.Valve.T_WINDING n) tw').put (Key.Valve.T_BODY n) tb'

/-- VALVE_REG: the mean differs from the target by more than 0.3 A for ten epochs, SUPPLY_LOW and CHOP_RANGE clear. -/
def valveReg (k : Keeper) (c : Chip) (n mean : Nat) : Chip :=
  let x := vcOf c n
  let inj := armedAt c Key.InjValve.INJ_REG n
  let far := fLt fmt32 (ratio 3 10) (fAbs fmt32 (fSub fmt32 mean (c.num (Key.Valve.TARGET n))))
    && c.num (Key.Valve.FLAGS n) &&& 0x180 = 0
  let d := if far then x.deviant + 1 else 0
  let hit := d = 10 || inj
  let c := vcSet (disarm c Key.InjValve.INJ_REG n) n { x with deviant := if hit then 0 else d }
  if hit then raise k c 0x0706 (unitValve n) inj else c

/-- The mean current of an epoch and the mean of its square, binary32 (R201, R215); without a tick, those of the newest
current. -/
def vcMeans (c : Chip) (x : VcX) : Nat × Nat :=
  let x := offSpan x x.current
  let t := c.valve.ticks
  if t = 0 then (x.current, clMul x.current x.current)
  else (fRatio fmt32 (x.sum2 : Int) (2 * t * 2 ^ 149), fRatio fmt32 (x.sq3 : Int) (3 * t * 2 ^ 298))

/-- The band for the coming epoch (R200): wider above CHOP_F, narrower below, within 10–500 mA.
[DESIGN CHOICE: log 101] -/
def bandNext (band hz target free : Nat) : Nat :=
  if target < hz then band + Config.band free % (501 - band)
  else if hz < target then 10 + Config.band free % (band - 9)
  else band

/-- INJ_VALVE_OPEN acts in the epoch that ends at this edge. -/
def openInjected (k : Keeper) (c : Chip) (n : Nat) : Bool :=
  c.flt.armed.any fun a => a.key = Key.InjValve.INJ_VALVE_OPEN && a.value = n && k.epoch ≤ a.until_

/-- What the DXV measured of a channel in the epoch just ended (R200, R201): the mean current, the chopping frequency by its
turn-ons, the band of the coming epoch, FLAGS bits 4–9. [DEDUCED: log 70] -/
def valveMeasure (k : Keeper) (c : Chip) (n : Nat) : Chip :=
  let x := vcOf c n
  let t := c.valve.ticks
  let chops := t ≠ 0 && fMag fmt32 x.drive ≠ 0
  let hz := min (1000 * x.turns) 25000
  let band := c.num (Key.Valve.BAND_MA n)
  let f := (if x.estimated then 0x200 else 0) + (if chops && x.onTicks = t && !x.reached then 0x100 else 0)
    + (if chops && (band ≤ 10 || 500 ≤ band) && !(5000 ≤ hz && hz ≤ 25000) then 0x80 else 0)
  let c := c.put (Key.Valve.CURRENT n) (if openInjected k c n then 0 else (vcMeans c x).1)
  let c := if chops then
      { (c.put (Key.Valve.CHOP_MEAS n) hz).put (Key.Valve.BAND_MA n) (bandNext band hz (c.num (Key.Valve.CHOP_F n)) c.free) with
        free := c.free + 1 }
    else c
  let c := c.put (Key.Valve.FLAGS n) (c.num (Key.Valve.FLAGS n) % 16 + x.epFlags + f)
  vcSet c n { x with epFlags := 0, turns := 0, onTicks := 0, reached := false, sum2 := 0, sq3 := 0, offOpen := 0
                     offLevel := if x.offOpen = 0 then x.offLevel else x.current, estimated := false }

/-- A channel at an edge: measurements, coil model, trip and return (R204, R215, R216). -/
def valveChanEdge (k : Keeper) (c : Chip) (n : Nat) : Chip :=
  let i2 := if openInjected k c n then 0 else (vcMeans c (vcOf c n)).2
  let c := coilStep (valveMeasure k c n) n i2
  let inj := armedAt c Key.InjValve.INJ_THERMAL n
  let c := if inj then disarm (c.put (Key.Valve.T_WINDING n) (c.num (Key.Valve.T_TRIP n))) Key.InjValve.INJ_THERMAL n else c
  let t := c.num (Key.Valve.T_WINDING n)
  let st := c.num (Key.Valve.STATE n)
  let hot := fLe fmt32 (c.num (Key.Valve.T_TRIP n)) t
  let c :=
    if hot && (st = 1 || st = 2 || st = 3 || st = 5) then
      raise k ((vcZero k c n).put (Key.Valve.STATE n) 6) 0x0705 (unitValve n) inj
    else if st = 6 && fLt fmt32 t (c.num (Key.Valve.T_DERATE n)) && fMag fmt32 (c.num (Key.Valve.COMMAND n)) = 0 then
      closeHandling (c.put (Key.Valve.STATE n) 0) 0x0705 (unitValve n)
    else c
  let c := vcLatch (vcSettle k c n) n
  if c.valve.ticks ≠ 0 || armedAt c Key.InjValve.INJ_REG n then valveReg k c n (c.num (Key.Valve.CURRENT n)) else c

/-- GROUP_SUPPLY: outside 9–36 V for 1 ms; reported when it leaves the range (Table 7.8). -/
def groupSupplyEdge (k : Keeper) (c : Chip) (g : Nat) : Chip :=
  let v := c.num (Key.VGroup.SUPPLY_V g)
  let inj := armedAt c Key.InjValve.INJ_GROUP_SUPPLY g
  let bad := inj || fLt fmt32 v (fNat fmt32 9) || fLt fmt32 (fNat fmt32 36) v
  let was := c.valve.low.contains g
  let c := disarm { c with valve := { c.valve with
    low := c.valve.low.filter (· ≠ g) ++ if bad then [g] else [] } } Key.InjValve.INJ_GROUP_SUPPLY g
  if bad && !was then raise k c 0x0708 (unitVGroup g) inj
  else if bad then c else closeHandling c 0x0708 (unitVGroup g)

/-- The valve drive at an edge. -/
def valveEdge (k : Keeper) (c : Chip) (m : EdgeMeas) : Chip :=
  if !c.modes.drives then c
  else
    let c := m.groups.foldl (fun c g => groupSupplyEdge k (c.put (Key.VGroup.SUPPLY_V g.1.val) g.2.toNat) g.1.val) c
    let c := (List.range 48).foldl (valveChanEdge k) c
    let c := { c with valve := { c.valve with ticks := 0 } }
    let sum := fun l : List Nat => l.foldl (fun s n => fAdd fmt32 s (c.num (Key.Valve.CURRENT n))) 0
    let c := (List.range 12).foldl (fun c b => bankShow (c.put (Key.Bank.BANK_CURRENT b) (sum (bankChans b))) b) c
    (List.range 3).foldl (fun c g => c.put (Key.VGroup.GROUP_CURRENT g) (sum (groupChans g))) c

/-- KINDLING step K6: every stored program is checked again; one that fails reads VALID false and raises SHAPER_FAULT
(R211). `bad` are the programs whose stored words were altered. -/
def shaperCheck (k : Keeper) (c : Chip) (bad : List Nat) : Chip :=
  (List.range 128).foldl (fun c p =>
    let inj := armedAt c Key.InjValve.INJ_SHAPER_FAULT p
    if inj || bad.contains p || !codeOk (c.blob (Key.Prog.CODE p)) then
      raise k ((disarm c Key.InjValve.INJ_SHAPER_FAULT p).putFlag (Key.Prog.VALID p) false) 0x070B (unitProg p) inj
    else c) c

end Sys2Proof.Machine
end

