-- ==== Sys2Proof/Machine/LoadSwitch.lean ====
section
/-! DEFINITION. Load switches (08): wire curves, trips and retries, sections, lamp compensation. -/

namespace Sys2Proof.Machine

def lsOf (c : Chip) (n : Nat) : LsX := nth c.load.chans n {}
def lsSet (c : Chip) (n : Nat) (x : LsX) : Chip := { c with load := { c.load with chans := c.load.chans.set n x } }
def secOf (c : Chip) (s : Nat) : SecX := nth c.load.secs s {}
def secSet (c : Chip) (s : Nat) (x : SecX) : Chip := { c with load := { c.load with secs := c.load.secs.set s x } }

/-- The channels of a section (R225). -/
def secChans (s : Nat) : List Nat := (List.range 8).map (8 * s + ·)

/-- A COMMAND commands its channel on: from 0.5 for a SWITCH, above 0 for a LAMP (R228). -/
def lsCommanded (c : Chip) (n v : Nat) : Bool :=
  if c.num (Key.Ls.OUT_KIND n) = 1 then fLt fmt32 0 v else fLe fmt32 (ratio 1 2) v

/-- The mode's bit in MODE_MASK; modes without one do not mask (R229). -/
def maskBit (m : Mode) : Option Nat :=
  match m with | .service => some 0 | .road => some 1 | .field => some 2 | .harvest => some 3 | _ => none

/-- MODE_MASK permits the present mode. -/
def lsPermitted (c : Chip) (n : Nat) : Bool :=
  match maskBit c.mode with
  | some b => bitOf (c.num (Key.Ls.MODE_MASK n)) b
  | none => true

/-- A section is tripped or restoring. -/
def secHeld (c : Chip) (s : Nat) : Bool := c.num (Key.Sec.SEC_STATE s) = 1 || c.num (Key.Sec.SEC_STATE s) = 2

/-- DUTY of a SWITCH shows whether it is on; a LAMP's duty is set at its period start (R236).
[DESIGN CHOICE: log 69; DEDUCED: log 71] -/
def lsShow (c : Chip) (n : Nat) : Chip :=
  let x := lsOf c n
  if !x.on then c.put (Key.Ls.DUTY n) 0
  else if c.num (Key.Ls.OUT_KIND n) = 1 then c else c.put (Key.Ls.DUTY n) (fNat fmt32 1)

/-- The switch goes off. -/
def lsSwitchOff (c : Chip) (n : Nat) : Chip :=
  lsShow ((lsSet c n { lsOf c n with on := false }).putBits (Key.Ls.FLAGS n) 0x10 false) n

/-- The switch goes on and a new allowance window opens, unless the latch is set (R234, R238). -/
def lsSwitchOn (k : Keeper) (c : Chip) (n : Nat) : Chip :=
  if (lsOf c n).latch then c
  else lsShow ((lsSet c n { lsOf c n with
      on := true, onAt := nowUs k c, onWas := (lsOf c n).onAt, pending := false, tripAt := none, wait := false }).putBits
    (Key.Ls.FLAGS n) 0x08 false) n

/-- Attempts within RETRY_WINDOW before now (R237). -/
def lsAttempts (k : Keeper) (c : Chip) (n : Nat) : Nat :=
  let w := 1000000 * c.num (Key.Ls.RETRY_WINDOW n)
  ((lsOf c n).attempts.filter fun t => decide (nowUs k c ≤ t + w)).length

/-- A turn-on commanded by COMMAND, or by a mode that permits it (R228, R229, R237). `written` clears the flags kept
until the next turn-on by a write. A section that is tripped or restoring keeps the channel waiting for its restore.
[DEDUCED: log 71] -/
def lsTurnOn (k : Keeper) (c : Chip) (n : Nat) (written : Bool) : Chip :=
  let x := lsOf c n
  let w := 1000000 * c.num (Key.Ls.RETRY_WINDOW n)
  if !lsPermitted c n || x.latch then c
  else
    let c := c.putBits (Key.Ls.FLAGS n) (if written then 0x66 else 0) false
    let late := x.counted.any fun t => nowUs k c ≤ t + w
    let c := if late then lsSet c n { x with attempts := x.attempts ++ [nowUs k c] } else c
    if secHeld c (n / 8) then
      (lsSet c n { lsOf c n with pending := true, tripAt := none }).put (Key.Ls.STATE n) 3
    else (lsSwitchOn k c n).put (Key.Ls.STATE n) 1

/-- A channel switches off and nothing of it is pending. -/
def lsRest (c : Chip) (n : Nat) : Chip :=
  lsSwitchOff (lsSet c n { lsOf c n with pending := false, tripAt := none, wait := false }) n

/-- The COMMAND the DXS has taken comes into effect (Table 8.2). -/
def lsTake (k : Keeper) (c : Chip) (n : Nat) : Chip :=
  let x := lsOf c n
  let now := lsCommanded c n x.cmd
  let st := c.num (Key.Ls.STATE n)
  let c := lsSet c n { x with run := x.cmd, runOn := now, wait := false }
  if st = 0 && (!x.runOn || x.wait) && now then lsTurnOn k c n (x.written && !x.runOn)
  else if (st = 1 || st = 2 || st = 3) && !now then (lsRest c n).put (Key.Ls.STATE n) 0
  else c

/-- Commanded on is judged anew: for a SWITCH at once, for a LAMP at its period start (R228, R236). A channel in SAFE or
ASHED waits for its release. -/
def lsJudge (k : Keeper) (c : Chip) (n : Nat) : Chip :=
  if c.num (Key.Ls.OUT_KIND n) = 1 || 4 ≤ c.num (Key.Ls.STATE n) then c else lsTake k c n

/-- The DXS takes a COMMAND; `written` where a write or a cord brought it, not the engine. -/
def lsAct (k : Keeper) (c : Chip) (n v : Nat) (written : Bool) : Chip :=
  lsJudge k (lsSet c n { lsOf c n with cmd := v, written }) n

/-- A turn-on that a mode or the end of an override brings: a LAMP's waits for its period start (R229, R236). -/
def lsModeOn (k : Keeper) (c : Chip) (n : Nat) : Chip :=
  let x := lsOf c n
  if c.num (Key.Ls.OUT_KIND n) = 1 then lsSet c n { x with wait := true }
  else lsTurnOn k (lsSet c n { x with run := x.cmd, runOn := true }) n false

/-! ## Trips (R231, R237–R239) -/

/-- Kinds of a trip. -/
inductive TripKind where
  | curve | short | thermal
deriving DecidableEq, Repr

/-- The detector of a kind and its FLAGS bit (Table 8.8, Table 8.11). -/
def tripCode : TripKind → Nat × Nat
  | .curve => (0x0801, 0x02)
  | .short => (0x0802, 0x04)
  | .thermal => (0x0803, 0x20)

/-- A trip is sympathetic: from the detection of another channel's short to 1 ms after its cut, once per short, never for
THERMAL (R239). -/
def sympathetic (k : Keeper) (c : Chip) (n : Nat) (kind : TripKind) : Option Nat :=
  if kind = .thermal then none
  else match (secOf c (n / 8)).short with
    | some (i, m, cut) =>
      if m ≠ n && cut.all (fun t => decide (nowUs k c ≤ t + 1000)) && (lsOf c n).sympAt ≠ some i then some i else none
    | none => none

/-- A short of a channel is detected, above 60 A while it is on (R239). -/
def shortSeen (c : Chip) (n : Nat) : Chip :=
  let y := secOf c (n / 8)
  match y.short with
  | some (_, m, none) =>
    if m = n then c else secSet c (n / 8) { y with shorts := y.shorts + 1, short := some (y.shorts + 1, n, none) }
  | _ => secSet c (n / 8) { y with shorts := y.shorts + 1, short := some (y.shorts + 1, n, none) }

/-- The instant of its cut is recorded. -/
def shortCut (k : Keeper) (c : Chip) (n : Nat) : Chip :=
  let c := shortSeen c n
  let y := secOf c (n / 8)
  secSet c (n / 8) { y with short := some (y.shorts, n, some (nowUs k c)) }

/-- A channel that is on trips (Table 8.2). In SAFE it stays in SAFE, with a retry pending (R230). -/
def lsTrip (k : Keeper) (c : Chip) (n : Nat) (kind : TripKind) (injected : Bool) : Chip :=
  let (code, flag) := tripCode kind
  let x := lsOf c n
  let now := nowUs k c
  let symp := sympathetic k c n kind
  let injS := kind ≠ .thermal && armedAt c Key.InjLs.INJ_LS_SYMPATHETIC n
  let st := c.num (Key.Ls.STATE n)
  let cutShort := fun c : Chip => if kind = .short then shortCut k c n else c
  if !x.on || st = 5 then c
  else
  let c := disarm c Key.InjLs.INJ_LS_SYMPATHETIC n
  if (symp.isSome || injS) && !x.latch then
    let c := cutShort c
    let c := lsSwitchOn k (lsSet c n { x with sympAt := if symp.isSome then symp else x.sympAt }) n
    let c := ((if st = 4 then c else c.put (Key.Ls.STATE n) 1).putBits (Key.Ls.FLAGS n) 0x40 true).bump
      (Key.Ls.SYMPATHETICS n)
    raise k c 0x0804 (unitLs n) (injS && symp.isNone)
  else
    let permanent := c.num (Key.Ls.RETRY_MAX n) ≤ lsAttempts k c n
    let c := lsSwitchOff (cutShort c) n
    let c := (c.putBits (Key.Ls.FLAGS n) flag true).put (Key.Ls.LAST_TRIP_EPOCH n) (wireEpoch k.epoch)
    let c := if permanent then c else c.bump (Key.Ls.TRIPS n)
    let c := lsSet c n { lsOf c n with tripAt := some now, pending := !permanent, counted := (lsOf c n).counted ++ [now] }
    let c := if permanent then c.put (Key.Ls.STATE n) 5 else if st = 4 then c else c.put (Key.Ls.STATE n) 3
    raiseWith k c code (unitLs n) injected permanent

/-- HARD_SHORT_CUTOFF: above 60 A the channel is cut, whatever its state (R226, R239). -/
def execHardShortCutoff (ch : Fin 48) (s : State) : Host.Outcome State Fault Refusal :=
  onChip (fun k c => lsTrip k c ch.val .short false) s

/-- INRUSH_WINDOW_END: INRUSH_MS after the turn-on (R231). -/
def execInrushWindowEnd (ch : Fin 48) (s : State) : Host.Outcome State Fault Refusal :=
  onChip (fun k c =>
    let n := ch.val
    if c.num (Key.Ls.STATE n) = 1 && (lsOf c n).onAt + 1000 * c.num (Key.Ls.INRUSH_MS n) ≤ nowUs k c then
      c.put (Key.Ls.STATE n) 2
    else c) s

/-- The retry conditions of R237. [DEDUCED: log 71] -/
def retryReady (k : Keeper) (c : Chip) (n : Nat) : Bool :=
  let x := lsOf c n
  let st := c.num (Key.Ls.STATE n)
  x.pending && (st = 3 || st = 4) && !x.latch && fLe fmt64 x.theta (fRatio fmt64 1 2) && !secHeld c (n / 8)
    && ((st = 4 && c.num (Key.Ls.SAFE_KIND n) = 1) || lsCommanded c n x.cmd)
    && match x.tripAt with
      | some t => t + 1000 * c.num (Key.Ls.RETRY_DELAY n) ≤ nowUs k c
      | none => true

/-- A channel that a HOLD keeps on runs at the duty the HOLD keeps (R230). [DEDUCED: log 71] -/
def lsHeldDuty (c : Chip) (n : Nat) : Chip :=
  if c.num (Key.Ls.STATE n) = 4 && c.num (Key.Ls.SAFE_KIND n) = 2 && (lsOf c n).on then
    c.put (Key.Ls.DUTY n) (lsOf c n).edgeDuty
  else c

/-- LS_RETRY: once the conditions hold, the channel turns on and the attempt is recorded (R237). -/
def execLsRetry (ch : Fin 48) (s : State) : Host.Outcome State Fault Refusal :=
  onChip (fun k c =>
    let n := ch.val
    if !retryReady k c n then c
    else
      let c := lsSet c n { lsOf c n with attempts := (lsOf c n).attempts ++ [nowUs k c] }
      let c := lsHeldDuty (lsSwitchOn k c n) n
      if c.num (Key.Ls.STATE n) = 4 then c else c.put (Key.Ls.STATE n) 1) s

/-- JUNCTION_LATCH_SET: the latch switches the channel off (R238). -/
def latchSet (k : Keeper) (c : Chip) (n : Nat) (injected : Bool) : Chip :=
  let on := (lsOf c n).on
  let c := (lsSet c n { lsOf c n with latch := true }).putBits (Key.Ls.FLAGS n) 0x80 true
  if on then lsTrip k c n .thermal injected else c

/-- JUNCTION_LATCH_SET: A channel's junction reaches 175 °C, and the latch switches it off (R238). -/
def execJunctionLatchSet (ch : Fin 48) (s : State) : Host.Outcome State Fault Refusal :=
  onChip (fun k c => if c.modes.drives then latchSet k c ch.val false else c) s

/-- JUNCTION_LATCH_CLEAR: below 150 °C the latch clears (R238); an injected latch lasts its second. -/
def execJunctionLatchClear (ch : Fin 48) (s : State) : Host.Outcome State Fault Refusal :=
  onChip (fun k c =>
    if armedFor k c Key.InjLs.INJ_LS_THERMAL ch.val then c
    else (lsSet c ch.val { lsOf c ch.val with latch := false }).putBits (Key.Ls.FLAGS ch.val) 0x80 false) s

/-! ## Wire curves (R232–R234) and sections (R240) -/

/-- I_R in tenths of an ampere and τ in seconds of a wire (Table 8.3). [DEDUCED: log 71] -/
def wireCurve (w : Nat) : Nat × Nat :=
  match w with
  | 0 => (40, 8) | 1 => (55, 12) | 2 => (70, 16) | 3 => (90, 22) | 4 => (100, 30) | _ => (100, 40)

/-- θ after 100 µs with the mean of I² (R232), binary64. [DEDUCED: log 71] -/
def thetaStep (theta q ir tau : Nat) : Nat :=
  let x2 := fDiv fmt64 q (fRatio fmt64 (ir * ir) 100)
  fAdd fmt64 theta (fMul fmt64 (fSub fmt64 x2 theta) (fExpRest fmt64 1 (10000 * tau)))

/-- One binary64. -/
def one64 : Nat := fNat fmt64 1

/-- The samples of the last 100 µs with their instants, µs, from the begin on a spacing apart. -/
def wireSamples (k : Keeper) (c : Chip) (spacing : Nat) (l : List Nat) : List (Nat × Nat) :=
  (l.zip (List.range l.length)).map fun (v, i) => (nowUs k c + spacing * i - 100, v)

/-- An instant lies in the allowance window of the turn-on before it (R234). -/
def inrushAt (c : Chip) (n t : Nat) : Bool :=
  let x := lsOf c n
  t < (if x.onAt ≤ t then x.onAt else x.onWas) + 1000 * c.num (Key.Ls.INRUSH_MS n)

/-- Mean square of currents, binary64; 0 where there is none. [DEDUCED: log 71] -/
def meanSquare (l : List Nat) : Nat :=
  if l = [] then 0
  else fDiv fmt64 (l.foldl (fun a v => let w := fConv fmt32 fmt64 v; fAdd fmt64 a (fMul fmt64 w w)) 0)
    (fNat fmt64 l.length)

/-- A channel's curve (R232, R234): within its window it takes at most I_R, a current above INRUSH_A trips, and one above
60 A is a short detected. Current of a switch that was cut within the 100 µs counts. [DEDUCED: log 71] -/
def wireStep (k : Keeper) (c : Chip) (n spacing : Nat) (samples : List Nat) : Chip :=
  let x := lsOf c n
  let (ir, tau) := wireCurve (c.num (Key.Ls.WIRE n))
  let inj := armedAt c Key.InjLs.INJ_LS_TRIP n
  let l := wireSamples k c spacing samples
  let most := fRatio fmt32 ir 10
  let theta := if inj then one64 else
    thetaStep x.theta (meanSquare (l.map fun (t, v) => if inrushAt c n t then fMin fmt32 v most else v)) ir tau
  let c := disarm (lsSet c n { x with theta }) Key.InjLs.INJ_LS_TRIP n
  let above := fun a : Nat => l.any fun (_, v) => fLt fmt32 a v
  let c := if x.on && l.any (fun (_, v) => fLe fmt32 (ratio (c.num (Key.Ls.OPEN_MA n)) 1000) v)
        && !armedFor k c Key.InjLs.INJ_LS_OPEN_LOAD n then
      c.putBits (Key.Ls.FLAGS n) 0x10 false else c
  let c := if x.on && above (fNat fmt32 60) then shortSeen c n else c
  if l.any fun (t, v) => inrushAt c n t && fLt fmt32 (c.num (Key.Ls.INRUSH_A n)) v then lsTrip k c n .curve false
  else if fLe fmt64 one64 theta then lsTrip k c n .curve inj
  else c

/-- A section trips (R240): every channel that is on switches off and waits; a trip with three restores within the last
60 s is permanent. -/
def secTrip (k : Keeper) (c : Chip) (s : Nat) (injected : Bool) : Chip :=
  let now := nowUs k c
  let x := secOf c s
  let permanent := 3 ≤ (x.restores.filter fun t => decide (now ≤ t + 60000000)).length
  let c := secSet c s { x with tripAt := now, next := 0 }
  let c := (secChans s).foldl (fun c n =>
    let st := c.num (Key.Ls.STATE n)
    if !(lsOf c n).on && st ≠ 3 then c
    else
      let c := lsSwitchOff (lsSet c n { lsOf c n with pending := true }) n
      if st = 1 || st = 2 then c.put (Key.Ls.STATE n) 3 else c) c
  let c := ((c.put (Key.Sec.SEC_STATE s) 1).putBits (Key.Sec.SEC_FLAGS s) 2 true).bump (Key.Sec.SEC_TRIPS s)
  raiseWith k c 0x0807 (unitSec s) injected permanent

/-- WIRE_CURVE_UPDATE: the currents of a section's channels over 100 µs, as samples `spacing` µs apart (R232, R240). -/
def execWireCurveUpdate (sec : Fin 6) (spacing : Fin 101) (samples : List (List F32)) (s : State) :
    Host.Outcome State Fault Refusal :=
  onChip (fun k c =>
    if !c.modes.drives then c
    else
      let n := sec.val
      let of := fun i => (nth samples i []).map BitVec.toNat
      let sum := (List.range 8).foldl (fun a i => fAdd fmt64 a (meanSquare (of i))) 0
      let c := (List.range 8).foldl (fun c i => wireStep k c (8 * n + i) spacing (of i)) c
      let x := secOf c n
      let inj := armedAt c Key.InjLs.INJ_SECTION_TRIP n
      let theta := thetaStep x.theta sum 400 10
      let c := disarm (secSet c n { x with theta }) Key.InjLs.INJ_SECTION_TRIP n
      if c.num (Key.Sec.SEC_STATE n) ≠ 3 && c.num (Key.Sec.SEC_STATE n) ≠ 1 && (inj || fLe fmt64 one64 theta) then
        secTrip k c n inj
      else c) s

/-- Channels a restore turns on, from a place on: waiting, commanded on or held on by a safe value, latch clear. -/
def restoreNext (c : Chip) (s from_ : Nat) : Option Nat :=
  (secChans s).find? fun n =>
    let x := lsOf c n
    let st := c.num (Key.Ls.STATE n)
    decide (from_ ≤ n) && x.pending && !x.latch && !x.on
      && (((st = 3 || st = 4) && lsCommanded c n x.cmd) || (st = 4 && c.num (Key.Ls.SAFE_KIND n) = 1))

/-- SECTION_RESTORE: from TRIPPED once θ ≤ 0.5 and 1 s have passed, then one channel each 10 ms (R240). -/
def execSectionRestore (sec : Fin 6) (s : State) : Host.Outcome State Fault Refusal :=
  onChip (fun k c =>
    let n := sec.val
    let now := nowUs k c
    let x := secOf c n
    let st := c.num (Key.Sec.SEC_STATE n)
    let ready := st = 1 && fLe fmt64 x.theta (fRatio fmt64 1 2) && decide (x.tripAt + 1000000 ≤ now)
    if !(ready || (st = 2 && x.nextAt ≤ now)) then c
    else
      let c := if st = 1 then
          closeHandling (((secSet c n { x with restores := x.restores ++ [now], next := 8 * n }).put
            (Key.Sec.SEC_STATE n) 2).putBits (Key.Sec.SEC_FLAGS n) 0x12 true) 0x0807 (unitSec n)
        else c
      let c := c.putBits (Key.Sec.SEC_FLAGS n) 2 false
      match restoreNext c n (secOf c n).next with
      | some m =>
        let c := lsHeldDuty (lsSwitchOn k c m) m
        let c := if c.num (Key.Ls.STATE m) = 3 then c.put (Key.Ls.STATE m) 1 else c
        secSet c n { secOf c n with next := m + 1, nextAt := now + 10000 }
      | none => (c.put (Key.Sec.SEC_STATE n) 0).putBits (Key.Sec.SEC_FLAGS n) 0x10 false) s

/-! ## Lamps (R236) -/

/-- LAMP_PERIOD_START: a turn-on or a change of COMMAND takes effect, and the compensated duty is set (R236). A channel held
by a HOLD keeps its duty, one held on by a safe value of ON runs at a request of 1.0. [DEDUCED: log 71] -/
def execLampPeriodStart (ch : Fin 48) (s : State) : Host.Outcome State Fault Refusal :=
  onChip (fun k c =>
    let n := ch.val
    let st := c.num (Key.Ls.STATE n)
    let live := c.modes.drives && decide (c.num (Key.Ls.OUT_KIND n) = 1)
    let c := if live && st < 4 then lsTake k c n else c
    let x := lsOf c n
    if !live || !x.on || (st = 4 && c.num (Key.Ls.SAFE_KIND n) = 2) then c
    else
      let cmd := if st = 4 then fNat fmt32 1 else x.run
      let r := fDiv fmt32 (c.num (Key.Ls.V_REF n)) (c.num (Key.Sec.V_SEC (n / 8)))
      let d := fMul fmt32 cmd (fMul fmt32 r r)
      let beyond := !fLe fmt32 d (fNat fmt32 1)
      (lsSet c n { x with limited := x.limited || beyond }).put (Key.Ls.DUTY n) (if beyond then fNat fmt32 1 else d)) s

/-- SECTION_VOLTAGE_FILTER: V_MS of the last millisecond; V_SEC is loaded, filtered, or held while SUPPLY_LOW (R236).
LS_SECTION_SUPPLY is raised when the supply leaves 9–36 V. -/
def execSectionVoltageFilter (sec : Fin 6) (vMs : F32) (s : State) : Host.Outcome State Fault Refusal :=
  onChip (fun k c =>
    if !c.modes.drives then c
    else
      let n := sec.val
      let v := vMs.toNat
      let inj := armedAt c Key.InjLs.INJ_SECTION_SUPPLY n
      let low := inj || fLt fmt32 v (fNat fmt32 9)
      let high := fLt fmt32 (fNat fmt32 36) v
      let was := c.num (Key.Sec.SEC_FLAGS n) &&& 0x0C ≠ 0
      let c := disarm (c.put (Key.Sec.V_MS n) v) Key.InjLs.INJ_SECTION_SUPPLY n
      let c := (c.putBits (Key.Sec.SEC_FLAGS n) 4 low).putBits (Key.Sec.SEC_FLAGS n) 8 high
      let x := secOf c n
      let old := c.num (Key.Sec.V_SEC n)
      let c := if low then secSet c n { x with loaded := false }
        else if !x.loaded then secSet (c.put (Key.Sec.V_SEC n) v) n { x with loaded := true }
        else c.put (Key.Sec.V_SEC n)
          (fAdd fmt32 old (fMul fmt32 (ratio 198013 10000000) (fSub fmt32 v old)))
      if (low || high) && !was then raise k c 0x0808 (unitSec n) inj
      else if low || high then c else closeHandling c 0x0808 (unitSec n)) s

/-- OPEN_LOAD_DETECT: current below OPEN_MA for 100 ms while on (R226). -/
def openLoad (k : Keeper) (c : Chip) (n : Nat) (injected : Bool) : Chip :=
  if bitOf (c.num (Key.Ls.FLAGS n)) 4 then c
  else raise k (c.putBits (Key.Ls.FLAGS n) 0x10 true) 0x0806 (unitLs n) injected

/-- OPEN_LOAD_DETECT: A channel's current below OPEN_MA for 100 ms while on sets OPEN_LOAD (R226). -/
def execOpenLoadDetect (ch : Fin 48) (s : State) : Host.Outcome State Fault Refusal :=
  onChip (fun k c =>
    if (lsOf c ch.val).on && c.num (Key.Ls.OPEN_MA ch.val) ≠ 0 then openLoad k c ch.val false else c) s

/-- SHORT_BAT: the pin stands above 6 V while off, or above the supply (Table 8.8). -/
def shortBat (k : Keeper) (c : Chip) (n : Nat) (injected : Bool) : Chip :=
  if bitOf (c.num (Key.Ls.FLAGS n)) 3 then c
  else raise k (c.putBits (Key.Ls.FLAGS n) 8 true) 0x0805 (unitLs n) injected

/-! ## Safe values, modes and edges (R229, R230) -/

/-- A channel's safe value applies (R230): the state it kept at the edge before is there for a HOLD. -/
def lsSafe (k : Keeper) (c : Chip) (n : Nat) : Chip :=
  let kind := c.num (Key.Ls.SAFE_KIND n)
  let x := lsOf c n
  let hold := kind = 2 && c.mode ≠ .kindling && c.mode ≠ .banked && c.mode ≠ .off
  let c := c.put (Key.Ls.STATE n) 4
  -- A latch or a tripped section holds back even a safe value of ON, as a pending retry (R238, R240).
  let turnOn := fun c : Chip =>
    if x.on then c
    else if x.latch || secHeld c (n / 8) then lsSet c n { lsOf c n with pending := true }
    else lsSwitchOn k c n
  if kind = 1 && c.modes.drives then turnOn c
  else if hold && x.edgeOn then lsHeldDuty (turnOn c) n
  else lsRest c n

/-- An override ends (Table 8.2). -/
def lsRelease (k : Keeper) (c : Chip) (n : Nat) : Chip :=
  let v := c.num (Key.Ls.COMMAND n)
  let on := lsCommanded c n v
  let c := lsRest (lsSet c n { lsOf c n with cmd := v, run := v, runOn := on }) n
  let c := c.put (Key.Ls.STATE n) 0
  if on then lsModeOn k c n else c

/-- A channel's DXS holds its safe values since a link silence (R22). -/
def lsLinkSafe (c : Chip) (n : Nat) : Bool := (nth c.link.links (3 + n / 8) {}).safe

/-- Overrides that begin or end at an edge. -/
def lsOverrides (k : Keeper) (c : Chip) : Chip :=
  let driven := drivenTargets c
  let want := fun n => modeSafe c.mode || lsLinkSafe c n
    || (driven.contains (Key.Ls.COMMAND n) && safeApplied c (Key.Ls.COMMAND n))
  let st := fun n => c.num (Key.Ls.STATE n)
  let on := (List.range 48).filter fun n => want n && st n ≠ 4 && st n ≠ 5
  let off := (List.range 48).filter fun n => !want n && st n = 4
  off.foldl (lsRelease k) (on.foldl (lsSafe k) c)

/-- MODE_MASK at an edge (R229): HELD_BY_MODE while the mode's bit is clear; `began` at the edge where the mode begins. -/
def lsMask (k : Keeper) (c : Chip) (began : Bool) (n : Nat) : Chip :=
  let st := c.num (Key.Ls.STATE n)
  let held := bitOf (c.num (Key.Ls.FLAGS n)) 8
  let on := lsCommanded c n (lsOf c n).cmd
  let c := c.putBits (Key.Ls.FLAGS n) 0x100 (!lsPermitted c n)
  if 4 ≤ st then c
  else if !lsPermitted c n then (lsRest c n).put (Key.Ls.STATE n) 0
  else if st = 0 && on && (began || held) then lsModeOn k c n
  else c

/-- What a HOLD would keep of a channel: its state and duty once it has acted on the edge (R230, R92). -/
def lsLatch (c : Chip) (n : Nat) : Chip :=
  let x := lsOf c n
  if c.num (Key.Ls.STATE n) = 4 then c else lsSet c n { x with edgeOn := x.on, edgeDuty := c.num (Key.Ls.DUTY n) }

/-- A channel at an edge: the flags that describe it, RETRIES_USED, and what a HOLD would keep. -/
def lsEdge (k : Keeper) (c : Chip) (n : Nat) : Chip :=
  let x := lsOf c n
  let w := 1000000 * c.num (Key.Ls.RETRY_WINDOW n)
  let keep := fun l : List Nat => l.filter fun t => decide (nowUs k c ≤ t + w)
  -- 0.8 in binary64
  let warn := fLe fmt64 (fRatio fmt64 8 10) x.theta
  let c := (((c.putBits (Key.Ls.FLAGS n) 0x01 warn).putBits (Key.Ls.FLAGS n) 0x80 x.latch).putBits (Key.Ls.FLAGS n) 0x200
    x.limited).putBits (Key.Ls.FLAGS n) 0x400 (c.num (Key.Ls.STATE n) = 3)
  let c := c.put (Key.Ls.RETRIES_USED n) (min (keep x.attempts).length 10)
  lsLatch (lsSet c n { x with limited := false, attempts := keep x.attempts, counted := keep x.counted }) n

/-- Injections of a load switch that last a time end (Table 8.12). -/
def lsInjectEnd (k : Keeper) (c : Chip) (n : Nat) : Chip :=
  let beyond := fun key : Nat => c.flt.armed.any fun a => a.key = key && a.value = n && decide (a.until_ ≤ k.epoch)
  let c := if beyond Key.InjLs.INJ_LS_THERMAL then
      disarm ((lsSet c n { lsOf c n with latch := false }).putBits (Key.Ls.FLAGS n) 0x80 false) Key.InjLs.INJ_LS_THERMAL n else c
  let c := if beyond Key.InjLs.INJ_LS_SHORT_BAT then
      disarm (c.putBits (Key.Ls.FLAGS n) 8 false) Key.InjLs.INJ_LS_SHORT_BAT n else c
  if beyond Key.InjLs.INJ_LS_OPEN_LOAD then disarm (c.putBits (Key.Ls.FLAGS n) 0x10 false) Key.InjLs.INJ_LS_OPEN_LOAD n else c

/-- A section at an edge. -/
def secEdge (k : Keeper) (c : Chip) (s : Nat) : Chip :=
  let x := secOf c s
  let keep := x.restores.filter fun t => decide (nowUs k c ≤ t + 60000000)
  let c := secSet c s { x with restores := keep }
  (c.put (Key.Sec.RESTORES_USED s) (min keep.length 3)).putBits (Key.Sec.SEC_FLAGS s) 1
    (fLe fmt64 (fRatio fmt64 8 10) x.theta)

/-- Load switches at an edge, after the mode and the slots: overrides, masks, injections that end, flags. -/
def loadEdge (k : Keeper) (c : Chip) (began : Bool) : Chip :=
  let c := lsOverrides k c
  if !c.modes.drives then c
  else
    let all := List.range 48
    let c := all.foldl (fun c n => lsMask k c began n) c
    (List.range 6).foldl (secEdge k) (all.foldl (lsEdge k) (all.foldl (lsInjectEnd k) c))

/-- A channel is ashed: switched off (Table 8.2). -/
def lsAsh (c : Chip) (n : Nat) : Chip := (lsRest c n).put (Key.Ls.STATE n) 5

/-- A section is ashed, with all eight channels (R240). -/
def secAsh (c : Chip) (s : Nat) : Chip := ((secChans s).foldl lsAsh c).put (Key.Sec.SEC_STATE s) 3

/-- A channel's ash is cleared: OFF with COMMAND 0 (Table 8.2). -/
def lsUnash (c : Chip) (n : Nat) : Chip :=
  if keyAshed c (Key.Ls.COMMAND n) then c
  else ((lsSet c n { lsOf c n with cmd := 0, run := 0, runOn := false, attempts := [], counted := [] }).put (Key.Ls.COMMAND n) 0).put (Key.Ls.STATE n) 0

/-- A section's ash is cleared. -/
def secUnash (c : Chip) (s : Nat) : Chip :=
  let c := (secSet c s { secOf c s with restores := [] }).put (Key.Sec.SEC_STATE s) 0
  (secChans s).foldl lsUnash (c.putBits (Key.Sec.SEC_FLAGS s) 0x12 false)

/-- θ at K6: cooled over the time in BANKED, in ms; none after OFF (R235). [DEDUCED: log 41] -/
def thetaRestore (c : Chip) (ms : Option Nat) : Chip :=
  let cool := fun theta tau : Nat => match ms with
    | some t => fMul fmt64 theta (fExpNeg fmt64 t (1000 * tau))
    | none => 0
  { c with load := { c.load with
    chans := (c.load.chans.zip (List.range 48)).map fun (x, n) =>
      { x with theta := cool x.theta (wireCurve (c.num (Key.Ls.WIRE n))).2, latch := false }
    secs := c.load.secs.map fun x : SecX => { x with theta := cool x.theta 10, loaded := false, short := none } } }

end Sys2Proof.Machine
end

