-- ==== Sys2Proof/Machine/Dio.lean ====
section
/-! DEFINITION. Isolated I/O (08): inputs, outputs, the barrier and its silence. -/

namespace Sys2Proof.Machine

def dioOf (c : Chip) (n : Nat) : DioX := nth c.load.dios n {}
def dioSet (c : Chip) (n : Nat) (x : DioX) : Chip := { c with load := { c.load with dios := c.load.dios.set n x } }
def grpOf (c : Chip) (g : Nat) : GrpX := nth c.load.grps g {}
def grpSet (c : Chip) (g : Nat) (x : GrpX) : Chip := { c with load := { c.load with grps := c.load.grps.set g x } }

/-- The channels of a group (R242). -/
def grpChans (g : Nat) : List Nat := (List.range 16).map (16 * g + ·)

/-- A channel is an output. -/
def isOutput (c : Chip) (n : Nat) : Bool := c.num (Key.Dio.DIR n) = 1

/-- A new filtered level at an instant, µs: STATE after INVERT, COUNT of its rising edges, their instants (R245).
[DESIGN CHOICE: log 72] -/
def dioLevel (k : Keeper) (c : Chip) (n : Nat) (level : Bool) (at_ : Nat) : Chip :=
  let st := level != c.flag (Key.Dio.INVERT n)
  let was := c.flag (Key.Dio.STATE n)
  let c := (dioSet c n { dioOf c n with level }).putFlag (Key.Dio.STATE n) st
  if st = was then c
  else
    let c := c.put (Key.Dio.EDGE_EPOCH n) (wireEpoch k.epoch)
    if st then
      let x := dioOf c n
      (dioSet c n { x with edges := at_ :: x.edges, lastEdge := some at_ }).bump (Key.Dio.COUNT n)
    else c

/-- INVERT is written: STATE follows; no edge of the pin is counted (R245). [DESIGN CHOICE: log 72] -/
def dioInvert (c : Chip) (n : Nat) : Chip :=
  c.putFlag (Key.Dio.STATE n) ((dioOf c n).level != c.flag (Key.Dio.INVERT n))

/-- The state a pin's voltage, in mV, is by its IN_TYPE (Table 8.4): between the thresholds it is undefined, a free value.
[DESIGN CHOICE: log 72] -/
def dioThreshold (c : Chip) (n : Nat) (mV : Int) : Bool × Chip :=
  let on : Int := if c.num (Key.Dio.IN_TYPE n) = 3 then 11000 else 15000
  if on ≤ mV then (true, c)
  else if mV ≤ 5000 then (false, c)
  else (Config.inputBand c.free, { c with free := c.free + 1 })

/-- The field side runs: PD13 is up and its rail stands (R243). -/
def dioPowered (c : Chip) : Bool := c.modes.drives && decide (c.num (Key.Pd.PD_STATE 13) ≠ 4)

/-- DIO_INPUT_EDGE: the pin has stood at a new level for FILTER_US, at an instant of the epoch in µs (R245); an output's
STATE reads its pin the same way (R242). `overrun` tells of edges lost above 50 kHz. [DESIGN CHOICE: log 72] -/
def execDioInputEdge (ch : Fin 128) (pin : PinSample) (overrun : Bool) (s : State) :
    Host.Outcome State Fault Refusal :=
  onChip (fun k c =>
    let n := ch.val
    if !dioPowered c then c
    else
      let c := if overrun then c.putBits (Key.Dio.FLAGS n) 8 true else c
      let (level, c) := dioThreshold c n pin.mV
      dioLevel k c n level (k.epoch * 1000 + pin.atUs.val)) s

/-- Drives an output's switch, which is off without PD13 (R243); STATE reads back the pin (R242).
[DESIGN CHOICE: log 72] -/
def dioDrive (k : Keeper) (c : Chip) (n : Nat) (on : Bool) : Chip :=
  let on := on && dioPowered c
  dioLevel k (dioSet c n { dioOf c n with on }) n on (nowUs k c)

/-- An output follows its command. -/
def dioFollow (k : Keeper) (c : Chip) (n : Nat) : Chip :=
  let on := (dioOf c n).cmd
  (dioDrive k c n on).put (Key.Dio.CH_STATE n) (if on && dioPowered c then 1 else 0)

/-- The field side takes a DO_CMD (R247): an output in OFF, ON or RETRY_WAIT follows, a pending retry of a channel
commanded off is dropped. -/
def dioAct (k : Keeper) (c : Chip) (n : Nat) (v : Bool) : Chip :=
  let st := c.num (Key.Dio.CH_STATE n)
  let c := dioSet c n { dioOf c n with cmd := v }
  if !isOutput c n then c
  else if st = 0 || st = 1 then (dioFollow k c n).putBits (Key.Dio.FLAGS n) 2 false
  else if st = 2 && !v then
    (dioFollow k (dioSet c n { dioOf c n with retryAt := none }) n).putBits (Key.Dio.FLAGS n) 1 false
  else c

/-- An output that is on limits or overheats: off, OVERLOAD, a retry in 100 ms (R246). -/
def dioOverload (k : Keeper) (c : Chip) (n : Nat) (injected : Bool) : Chip :=
  if !isOutput c n || !(dioOf c n).on || c.num (Key.Dio.CH_STATE n) = 4 then c
  else
  let c := (dioDrive k c n false).putBits (Key.Dio.FLAGS n) 1 true
  let c := (dioSet c n { dioOf c n with retryAt := some (nowUs k c + 100000) }).bump (Key.Dio.OVERLOADS n)
  let c := if c.num (Key.Dio.CH_STATE n) = 3 then c else c.put (Key.Dio.CH_STATE n) 2
  raise k c 0x0809 (unitDio n) injected

/-- DIO_OUTPUT_OVERLOAD: An output limits for 1 ms or overheats, switches off, and sets OVERLOAD (R246). -/
def execDioOutputOverload (ch : Fin 128) (s : State) : Host.Outcome State Fault Refusal :=
  onChip (fun k c => dioOverload k c ch.val false) s

/-- The group's field current above 4 A for 10 ms: every output off, retried together in 100 ms (R246). -/
def grpOverload (k : Keeper) (c : Chip) (g : Nat) (injected : Bool) : Chip :=
  let c := (grpChans g).foldl (fun c n =>
    if isOutput c n && (dioOf c n).on then
      let c := dioDrive k c n false
      if c.num (Key.Dio.CH_STATE n) = 3 then c else c.put (Key.Dio.CH_STATE n) 2
    else c) c
  let c := grpSet c g { grpOf c g with retryAt := some (nowUs k c + 100000) }
  raise k (c.putBits (Key.Grp.GROUP_FLAGS g) 4 true) 0x080A (unitGrp g) injected

/-- DIO_GROUP_OVERCURRENT: A group's field current above 4 A for 10 ms switches every output of the group off (R246).
-/
def execDioGroupOvercurrent (grp : Fin 8) (s : State) : Host.Outcome State Fault Refusal :=
  onChip (fun k c =>
    if !dioPowered c || keyAshed c (Key.Grp.GROUP_STATE grp.val) then c
    else grpOverload k c grp.val false) s

/-- The level a channel's SAFE_KIND asks for (R247): HOLD keeps `edgeOn`, and is OFF in KINDLING and BANKED. -/
def dioSafeLevel (c : Chip) (n : Nat) : Bool :=
  let kind := c.num (Key.Dio.SAFE_KIND n)
  kind = 1 || (kind = 2 && c.mode ≠ .kindling && c.mode ≠ .banked && c.mode ≠ .off && (dioOf c n).edgeOn)

/-- A retry turns an output on again where its command, or a safe value of ON, still asks for it. -/
def dioRetry (k : Keeper) (c : Chip) (n : Nat) : Chip :=
  let x := dioOf c n
  let c := (dioSet c n { x with retryAt := none }).putBits (Key.Dio.FLAGS n) 1 false
  let st := c.num (Key.Dio.CH_STATE n)
  if st = 2 then dioFollow k c n
  else if st = 3 && dioSafeLevel c n && (c.num (Key.Dio.SAFE_KIND n) = 1 || x.cmd) then dioDrive k c n true
  else c

/-- DIO_OVERLOAD_RETRY: 100 ms after an overload, the output or the whole group is retried (R246). -/
def execDioOverloadRetry (target : Fin 128 ⊕ Fin 8) (s : State) : Host.Outcome State Fault Refusal :=
  onChip (fun k c =>
    match target with
    | .inl ch =>
      match (dioOf c ch.val).retryAt with
      | some t => if t ≤ nowUs k c then dioRetry k c ch.val else c
      | none => c
    | .inr g =>
      match (grpOf c g.val).retryAt with
      | some t =>
        if t ≤ nowUs k c then
          let c := (grpSet c g.val { grpOf c g.val with retryAt := none }).putBits (Key.Grp.GROUP_FLAGS g.val) 4 false
          (grpChans g.val).foldl (fun c n => if (dioOf c n).retryAt.isNone then dioRetry k c n else c) c
        else c
      | none => c) s

/-- DIO_MISMATCH_DETECT: readback differs from the command for 1 ms with OVERLOAD clear (R246). -/
def dioMismatch (k : Keeper) (c : Chip) (n : Nat) (injected : Bool) : Chip :=
  if !isOutput c n || c.num (Key.Dio.FLAGS n) &&& 3 ≠ 0 then c
  else raise k (c.putBits (Key.Dio.FLAGS n) 2 true) 0x080C (unitDio n) injected

/-- DIO_MISMATCH_DETECT: Readback differs from the command for 1 ms, and MISMATCH is set; STATE reads the pin, which stands
at the other level (R242, R246). -/
def execDioMismatchDetect (ch : Fin 128) (s : State) : Host.Outcome State Fault Refusal :=
  onChip (fun k c =>
    let n := ch.val
    let c := if isOutput c n then dioLevel k c n (!(dioOf c n).on) (nowUs k c) else c
    dioMismatch k c n false) s

/-! ## The barrier (R248) -/

/-- A channel takes its safe value; HOLD keeps `held`. -/
def dioSafe (k : Keeper) (c : Chip) (n : Nat) (held : Bool) : Chip :=
  let c := dioSet c n { dioOf c n with retryAt := none, edgeOn := held }
  ((dioDrive k c n (dioSafeLevel c n)).put (Key.Dio.CH_STATE n) 3).putBits (Key.Dio.FLAGS n) 4 true

/-- PD13's rail fails, or stands again: every output is off without it, and then follows its command or safe value
(R243). -/
def dioRail (k : Keeper) (c : Chip) : Chip :=
  (List.range 128).foldl (fun c n =>
    let st := c.num (Key.Dio.CH_STATE n)
    if !isOutput c n || st = 4 then c
    else if st = 3 then dioDrive k c n (dioSafeLevel c n)
    else if dioPowered c then dioFollow k (dioSet c n { dioOf c n with retryAt := none }) n
    else (dioDrive k (dioSet c n { dioOf c n with retryAt := none }) n false).put (Key.Dio.CH_STATE n) 0) c

/-- What a HOLD would keep of a channel: its level once it has acted on the edge (R247, R92). -/
def dioLatch (c : Chip) (n : Nat) : Chip :=
  if c.num (Key.Dio.CH_STATE n) = 3 then c else dioSet c n { dioOf c n with edgeOn := (dioOf c n).on }

/-- A safe value ends: the output follows its command again. -/
def dioRelease (k : Keeper) (c : Chip) (n : Nat) : Chip :=
  dioFollow k ((dioSet c n { dioOf c n with cmd := c.flag (Key.Dio.DO_CMD n) }).putBits (Key.Dio.FLAGS n) 4 false) n

/-- A group is silent. -/
def grpSilent (c : Chip) (g : Nat) : Bool := c.num (Key.Grp.GROUP_STATE g) = 1

/-- Whether a channel must stand at its safe value: mode, slot, item, or its group's silence. -/
def dioWantSafe (c : Chip) (driven : List Nat) (n : Nat) : Bool :=
  modeSafe c.mode || grpSilent c (n / 16)
    || (driven.contains (Key.Dio.DO_CMD n) && safeApplied c (Key.Dio.DO_CMD n))

/-- BARRIER_FRAME: the low epoch bits of the last marker cross the isolation. An advance restarts the timeout; a silent
group follows its commands again from the second of two consecutive markers (R248). -/
def execBarrierFrame (grp : Fin 8) (good : Bool) (s : State) : Host.Outcome State Fault Refusal :=
  onChip (fun k c =>
    let g := grp.val
    if !c.modes.drives then c
    else if !good then c.bump (Key.Grp.BARRIER_ERRORS g)
    else
      let x := grpOf c g
      if x.marker = x.seen || armedFor k c Key.InjLs.INJ_DIO_SILENCE g then c
      else
        let follows := grpSilent c g && x.back && x.marker = (x.seen + 1) % 65536
        let c := grpSet c g { x with seen := x.marker, advance := nowUs k c, back := true }
        if follows then
          let c := (c.put (Key.Grp.GROUP_STATE g) 0).putBits (Key.Grp.GROUP_FLAGS g) 8 false
          let c := closeHandling c 0x080D (unitGrp g)
          let driven := drivenTargets c
          (grpChans g).foldl (fun c n =>
            if isOutput c n && c.num (Key.Dio.CH_STATE n) = 3 && !dioWantSafe c driven n then dioRelease k c n else c) c
        else if grpSilent c g then c
        else (grpChans g).foldl (fun c n => dioSet c n { dioOf c n with heldOn := (dioOf c n).on }) c) s

/-- GROUP_SILENCE: SILENCE_TIMEOUT has passed without an advancing epoch; the field side applies its safe values (R248);
an epoch that a step lengthens is as long as it is (R274). -/
def execGroupSilence (grp : Fin 8) (s : State) : Host.Outcome State Fault Refusal :=
  onChip (fun k c =>
    let g := grp.val
    let x := grpOf c g
    if !c.modes.drives || c.num (Key.Grp.GROUP_STATE g) ≠ 0
        || nowUs k c + c.gnss.stretch / 1000000 < x.advance + 1000 * c.num (Key.Grp.SILENCE_TIMEOUT g) then c
    else
      let inj := c.flt.armed.any fun a => a.key = Key.InjLs.INJ_DIO_SILENCE && a.value = g
      let c := disarm (grpSet c g { x with back := false }) Key.InjLs.INJ_DIO_SILENCE g
      let c := ((c.put (Key.Grp.GROUP_STATE g) 1).putBits (Key.Grp.GROUP_FLAGS g) 8 true).bump (Key.Grp.SILENCES g)
      let c := (grpChans g).foldl (fun c n =>
        if isOutput c n && c.num (Key.Dio.CH_STATE n) ≠ 3 && c.num (Key.Dio.CH_STATE n) ≠ 4 then
          dioSafe k c n (dioOf c n).heldOn else c) c
      raise k c 0x080D (unitGrp g) inj) s

/-! ## Every edge -/

/-- FREQ of a channel (R245). -/
def dioFreq (k : Keeper) (c : Chip) (n : Nat) : Chip :=
  let x := dioOf c n
  let now := 1000 * k.epoch
  let gate := 1000 * c.num (Key.Dio.FREQ_GATE n)
  let e := x.edges.filter fun t => decide (now ≤ t + gate)
  let c := dioSet c n { x with edges := e }
  match e, x.lastEdge with
  | last :: _ :: _, _ =>
    let first := e.getLastD last
    c.put (Key.Dio.FREQ n) (fDiv fmt32 (fMul fmt32 (fNat fmt32 (e.length - 1)) (fNat fmt32 1000000))
      (fNat fmt32 (last - first)))
  | _, none => c.put (Key.Dio.FREQ n) 0
  | _, some t =>
    if t + 1000 * c.num (Key.Dio.ZERO_MS n) ≤ now then c.put (Key.Dio.FREQ n) 0
    else c.put (Key.Dio.FREQ n) (fMin fmt32 (c.num (Key.Dio.FREQ n)) (ratio 1000000 (now - t)))

/-- FIELD_LOW and FIELD_HIGH, and DIO_FIELD_SUPPLY after 10 ms out of range (Tables 8.10, 8.11). -/
def fieldEdge (k : Keeper) (c : Chip) (g v : Nat) : Chip :=
  let inj := armedFor k c Key.InjLs.INJ_DIO_FIELD_SUPPLY g
  let low := inj || fLt fmt32 v (fNat fmt32 18)
  let high := fLt fmt32 (fNat fmt32 32) v
  let x := grpOf c g
  let bad := if low || high then x.bad + 1 else 0
  let c := grpSet (c.put (Key.Grp.FIELD_V g) v) g { x with bad }
  let c := (c.putBits (Key.Grp.GROUP_FLAGS g) 1 low).putBits (Key.Grp.GROUP_FLAGS g) 2 high
  if bad = 10 then raise k c 0x080B (unitGrp g) inj else if bad = 0 then closeHandling c 0x080B (unitGrp g) else c

/-- Isolated I/O at an edge: overrides, frequencies, field supplies, and the levels a HOLD would keep. -/
def dioEdge (k : Keeper) (c : Chip) (m : EdgeMeas) : Chip :=
  let driven := drivenTargets c
  let want := dioWantSafe c driven
  let st := fun n => c.num (Key.Dio.CH_STATE n)
  let outs := (List.range 128).filter (isOutput c)
  let on := outs.filter fun n => want n && st n ≠ 3 && st n ≠ 4
  let off := outs.filter fun n => !want n && st n = 3
  let c := off.foldl (dioRelease k) (on.foldl (fun c n => dioSafe k c n (dioOf c n).edgeOn) c)
  if !c.modes.drives then c
  else
    let c := m.fields.foldl (fun c f => fieldEdge k c f.1.val f.2.toNat) c
    (List.range 128).foldl (fun c n =>
      if (dioOf c n).lastEdge.isNone && !isOutput c n then c
      else dioFreq k (dioLatch c n) n) c

/-- A channel is ashed: off (R446). -/
def dioAsh (k : Keeper) (c : Chip) (n : Nat) : Chip :=
  (dioDrive k (dioSet c n { dioOf c n with retryAt := none }) n false).put (Key.Dio.CH_STATE n) 4

/-- A group is ashed, with its sixteen channels. -/
def grpAsh (k : Keeper) (c : Chip) (g : Nat) : Chip := ((grpChans g).foldl (dioAsh k) c).put (Key.Grp.GROUP_STATE g) 2

/-- A channel's ash is cleared: OFF with its command false. -/
def dioUnash (c : Chip) (n : Nat) : Chip :=
  if keyAshed c (Key.Dio.DO_CMD n) then c
  else (((dioSet c n { dioOf c n with cmd := false }).putFlag (Key.Dio.DO_CMD n) false).put (Key.Dio.CH_STATE n) 0).putBits
    (Key.Dio.FLAGS n) 5 false

/-- A group's ash is cleared; the field side counts its silence afresh. -/
def grpUnash (k : Keeper) (c : Chip) (g : Nat) : Chip :=
  let c := (grpSet c g { grpOf c g with advance := nowUs k c, retryAt := none }).put (Key.Grp.GROUP_STATE g) 0
  (grpChans g).foldl dioUnash (c.putBits (Key.Grp.GROUP_FLAGS g) 0x0C false)

end Sys2Proof.Machine
end

