-- ==== Sys2Proof/Machine/Eth.lean ====
section
/-! DEFINITION. The Ethernet ports and IEEE 802.1AS (12, R347–R353). -/

namespace Sys2Proof.Machine

/-- Ports with IPv4: ETH0–ETH3 and ETH11 (R348). [DEDUCED: log 57] -/
def hasIp (port : Nat) : Bool := port ≤ 3 || port = 11

/-- A port serves: Ethernet is up and its link too. -/
def ethUp (c : Chip) (port : Nat) : Bool :=
  up c 8 && c.num (Key.Eth.LINK port) = 1 && (if port ≤ 3 then gateOpen c 5 else 10 < port || gateOpen c 6)

/-- A frame a port takes from its wire. -/
def ethRx (c : Chip) (port : Nat) : Chip := c.bump (Key.Eth.RX_FRAMES port)

/-- A frame no service takes. -/
def ethDiscard (c : Chip) (port : Nat) : Chip := (ethRx c port).bump (Key.Eth.RX_DISCARDS port)

/-- ETH_FRAME_DISCARDED (R348). -/
def execEthFrameDiscarded (port : Fin 12) (s : State) : Host.Outcome State Fault Refusal :=
  onChip (fun _ c => if ethUp c port.val then ethDiscard c port.val else c) s

/-- ARP_REQUEST: a request for the port's own address is answered (R348). -/
def execArpRequest (port : Fin 12) (target : BitVec 32) (s : State) : Host.Outcome State Fault Refusal :=
  onChip (fun _ c =>
    let p := port.val
    if !ethUp c p then c
    else if hasIp p && c.num (Key.Eth.IP_ADDR p) = target.toNat then
      ((ethRx c p).emit (.arp p target.toNat)).bump (Key.Eth.TX_FRAMES p)
    else ethDiscard c p) s

/-- ICMP_ECHO_REQUEST: one to the port's own address or to 255.255.255.255 is answered while ICMP_ECHO is true (R348). -/
def execIcmpEchoRequest (port : Fin 12) (src dst : BitVec 32) (data : List Byte) (s : State) :
    Host.Outcome State Fault Refusal :=
  onChip (fun _ c =>
    let p := port.val
    if !ethUp c p then c
    else if hasIp p && (c.num (Key.Eth.IP_ADDR p) = dst.toNat || dst.toNat = 0xFFFFFFFF) && c.flag Key.Jop.ICMP_ECHO then
      ((ethRx c p).emit (.echo p src.toNat data)).bump (Key.Eth.TX_FRAMES p)
    else ethDiscard c p) s

/-- A transmit interval of 2^n s in µs, n of an I8 object (R353). -/
def logInterval (c : Chip) (key : Nat) : Nat :=
  let n := toInt 8 (c.num key)
  if 0 ≤ n then 1000000 * 2 ^ n.toNat else 1000000 / 2 ^ (-n).toNat

/-- An interval has passed since an instant, or nothing was sent yet. -/
def intervalOver (now : Nat) (last : Option Nat) (interval : Nat) : Bool :=
  match last with
  | some t => t + interval ≤ now
  | none => true

/-- GPTP_SYNC: Announce and two-step Sync with Follow_Up, each on its interval (R351). [DEDUCED: log 56] -/
def execGptpSync (port : Fin 12) (s : State) : Host.Outcome State Fault Refusal :=
  onChip (fun k c =>
    let p := port.val
    if !ethUp c p || !c.flag (Key.Eth.GPTP_ENABLE p) then c
    else
      let now := nowUs k c
      let c := if intervalOver now (nth c.eth.ann p none) (logInterval c Key.Gptp.LOG_ANNOUNCE) then
          let src := if c.flag Key.Epoch.EPOCH_ALIGNED then 0x20 else 0xA0
          let c := c.emit (.announce p (c.num Key.Gptp.CLOCK_CLASS) (toInt 16 (c.num Key.Gptp.UTC_OFFSET)) src)
          { c with eth := { c.eth with ann := c.eth.ann.set p (some now) } }.bump (Key.Eth.TX_FRAMES p)
        else c
      if intervalOver now (nth c.eth.sync p none) (logInterval c Key.Gptp.LOG_SYNC) then
        let c := c.emit (.sync p (gptpNs k c (1000 * c.us)).toNat)
        { c with eth := { c.eth with sync := c.eth.sync.set p (some now) } }.bump (Key.Eth.TX_FRAMES p) 2
      else c) s

/-- GPTP_PEER_DELAY_REQUEST: answered with the PHY timestamps of its arrival and of the answer (R351).
[DEDUCED: log 56] -/
def execGptpPeerDelayRequest (port : Fin 12) (rxNs : Nat) (s : State) : Host.Outcome State Fault Refusal :=
  onChip (fun k c =>
    let p := port.val
    if !ethUp c p || !c.flag (Key.Eth.GPTP_ENABLE p) then c
    else
      let t2 := (gptpNs k c ((rxNs : Int) - 1000000 * k.epoch)).toNat
      ((ethRx c p).emit (.peerDelay p t2 (gptpNs k c (1000 * c.us)).toNat)).bump (Key.Eth.TX_FRAMES p) 2) s

/-- FOREIGN_ANNOUNCE: counted and ignored (R351). -/
def execForeignAnnounce (port : Fin 12) (s : State) : Host.Outcome State Fault Refusal :=
  onChip (fun _ c =>
    let p := port.val
    if ethUp c p then (ethRx c p).bump Key.Gptp.FOREIGN_ANNOUNCE else c) s

/-- One port at an edge: what its PHY reports takes effect (R350); an injection holds the link down for its time. -/
def ethPortEdge (k : Keeper) (c : Chip) (p : Nat) : Chip :=
  let st := c.num (Key.Eth.LINK p)
  let inj := armedFor k c Key.Inj.ETH_LINK p
  let link := up c 8 && nth c.eth.phy p false && !inj
  if st = 2 then c
  else if link && st = 0 then
    closeHandling ((c.put (Key.Eth.LINK p) 1).put (Key.Eth.LINK_EPOCH p) (wireEpoch k.epoch)) 0x0C06 (unitEth p)
  else if !link && st = 1 then
    let c := ((c.put (Key.Eth.LINK p) 0).put (Key.Eth.LINK_EPOCH p) (wireEpoch k.epoch)).bump (Key.Eth.LINK_DOWNS p)
    if up c 8 then raise k c 0x0C06 (unitEth p) inj else c
  else c

/-- The ports and the grandmaster's data at an edge (R351). -/
def ethEdge (k : Keeper) (c : Chip) : Chip :=
  let c := (List.range 12).foldl (ethPortEdge k) c
  let st := c.num Key.Time.TIME_STATE
  if !c.flag Key.Epoch.EPOCH_ALIGNED then (c.put Key.Gptp.CLOCK_CLASS 248).put Key.Gptp.UTC_OFFSET 0
  else (c.put Key.Gptp.CLOCK_CLASS (if st = timeLocked then 6 else 7)).put Key.Gptp.UTC_OFFSET
    (ofInt 16 (toInt 8 (c.num Key.Raw.LEAP_S) + 19))

/-- An Ethernet port is ashed: its link is held down (R355). -/
def ethAsh (k : Keeper) (c : Chip) (p : Nat) : Chip :=
  let c := if c.num (Key.Eth.LINK p) = 1 then c.bump (Key.Eth.LINK_DOWNS p) else c
  (c.put (Key.Eth.LINK p) 2).put (Key.Eth.LINK_EPOCH p) (wireEpoch k.epoch)

/-- Its ash is cleared. -/
def ethUnash (c : Chip) (p : Nat) : Chip := c.put (Key.Eth.LINK p) 0

/-- PD11 loses power: links are down and intervals start anew. -/
def ethDown (c : Chip) : Chip :=
  (List.range 12).foldl (fun c p => if c.num (Key.Eth.LINK p) = 1 then c.put (Key.Eth.LINK p) 0 else c)
    { c with eth := { c.eth with sync := List.replicate 12 none, ann := List.replicate 12 none } }

end Sys2Proof.Machine
end

