-- ==== Sys2Proof/Machine/Fabric.lean ====
section
/-! DEFINITION. The module fabric (13): links, module records, numbers, routes, fabric time. -/

namespace Sys2Proof.Machine

def fabLink (c : Chip) (f : Nat) : FabLink := nth c.fab.links f {}
def fabLinkSet (c : Chip) (f : Nat) (l : FabLink) : Chip := { c with fab := { c.fab with links := c.fab.links.set f l } }

/-- The fabric runs. -/
def fabOn (c : Chip) : Bool := up c 8 && c.flag Key.Fab.FAB_ENABLE

/-- The module's own IDENTITY and number. -/
def fabSelf (c : Chip) : Nat := c.num Key.Comm.MAC_BASE
def fabNumber (c : Chip) : Nat := c.num Key.Fab.MODULE_NUMBER

/-- A link is UP. -/
def fabUpLink (c : Chip) (f : Nat) : Bool := c.num (Key.FLink.FLINK_STATE f) = 1

/-- Records of present modules. -/
def fabPresent (c : Chip) : List FabRec := c.fab.recs.filter (·.present)

/-- The record of an IDENTITY. -/
def fabRec (c : Chip) (identity : Nat) : Option FabRec := (fabPresent c).find? (·.identity = identity)

/-! ## Topology and routes (R358, R361) -/

/-- Modules met going on from a record, whose neighbour of number `prev` has been passed: each has two ports. A neighbour
number of 0 may be an unnumbered module, found by its own record. -/
def fabWalk (recs : List FabRec) : Nat → Nat → FabRec → List Nat → List Nat
  | 0, _, _, _ => []
  | fuel + 1, prev, r, seen =>
    let next := if r.n0 = prev then r.n1 else r.n0
    let nx := recs.find? fun q => !seen.contains q.identity
      && (if next = 0 then q.number = 0 && (q.n0 = r.number || q.n1 = r.number) else q.number = next)
    match nx with
    | some q => q.identity :: fabWalk recs fuel r.number q (q.identity :: seen)
    | none => []

/-- Modules reachable through a port, nearest first. -/
def fabReach (c : Chip) (f : Nat) : List Nat :=
  if !fabUpLink c f then []
  else match fabRec c (c.num (Key.FLink.PEER_IDENTITY f)) with
    | some r => r.identity :: fabWalk (fabPresent c) 16 (fabNumber c) r [r.identity, fabSelf c]
    | none => []

/-- Hops through a list of modules to one of them. -/
def hopsIn (l : List Nat) (identity : Nat) : Option Nat :=
  let n := (l.takeWhile (· ≠ identity)).length
  if n < l.length then some (n + 1) else none

/-- Hops and port toward a number: the fewest hops, a tie goes out through FAB0. -/
def fabRoute (c : Chip) (m : Nat) : Option (Nat × Nat) :=
  match (fabPresent c).find? (·.number = m) with
  | none => none
  | some r =>
    match hopsIn c.fab.topo.1 r.identity, hopsIn c.fab.topo.2.1 r.identity with
    | some a, some b => if a ≤ b then some (a, 0) else some (b, 1)
    | some a, none => some (a, 0)
    | none, some b => some (b, 1)
    | none, none => none

/-- The module's own receiver has a valid time solution (R270): newer than LOSS_MS. -/
def fabOwnFix (k : Keeper) (c : Chip) : Bool :=
  match c.fab.ownAt with
  | some e => k.epoch < e + c.num Key.Time.LOSS_MS
  | none => false

/-- The time source: the lowest-numbered present module with a fix; an injection takes the fix from the one that was
present when it was made (R365, Table 13.3). -/
def fabSource (k : Keeper) (c : Chip) : Nat :=
  if !fabOn c then 0
  else
    let all := (if fabOwnFix k c then [fabNumber c] else []) ++ ((fabPresent c).filter (·.fix)).map (·.number)
    let all := all.filter fun n => n ≠ 0 && !armedFor k c Key.Inj.FAB_SOURCE_CHANGE (256 + n)
    all.foldl (fun b n => if b = 0 ∨ n < b then n else b) 0

/-- The objects of module m (Table 13.2). [DEDUCED: log 58] -/
def fabShowModule (k : Keeper) (c : Chip) (m : Nat) : Chip :=
  let put := fun (st id hops route : Nat) (fix : Bool) =>
    ((((c.put (Key.Mod.MOD_STATE m) st).put (Key.Mod.MOD_IDENTITY m) id).put (Key.Mod.MOD_HOPS m) hops).put
      (Key.Mod.MOD_ROUTE m) route).putFlag (Key.Mod.MOD_FIX m) fix
  if fabOn c && m = fabNumber c then put 1 (fabSelf c) 0 0xFF (fabOwnFix k c)
  else match (fabPresent c).find? (·.number = m), fabRoute c m with
    | some r, some (h, p) => put 1 r.identity h p r.fix
    | some r, none => put 1 r.identity 0xFF 0xFF r.fix
    | none, _ => if c.fab.held.any (·.1 = m) then put 2 (c.num (Key.Mod.MOD_IDENTITY m)) 0xFF 0xFF false
                 else put 0 0 0xFF 0xFF false

/-- A number clash: another present module carries the module's number and has the lower IDENTITY (R360).
[DEDUCED: log 58] -/
def fabClash (k : Keeper) (c : Chip) : Bool :=
  let n := fabNumber c
  n ≠ 0 && (armedFor k c Key.Inj.FAB_NUMBER_CLASH 1
    || (fabPresent c).any fun r => r.number = n && decide (r.identity < fabSelf c))

/-- The number a CLASH was about is unique again: no two present modules carry it (Table 13.3). [DEDUCED: log 58] -/
def fabUnique (k : Keeper) (c : Chip) : Bool :=
  !armedFor k c Key.Inj.FAB_NUMBER_CLASH 1 && decide (((fabPresent c).filter (·.number = c.fab.lost)).length ≤ 1)

/-- A link that is not UP has no peer (Table 13.2). [DEDUCED: log 58] -/
def fabNoPeer (c : Chip) (f : Nat) : Chip := (c.put (Key.FLink.PEER_NUMBER f) 0).put (Key.FLink.PEER_IDENTITY f) 0

/-- A link goes DOWN (R357). -/
def fabLinkDown (k : Keeper) (c : Chip) (f : Nat) (injected : Bool) : Chip :=
  let c := fabLinkSet c f { fabLink c f with good := 0, last := none }
  if !fabUpLink c f then c
  else
    let c := fabNoPeer ((c.put (Key.FLink.FLINK_STATE f) 0).put (Key.FLink.FLINK_EPOCH f) (wireEpoch k.epoch)) f
    if fabOn c then raise k c 0x0D01 (unitFab f) injected else c

/-- The fabric at an edge: topology, routes, numbers, time source, own record (R358–R361, R365). [DEDUCED: log 58] -/
def fabEdge (k : Keeper) (c : Chip) : Chip :=
  if !fabOn c then
    if c.num Key.Fab.FAB_STATE = 0 && c.fab.recs = [] && c.fab.topo = ([], [], []) then c
    else
      let c : Chip := { c with fab := { c.fab with recs := [], held := [], topo := ([], [], []), links := [{}, {}] } }
      let c := [0, 1].foldl (fun c f => if fabUpLink c f then
        fabNoPeer ((c.put (Key.FLink.FLINK_STATE f) 0).put (Key.FLink.FLINK_EPOCH f) (wireEpoch k.epoch)) f else c) c
      let c := ((((c.put Key.Fab.FAB_STATE 0).put Key.Fab.MODULE_NUMBER 1).put Key.Fab.TOPOLOGY 0).put Key.Fab.MODULES 1).put
        Key.Fab.TIME_SOURCE 0
      ((List.range 16).map (· + 1)).foldl (fabShowModule k) c
  else
    let c := [0, 1].foldl (fun c f => if armedFor k c Key.Inj.FAB_LINK f then fabLinkDown k c f true else c) c
    let c := if fabClash k c then
        raise k (({ c with fab := { c.fab with lost := fabNumber c } }.put Key.Fab.FAB_STATE 3).put Key.Fab.MODULE_NUMBER 0) 0x0D02
          theModule (armedFor k c Key.Inj.FAB_NUMBER_CLASH 1)
      else if fabUnique k c then closeHandling c 0x0D02 theModule
      else c
    let topo := (fabReach c 0, fabReach c 1, (fabPresent c).map (·.identity))
    let c := if topo = c.fab.topo then c else { c with fab := { c.fab with topo } }.bump Key.Fab.TOPO_CHANGES
    let ring := match topo.2.1 with
      | a :: _ => topo.1.contains a
      | [] => false
    let c := (c.put Key.Fab.TOPOLOGY (if ring then 2 else if topo.1 ≠ [] ∨ topo.2.1 ≠ [] then 1 else 0)).put Key.Fab.MODULES
      (1 + (fabPresent c).length)
    let src := fabSource k c
    let c := if src = c.num Key.Fab.TIME_SOURCE then c
      else raise k (c.put Key.Fab.TIME_SOURCE src) 0x0D03 theModule
        (armedFor k c Key.Inj.FAB_SOURCE_CHANGE (256 + c.num Key.Fab.TIME_SOURCE))
    let own := (fabNumber c, c.num (Key.FLink.PEER_NUMBER 0), c.num (Key.FLink.PEER_NUMBER 1), fabOwnFix k c)
    let c := if own = c.fab.own then c else { c with fab := { c.fab with own, seq := (c.fab.seq + 1) % 0x100000000 } }
    ((List.range 16).map (· + 1)).foldl (fabShowModule k) c

/-! ## HELLO (R357, R365) -/

/-- STATE of a module record: bit 0 present, bit 1 its own receiver's fix (the spec names the field only).
[DEDUCED: log 58] -/
def recState (present fix : Bool) : Nat := (if present then 1 else 0) + if fix then 2 else 0

/-- One module record. [DEDUCED: log 58] -/
def recBytes (identity number st n0 n1 seq : Nat) : List Byte :=
  leBytes 8 identity ++ leBytes 1 number ++ leBytes 1 st ++ leBytes 1 n0 ++ leBytes 1 n1 ++ leBytes 4 seq

/-- The payload of a HELLO on a port. T_ERR is the time error of the solution the module's time follows: the source's own,
else that of its newest time solution with what it grew by (R365). -/
def helloBytes (k : Keeper) (c : Chip) (f : Nat) : List Byte :=
  let l := fabLink c f
  let own := fabOwnFix k c && c.num Key.Fab.TIME_SOURCE = fabNumber c
  let err := if own then c.fab.ownErr else (fNearest fmt32 (c.num Key.Time.TIME_UNC)).toNat
  let (n, a, b, fix) := c.fab.own
  let recs := recBytes (fabSelf c) n (recState true fix) a b c.fab.seq
    ++ ((fabPresent c).take 15).flatMap fun r => recBytes r.identity r.number (recState true r.fix) r.n0 r.n1 r.seq
  leBytes 8 (fabSelf c) ++ leBytes 1 (if c.num Key.Fab.NUMBER_CFG = 0 then 0 else 1)
    ++ leBytes 1 ((if fabOwnFix k c then 1 else 0) + 2 * (c.num Key.Time.TIME_STATE % 4)) ++ leBytes 2 (min err 65535)
    ++ leBytes 8 l.t3 ++ leBytes 8 l.t4 ++ leBytes 8 (gptpNs k c (1000 * c.us)).toNat ++ recs

/-- HELLO_SEND: every 10 ms on each fabric port. -/
def execHelloSend (s : State) : Host.Outcome State Fault Refusal :=
  onChip (fun k c =>
    let now := nowUs k c
    if !fabOn c || !intervalOver now c.fab.helloAt 10000 then c
    else
      let c : Chip := { c with fab := { c.fab with helloAt := some now } }
      [0, 1].foldl (fun c f =>
        if unitAshed c (unitFab f) then c else c.emit (.fab f 1 (fabNumber c) 0 15 0 0 (helloBytes k c f))) c) s

/-- A newer SEQ replaces an older record of the same IDENTITY; a carried record refreshes it. [DEDUCED: log 58] -/
def recTake (now self : Nat) (fab : FabS) (r : HelloRec) (fix : Option Bool) : FabS :=
  if r.identity = self then (if r.number ≠ 0 then { fab with former := r.number, seq := max fab.seq r.seq } else fab)
  else if r.state % 2 = 0 then fab
  else
    let n : FabRec := { identity := r.identity, number := r.number, fix := fix.getD (r.state / 2 % 2 = 1), n0 := r.n0, n1 := r.n1
                        seq := r.seq, fresh := now }
    match fab.recs.find? (·.identity = r.identity) with
    | none => { fab with recs := fab.recs ++ [n] }
    | some o =>
      let m := if o.seq < r.seq then n else { o with fresh := now, present := true, fix := fix.getD o.fix }
      { fab with recs := fab.recs.map fun q : FabRec => if q.identity = r.identity then m else q }

/-- A peer's time as a valid time solution (R365): its error grows by 5 ns per hop. [DEDUCED: log 56] -/
def fabTime (k : Keeper) (c : Chip) (h : Hello) (delay : Int) : Chip :=
  -- Nanoseconds from the newest edge to the arrival, then GPS time at that edge.
  let since := (h.t4 : Int) - gptpNs k c 0
  let gps := (h.t3 : Int) + delay - 19000000000 - since
  let ms := if c.flag Key.Epoch.EPOCH_ALIGNED then (c.num Key.Epoch.EDGE_GNSS_MS : Int) else gps / 1000000
  let o := (ms * 1000000 - gps) * 1000
  if timeWithheld k c then c else timeQueue k c k.epoch o ms.toNat (min (h.tErr + 5) 65535) (c.num (Key.Sensor.TEMP 40))

/-- A sender's 802.1AS time is GPS time (R351) only in LOCKED and HOLDOVER, which bits 2–1 of FIX show.
[DEDUCED: log 58] -/
def helloAligned (h : Hello) : Bool := h.fix / 2 % 4 = 1 || h.fix / 2 % 4 = 2

/-- HELLO_RECEIVED: link state, records, peer delay, fabric time. -/
def execHelloReceived (f : Fin 2) (h : Hello) (s : State) : Host.Outcome State Fault Refusal :=
  onChip (fun k c =>
    let n := f.val
    let now := nowUs k c
    if !fabOn c || unitAshed c (unitFab n) || armedFor k c Key.Inj.FAB_LINK n then c
    else
      let l := fabLink c n
      let good := if l.peer = h.identity ∧ l.good ≠ 0 then l.good + 1 else 1
      let c := fabLinkSet c n { peer := h.identity, good, last := some now, t3 := h.t3, t4 := h.t4 }
      let own := h.records.find? (·.identity = h.identity)
      let number := (own.map (·.number)).getD 0
      let c : Chip := { c with fab := h.records.foldl (fun fab r =>
        recTake now (fabSelf c) fab r (if r.identity = h.identity then some (h.fix % 2 = 1) else none)) c.fab }
      let c := if 3 ≤ good && !fabUpLink c n then
          closeHandling ((c.put (Key.FLink.FLINK_STATE n) 1).put (Key.FLink.FLINK_EPOCH n) (wireEpoch k.epoch)) 0x0D01 (unitFab n)
        else c
      if !fabUpLink c n then c
      else
        let c := (c.put (Key.FLink.PEER_IDENTITY n) h.identity).put (Key.FLink.PEER_NUMBER n) number
        if h.t1 = 0 then c
        else
          let delay : Int := (((h.t4 : Int) - h.t1) - ((h.t3 : Int) - h.t2)) / 2
          let c := c.put (Key.FLink.PEER_DELAY n) (fInt fmt32 (max 0 delay))
          let src := c.num Key.Fab.TIME_SOURCE
          match fabRoute c src with
          | some (_, p) => if src ≠ 0 && src ≠ fabNumber c && p = n && helloAligned h then fabTime k c h delay else c
          | none => c) s

/-- FABRIC_LINK_TIMEOUT: 30 ms after the last good HELLO. -/
def execFabricLinkTimeout (f : Fin 2) (s : State) : Host.Outcome State Fault Refusal :=
  onChip (fun k c =>
    match (fabLink c f.val).last with
    | some t => if t + 30000 ≤ nowUs k c then fabLinkDown k c f.val false else c
    | none => c) s

/-- MODULE_RECORD_TIMEOUT: a record not refreshed for 100 ms marks its module ABSENT; its number stays HELD (R358, R359). -/
def execModuleRecordTimeout (identity : Nat) (s : State) : Host.Outcome State Fault Refusal :=
  onChip (fun k c =>
    match fabRec c identity with
    | none => c
    | some r =>
      if nowUs k c < r.fresh + 100000 then c
      else
        let recs := c.fab.recs.map fun q : FabRec => if q.identity = identity then { q with present := false } else q
        let held := if r.number = 0 then c.fab.held
          else c.fab.held.filter (fun h => decide (h.1 ≠ r.number)) ++ [(r.number, k.epoch)]
        { c with fab := { c.fab with recs, held } }) s

/-- NUMBER_HOLD_EXPIRY: an ABSENT module's number is freed. -/
def execNumberHoldExpiry (m : Fin 16) (s : State) : Host.Outcome State Fault Refusal :=
  onChip (fun k c =>
    let n := m.val + 1
    match c.fab.held.find? (·.1 = n) with
    | some (_, e) =>
      if e + 1000 * c.num Key.Fab.NUMBER_HOLD ≤ k.epoch then
        { c with fab := { c.fab with
          held := c.fab.held.filter (fun h => decide (h.1 ≠ n))
          recs := c.fab.recs.filter fun r => r.present || decide (r.number ≠ n) } }
      else c
    | none => c) s

/-- Whether a HELD number has come back with its module is PRESENT again. -/
def fabUsed (c : Chip) (n : Nat) : Bool := (fabPresent c).any (·.number = n) || c.fab.held.any (·.1 = n)

/-- SETTLING_END: an AUTO module takes its former number, else the lowest free one in ascending order of IDENTITY among
those that settle with it; without a peer it is stand-alone; without a free number UNNUMBERED (R359, R360). -/
def execSettlingEnd (s : State) : Host.Outcome State Fault Refusal :=
  onChip (fun k c =>
    if !fabOn c || c.num Key.Fab.FAB_STATE ≠ 1 || nowUs k c < c.fab.settleAt + 1000 * c.num Key.Fab.FAB_SETTLE then c
    else
      let go := fun (st n : Nat) => (c.put Key.Fab.FAB_STATE st).put Key.Fab.MODULE_NUMBER n
      if fabPresent c = [] then go 0 1
      else if c.fab.former ≠ 0 then go 2 c.fab.former
      else
        let free := ((List.range 16).map (· + 1)).filter fun n => !fabUsed c n
        let rank := ((fabPresent c).filter fun r => r.number = 0 && decide (r.identity < fabSelf c)).length
        match free[rank]? with
        | some n => go 2 n
        | none => go 4 0) s

/-- K8: the fabric starts (R359, R360). [DEDUCED: log 58] -/
def fabStart (k : Keeper) (c : Chip) : Chip :=
  let c : Chip := { c with fab := { settleAt := nowUs k c, ownAt := c.fab.ownAt, ownErr := c.fab.ownErr } }
  let cfg := c.num Key.Fab.NUMBER_CFG
  if !c.flag Key.Fab.FAB_ENABLE then (c.put Key.Fab.FAB_STATE 0).put Key.Fab.MODULE_NUMBER 1
  else if cfg ≠ 0 then (c.put Key.Fab.FAB_STATE 2).put Key.Fab.MODULE_NUMBER cfg
  else (c.put Key.Fab.FAB_STATE 1).put Key.Fab.MODULE_NUMBER 0

/-- OTHER_FABRIC_PORT_FRAME (R356). -/
def execOtherFabricPortFrame (f : Fin 2) (s : State) : Host.Outcome State Fault Refusal :=
  onChip (fun _ c => if up c 8 then c.bump (Key.FLink.FLINK_DISCARDS f.val) else c) s

/-- ETH_LINK_CHANGE: a PHY reports its link (R350); a fabric link is DOWN at once when its PHY loses it (R357). -/
def execEthLinkChange (port : Fin 14) (up : Bool) (s : State) : Host.Outcome State Fault Refusal :=
  onChip (fun k c =>
    let c : Chip := { c with eth := { c.eth with phy := c.eth.phy.set port.val up } }
    if 12 ≤ port.val && !up then fabLinkDown k c (port.val - 12) false else c) s

/-! ## Relaying (R361, R362) -/

/-- Sends a JOP frame toward its destination: an origin sends it with 15 hops, a relay has decremented them. On a link that
went DOWN since the routes' edge it is lost (R361). [DEDUCED: log 58] -/
def fabSend (c : Chip) (type : Nat) (fr : FabFrame) : Option Chip :=
  (fabRoute c fr.dst).map fun r =>
    if fabUpLink c r.2 then c.emit (.fab r.2 type fr.src fr.dst fr.hops fr.origAddr.toNat fr.origPort.toNat fr.payload) else c

/-- A relay decrements HOPS and discards the frame at 0; a frame without a route is lost. -/
def fabRelay (c : Chip) (type : Nat) (fr : FabFrame) : Chip :=
  if fr.hops ≤ 1 then c.bump Key.Fab.FWD_LOST
  else (fabSend c type { fr with hops := fr.hops - 1 }).getD c

/-- A fabric port is ashed: its link is held DOWN (R367). -/
def fabAsh (k : Keeper) (c : Chip) (f : Nat) : Chip :=
  fabNoPeer (((fabLinkSet c f {}).put (Key.FLink.FLINK_STATE f) 2).put (Key.FLink.FLINK_EPOCH f) (wireEpoch k.epoch)) f

/-- Its ash is cleared. -/
def fabUnash (c : Chip) (f : Nat) : Chip := c.put (Key.FLink.FLINK_STATE f) 0

end Sys2Proof.Machine
end

