-- ==== Sys2Proof/Machine/Power.lean ====
section
/-! DEFINITION. Clocks, gates, power domains, housekeeping, thermal stages and write permissions (17), and the power
figures of 19 and 20. -/

namespace Sys2Proof.Machine

/-! ## PLLs and clock domains (R414–R418) -/

def pllOf (c : Chip) (p : Nat) : PllX := nth c.pwr.plls p {}
def pllSet (c : Chip) (p : Nat) (x : PllX) : Chip := { c with pwr := { c.pwr with plls := c.pwr.plls.set p x } }
def pllLocked (c : Chip) (p : Nat) : Bool := c.num (Key.Pll.PLL_STATE p) = 2

/-- A clock domain by Table 17.2: nominal frequency as binary32 MHz, primary and alternate PLL, and the divisor on the
alternate. -/
structure DomRow where
  freq : Nat
  primary : Nat
  alternate : Nat
  altDivisor : Nat

/-- Rows 1–8 of Table 17.2: the domains that run from a PLL. -/
def domRow (d : Nat) : DomRow :=
  match d with
  | 1 => ⟨0x44C80000, 0, 1, 0x01800000⟩
  | 2 => ⟨0x44480000, 0, 1, 0x03000000⟩
  | 3 => ⟨0x43C80000, 1, 0, 0x08000000⟩
  | 4 => ⟨0x44160000, 1, 0, 0x05000000 + 5592405⟩
  | 5 => ⟨0x44480000, 0, 1, 0x03000000⟩
  | 6 => ⟨fRatio fmt32 24552 100, 2, 3, (2 * 250000 * 2 ^ 24 + 24552) / (2 * 24552)⟩
  | 7 => ⟨0x439C4000, 3, 0, 0x0A000000 + 4026532⟩
  | _ => ⟨0x42A00000, 3, 0, 0x28000000⟩

/-- DOM_SOURCE of a PLL. -/
def domSource (p : Nat) : Nat := p + 1

/-- A domain runs from its primary. -/
def domPrimary (c : Chip) (d : Nat) : Chip :=
  let r := domRow d
  (((c.put (Key.Dom.DOM_FREQ d) r.freq).put (Key.Dom.DOM_SOURCE d) (domSource r.primary)).putFlag (Key.Dom.DOM_ON_ALT d)
    false).put (Key.Dom.DOM_DIVISOR d) (pllDivisor d)
where
  /-- DOM_DIVISOR on the primary, the object's default. -/
  pllDivisor (d : Nat) : Nat := (domDivisorDefault d).toNum

/-- A domain runs from its alternate. [DEDUCED: log 78] -/
def domAlternate (c : Chip) (d : Nat) : Chip :=
  let r := domRow d
  (((c.put (Key.Dom.DOM_FREQ d) r.freq).put (Key.Dom.DOM_SOURCE d) (domSource r.alternate)).putFlag (Key.Dom.DOM_ON_ALT d)
    true).put (Key.Dom.DOM_DIVISOR d) r.altDivisor

/-- A domain stops: CLOCK_NONE. -/
def domStop (k : Keeper) (c : Chip) (d : Nat) (injected : Bool) : Chip :=
  raise k (((c.put (Key.Dom.DOM_FREQ d) 0).put (Key.Dom.DOM_SOURCE d) 5).putFlag (Key.Dom.DOM_ON_ALT d) false) 0x1103
    (unitDom d) injected

/-- A domain comes up with its power domain, on its primary if that is locked (R418). [DEDUCED: log 78] -/
def domStart (k : Keeper) (c : Chip) (d : Nat) : Chip :=
  let r := domRow d
  if pllLocked c r.primary then domPrimary c d
  else if pllLocked c r.alternate then domAlternate c d
  else domStop k c d false

/-- A domain is down: it stands on the hearth at no frequency. [DEDUCED: log 78] -/
def domDown (c : Chip) (d : Nat) : Chip :=
  ((c.put (Key.Dom.DOM_FREQ d) 0).put (Key.Dom.DOM_SOURCE d) 0).putFlag (Key.Dom.DOM_ON_ALT d) false

/-- A PLL is lost: its domains switch to their alternates or stop; it restarts (R415). [DEDUCED: log 78] -/
def pllLost (k : Keeper) (c : Chip) (p : Nat) (injected : Bool) : Chip :=
  let c := pllSet ((c.put (Key.Pll.PLL_STATE p) 3).bump (Key.Pll.LOCK_LOSSES p)) p {}
  let c := (List.range 9).foldl (fun c d =>
    if 1 ≤ d && c.num (Key.Dom.DOM_SOURCE d) = domSource p then
      let r := domRow d
      let other := if r.primary = p then r.alternate else r.primary
      let c := c.bump (Key.Dom.DOM_SWITCHES d)
      let c := if d = 6 then { c with gnss := { c.gnss with slip := true } } else c
      if pllLocked c other then (if r.primary = p then domAlternate c d else domPrimary c d) else domStop k c d injected
    else c) c
  raise k c 0x1102 (unitPll p) injected

/-- PLL_WINDOW: one comparison window of 10 µs (R415). -/
def pllWindow (k : Keeper) (c : Chip) (p : Nat) (drift : Int) : Chip :=
  let state := c.num (Key.Pll.PLL_STATE p)
  if state = 0 || state = 4 then c
  else
    let inj := armedAt c Key.Inj.PLL_LOCK p
    let c := disarm c Key.Inj.PLL_LOCK p
    let pass := drift.natAbs ≤ 500 && !inj
    let c := c.put (Key.Pll.LAST_DRIFT p) (fInt fmt32 drift)
    let x := pllOf c p
    if state = 2 then (if pass then c else pllLost k c p inj)
    else
      let n := if pass then x.passes + 1 else 0
      if 8 ≤ n then
        closeHandling ((pllSet c p ⟨n, some (nowUs k c + 1000)⟩).put (Key.Pll.PLL_STATE p) 2) 0x1102 (unitPll p)
      else (pllSet c p { x with passes := n }).put (Key.Pll.PLL_STATE p) 1

/-- PLL_RETURN: the domains of a relocked PLL return to it. -/
def pllReturn (k : Keeper) (c : Chip) (p : Nat) : Chip :=
  match (pllOf c p).returnAt with
  | none => c
  | some t =>
    if nowUs k c < t || !pllLocked c p then c
    else
      let c := pllSet c p { pllOf c p with returnAt := none }
      (List.range 9).foldl (fun c d =>
        if 1 ≤ d && (domRow d).primary = p && c.flag (Key.Dom.DOM_ON_ALT d) then
          let c := if d = 6 then { c with gnss := { c.gnss with slip := true } } else c
          domPrimary (c.bump (Key.Dom.DOM_SWITCHES d)) d
        else c) c

/-- HEARTH_PPB is measured, and the drift state judged (R413). -/
def hearthPpb (k : Keeper) (c : Chip) (ppb : Nat) : Chip :=
  if !up c 8 || c.num Key.Time.TIME_STATE ≠ timeLocked then c
  else
    let inj := armedFor k c Key.Inj.HEARTH_DRIFT 1
    let ppb := if inj then 0x44E10000 else ppb
    let c := c.put Key.Time.HEARTH_PPB ppb
    let far := fLt fmt32 (fNat fmt32 (c.num Key.Hearth.DRIFT_LIMIT)) (fAbs fmt32 ppb)
    let beyond := if far then c.pwr.beyond + 1 else 0
    let within := if far then 0 else c.pwr.within + 1
    let c := { c with pwr := { c.pwr with beyond, within } }
    if 10 ≤ beyond && c.num Key.Hearth.HEARTH_STATE = 1 then
      raise k ((c.put Key.Hearth.HEARTH_STATE 2).bump Key.Hearth.HEARTH_DRIFTS) 0x1101 theModule inj
    else if 10 ≤ within && c.num Key.Hearth.HEARTH_STATE = 2 then
      closeHandling (c.put Key.Hearth.HEARTH_STATE 1) 0x1101 theModule
    else c

/-! ## Gates (R419, R420) -/

/-- Parent of a node of Table 17.3, by sub-index − 1. -/
def gateParent (j : Nat) : Option Nat := if 1 ≤ j && j ≤ 3 then some 0 else if 9 ≤ j then some 8 else none

/-- Children of a node. -/
def gateChildren (j : Nat) : List Nat := (List.range 21).filter fun i => gateParent i = some j

/-- A camera other than CAM0 is enabled. -/
def memCams (od : OD) : Bool := (camsOn od).any fun n => 1 ≤ n

/-- The users of a node are enabled: closure is refused with IN_USE (Table 17.3). -/
def gateUsed (od : OD) (j : Nat) : Bool :=
  let on := fun key => odNum od key ≠ 0
  let sources := (List.range 16).filter fun s => on (Key.Src.SRC_ENABLE s)
  match j with
  | 0 | 8 => false
  | 1 => on (Key.CamCfg.CAM_ENABLE 0)
  | 2 => memCams od
  | 3 => (List.range 8).any fun n => bitOf (odNum od (Key.CamCfg.OUT_MASK n)) 1
  | 4 => !sources.isEmpty || (List.range 8).any fun z => on (Key.Zone.ZONE_ENABLE z)
  | 5 => sources.any (fun s => odNum od (Key.Src.KIND s) = 2) || (List.range 4).any fun p => on (Key.Eth.LINK p)
  | 6 => memCams od
  | 7 => on Key.Fab.FAB_ENABLE
  | _ => on (Key.Can.PORT_ENABLE (j - 9))

/-- A node is open or busy. -/
def gateLive (od : OD) (j : Nat) : Bool := odNum od (Key.Gate.GATE_STATE j) ≠ 0

/-- Result of a write of GATE_ENABLE beyond the checks of R59, judged with the pending writes (R420). A child that a
pending write closes is still open or busy. -/
def gateCheck (od : OD) (j : Nat) (open_ : Bool) : Nat :=
  if open_ then Rc.OK
  else if (gateChildren j).any (gateLive od) then Rc.CHILD_ACTIVE
  else if gateUsed od j then Rc.IN_USE
  else Rc.OK

/-- A configuration enables a user of a closed node (R420): judged for the nodes of Table 17.3 that gate a user. -/
def gateClash (od : OD) : Bool :=
  (List.range 21).any fun j => odNum od (Key.Gate.GATE_ENABLE j) = 0 && j ≠ 0 && j ≠ 8 && j ≠ 5 && gateUsed od j
    || (j = 5 && odNum od (Key.Gate.GATE_ENABLE 5) = 0
      && (List.range 16).any fun s => odNum od (Key.Src.SRC_ENABLE s) ≠ 0 && odNum od (Key.Src.KIND s) = 2)

/-- GATE_ENABLE applies at its edge (R420). -/
def gateApply (c : Chip) (j : Nat) (open_ : Bool) : Chip :=
  if open_ then
    let c := match gateParent j with
      | some p => if gateOpen c p then c else (c.putFlag (Key.Gate.GATE_ENABLE p) true).put (Key.Gate.GATE_STATE p) 1
      | none => c
    ((c.putFlag (Key.Gate.GATE_ENABLE j) true).put (Key.Gate.GATE_STATE j) 1).put Key.Gate.GATE_RESULT Rc.OK
  else
    let r := gateCheck c.od j false
    if r ≠ Rc.OK then c.put Key.Gate.GATE_RESULT r
    else
      let c := (c.putFlag (Key.Gate.GATE_ENABLE j) false).put Key.Gate.GATE_RESULT Rc.OK
      if gateOpen c j then c.put (Key.Gate.GATE_STATE j) 2 else c

/-- GATE_CLOSED: the node's last work is done, and its clock stops. [DEDUCED: log 78] -/
def gateClosed (c : Chip) (j : Nat) : Chip :=
  if c.num (Key.Gate.GATE_STATE j) = 2 then c.put (Key.Gate.GATE_STATE j) 0 else c

/-! ## Power domains (R421, R422) -/

/-- Clock domains a power domain carries. -/
def pdClocks (d : Nat) : List Nat :=
  match d with
  | 2 => [2] | 3 => [1] | 4 => [1] | 5 => [3] | 6 => [5] | 8 => [4] | 9 => [6] | 11 => [7] | 12 => [8] | _ => []

/-- A domain's state changes. -/
def pdSet (k : Keeper) (c : Chip) (d st : Nat) : Chip :=
  if c.num (Key.Pd.PD_STATE d) = st then c
  else (c.put (Key.Pd.PD_STATE d) st).put (Key.Pd.PD_EPOCH d) (wireEpoch k.epoch)

/-- A domain comes up, or stays up over a restart; one that is ashed is kept off (R86). -/
def pdUp (k : Keeper) (c : Chip) (d : Nat) : Chip :=
  if unitAshed c (unitPd d) then c.put (Key.Pd.PD_STATE d) 4
  else
    (pdClocks d).foldl (fun c x =>
      if c.num (Key.Dom.DOM_FREQ x) = 0 && c.num (Key.Dom.DOM_SOURCE x) ≠ 5 then domStart k c x else c) (pdSet k c d 2)

/-- A domain goes down. -/
def pdDown (k : Keeper) (c : Chip) (d : Nat) : Chip :=
  (pdClocks d).foldl domDown (pdSet k c d 0)

/-- The domains go down in the reverse order of Table 3.5 with the entry to BANKED, and stand as Table 3.9 says. -/
def pdBanked (k : Keeper) (c : Chip) : Chip :=
  let c := [15, 8, 12, 11, 10, 14, 13, 5, 4, 3, 7, 6, 2].foldl (pdDown k) c
  let c := [9, 1, 0].foldl (fun c d => pdSet k c d 2) (domDown c 6)
  (List.range 4).foldl (fun c p => c.put (Key.Pll.PLL_STATE p) 0) c

/-- A burst in BANKED runs PD10 and the GNSS clocks, and ends (Table 3.9). -/
def pdBurst (k : Keeper) (c : Chip) (on : Bool) : Chip :=
  if on then
    let c := pdSet k (c.put (Key.Pll.PLL_STATE (domRow 6).primary) 2) 10 2
    domPrimary c 6
  else domDown (pdSet k (c.put (Key.Pll.PLL_STATE (domRow 6).primary) 0) 10 0) 6

/-- PD_RAIL: the domain faults, and is restarted (R421). -/
def pdRail (k : Keeper) (c : Chip) (d : Nat) (injected : Bool) : Chip :=
  let c := ((c.put (Key.Pd.PD_STATE d) 4).put (Key.Pd.PD_EPOCH d) (wireEpoch k.epoch)).bump (Key.Pd.PD_FAULTS d)
  raise k c 0x1104 (unitPd d) injected

/-- The domain's restart holds. -/
def pdHolds (k : Keeper) (c : Chip) (d : Nat) : Chip :=
  if c.num (Key.Pd.PD_STATE d) = 4 && !unitAshed c (unitPd d) then
    closeHandling ((c.put (Key.Pd.PD_STATE d) 2).put (Key.Pd.PD_EPOCH d) (wireEpoch k.epoch)) 0x1104 (unitPd d)
  else c

/-- Domains a KINDLING step powers (Table 3.5). -/
def stepDomains (step : Nat) : List Nat :=
  match step with
  | 0 => [0] | 1 => [1] | 2 => [2, 6] | 3 => [7] | 4 => [3, 4] | 5 => [5] | 6 => [13, 14] | 8 => [9, 10, 11, 12]
  | 9 => [8, 15] | _ => []

/-- The HEARTH and EMBER domains run at 100 MHz and 1 MHz while the feed is there (R412). -/
def hearthShow (c : Chip) : Chip := (c.put (Key.Dom.DOM_FREQ 0) 0x42C80000).put (Key.Dom.DOM_FREQ 9) 0x3F800000

/-- A KINDLING step powers its domains. The PLLs lock with K1. -/
def pwrStep (k : Keeper) (c : Chip) (step : Nat) : Chip :=
  let c := if step = 0 then hearthShow c else c
  let c := if step = 1 then (List.range 4).foldl (fun c p =>
      if unitAshed c (unitPll p) then c.put (Key.Pll.PLL_STATE p) 4
      else if c.num (Key.Pll.PLL_STATE p) ≠ 0 && c.num (Key.Pll.PLL_STATE p) ≠ 4 then c
      else (pllSet c p ⟨8, none⟩).put (Key.Pll.PLL_STATE p) 2) c else c
  (stepDomains step).foldl (pdUp k) c

/-! ## Sensors (R424–R426, R431) -/

/-- A sensor is watched (R426). -/
def watched (c : Chip) (i : Nat) : Bool := 32 ≤ i || c.flag (Key.Sensor.WATCH i)

/-- The points of an NTC_TABLE: resistance and temperature. -/
def ntcPoints : List Byte → List (Nat × Nat)
  | a :: b :: d :: e :: f :: g :: h :: i :: t => (ofLeBytes [a, b, d, e], ofLeBytes [f, g, h, i]) :: ntcPoints t
  | _ => []

/-- Consecutive points keep the order R425 asks for. -/
def ntcSorted : List (Nat × Nat) → Bool
  | a :: b :: t => fLt fmt32 b.1 a.1 && fLt fmt32 a.2 b.2 && ntcSorted (b :: t)
  | _ => true

/-- An NTC_TABLE is accepted (R425). -/
def ntcOk (b : List Byte) : Bool :=
  let ps := ntcPoints b
  ps.all (fun p => fFinite fmt32 p.1 && fFinite fmt32 p.2 && fLt fmt32 0 p.1) && ntcSorted ps

/-- Temperature at a resistance by a table: linear in ln R between its points; none outside it. [DEDUCED: log 79] -/
def ntcTemp (r : Nat) : List (Nat × Nat) → Option Nat
  | a :: b :: t =>
    if fLe fmt32 b.1 r && fLe fmt32 r a.1 then
      let ln := fun x => let e := fExact fmt32 x; fxLn e.1.toNat e.2
      let ta := fExact fmt32 a.2
      let tb := fExact fmt32 b.2
      let span := ln a.1 - ln b.1
      let part := ln a.1 - ln r
      some (fRatio fmt32 ((ta.1 * (span - part) * tb.2 + tb.1 * part * ta.2) * (if span < 0 then -1 else 1))
        (ta.2 * tb.2 * span.natAbs))
    else ntcTemp r (b :: t)
  | _ => none

/-- The diode equation of R424, exact but for ln 16, rounded once. [DEDUCED: log 79] -/
def diodeTemp (c : Chip) (i : Nat) (v8 v128 : Nat) : Nat :=
  let e := fun x => fExact fmt32 x
  let s := e (c.num (Key.Sensor.SERIES_OHM i))
  let n := e (c.num (Key.Sensor.IDEALITY i))
  let o := e (c.num (Key.Sensor.OFFSET i))
  let a := e v128
  let b := e v8
  let den : Nat := a.2 * b.2 * s.2 * 1000000
  let dv : Int := a.1 * (b.2 * s.2 * 1000000 : Nat) - b.1 * (a.2 * s.2 * 1000000 : Nat) - s.1 * (120 * a.2 * b.2 : Nat)
  -- dv · q / (n · k · ln 16), with q / k = 16,021,766,340 / 1,380,649
  let num : Int := dv * 16021766340 * (n.2 * fxOne : Nat)
  let dd : Nat := den * 1380649 * n.1.toNat * (fxLn 16 1).toNat
  fRatio fmt32 (num * (100 * o.2 : Nat) - 27315 * (dd * o.2 : Nat) + o.1 * (100 * dd : Nat)) (dd * 100 * o.2)

/-- A reading of sensor `i`: its status (Table 17.12) and temperature; none where it gives none. -/
def hkTemp (c : Chip) (i : Nat) (r : HkReading) : Option (Nat × Nat) :=
  let kind := if i < 32 then c.num (Key.Sensor.KIND i) else 3
  match r, kind with
  | _, 0 => none
  | .invalid st, _ => some (max 1 st.val, 0)
  | .diode v8 v128, 1 =>
    if fLt fmt32 (fRatio fmt32 12 10) v128.toNat then some (1, 0)
    else if fLt fmt32 v128.toNat (fRatio fmt32 1 10) then some (2, 0)
    else some (0, diodeTemp c i v8.toNat v128.toNat)
  | .ntc ohm, 2 =>
    if fLt fmt32 (fNat fmt32 2000000) ohm.toNat then some (1, 0)
    else if fLt fmt32 ohm.toNat (fNat fmt32 20) then some (2, 0)
    else match ntcTemp ohm.toNat (ntcPoints (c.blob (Key.Sensor.NTC_TABLE i))) with
      | some t => some (0, t)
      | none => some (3, 0)
  | .temp t, 3 => if fFinite fmt32 t.toNat then some (0, t.toNat) else some (3, 0)
  | _, _ => none

/-- The reading against which SLOPE is taken: the third valid one before, or the oldest since KINDLING. -/
def histOld (l : List (Nat × Nat)) : Option (Nat × Nat) := (l.drop 1).getLast?

/-- SLOPE in K/s (R431). -/
def slopeOf (l : List (Nat × Nat)) : Nat :=
  match l.head?, histOld l with
  | some a, some b =>
    if a.1 ≤ b.1 then 0
    else
      let x := fExact fmt32 a.2
      let y := fExact fmt32 b.2
      fRatio fmt32 ((x.1 * y.2 - y.1 * x.2) * 1000) (x.2 * y.2 * (a.1 - b.1))
  | _, _ => 0

/-- Predicted time to LIMIT as a ratio in ms; none for infinity (R431). -/
def predOf (c : Chip) (i : Nat) : Option (Int × Nat) :=
  let l := nth c.pwr.hist i []
  match l.head?, histOld l with
  | some a, some b =>
    let x := fExact fmt32 a.2
    let y := fExact fmt32 b.2
    let lim := fExact fmt32 (c.num (Key.Sensor.LIMIT i))
    let dT := x.1 * y.2 - y.1 * x.2
    if dT ≤ 0 || a.1 ≤ b.1 then none
    else some ((lim.1 * x.2 - x.1 * lim.2) * (y.2 * (a.1 - b.1) : Nat), lim.2 * dT.toNat)
  | _, _ => none

/-- The permission a reading leaves (Table 17.8), with bounds in °C: 0 PERMITTED, 1 COLD, 2 HOT, 3 SENSOR. -/
def permit (was : Nat) (lo hi loBack hiBack : Int) (reading : Option Nat) : Nat :=
  match reading with
  | none => 3
  | some t =>
    let ge := fun x : Int => fLe fmt32 (fInt fmt32 x) t
    let le := fun x : Int => fLe fmt32 t (fInt fmt32 x)
    if !ge lo then 1 else if !le hi then 2
    else if was = 0 || (ge loBack && le hiBack) then 0
    else if was = 3 then (if !ge loBack then 1 else 2)
    else was

/-- UFS_WRITE and MRAM_WRITE follow the readings and the injections; the loss of a permission is raised (R433).
[DEDUCED: log 79] -/
def writeHold (k : Keeper) (c : Chip) : Chip :=
  let one := fun (c : Chip) (n key was : Nat) =>
    let inj := armedFor k c Key.Inj.WRITE_HOLD n
    let now := if inj then 3 else was
    let lost := c.num key = 0 && now ≠ 0
    let c := c.put key now
    if lost then raise k c 0x1108 theModule inj else c
  one (one c 0 Key.WrHold.UFS_WRITE c.pwr.ufs) 1 Key.WrHold.MRAM_WRITE c.pwr.mram

/-- The governing reading of a medium: UFS is sensor 42, MRAM 41 (Table 17.8, R435). -/
def governs (c : Chip) (i : Nat) (reading : Option Nat) : Chip :=
  if i = 42 then { c with pwr := { c.pwr with ufs := permit c.pwr.ufs (-25) 85 (-23) 83 reading } }
  else if i = 41 then
    let c := { c with pwr := { c.pwr with mram := permit c.pwr.mram (-40) 105 (-38) 103 reading } }
    match reading with
    | some t =>
      if fLe fmt32 (fNat fmt32 103) t then c.putFlag Key.WrHold.EPOCH_RESERVE true
      else if fLe fmt32 t (fNat fmt32 100) then c.putFlag Key.WrHold.EPOCH_RESERVE false
      else c
    | none => c
  else c

/-- What an injection makes a sensor read: its status and temperature. -/
def injReading (k : Keeper) (c : Chip) (i : Nat) : Option (Nat × Nat) :=
  if armedFor k c Key.Inj.THERMAL_SENSOR i then some (1, 0)
  else if armedFor k c Key.Inj.THERMAL_CRIT i || armedFor k c Key.Inj.THERMAL_CRIT_NEAR i then
    some (0, c.num (Key.Sensor.CRIT i))
  else if armedFor k c Key.Inj.THERMAL_WARN i then some (0, c.num (Key.Sensor.WARN i))
  else none

/-- A reading of a sensor is applied (R426). [DEDUCED: log 79] -/
def sensorApply (k : Keeper) (c : Chip) (i source : Nat) (r : HkReading) : Chip :=
  let forced := injReading k c i
  match (if unitAshed c (unitSensor i) then some (4, 0) else if c.pwr.chainBad then some (3, 0) else
      forced.or (hkTemp c i r)) with
  | none => c
  | some (st, t) =>
    let c := c.put (Key.Sensor.SENSE_STATUS i) st
    if st = 0 then
      let l := ((source, t) :: nth c.pwr.hist i []).take 4
      let c := { c with pwr := { c.pwr with hist := c.pwr.hist.set i l } }
      let c := ((c.put (Key.Sensor.TEMP i) t).put (Key.Sensor.TEMP_EPOCH i) (wireEpoch source)).put (Key.Sensor.SLOPE i)
        (slopeOf l)
      closeHandling (governs c i (some t)) 0x1107 (unitSensor i)
    else
      let c := governs c i none
      if st ≠ 4 && watched c i then raise k c 0x1107 (unitSensor i) forced.isSome else c

/-! ## Thermal stages (R429–R432) -/

/-- Sensors that take part: watched, with a valid reading. -/
def thermals (c : Chip) : List Nat :=
  (List.range 43).filter fun i => watched c i && c.num (Key.Sensor.SENSE_STATUS i) = 0 && nth c.pwr.hist i [] ≠ []

/-- A sensor's TEMP is at or above a limit. -/
def atLeast (c : Chip) (i key : Nat) : Bool := fLe fmt32 (c.num key) (c.num (Key.Sensor.TEMP i))

/-- Every reading that takes part is below WARN − HYST. -/
def coolEnough (c : Chip) : Bool :=
  (thermals c).all fun i => fLt fmt32 (c.num (Key.Sensor.TEMP i)) (fSub fmt32 (c.num (Key.Sensor.WARN i)) (c.num Key.Therm.HYST))

/-- Predicted time of a reading at CRIT, ms: an injection states it. [DEDUCED: log 79] -/
def predMs (k : Keeper) (c : Chip) (i : Nat) : Option (Int × Nat) :=
  if armedFor k c Key.Inj.THERMAL_CRIT i then some (1000, 1)
  else if armedFor k c Key.Inj.THERMAL_CRIT_NEAR i then some (200, 1)
  else predOf c i

/-- DERATE_LEVEL and ENC_DERATE take the higher of the thermal and the FN demands (R432, R303), an injected one among
them. -/
def pwrDerate (k : Keeper) (c : Chip) (injected : Bool) : Chip :=
  let inj := c.flt.armed.foldl (fun m a =>
    if a.key = Key.Inj.VISION_DERATE && decide (k.epoch < a.until_) then max m a.value else m) 0
  setDerate k c (max inj (max (c.num Key.Therm.DERATE_DEMAND) (c.num Key.Diss.FN_DEMAND)))
    (max (c.num Key.Therm.ENC_DEMAND) (c.num Key.Diss.FN_ENC_DEMAND)) injected

/-- An injected demand ends. -/
def derateEnd (k : Keeper) (c : Chip) : Chip :=
  match c.flt.armed.find? fun a => a.key = Key.Inj.VISION_DERATE && decide (a.until_ ≤ k.epoch) with
  | some a => pwrDerate k (disarm c a.key a.value) false
  | none => c

/-- The demands rise one step: DERATE_DEMAND first. -/
def demandUp (k : Keeper) (c : Chip) : Chip :=
  let d := c.num Key.Therm.DERATE_DEMAND
  let e := c.num Key.Therm.ENC_DEMAND
  pwrDerate k (if d < 6 then c.put Key.Therm.DERATE_DEMAND (d + 1) else c.put Key.Therm.ENC_DEMAND (min 3 (e + 1))) false

/-- The demands fall one step, in the reverse order. -/
def demandDown (k : Keeper) (c : Chip) : Chip :=
  let d := c.num Key.Therm.DERATE_DEMAND
  let e := c.num Key.Therm.ENC_DEMAND
  pwrDerate k (if 0 < e then c.put Key.Therm.ENC_DEMAND (e - 1) else c.put Key.Therm.DERATE_DEMAND (d - 1)) false

/-- The stage changes at an edge. -/
def stageTo (k : Keeper) (c : Chip) (stage sensor : Nat) : Chip :=
  ((c.put Key.Therm.THERMAL_STAGE stage).put Key.Therm.STAGE_EPOCH (wireEpoch k.epoch)).put Key.Therm.STAGE_SENSOR sensor

/-- Entry to CRITICAL (R429, R430, R94). [DEDUCED: log 79] -/
def thermalCritical (k : Keeper) (c : Chip) (sensor : Nat) (now : Bool) : Chip :=
  let inj := armedFor k c Key.Inj.THERMAL_CRIT sensor || armedFor k c Key.Inj.THERMAL_CRIT_NEAR sensor
  let c := stageTo k c 2 sensor
  let c := if c.num Key.Therm.DERATE_DEMAND = 0 then { c with pwr := { c.pwr with stepAt := k.epoch } } else c
  let c := raise k c 0x1106 (unitSensor sensor) inj
  if c.mode = .kindling then decideSafe (decideSafe c (k.epoch + 1) 6 0 false) (k.epoch + 1) 4 0 false
  else if now then decideSafe c (k.epoch + 1) 4 0 false
  else decideSafe c (k.epoch + 2) 3 0 false

/-- The stage is evaluated at an edge at which a watched reading was applied (R429). [DEDUCED: log 79] -/
def stageEval (k : Keeper) (c : Chip) : Chip :=
  let ws := thermals c
  let crit := ws.filter fun i => atLeast c i (Key.Sensor.CRIT i)
  let beyond := crit.find? fun i => atLeast c i (Key.Sensor.LIMIT i)
  let soon := crit.find? fun i => (predMs k c i).any fun p => decide (p.1 ≤ 500 * (p.2 : Int))
  let first := beyond.or (soon.or crit.head?)
  let c := match first with
    | some i => c.put Key.Therm.PRED_MS (match predMs k c i with
      | some p => min (p.1 / (p.2 : Int)).toNat 0xFFFFFFFE
      | none => 0xFFFFFFFF)
    | none => c.put Key.Therm.PRED_MS 0xFFFFFFFF
  let stage := c.num Key.Therm.THERMAL_STAGE
  match first with
  | some i => if stage = 2 then c else thermalCritical k c i (beyond.isSome || soon.isSome)
  | none =>
    if stage = 2 then stageTo k c 3 (c.num Key.Therm.STAGE_SENSOR)
    else if stage = 0 then
      match ws.find? fun i => atLeast c i (Key.Sensor.WARN i) with
      | some i =>
        let c := stageTo k c 1 i
        let c := raise k c 0x1105 (unitSensor i) (armedFor k c Key.Inj.THERMAL_WARN i)
        demandUp k { c with pwr := { c.pwr with stepAt := k.epoch } }
      | none => c
    else c

/-- SAFE holds for a thermal cause. -/
def thermalSafe (c : Chip) : Bool := c.mode = .safe && c.num Key.Safe.SAFE_CAUSES &&& 12 ≠ 0

/-- COOLING: how long every watched reading has been below RESUME. Without a thermal SAFE, 30 s of it lead to WARNING. -/
def coolingEdge (k : Keeper) (c : Chip) : Chip :=
  if c.num Key.Therm.THERMAL_STAGE ≠ 3 then { c with pwr := { c.pwr with coolAt := none } }
  else
    let below := (thermals c).all fun i => fLt fmt32 (c.num (Key.Sensor.TEMP i)) (c.num (Key.Sensor.RESUME i))
    let c := { c with pwr := { c.pwr with coolAt := if below then c.pwr.coolAt.or (some k.epoch) else none } }
    match c.pwr.coolAt with
    | some t => if t + 30000 ≤ k.epoch && !thermalSafe c then stageTo k c 1 (c.num Key.Therm.STAGE_SENSOR) else c
    | none => c

/-- THERMAL_RESUME: 30 s below RESUME in a thermal SAFE; KINDLING restarts at the edge they end (Table 3.3). -/
def thermalResume (k : Keeper) (c : Chip) : Chip :=
  match c.pwr.coolAt with
  | some t =>
    if c.num Key.Therm.THERMAL_STAGE = 3 && thermalSafe c && t + 30000 ≤ k.epoch + 1 then
      { c with modes := { c.modes with resumeDue := some (k.epoch + 1) } }
    else c
  | none => c

/-- DERATE_STEP (R432): one step of the thermal demands. -/
def derateStep (k : Keeper) (c : Chip) : Chip :=
  let stage := c.num Key.Therm.THERMAL_STAGE
  if stage = 0 || k.epoch < c.pwr.stepAt + c.num Key.Therm.DERATE_STEP_S * 1000 || !up c 2 then c
  else
    let c := { c with pwr := { c.pwr with stepAt := k.epoch } }
    let hot := (thermals c).any fun i => atLeast c i (Key.Sensor.WARN i)
    let c := if hot then demandUp k c else if coolEnough c then demandDown k c else c
    if stage = 1 && coolEnough c && c.num Key.Therm.DERATE_DEMAND = 0 && c.num Key.Therm.ENC_DEMAND = 0 then
      stageTo k c 0 0xFF
    else c

/-! ## The housekeeping round (R427, R428) -/

/-- Source epoch of a slot that has just ended: the newest epoch in which it began. -/
def slotSource (k : Keeper) (slot : Nat) : Nat :=
  let back := (k.epoch % 256 + 256 - 2 * slot) % 256
  k.epoch - back

/-- HOUSEKEEPING_SLOT: the slot's reading is due at the first open edge. -/
def hkSlot (k : Keeper) (c : Chip) (slot : Nat) (r : HkReading) : Chip :=
  if !up c 3 || unitAshed c (unitDie 18) then c
  else { c with pwr := { c.pwr with due := c.pwr.due ++ [(openEdge k, slot, slotSource k slot, r)] } }

/-- The value a supply's own die reports, by its slot. -/
def ownSupply (slot : Nat) : Nat :=
  if slot ≤ 67 then Key.Sec.V_SEC (slot - 62)
  else if slot ≤ 70 then Key.VGroup.SUPPLY_V (slot - 68)
  else Key.Grp.FIELD_V (slot - 71)

/-- A supply is compared with what its die reports (R428). -/
def hkCross (k : Keeper) (c : Chip) (slot v : Nat) : Chip :=
  let inj := armedAt c Key.Inj.HK_CROSS slot
  let c := disarm c Key.Inj.HK_CROSS slot
  let diff := fAbs fmt32 (fSub fmt32 v (c.num (ownSupply slot)))
  if inj || fLt fmt32 (c.num Key.Feed.CROSS_TOL) diff then raise k c 0x110A theModule inj else c

/-- A reference of the measuring chain; slot 127 ends the round (R428). -/
def hkReference (k : Keeper) (c : Chip) (slot : Nat) (ok : Bool) : Chip :=
  let inj := armedAt c Key.Inj.HK_CHAIN 1
  let c := disarm c Key.Inj.HK_CHAIN 1
  let c := if slot = 79 then { c with pwr := { c.pwr with chainFail := false } } else c
  let c := if ok && !inj then c
    else raise k { c with pwr := { c.pwr with chainFail := true, chainBad := true } } 0x1109 theModule inj
  if slot = 127 then
    let c := c.bump Key.Feed.ROUNDS
    if c.pwr.chainFail then c else closeHandling { c with pwr := { c.pwr with chainBad := false } } 0x1109 theModule
  else c

/-- The reading of a slot is applied (Table 17.6). [DEDUCED: log 79] -/
def hkApply (k : Keeper) (c : Chip) (slot source : Nat) (r : HkReading) : Chip :=
  if slot ≤ 42 then sensorApply k c slot source r
  else if slot ≤ 44 then
    let x : Bool × Nat := match r with
      | .temp t => (fFinite fmt32 t.toNat && !c.pwr.chainBad, t.toNat)
      | _ => (false, 0)
    { c with pwr := { c.pwr with panels := c.pwr.panels.set (slot - 43) x } }
  else match r with
    | .volts v =>
      if c.pwr.chainBad then c
      else if slot ≤ 60 then c.put (Key.Pd.PD_RAIL_V (slot - 45)) v.toNat
      else if slot = 61 then c.put Key.Feed.FEED_V v.toNat
      else if slot ≤ 78 then hkCross k c slot v.toNat
      else c
    | .reference ok => if 79 ≤ slot then hkReference k c slot ok else c
    | _ => c

/-- The power unit's part of an edge: readings due, the stage, permissions. -/
def pwrEdge (k : Keeper) (c : Chip) : Chip :=
  if !up c 1 then c
  else
    let due := c.pwr.due.filter fun x => decide (x.1 ≤ k.epoch)
    let c := { c with pwr := { c.pwr with due := c.pwr.due.filter fun x => decide (k.epoch < x.1) } }
    let c := due.foldl (fun c x => hkApply k c x.2.1 x.2.2.1 x.2.2.2) c
    let seen := due.any fun x => decide (x.2.1 ≤ 42) && watched c x.2.1
      && decide (c.num (Key.Sensor.SENSE_STATUS x.2.1) = 0)
    let c := if seen then stageEval k c else c
    derateEnd k (writeHold k (coolingEdge k c))

/-- EMBER_SENSOR_READ: in BANKED the ember reads HEARTH and MRAM (R423). -/
def emberRead (k : Keeper) (c : Chip) (hearth mram : HkReading) : Chip :=
  if c.mode ≠ .banked then c
  else
    let one := fun (c : Chip) (i : Nat) (r : HkReading) =>
      match (if unitAshed c (unitSensor i) then some (4, 0) else hkTemp c i r) with
      | some (0, t) => governs (((c.put (Key.Sensor.TEMP i) t).put (Key.Sensor.TEMP_EPOCH i) (wireEpoch k.epoch)).put
          (Key.Sensor.SENSE_STATUS i) 0) i (some t)
      | some (st, _) => governs (c.put (Key.Sensor.SENSE_STATUS i) st) i none
      | none => c
    let c := one (one c 40 hearth) 41 mram
    c.put Key.WrHold.MRAM_WRITE c.pwr.mram

/-- KINDLING begins: the stage is NORMAL, both demands are 0, and readings start anew (R429). From OFF the write
permissions are those of no reading. -/
def pwrKindling (c : Chip) (fromOff : Bool) : Chip :=
  let p := c.pwr
  let c := { c with pwr := { ufs := if fromOff then 0 else p.ufs, mram := if fromOff then 0 else p.mram, plls := p.plls } }
  (c.put Key.WrHold.UFS_WRITE c.pwr.ufs).put Key.WrHold.MRAM_WRITE c.pwr.mram

/-! ## Load and dissipation (R460, R480–R483) -/

/-- What the dies report of the backbone and of the power drawn. [DESIGN CHOICE: log 87] -/
def reportEdge (c : Chip) (m : EdgeMeas) : Chip :=
  let c := match m.backbone with
    | some (load, wait) =>
      let load := min load 100
      ((c.put Key.Load.BB_LOAD load).put Key.Load.BB_LOAD_PEAK (max load (c.num Key.Load.BB_LOAD_PEAK))).put
        Key.Load.GRANT_WAIT_MAX (min wait 0xFFFFFFFF)
    | none => c
  match m.power with
  | some (logic, stage) =>
    let d := fAdd fmt32 logic.toNat stage.toNat
    (((c.put Key.Diss.LOGIC_W logic.toNat).put Key.Diss.STAGE_W stage.toNat).put Key.Diss.DISS_W d).put Key.Diss.DISS_PEAK
      (fMax fmt32 (c.num Key.Diss.DISS_PEAK) d)
  | none => c

/-- FN_LIMIT_W (R483): 110 W up to 40 °C, 70 W from 70 °C on, linear between. [DEDUCED: log 79] -/
def fnLimit (c : Chip) : Nat :=
  let ch := c.num Key.Diss.FN_AMBIENT_CH
  let low := fNat fmt32 70
  if 32 ≤ ch || c.num (Key.Sensor.SENSE_STATUS ch) ≠ 0 || nth c.pwr.hist ch [] = [] then low
  else
    let t := c.num (Key.Sensor.TEMP ch)
    if fLe fmt32 t (fNat fmt32 40) then fNat fmt32 110
    else if fLe fmt32 (fNat fmt32 70) t then low
    else
      let e := fExact fmt32 t
      fRatio fmt32 (490 * (e.2 : Int) - 4 * e.1) (3 * e.2)

/-- FN_DEMAND_EVALUATION: each second on a DX8400-FN (R483). -/
def fnEval (k : Keeper) (c : Chip) (isFN : Bool) : Chip :=
  if !isFN || !up c 3 || k.epoch % 1000 ≠ 0 then c
  else
    let lim := fnLimit c
    let c := c.put Key.Diss.FN_LIMIT_W lim
    let d := c.num Key.Diss.FN_DEMAND
    let e := c.num Key.Diss.FN_ENC_DEMAND
    let passed := match c.pwr.fnAt with
      | none => true
      | some t => decide (t + c.num Key.Therm.DERATE_STEP_S * 1000 ≤ k.epoch)
    let diss := c.num Key.Diss.DISS_W
    let moved := fun c : Chip => pwrDerate k { c with pwr := { c.pwr with fnAt := some k.epoch } } false
    if fLt fmt32 lim diss && passed then
      if d < 6 then moved (c.put Key.Diss.FN_DEMAND (d + 1))
      else if e < 3 then moved (c.put Key.Diss.FN_ENC_DEMAND (e + 1)) else c
    else if fLt fmt32 diss (fSub fmt32 lim (c.num Key.Diss.FN_HYST)) && passed then
      if 0 < e then moved (c.put Key.Diss.FN_ENC_DEMAND (e - 1))
      else if 0 < d then moved (c.put Key.Diss.FN_DEMAND (d - 1)) else c
    else c

/-- PLL_WINDOW: A 10 µs comparison window of a PLL against the hearth locks it, or loses it and switches its domains
(R415). -/
def execPllWindow (pll : Fin 4) (driftPs : Int) (s : State) : Host.Outcome State Fault Refusal :=
  onChip (fun k c => pllWindow k c pll driftPs) s
/-- PLL_RETURN: 1 ms after a restarted PLL relocks, its domains return to it (R415). -/
def execPllReturn (pll : Fin 4) (s : State) : Host.Outcome State Fault Refusal := onChip (fun k c => pllReturn k c pll) s
/-- HEARTH_PPB_MEASUREMENT: Once per GPS second in LOCKED, the hearth error is measured and the drift state judged
(R413). -/
def execHearthPpbMeasurement (ppb : F32) (s : State) : Host.Outcome State Fault Refusal :=
  onChip (fun k c => hearthPpb k c ppb.toNat) s
/-- GATE_CLOSED: A busy node's work in flight completes, and its clock stops (R419). -/
def execGateClosed (node : Fin 21) (s : State) : Host.Outcome State Fault Refusal := onChip (fun _ c => gateClosed c node) s
/-- HOUSEKEEPING_SLOT: A 2 ms housekeeping slot measures its sensor, supply or reference (R427). -/
def execHousekeepingSlot (slot : Fin 128) (r : HkReading) (s : State) : Host.Outcome State Fault Refusal :=
  onChip (fun k c => hkSlot k c slot r) s
/-- DERATE_STEP: Every DERATE_STEP_S, the thermal demands rise or fall by one step (R432). -/
def execDerateStep (s : State) : Host.Outcome State Fault Refusal := onChip derateStep s
/-- EMBER_SENSOR_READ: In BANKED, the ember reads the HEARTH and MRAM sensors once per second (R423). -/
def execEmberSensorRead (hearth mram : HkReading) (s : State) : Host.Outcome State Fault Refusal :=
  onChip (fun k c => emberRead k c hearth mram) s
/-- FN_DEMAND_EVALUATION: Each second on a DX8400-FN, the FN demands step against FN_LIMIT_W (R483). -/
def execFnDemandEvaluation (s : State) : Host.Outcome State Fault Refusal := onChip (fun k c => fnEval k c Config.isFN) s
/-- THERMAL_RESUME: Watched readings below RESUME for 30 s in COOLING restart KINDLING from SAFE, or return the stage
to WARNING (R429). -/
def execThermalResume (s : State) : Host.Outcome State Fault Refusal := onChip thermalResume s

end Sys2Proof.Machine
end

