-- ==== Sys2Proof/Machine/Crypto.lean ====
section
/-! DEFINITION. SHA-256 and SHA-512 (FIPS 180-4) and the verification of Ed25519 signatures (RFC 8032), which R369 to R371
name. -/

namespace Sys2Proof.Machine

/-! ## SHA-2 -/

/-- The first `n` primes from `p` on that no earlier one divides. -/
def primesGo : Nat → Nat → List Nat → List Nat
  | 0, _, acc => acc.reverse
  | fuel + 1, p, acc => primesGo fuel (p + 1) (if acc.any (fun q => p % q == 0) then acc else p :: acc)

/-- The 80 primes below 410. -/
def shaPrimes : List Nat := primesGo 408 2 []

/-- The largest r with r^e ≤ n, bit by bit. -/
def rootGo (e n : Nat) : Nat → Nat → Nat
  | 0, r => r
  | k + 1, r => if (r + 2 ^ k) ^ e ≤ n then rootGo e n k (r + 2 ^ k) else rootGo e n k r

/-- The first `w` bits of the fractional part of an e-th root. -/
def rootFrac (e w p : Nat) : Nat := rootGo e (p * 2 ^ (e * w)) (w + 6) 0 % 2 ^ w

/-- One of the two functions: width, rounds, and the six triples of its Σ and σ. -/
structure Sha where
  w : Nat
  rounds : Nat
  S0 : Nat × Nat × Nat
  S1 : Nat × Nat × Nat
  s0 : Nat × Nat × Nat
  s1 : Nat × Nat × Nat

def sha2Of256 : Sha := ⟨32, 64, (2, 13, 22), (6, 11, 25), (7, 18, 3), (17, 19, 10)⟩
def sha2Of512 : Sha := ⟨64, 80, (28, 34, 39), (14, 18, 41), (1, 8, 7), (19, 61, 6)⟩

/-- Rotation to the right. -/
def rotr (w n x : Nat) : Nat := (x >>> n) ||| (x <<< (w - n) % 2 ^ w)

/-- Σ: three rotations. -/
def shaBig (h : Sha) (t : Nat × Nat × Nat) (x : Nat) : Nat := rotr h.w t.1 x ^^^ rotr h.w t.2.1 x ^^^ rotr h.w t.2.2 x

/-- σ: two rotations and a shift. -/
def shaSmall (h : Sha) (t : Nat × Nat × Nat) (x : Nat) : Nat := rotr h.w t.1 x ^^^ rotr h.w t.2.1 x ^^^ (x >>> t.2.2)

/-- The number whose bytes, most significant first, are the given ones. -/
def ofBeBytes (b : List Byte) : Nat := b.foldl (fun n x => 256 * n + x.toNat) 0

/-- `k` bytes, most significant first. -/
def beBytes (k n : Nat) : List Byte := (leBytes k n).reverse

/-- The message schedule, newest word first. -/
def shaSchedule (h : Sha) : Nat → List Nat → List Nat
  | 0, ws => ws
  | fuel + 1, ws =>
    let w := (shaSmall h h.s1 (ws.getD 1 0) + ws.getD 6 0 + shaSmall h h.s0 (ws.getD 14 0) + ws.getD 15 0) % 2 ^ h.w
    shaSchedule h fuel (w :: ws)

/-- One round. -/
def shaRound (h : Sha) (v : List Nat) (kw : Nat × Nat) : List Nat :=
  let m := 2 ^ h.w
  match v with
  | [a, b, c, d, e, f, g, x] =>
    let ch := (e &&& f) ^^^ ((m - 1 - e) &&& g)
    let maj := (a &&& b) ^^^ (a &&& c) ^^^ (b &&& c)
    let t1 := x + shaBig h h.S1 e + ch + kw.1 + kw.2
    let t2 := shaBig h h.S0 a + maj
    [(t1 + t2) % m, a, b, c, (d + t1) % m, e, f, g]
  | v => v

/-- One block. -/
def shaBlock (h : Sha) (ks : List Nat) (v : List Nat) (block : List Byte) : List Nat :=
  let k := h.w / 8
  let ws := (List.range 16).map fun i => ofBeBytes ((block.drop (k * i)).take k)
  let sched := (shaSchedule h (h.rounds - 16) ws.reverse).reverse
  let r := (ks.zip sched).foldl (shaRound h) v
  (v.zip r).map fun p => (p.1 + p.2) % 2 ^ h.w

/-- Every block. -/
def shaBlocks (h : Sha) (ks : List Nat) : Nat → List Nat → List Byte → List Nat
  | 0, v, _ => v
  | fuel + 1, v, b => if b = [] then v else shaBlocks h ks fuel (shaBlock h ks v (b.take (2 * h.w))) (b.drop (2 * h.w))

/-- The digest of a message. -/
def shaDigest (h : Sha) (msg : List Byte) : List Byte :=
  let block := 2 * h.w
  let zeros := (block - (msg.length + 1 + h.w / 4) % block) % block
  let padded := msg ++ 0x80 :: List.replicate zeros 0 ++ beBytes (h.w / 4) (8 * msg.length)
  let ks := (shaPrimes.take h.rounds).map (rootFrac 3 h.w)
  let v := (shaPrimes.take 8).map (rootFrac 2 h.w)
  (shaBlocks h ks (padded.length / block) v padded).flatMap (beBytes (h.w / 8))

def sha256 (msg : List Byte) : List Byte := shaDigest sha2Of256 msg
def sha512 (msg : List Byte) : List Byte := shaDigest sha2Of512 msg

/-! ## Ed25519 -/

/-- The field's prime and the group's order. -/
def edP : Nat := 2 ^ 255 - 19
def edL : Nat := 2 ^ 252 + 27742317777372353535851937790883648493

/-- Power modulo a number, over the exponent's bits from the highest. -/
def powModGo (b e m : Nat) : Nat → Nat → Nat
  | 0, r => r
  | k + 1, r =>
    let r := r * r % m
    powModGo b e m k (if e / 2 ^ k % 2 = 1 then r * b % m else r)

def edPow (b e : Nat) : Nat := powModGo b e edP 256 1
def edInv (x : Nat) : Nat := edPow x (edP - 2)

/-- d = −121665 / 121666. -/
def edD : Nat := (edP - 121665) * edInv 121666 % edP

/-- Points in extended coordinates. -/
structure EdPoint where
  x : Nat
  y : Nat
  z : Nat
  t : Nat

def edAdd (a b : EdPoint) : EdPoint :=
  let p := edP
  let A := (a.y + p - a.x) * (b.y + p - b.x) % p
  let B := (a.y + a.x) * (b.y + b.x) % p
  let C := a.t * 2 * edD * b.t % p
  let D := a.z * 2 * b.z % p
  let E := B + p - A
  let F := D + p - C
  let G := D + C
  let H := B + A
  ⟨E * F % p, G * H % p, F * G % p, E * H % p⟩

/-- A multiple of a point, over the factor's bits from the highest. -/
def edMulGo (q : EdPoint) (n : Nat) : Nat → EdPoint → EdPoint
  | 0, r => r
  | k + 1, r =>
    let r := edAdd r r
    edMulGo q n k (if n / 2 ^ k % 2 = 1 then edAdd r q else r)

def edMul (n : Nat) (q : EdPoint) : EdPoint := edMulGo q n 256 ⟨0, 1, 1, 0⟩

/-- Decodes a point: y, and the sign of x in the top bit. -/
def edDecode (b : List Byte) : Option EdPoint :=
  let n := ofLeBytes b
  let y := n % 2 ^ 255
  let sign := n / 2 ^ 255 % 2
  if b.length ≠ 32 ∨ edP ≤ y then none
  else
    let u := (y * y + edP - 1) % edP
    let v := (edD * y * y + 1) % edP
    let x0 := u * v ^ 3 % edP * edPow (u * v ^ 7 % edP) ((edP - 5) / 8) % edP
    let vx := v * x0 * x0 % edP
    let x := if vx = u then some x0
      else if vx = (edP - u) % edP then some (x0 * edPow 2 ((edP - 1) / 4) % edP) else none
    match x with
    | none => none
    | some x =>
      if x = 0 ∧ sign = 1 then none
      else
        let x := if x % 2 = sign then x else edP - x
        some ⟨x, y, 1, x * y % edP⟩

/-- The base point: y = 4/5, x even. -/
def edBase : Option EdPoint := edDecode (leBytes 32 (4 * edInv 5 % edP))

/-- Points are equal. -/
def edEq (a b : EdPoint) : Bool :=
  (a.x * b.z) % edP == (b.x * a.z) % edP && (a.y * b.z) % edP == (b.y * a.z) % edP

/-- Verifies a signature: S·B = R + k·A with k = SHA-512(R ‖ A ‖ M), S below the order. -/
def ed25519 (key msg sig : List Byte) : Bool :=
  let s := ofLeBytes (sig.drop 32)
  let k := ofLeBytes (sha512 (sig.take 32 ++ key ++ msg)) % edL
  match edDecode key, edDecode (sig.take 32), edBase with
  | some a, some r, some b => sig.length == 64 && s < edL && edEq (edMul s b) (edAdd r (edMul k a))
  | _, _, _ => false

end Sys2Proof.Machine
end

