-- ==== Sys2Proof/Machine/Update.lean ====
section
/-! DEFINITION. Field update (14): packages, builds, activation and trial. Datasets are in Dataset.lean. -/

namespace Sys2Proof.Machine

/-! ## Packages (R369–R371) -/

/-- Bytes `off` to `off + n` of a block. -/
def slice (b : List Byte) (off n : Nat) : List Byte := (b.drop off).take n

/-- A field of a block, least significant byte first. -/
def field (b : List Byte) (off n : Nat) : Nat := ofLeBytes (slice b off n)

/-- Part count of a package, and where its manifest ends. -/
def pkgParts (b : List Byte) : Nat := field b 3 1
def pkgEnd (b : List Byte) : Nat := 84 + 56 * pkgParts b

/-- Offset, and payload length, of part `i`. -/
def partOffset (b : List Byte) (i : Nat) : Nat := field b (84 + 56 * i + 12) 4
def partLength (b : List Byte) (i : Nat) : Nat := field b (84 + 56 * i + 16) 4

/-- Part entry `i` (Table 14.3) with its payload. -/
def pkgPart (b : List Byte) (i : Nat) : PartX :=
  let e := slice b (84 + 56 * i) 56
  ⟨field e 0 1, field e 1 1 = 1, field e 2 1, field e 4 4, field e 8 4, slice b (partOffset b i) (partLength b i),
    field e 20 4, slice e 24 32⟩

/-- The parts of a package. -/
def pkgAll (b : List Byte) : List PartX := (List.range (pkgParts b)).map (pkgPart b)

/-- Regions of a list of parts, each once. -/
def partRegions (ps : List PartX) : List Nat := (List.range 10).filter fun r => ps.any (·.region = r)

/-- The parts of one region in PIECE order. -/
def piecesOf (ps : List PartX) (r : Nat) : List PartX :=
  (List.range 8).flatMap fun i => ps.filter fun p => p.region = r && p.piece = i

/-- Step 1 of R372. [DEDUCED: log 76] -/
def pkgWf (b : List Byte) : Bool :=
  84 ≤ b.length && slice b 0 2 = [0x4A, 0x55] && field b 2 1 = 1 && 1 ≤ pkgParts b && pkgParts b ≤ 32
    && field b 6 2 = 0 && field b 17 3 = 0 && field b 16 1 ≤ 1 && pkgEnd b ≤ field b 12 4 && field b 12 4 = b.length
    && (List.range (pkgParts b)).all (fun i =>
      let e := 84 + 56 * i
      field b e 1 ≤ 9 && field b (e + 1) 1 ≤ 1 && field b (e + 2) 1 ≤ 7 && field b (e + 3) 1 = 0
        && partOffset b i + partLength b i ≤ field b 12 4)
    && (partRegions (pkgAll b)).all fun r =>
      (piecesOf (pkgAll b) r).map (·.piece) = List.range (piecesOf (pkgAll b) r).length

/-- What the signature covers: the manifest with SIGNATURE zero. -/
def pkgSigned (b : List Byte) : List Byte := slice b 0 20 ++ List.replicate 64 0 ++ slice b 84 (56 * pkgParts b)

/-- Signature and permitted signer (R370). -/
def pkgTrusted (c : Chip) (b : List Byte) : Bool :=
  let oem := field b 16 1 = 1
  let key := if oem then c.blob Key.Upd.OEM_KEY else Config.melhaKey
  ed25519 key (pkgSigned b) (slice b 20 64) && (!oem || (partRegions (pkgAll b)).all fun r => r = 7 || r = 9)

/-- A DELTA payload writes a piece from the piece of the active copy (R371). -/
def deltaRun (src : List Byte) : Nat → List Byte → List Byte → Option (List Byte)
  | 0, _, _ => none
  | fuel + 1, cmds, out =>
    match cmds with
    | [] => none
    | op :: t =>
      if op = 0 then (if t = [] then some out else none)
      else if op = 1 then
        let off := field t 0 4
        let n := field t 4 4
        if t.length < 8 || src.length < off + n then none else deltaRun src fuel (t.drop 8) (out ++ slice src off n)
      else if op = 2 then
        let n := field t 0 2
        if t.length < 2 + n then none else deltaRun src fuel (t.drop (2 + n)) (out ++ slice t 2 n)
      else if op = 3 then
        if t.length < 5 then none
        else deltaRun src fuel (t.drop 5) (out ++ List.replicate (field t 0 4) (BitVec.ofNat 8 (field t 4 1)))
      else none

/-- The pieces of a copy of a region. [DESIGN CHOICE: log 11] -/
def copyPiece (r : Nat) (c : RegionCopy) (i : Nat) : List Byte :=
  match c with
  | .empty => []
  | .factory => if r = 9 then [] else Config.factoryPiece r i
  | .built _ ps => ps.getD i []

/-- A part as built; none where it misses its length or its commands fail. -/
def buildPart (c : Chip) (p : PartX) : Option (List Byte) :=
  let out := if p.delta then deltaRun (copyPiece p.region (nth c.upd.active p.region .factory) p.piece)
      (p.payload.length + 1) p.payload []
    else some p.payload
  out.filter fun b => b.length = p.length

/-- The built part matches its digest. -/
def partGood (c : Chip) (p : PartX) : Bool :=
  match buildPart c p with
  | some b => sha256 b = p.digest
  | none => false

/-! ## Versions and copies -/

/-- Version of a copy: that of its first piece. [DEDUCED: log 76] -/
def copyVersion (r : Nat) : RegionCopy → Nat
  | .empty => 0
  | .factory => Config.factoryVersion r
  | .built v _ => v

/-- ACTIVE_VERSION and INACTIVE_VERSION follow the copies. -/
def regionShow (c : Chip) (r : Nat) : Chip :=
  (c.put (Key.Region.ACTIVE_VERSION r) (copyVersion r (nth c.upd.active r .factory))).put (Key.Region.INACTIVE_VERSION r)
    (copyVersion r (nth c.upd.inactive r .empty))

/-- Sets the inactive copy of a region. -/
def setInactive (c : Chip) (r : Nat) (x : RegionCopy) : Chip :=
  regionShow { c with upd := { c.upd with inactive := c.upd.inactive.set r x } } r

/-- The blocks of the shaper programs in force. [DESIGN CHOICE: log 11] -/
def shaperBlocks (c : Chip) : List (List Byte) := (List.range 128).map fun p => c.blob (Key.Prog.CODE p)

/-- The programs of region 7 become those of a set; a block that is no program leaves its program invalid. -/
def shaperLoad (c : Chip) (blocks : List (List Byte)) : Chip :=
  (List.range 128).foldl (fun c p =>
    let b := nth blocks p []
    if codeOk b then codeApply c p b
    else ((c.putBlob (Key.Prog.CODE p) b).put (Key.Prog.WORDS p) (b.length / 2)).putFlag (Key.Prog.VALID p) false) c

/-- A region's copies change places. -/
def regionSwap (c : Chip) (r : Nat) : Chip :=
  let a := nth c.upd.active r .factory
  let i := nth c.upd.inactive r .empty
  let c := if r = 7 then
      let now := shaperBlocks c
      let blocks := if c.upd.formerSet ≠ [] then c.upd.formerSet
        else match i with
          | .built _ ps => Config.shaperSet ps
          | _ => []
      let c := shaperLoad c blocks
      { c with upd := { c.upd with formerSet := now } }
    else c
  regionShow ({ c with upd := { c.upd with active := c.upd.active.set r i, inactive := c.upd.inactive.set r a } }.put
    (Key.Region.ACTIVE_SLOT r) (1 - c.num (Key.Region.ACTIVE_SLOT r))) r

/-- The inactive copy of a region is marked empty, with the shaper programs that went with it. -/
def emptyInactive (c : Chip) (r : Nat) : Chip :=
  let c := if r = 7 then { c with upd := { c.upd with formerSet := [] } } else c
  setInactive c r .empty

/-! ## Builds (R373, Table 14.5) -/

def buildOf (c : Chip) (b : Nat) : BuildX := nth c.upd.builds b {}
def buildSet (c : Chip) (b : Nat) (x : BuildX) : Chip := { c with upd := { c.upd with builds := c.upd.builds.set b x } }
def buildState (c : Chip) (b : Nat) : Nat := c.num (Key.Build.BUILD_STATE b)

/-- BUILDING or HELD: the build is in progress (R374). [DEDUCED: log 76] -/
def buildRuns (c : Chip) (b : Nat) : Bool := buildState c b = 1 || buildState c b = 2

/-- An update build is in progress (Table 3.3). -/
def updInProgress (c : Chip) : Bool := (List.range 4).any (buildRuns c)

/-- Bytes staged: transfers of UPD_PKG still open, packages that wait for their edge, and those in progress. -/
def stagedBytes (c : Chip) : Nat :=
  (c.dict.transfers.filter (·.key = Key.Upd.UPD_PKG)).foldl (fun n t => n + t.bytes.length) 0
    + (c.dict.pend.filter (·.key = Key.Upd.UPD_PKG)).foldl (fun n w => n + w.val.toBlob.length) 0
    + (List.range 4).foldl (fun n b => if buildRuns c b then n + (buildOf c b).staged else n) 0

/-- STAGING_FREE follows. -/
def stagingShow (c : Chip) : Chip := c.put Key.Upd.STAGING_FREE (2 ^ 30 - stagedBytes c)

/-- BUILD_REGIONS follows the parts. -/
def buildShow (c : Chip) (b : Nat) : Chip :=
  c.put (Key.Build.BUILD_REGIONS b) ((partRegions (buildOf c b).parts).foldl (fun m r => m + 2 ^ r) 0)

/-- A build ends ABORTED (4) or FAILED (5): its inactive copies are marked empty. -/
def buildEnd (c : Chip) (b state : Nat) : Chip :=
  let c := (partRegions (buildOf c b).parts).foldl emptyInactive c
  let c := buildSet c b { buildOf c b with stamp := c.upd.stamp, heldTo := 0 }
  let c := { c with upd := { c.upd with stamp := c.upd.stamp + 1 } }
  stagingShow ((c.put (Key.Build.BUILD_STATE b) state).put (Key.Build.HOLD_REASON b) 0)

/-- KINDLING, BANKED or OFF: builds in progress are ABORTED. -/
def updAbortAll (c : Chip) : Chip :=
  (List.range 4).foldl (fun c b => if buildRuns c b then buildEnd c b 4 else c) c

/-- Medium that keeps a region: MRAM for 7 and 9, else UFS (Table 14.1). -/
def regionMram (r : Nat) : Bool := r = 7 || r = 9

/-- Why a build may not write: 0 it may; HOLD_REASON otherwise. -/
def buildHold (c : Chip) (b : Nat) : Nat :=
  let rs := partRegions (buildOf c b).parts
  if c.num Key.WrHold.UFS_WRITE ≠ 0 && rs.any (fun r => !regionMram r) then 1
  else if c.num Key.WrHold.MRAM_WRITE ≠ 0 && rs.any regionMram then 2
  else if c.mode ≠ .service then 3
  else 0

/-- Slot a new package takes: a FREE one, else the oldest ABORTED or FAILED one. -/
def buildSlot (c : Chip) : Option Nat :=
  match (List.range 4).find? (fun b => buildState c b = 0) with
  | some b => some b
  | none =>
    ((List.range 4).filter fun b => buildState c b = 4 || buildState c b = 5).foldl (fun best b =>
      match best with
      | none => some b
      | some a => if (buildOf c b).stamp < (buildOf c a).stamp then some b else some a) none

/-- Bytes a region's slot holds (Table 14.1, region 9). [DESIGN CHOICE: log 11] -/
def slotRoom (r : Nat) : Nat := if r = 9 then 2 ^ 21 else Config.slotSize r

/-! ## Dataset layout (R378–R382) -/

/-- A record of a dataset: INDEX, SUB, TYPE, PROFILE and value. -/
abbrev DsRec := Nat × Nat × Nat × Nat × List Byte

/-- The key a record names. -/
def dsKey (r : DsRec) : Nat := mkKey r.1 r.2.1

/-- Reads `n` records; none where the bytes do not hold exactly these. [DESIGN CHOICE: log 48] -/
def dsParse : Nat → List Byte → Option (List DsRec)
  | 0, b => if b = [] then some [] else none
  | n + 1, b =>
    let len := field b 5 2
    if b.length < 7 + len then none
    else (dsParse n (b.drop (7 + len))).map fun t => (field b 0 2, field b 2 1, field b 3 1, field b 4 1, slice b 7 len) :: t

/-- The records of a dataset, with its header checked against Table 14.7. [DESIGN CHOICE: log 48] -/
def dsRecords (b : List Byte) : Option (List DsRec) :=
  if b.length < 16 || 16 < field b 8 1 || field b 9 7 ≠ 0 then none
  else (dsParse (field b 4 4) (b.drop 16)).filter fun l => l.all fun r => r.2.2.2.1 ≤ field b 8 1

/-- Whether a dataset's version is accepted (R379, R380): a DX6100 dataset carries its own PRODUCT. [DEDUCED: log 76] -/
def dsVersionOk (b : List Byte) : Bool :=
  let major := field b 0 1
  16 ≤ b.length && (if major = 1 then field b 2 2 = 0x6100
    else field b 2 2 = 0x8400 && (major = 2 || major = 3 || major = 4 || (major = 5 && field b 1 1 ≤ 2)))

/-- Profiles may name only RW and RWC objects (R382). [DEDUCED: log 76] -/
def dsProfilesOk (l : List DsRec) : Bool :=
  l.all fun r => r.2.2.2.1 = 0 || match objInfo (dsKey r) with
    | some o => o.acc = .rw || o.acc = .rwc
    | none => false

/-- The dataset a list of parts builds; none where a part cannot be built. -/
def partsDataset (c : Chip) (ps : List PartX) : Option (List Byte) :=
  (piecesOf ps 9).foldl (fun acc p => acc.bind fun b => (buildPart c p).map fun x => b ++ x) (some [])

/-- Step 8 of R372 with the profile check of R382. [DEDUCED: log 76] -/
def dsAccept (c : Chip) (ps : List PartX) : Nat :=
  if !(partRegions ps).contains 9 then Rc.OK
  else match partsDataset c ps with
    | none => Rc.DATASET_VERSION
    | some b =>
      if !dsVersionOk b then Rc.DATASET_VERSION
      else if field b 0 1 ≠ 5 then Rc.OK
      else match dsRecords b with
        | some l => if dsProfilesOk l then Rc.OK else Rc.MANIFEST_INVALID
        | none => Rc.MANIFEST_INVALID

/-! ## Acceptance (R372) -/

/-- Regions of packages accepted for an edge not yet reached. -/
def pendingRegions (c : Chip) : List Nat :=
  (c.dict.pend.filter (·.key = Key.Upd.UPD_PKG)).flatMap fun w => partRegions (pkgAll w.val.toBlob)

/-- A region belongs to a build in progress. -/
def regionBusy (c : Chip) (r : Nat) : Bool :=
  (List.range 4).any (fun b => buildRuns c b && (partRegions (buildOf c b).parts).contains r) || (pendingRegions c).contains r

/-- Result of a completed package beyond the checks of R59 before "mode" (R372). [DEDUCED: log 76] -/
def updCheck (c : Chip) (b : List Byte) : Nat :=
  let ps := pkgAll b
  let rs := partRegions ps
  let free := ((List.range 4).filter fun i => [0, 4, 5].contains (buildState c i)).length
  if !pkgWf b then Rc.MANIFEST_INVALID
  else if field b 4 2 ≠ 0x8400 then Rc.WRONG_PART
  else if !pkgTrusted c b then Rc.SIGNATURE_FAIL
  else if c.mode ≠ .service then Rc.MODE_FORBIDDEN
  else if rs.any (regionBusy c) then Rc.BUSY
  else if c.num Key.Health.HEALTH ≠ 0 && rs.any c.upd.trial.contains then Rc.GREEN_TRIAL
  else if ps.any (fun p => p.delta && p.base ≠ copyVersion p.region (nth c.upd.active p.region .factory)) then
    Rc.BASE_MISMATCH
  else if dsAccept c ps ≠ Rc.OK then dsAccept c ps
  else if free ≤ (c.dict.pend.filter (·.key = Key.Upd.UPD_PKG)).length then Rc.BUILDS_FULL
  else if rs.any (fun r => slotRoom r < (piecesOf ps r).foldl (fun n p => n + p.length) 0) then Rc.NO_ROOM
  else Rc.OK

/-- Later packages take regions from COMPLETE builds; one that has lost every region is FREE (R373). -/
def takeRegions (c : Chip) (rs : List Nat) : Chip :=
  (List.range 4).foldl (fun c b =>
    if buildState c b = 3 && (buildOf c b).parts.any (fun p => rs.contains p.region) then
      let left := (buildOf c b).parts.filter fun p => !rs.contains p.region
      let c := buildShow (buildSet c b { buildOf c b with parts := left }) b
      if left = [] then
        ((c.put (Key.Build.BUILD_STATE b) 0).put (Key.Build.BUILD_SEQ b) 0).put (Key.Build.PROGRESS b) 0
      else c
    else c) c

/-- An accepted package becomes a build at its edge (R373). -/
def updStart (c : Chip) (b : List Byte) : Chip :=
  let ps := pkgAll b
  let c := takeRegions c (partRegions ps)
  match buildSlot c with
  | none => c
  | some n =>
    let c := (partRegions ps).foldl emptyInactive c
    let c := buildSet c n { parts := ps, staged := b.length }
    let c := (((c.put (Key.Build.BUILD_STATE n) 1).put (Key.Build.BUILD_SEQ n) (field b 8 4)).put (Key.Build.PROGRESS n) 0).put
      (Key.Build.HOLD_REASON n) 0
    stagingShow (buildShow c n)

/-- A build fails: its inactive copies are marked empty and UPD_BUILD_FAIL is raised. -/
def buildFail (k : Keeper) (c : Chip) (b : Nat) (injected : Bool) : Chip :=
  raise k (buildEnd c b 5) 0x0E01 (unitBuild b) injected

/-- BUILD_COMPLETE: the last piece is written, and the digests decide. -/
def buildComplete (k : Keeper) (c : Chip) (b : Nat) : Chip :=
  let x := buildOf c b
  if buildState c b ≠ 1 || buildHold c b ≠ 0 then c
  else if armedAt c Key.Inj.UPD_BUILD_FAIL b then buildFail k (disarm c Key.Inj.UPD_BUILD_FAIL b) b true
  else if !x.parts.all (partGood c) then buildFail k c b false
  else
    let c' := (partRegions x.parts).foldl (fun c' r =>
      let ps := piecesOf x.parts r
      setInactive c' r (.built ((ps.head?.map (·.version)).getD 0) (ps.map fun p => (buildPart c p).getD []))) c
    stagingShow ((c'.put (Key.Build.BUILD_STATE b) 3).put (Key.Build.PROGRESS b) 100)

/-- BUILD_HELD: writes are not permitted, or the mode has left SERVICE. -/
def buildHeld (k : Keeper) (c : Chip) (b : Nat) : Chip :=
  let why := buildHold c b
  if buildState c b = 1 && why ≠ 0 then
    let c := (c.put (Key.Build.BUILD_STATE b) 2).put (Key.Build.HOLD_REASON b) why
    if why = 3 then c else raise k c 0x0E02 (unitBuild b)
  else c

/-- UPD_HELD is injected: the build is held for 10 s. -/
def buildInject (k : Keeper) (c : Chip) (b : Nat) : Chip :=
  if buildState c b = 1 then
    let c := buildSet c b { buildOf c b with heldTo := k.epoch + 10000 }
    let why := if (partRegions (buildOf c b).parts).any (fun r => !regionMram r) then 1 else 2
    raise k ((c.put (Key.Build.BUILD_STATE b) 2).put (Key.Build.HOLD_REASON b) why) 0x0E02 (unitBuild b) true
  else c

/-- BUILD_RESUME: writing is permitted again in SERVICE. -/
def buildResume (k : Keeper) (c : Chip) (b : Nat) : Chip :=
  if buildState c b = 2 && buildHold c b = 0 && (buildOf c b).heldTo ≤ k.epoch then
    (c.put (Key.Build.BUILD_STATE b) 1).put (Key.Build.HOLD_REASON b) 0
  else c

/-- BUILD_WRITE_ERROR: the medium fails. -/
def buildWriteError (k : Keeper) (c : Chip) (b : Nat) : Chip :=
  if buildState c b = 1 then buildFail k c b false else c

/-- ABORT written true. -/
def buildAbort (c : Chip) (b : Nat) : Chip := if buildRuns c b then buildEnd c b 4 else c

/-- Built bytes: the rate of R373 bounds PROGRESS from below; how far it stands above that is free.
[DESIGN CHOICE: log 6; DESIGN CHOICE: log 13] -/
def buildProgress (c : Chip) (b : Nat) : Chip :=
  let x := buildOf c b
  let total := x.parts.foldl (fun n p => n + p.length) 0
  let least := min 100 (x.ms * 40 * 2 ^ 20 * 100 / (1000 * max total 1))
  let now := c.num (Key.Build.PROGRESS b)
  { (buildSet c b { x with ms := x.ms + 1 }).put (Key.Build.PROGRESS b)
      (max now (max least (Config.buildProgress c.free % 101))) with free := c.free + 1 }

/-! ## Activation and trial (R375–R377) -/

/-- A fallback (R377). -/
def updFallback (k : Keeper) (c : Chip) (injected : Bool) : Chip :=
  let c := c.upd.trial.foldl (fun c r => emptyInactive (regionSwap c r) r) c
  let c := (c.put Key.Health.HEALTH 0).bump Key.Health.FALLBACKS
  raise k (closeHandling (closeHandling c 0x0E04 theModule) 0x0E07 theModule) 0x0E05 theModule injected

/-- The copies whose digest fails at K3, injections among them: region, and whether it is the inactive one. -/
def badCopies (c : Chip) (found : List (Nat × Bool)) : List (Nat × Bool) :=
  found ++ (List.range 10).flatMap fun r =>
    (if armedAt c Key.Inj.IMAGE_CHECK r || armedAt c Key.Inj.IMAGE_NONE r then [(r, false)] else []) ++
    (if armedAt c Key.Inj.IMAGE_NONE r then [(r, true)] else [])

/-- Copies that fail, after a region's copies have changed places. -/
def badSwap (bad : List (Nat × Bool)) (rs : List Nat) : List (Nat × Bool) :=
  (bad.filter fun x => !(rs.contains x.1 && !x.2)).map fun x => if rs.contains x.1 then (x.1, false) else x

/-- The activation of every COMPLETE build (R375). [DEDUCED: log 77] -/
def updActivate (k : Keeper) (c : Chip) (badBuild : Bool) : Chip :=
  let ready := (List.range 4).filter fun b => buildState c b = 3
  let inj := armedAt c Key.Inj.UPD_ACTIVATION_FAIL 1
  let c := disarm c Key.Inj.UPD_ACTIVATION_FAIL 1
  if ready = [] then c
  else if badBuild || inj then
    raise k (ready.foldl (fun c b =>
      let c := buildSet c b { buildOf c b with stamp := c.upd.stamp }
      { c with upd := { c.upd with stamp := c.upd.stamp + 1 } }.put (Key.Build.BUILD_STATE b) 5) c) 0x0E03 theModule inj
  else
    let rs := (List.range 10).filter fun r => ready.any fun b => (partRegions (buildOf c b).parts).contains r
    let c := rs.foldl (fun c r => if r = 7 then { c with upd := { c.upd with formerSet := [] } } else c) c
    let c := rs.foldl regionSwap c
    let c := ready.foldl (fun c b =>
      buildShow ((((buildSet c b {}).put (Key.Build.BUILD_STATE b) 0).put (Key.Build.BUILD_SEQ b) 0).put
        (Key.Build.PROGRESS b) 0) b) c
    let c := { c with upd := { c.upd with
      trial := rs, counting := false, trialMs := 0, confirmMs := 0, accepted := false, confirmHeld := false } }
    ((((c.put Key.Health.HEALTH 1).put Key.Health.STARTS_USED 1).put Key.Health.TRIAL_ELAPSED 0).put Key.Health.HEALTH_CAUSE
      0).put Key.Health.ACTIVATION_EPOCH (wireEpoch k.epoch)

/-- K3 (R375, Table 14.6): the chip, and the fault that fails the step, if any. -/
def updK3 (k : Keeper) (c : Chip) (found : List (Nat × Bool)) (badBuild : Bool) : Chip × Option (Nat × Nat × Bool) :=
  let inj := fun r => armedAt c Key.Inj.IMAGE_CHECK r || armedAt c Key.Inj.IMAGE_NONE r
  let injected := (List.range 10).filter inj
  let bad := badCopies c found
  let c := (List.range 10).foldl (fun c r => disarm (disarm c Key.Inj.IMAGE_CHECK r) Key.Inj.IMAGE_NONE r) c
  let health := c.num Key.Health.HEALTH
  let activeBad := bad.filter (fun x => !x.2)
  let lost := fun (c : Chip) (bad : List (Nat × Bool)) (r : Nat) => bad.contains (r, true) || nth c.upd.inactive r .empty = .empty
  let trialBad := activeBad.filter fun x => c.upd.trial.contains x.1
  let none? := if health = 1 then trialBad.find? (fun x => lost c bad x.1) else none
  match none? with
  | some x => (raise k c 0x0E08 (unitRegion x.1) (injected.contains x.1), some (0x0E08, unitRegion x.1, injected.contains x.1))
  | none =>
    let back := health = 2 || (health = 1 && (!trialBad.isEmpty
      || decide (c.num Key.Health.TRIAL_STARTS ≤ c.num Key.Health.STARTS_USED)))
    let c1 := if back then updFallback k c (trialBad.any fun x => injected.contains x.1)
      else if health = 1 then c.put Key.Health.STARTS_USED (c.num Key.Health.STARTS_USED + 1) else c
    let bad1 := if back then badSwap bad c.upd.trial else bad
    let failing := (List.range 10).filter fun r => bad1.contains (r, false)
    match failing.find? (lost c1 bad1) with
    | some r => (raise k c1 0x0E08 (unitRegion r) (injected.contains r), some (0x0E08, unitRegion r, injected.contains r))
    | none =>
      let c2 := failing.foldl (fun c r => raise k (regionSwap c r) 0x0E06 (unitRegion r) (injected.contains r)) c1
      (if c2.num Key.Health.HEALTH = 0 then updActivate k c2 badBuild else c2, none)

/-- Acceptance satisfies R376 where it is asked for. [DEDUCED: log 77] -/
def acceptOk (c : Chip) : Bool := !c.flag Key.Health.ACCEPT_REQUIRED || c.upd.accepted

/-- CONFIRM_S has been accumulated. [DEDUCED: log 77] -/
def confirmDone (c : Chip) : Bool := c.num Key.Health.CONFIRM_S * 1000 ≤ c.upd.confirmMs

/-- HEALTH_CONFIRM: the set becomes SEASONED (Table 14.6). Without MRAM writes the record of it waits (R377). -/
def healthConfirm (c : Chip) : Chip :=
  if c.num Key.Health.HEALTH = 1 && confirmDone c && acceptOk c && c.upd.dsHeld = none
      && c.upd.trialMs ≤ c.num Key.Health.TRIAL_S * 1000 then
    { c.put Key.Health.HEALTH 0 with upd := { c.upd with confirmHeld := c.num Key.WrHold.MRAM_WRITE ≠ 0 } }
  else c

/-- TRIAL_WINDOW_END: not confirmed within the window. [DEDUCED: log 77] -/
def trialEnd (k : Keeper) (c : Chip) : Chip :=
  if c.num Key.Health.HEALTH = 1 && c.num Key.Health.TRIAL_S * 1000 ≤ c.upd.trialMs then
    healthBreak k c (if confirmDone c && !acceptOk c then 4 else 5) false
  else c

/-- UPD_ACCEPT applies. [DEDUCED: log 77] -/
def acceptApply (c : Chip) (n : Nat) : Chip :=
  if n = 1 then { c with upd := { c.upd with accepted := true } } else c

/-- The migrated dataset is written over the active copy (R381). -/
def dsWrite (c : Chip) (b : List Byte) : Chip :=
  let v := copyVersion 9 (nth c.upd.active 9 .factory)
  regionShow { c with upd := { c.upd with active := c.upd.active.set 9 (.built v [b]), dsHeld := none } } 9

/-- The update unit's part of an edge: trial counters, deferred writes, progress of builds. -/
def updEdge (c : Chip) : Chip :=
  let runs := c.mode ≠ .off && c.mode ≠ .banked
  let field_ := c.mode = .field
  let pass := c.mode = .field || c.mode = .harvest
  let green := c.num Key.Health.HEALTH = 1
  let u := c.upd
  let counting := u.counting || (green && field_)
  let c := if green then
      { c with upd := { u with
        counting := counting
        trialMs := if counting && runs then u.trialMs + 1 else u.trialMs
        confirmMs := if counting && pass then u.confirmMs + 1 else u.confirmMs } }.put Key.Health.TRIAL_ELAPSED
          (min 7200 ((if counting && runs then u.trialMs + 1 else u.trialMs) / 1000))
    else c
  let c := if runs && c.num Key.WrHold.MRAM_WRITE = 0 then
      let c := { c with upd := { c.upd with confirmHeld := false } }
      match c.upd.dsHeld with
      | some b => dsWrite c b
      | none => c
    else c
  let c := (List.range 4).foldl (fun c b => if buildState c b = 1 && buildHold c b = 0 then buildProgress c b else c) c
  if up c 8 then stagingShow c else c

/-- Feed is lost: a confirmation not yet written leaves the set GREEN (R377), and LPDDR5 contents are gone. -/
def updOff (c : Chip) : Chip :=
  let c := updAbortAll c
  let c := if c.upd.confirmHeld then c.put Key.Health.HEALTH 1 else c
  { c with upd := { c.upd with confirmHeld := false, dsHeld := none } }

/-- BUILD_COMPLETE: The last piece of a build is written and its digests decide COMPLETE or FAILED (R373). -/
def execBuildComplete (b : Fin 4) (s : State) : Host.Outcome State Fault Refusal := onChip (fun k c => buildComplete k c b) s
/-- BUILD_HELD: A build is held when writes are not permitted or the mode leaves SERVICE (R374). -/
def execBuildHeld (b : Fin 4) (s : State) : Host.Outcome State Fault Refusal := onChip (fun k c => buildHeld k c b) s
/-- BUILD_RESUME: A held build resumes where it stopped once writing is permitted in SERVICE (R374). -/
def execBuildResume (b : Fin 4) (s : State) : Host.Outcome State Fault Refusal := onChip (fun k c => buildResume k c b) s
/-- BUILD_WRITE_ERROR: The medium fails while a build writes its inactive copies, and the build becomes FAILED with
its copies marked empty (R373). -/
def execBuildWriteError (b : Fin 4) (s : State) : Host.Outcome State Fault Refusal :=
  onChip (fun k c => buildWriteError k c b) s
/-- HEALTH_CONFIRM: CONFIRM_S accumulated in FIELD or HARVEST with the health condition holding makes the set SEASONED
(R376). -/
def execHealthConfirm (s : State) : Host.Outcome State Fault Refusal := onChip (fun _ c => healthConfirm c) s
/-- TRIAL_WINDOW_END: The trial window ends unconfirmed, and the set becomes FAILED (R376). [DEDUCED: log 77] -/
def execTrialWindowEnd (s : State) : Host.Outcome State Fault Refusal := onChip trialEnd s

end Sys2Proof.Machine
end

