-- ==== Sys2Proof/Machine/Face.lean ====
section
/-! DEFINITION. The service face (16): updates, waveforms, rails, the lockout tag. -/

namespace Sys2Proof.Machine

def panelOf (c : Chip) (p : Nat) : PanelX := nth c.face.panels p {}
def panelSet (c : Chip) (p : Nat) (x : PanelX) : Chip := { c with face := { c.face with panels := c.face.panels.set p x } }

/-- A panel takes part: its rails' domain is up, it is there and not ashed. -/
def panelLive (c : Chip) (p : Nat) : Bool := up c 9 && (panelOf c p).present && !unitAshed c (unitPanel p)

/-! ## Pixels -/

/-- The level of a pixel. [DEDUCED: log 82] -/
def levelAt (l : List (Nat × Nat)) (pix : Nat) : Nat := ((l.find? (·.1 = pix)).map (·.2)).getD 0

/-- Sets a level, pixels rising. -/
def levelSet : List (Nat × Nat) → Nat → Nat → List (Nat × Nat)
  | [], p, v => [(p, v)]
  | (q, w) :: t, p, v =>
    if p = q then (p, v) :: t else if p < q then (p, v) :: (q, w) :: t else (q, w) :: levelSet t p v

/-- Levels packed two to a byte (R403), an even column in bits 3–0: `at_` is the byte in the making, of `total`. -/
def packLevels (total : Nat) : List (Nat × Nat) → Nat → Nat → List Byte
  | [], at_, cur => BitVec.ofNat 8 cur :: List.replicate (total - 1 - at_) 0
  | (p, v) :: t, at_, cur =>
    if p / 2 = at_ then packLevels total t at_ (cur + v * 16 ^ (p % 2))
    else BitVec.ofNat 8 cur :: (List.replicate (p / 2 - at_ - 1) 0 ++ packLevels total t (p / 2) (v * 16 ^ (p % 2)))

/-- Pixels of a rectangle, row by row. -/
def rectPixels (r : Nat × Nat × Nat × Nat) : List Nat :=
  (List.range r.2.2.2).flatMap fun j => (List.range r.2.2.1).map fun i => (r.2.1 + j) * 1024 + r.1 + i

/-- Two rectangles share a pixel. -/
def rectMeet (a b : Nat × Nat × Nat × Nat) : Bool :=
  a.1 < b.1 + b.2.2.1 && b.1 < a.1 + a.2.2.1 && a.2.1 < b.2.1 + b.2.2.2 && b.2.1 < a.2.1 + a.2.2.2

/-! ## Waveforms (R401–R403) -/

/-- The waveform tables: the active copy of region 8. -/
def waveTables (c : Chip) : List Byte :=
  match nth c.upd.active 8 .factory with
  | .built _ ps => ps.flatten
  | x => copyPiece 8 x 0

/-- Drive codes of waveform (b, o, n). -/
def waveCodes (c : Chip) (b o n : Nat) : List Nat :=
  let w := slice (waveTables c) (17 * ((b * 16 + o) * 16 + n)) 17
  (List.range (min 64 ((w.getD 0 0).toNat))).map fun f => (w.getD (1 + f / 4) 0).toNat / 2 ^ (2 * (f % 4)) % 4

/-- The drive is shifted by the trim of a pixel: the codes are taken from their end, `tail` being what follows the final
drive phase (R403). [DEDUCED: log 82] -/
def trimCodes (t : Int) (codes : List Nat) : List Nat :=
  let idle := fun x : Nat => decide (x = 0)
  let back := codes.reverse
  let tail := back.takeWhile idle
  let rest := back.dropWhile idle
  match rest.head? with
  | none => codes
  | some x =>
    let run := rest.takeWhile (· = x)
    let head := rest.dropWhile (· = x)
    let n := (run.length + t).toNat
    (head.reverse ++ List.replicate n x ++ tail.reverse).take 64

/-- The uniformity code of a pixel, −8 to 7. -/
def trimOf (c : Chip) (p pix : Nat) : Int :=
  let b := ((c.blob (Key.Panel.UNIFORMITY p)).getD (pix / 2) 0).toNat
  toInt 4 (if pix % 2 = 0 then b % 16 else b / 16)

/-! ## Bands and holds (R402, R405) -/

/-- The band of a temperature; 0xFF outside 0–50 °C. [DEDUCED: log 82] -/
def bandOf (t : Nat) : Nat :=
  if !(fLe fmt32 0 t && fLe fmt32 t (fNat fmt32 50)) then 0xFF
  else min 11 ((fFloor fmt32 t).toNat / 4)

/-- Why a start of panel `p` must wait: HOLD_REASON, 0 for none. Rails that are merely down give no reason. -/
def faceHold (k : Keeper) (c : Chip) (p : Nat) : Nat :=
  let r := nth c.pwr.panels p (false, 0)
  if c.mode = .banked then 4
  else if armedFor k c Key.Inj.FACE_HELD p || (panelOf c p).railBad then 3
  else if !r.1 then 2
  else if bandOf r.2 ≠ 0xFF then 0
  else if fLt fmt32 r.2 0 then 1
  else 2

/-- PANEL_STATE, the counts and HOLD_REASON follow. [DEDUCED: log 82] -/
def panelShow (k : Keeper) (c : Chip) (p : Nat) : Chip :=
  let x := panelOf c p
  let why := if x.pend = [] then 0 else faceHold k c p
  let st := if !x.present then 0 else if unitAshed c (unitPanel p) then 4
    else if x.drive ≠ [] then 2 else if why ≠ 0 then 3 else 1
  (((c.put (Key.Panel.PANEL_STATE p) st).put (Key.Panel.PIXELS_BUSY p) x.drive.length).put (Key.Panel.PIXELS_PENDING p)
    x.pend.length).put (Key.Panel.HOLD_REASON p) why

/-! ## Updates (R404–R406) -/

/-- Header fields of a block. [DEDUCED: log 82] -/
def faceRect (b : List Byte) : Nat × Nat × Nat × Nat := (field b 2 2, field b 4 2, field b 6 2, field b 8 2)

/-- LOCK_RECT as a rectangle. -/
def lockRect (c : Chip) (p : Nat) : Nat × Nat × Nat × Nat :=
  let n := c.num (Key.Panel.LOCK_RECT p)
  (n % 0x10000, n / 0x10000 % 0x10000, n / 0x100000000 % 0x10000, n / 0x1000000000000)

/-- Result of a completed FACE_UPDATE from its length on, in the order of R59 (R404, R408, R410). [DEDUCED: log 82] -/
def faceCheck (c : Chip) (b : List Byte) : Nat :=
  let r := faceRect b
  let p := field b 0 1
  let flags := field b 1 1
  if b.length < 16 || b.length ≠ 16 + r.2.2.1 * r.2.2.2 / 2 then Rc.LENGTH_MISMATCH
  else if 1 < p || 7 < flags || r.1 % 2 ≠ 0 || r.2.2.1 % 2 ≠ 0 || 1024 < r.1 + r.2.2.1 || 768 < r.2.1 + r.2.2.2
      || field b 10 6 ≠ 0 then Rc.OUT_OF_RANGE
  else if flags % 4 ≠ 0 && c.mode ≠ .service then Rc.SERVICE_ONLY
  else if unitAshed c (unitPanel p) || unitAshed c (unitPd 15) then Rc.UNIT_ASHED
  else if !(panelOf c p).present then Rc.FACE_ABSENT
  else if c.flag (Key.Panel.LOCK_SET p) && flags / 2 % 2 = 0 && rectMeet r (lockRect c p) then Rc.FACE_LOCKED
  else Rc.OK

/-- Gives pixels pending levels as one region. -/
def faceQueue (c : Chip) (p : Nat) (rect : Nat × Nat × Nat × Nat) (levels : List (Nat × Nat)) (clean : Bool) : Chip :=
  let x := panelOf c p
  let id := x.nextReg
  let moved := armedAt c Key.Inj.FACE_CLEAN p
  let c := disarm c Key.Inj.FACE_CLEAN p
  let pend := levels.foldl (fun l e => (l.filter fun y : PendX => decide (y.pix ≠ e.1)) ++ [⟨e.1, e.2, clean, id⟩]) x.pend
  panelSet c p { x with pend, nextReg := id + 1, idleAt := none, regs := x.regs ++ [{ id, rect, moved }] }

/-- FACE_UPDATE applies at its edge. -/
def faceApply (k : Keeper) (c : Chip) (org : Origin) (b : List Byte) : Chip :=
  let p := field b 0 1
  let flags := field b 1 1
  let r := faceRect b
  if unitAshed c (unitPanel p) || !(panelOf c p).present then c
  else
    let c := if bitOf flags 1 then c.putFlag (Key.Panel.LOCK_SET p) false else c
    let c := if bitOf flags 0 then
        ((((c.putFlag (Key.Panel.LOCK_SET p) true).put (Key.Panel.LOCK_RECT p)
          (r.1 + 0x10000 * r.2.1 + 0x100000000 * r.2.2.1 + 0x1000000000000 * r.2.2.2)).put (Key.Panel.LOCK_EPOCH p)
          (wireEpoch k.epoch)).put (Key.Panel.LOCK_KIND p) (originKind org)).put (Key.Panel.LOCK_ADDR p) (originAddr org)
      else c
    let body := b.drop 16
    let levels := (rectPixels r).zipIdx.map fun e =>
      let v := (body.getD (e.2 / 2) 0).toNat
      (e.1, if e.2 % 2 = 0 then v % 16 else v / 16)
    panelShow k (faceQueue c p r levels (bitOf flags 2)) p

/-- A pixel ends its waveform: its level is the new one, and a clean goes on to the requested level unless a newer one
is pending. -/
def pixelEnd (x : PanelX) (d : DriveX) : PanelX :=
  let pend := match d.after with
    | some l => if x.pend.any (·.pix = d.pix) then x.pend else x.pend ++ [⟨d.pix, l, false, d.reg⟩]
    | none => x.pend
  { x with
    pend, levels := levelSet x.levels d.pix d.level, stale := true
    regs := x.regs.map fun r : RegX => if r.id = d.reg then { r with bands := d.band :: r.bands } else r }

/-- The level a refresh drives a pixel to: its present one, or that of a newer request, which is never dropped (R405).
[DEDUCED: log 82] -/
def refreshLevel (x : PanelX) (pix : Nat) : Nat :=
  match x.pend.find? (·.pix = pix) with
  | some e => e.level
  | none => match x.drive.find? (·.pix = pix) with
    | some d => d.after.getD d.level
    | none => levelAt x.levels pix

/-- Regions whose last pixel has ended are compared with the band of the moment (R406). [DEDUCED: log 82] -/
def regionsEnd (k : Keeper) (c : Chip) (p : Nat) : Chip :=
  let x := panelOf c p
  let live := fun r : RegX => x.pend.any (·.reg = r.id) || x.drive.any (·.reg = r.id)
  let done := x.regs.filter fun r => !live r
  let c := panelSet c p { x with regs := x.regs.filter live }
  let r0 := nth c.pwr.panels p (false, 0)
  let band := if r0.1 then bandOf r0.2 else 0xFF
  done.foldl (fun c r =>
    let far := r.bands.any fun b => band + 2 < b || b + 2 < band
    if r.bands ≠ [] && (far || r.moved) then
      let levels := (rectPixels r.rect).map fun q => (q, refreshLevel (panelOf c p) q)
      raise k ((faceQueue c p r.rect levels true).bump (Key.Panel.CLEANS p)) 0x1003 (unitPanel p) (r.moved && !far)
    else c) c

/-- One pending pixel starts its waveform, or takes its level at once where that has no frames. -/
def pixelStart (c : Chip) (p band : Nat) (x : PanelX) (e : PendX) : PanelX :=
  let old := levelAt x.levels e.pix
  let target := if e.clean then 0 else e.level
  let codes := trimCodes (trimOf c p e.pix) (waveCodes c band old target)
  let d : DriveX := ⟨e.pix, target, if e.clean then some e.level else none, band, codes, e.reg⟩
  if codes = [] then
    let y := pixelEnd x d
    { y with regs := x.regs }
  else { x with drive := x.drive ++ [d] }

/-- Starts at a frame boundary: every pending pixel that is not driving. -/
def panelStarts (c : Chip) (p : Nat) : Chip :=
  let x := panelOf c p
  let band := bandOf (nth c.pwr.panels p (false, 0)).2
  let ready := x.pend.filter fun e => !x.drive.any (·.pix = e.pix)
  let x := { x with pend := x.pend.filter fun e => x.drive.any (·.pix = e.pix) }
  panelSet c p (ready.foldl (pixelStart c p band) x)

/-- FACE_IDLE_MS runs from the moment no pixel drives and none is pending (R400). -/
def idleFrom (k : Keeper) (c : Chip) (p : Nat) : Chip :=
  let x := panelOf c p
  if x.pend = [] && x.drive = [] then panelSet c p { x with idleAt := x.idleAt.or (some (nowUs k c)) } else c

/-- PANEL_FRAME: a frame boundary. -/
def panelFrame (k : Keeper) (c : Chip) (p : Nat) : Chip :=
  let x := panelOf c p
  if !panelLive c p || x.rails ≠ 2 then c
  else
    let moved := x.drive.map fun d : DriveX => { d with codes := d.codes.drop 1 }
    let ended := moved.filter fun d => d.codes = []
    let x := { x with drive := moved.filter fun d => decide (d.codes ≠ []) }
    let c := regionsEnd k (panelSet c p (ended.foldl pixelEnd x)) p
    let c := if faceHold k c p = 0 then panelStarts c p else c
    panelShow k (idleFrom k (regionsEnd k c p) p) p

/-- PANEL_RAILS_UP: the rails hold, and the first frame begins. -/
def railsUp (k : Keeper) (c : Chip) (p : Nat) : Chip :=
  let x := panelOf c p
  if !panelLive c p || x.rails ≠ 1 then c
  else panelFrame k (closeHandling (panelSet c p { x with rails := 2, railBad := false }) 0x1001 (unitPanel p)) p

/-- RAIL_IDLE_EXPIRY. -/
def railIdle (k : Keeper) (c : Chip) (p : Nat) : Chip :=
  let x := panelOf c p
  match x.idleAt with
  | some t =>
    if x.rails = 2 && x.pend = [] && x.drive = [] && decide (t + c.num Key.Face.FACE_IDLE_MS * 1000 ≤ nowUs k c) then
      panelSet c p { x with rails := 0 }
    else c
  | none => c

/-- FACE_RAIL: the rails fail; waveforms stand until they are up again. [DEDUCED: log 82] -/
def faceRail (k : Keeper) (c : Chip) (p : Nat) (injected : Bool) : Chip :=
  raise k (panelSet c p { panelOf c p with rails := 0, railBad := true }) 0x1001 (unitPanel p) injected

/-- The whole array. -/
abbrev wholePanel : Nat × Nat × Nat × Nat := (0, 0, 1024, 768)

/-- The last requested level of a pixel. -/
def requested (x : PanelX) (pix : Nat) : Nat :=
  match x.pend.find? (·.pix = pix) with
  | some e => e.level
  | none => match x.drive.find? (·.pix = pix) with
    | some d => d.after.getD d.level
    | none => levelAt x.saved pix

/-- A CLEAN of a rectangle at the last requested levels. -/
def cleanRect (c : Chip) (p : Nat) (r : Nat × Nat × Nat × Nat) : Chip :=
  let x := panelOf c p
  faceQueue c p r ((rectPixels r).map fun q => (q, requested x q)) true

/-- DXP60_DETECTED: it reports its VCOM, and its array is given a CLEAN (R407, R409). -/
def dxpFound (k : Keeper) (c : Chip) (vcom : Nat) : Chip :=
  if !up c 9 || (panelOf c 1).present then c
  else
    let c := panelSet (c.put (Key.Panel.VCOM_MV 1) vcom) 1 { panelOf c 1 with present := true, rails := 0 }
    panelShow k (closeHandling (cleanRect c 1 wholePanel) 0x1004 (unitPanel 1)) 1

/-- A panel is interrupted: levels requested stay pending, those that were driving to be driven clean (R405, R407). -/
def panelStop (x : PanelX) : PanelX :=
  { x with
    pend := x.drive.foldl (fun l d =>
      if l.any (·.pix = d.pix) then l else l ++ [⟨d.pix, d.after.getD d.level, true, d.reg⟩]) x.pend
    drive := [], rails := 0, idleAt := none }

/-- The DXP-60 is lost: levels requested stay pending. [DEDUCED: log 82] -/
def dxpLost (k : Keeper) (c : Chip) (injected : Bool) : Chip :=
  let x := panelOf c 1
  if !x.present then c
  else
    raise k (panelShow k (panelSet c 1 { panelStop x with present := false }) 1) 0x1004 (unitPanel 1) injected

/-- An injected loss of the DXP-60 ends, and it is detected again. -/
def dxpReturn (k : Keeper) (c : Chip) : Chip :=
  if c.flt.armed.any fun a => a.key = Key.Inj.FACE_LINK && decide (a.until_ ≤ k.epoch) then
    dxpFound k (disarm c Key.Inj.FACE_LINK 1) (c.num (Key.Panel.VCOM_MV 1))
  else c

/-- The face's part of an edge. -/
def faceEdge (k : Keeper) (c : Chip) : Chip :=
  if !up c 9 then c
  else
    let c := dxpReturn k c
    (List.range 2).foldl (fun c p =>
      let r := nth c.pwr.panels p (false, 0)
      let c := if r.1 then (c.put (Key.Panel.PANEL_TEMP p) r.2).put (Key.Panel.BAND p) (bandOf r.2)
        else c.put (Key.Panel.BAND p) 0xFF
      if !panelLive c p then panelShow k c p
      else
        let x := panelOf c p
        let why := faceHold k c p
        let idle := x.pend = [] && x.drive = []
        let held := x.pend ≠ [] && why ≠ 0
        let permitted := why = 0 || why = 3 && !armedFor k c Key.Inj.FACE_HELD p
        let c := if x.stale then c.putBlob (Key.Panel.IMAGE p) (packLevels 393216 x.levels 0 0) else c
        let c := panelSet c p { x with
          held, stale := false
          rails := if !idle && x.rails = 0 && permitted then 1 else x.rails
          idleAt := if idle then x.idleAt.or (some (nowUs k c)) else none
          saved := if c.num Key.WrHold.MRAM_WRITE = 0 then x.levels else x.saved }
        let c := panelShow k c p
        if held && !x.held then raise k c 0x1002 (unitPanel p) (armedFor k c Key.Inj.FACE_HELD p) else c) c

/-- After K9: rectangles in doubt, and a DXP-60 that is connected, are given a CLEAN (R407). -/
def faceUp (k : Keeper) (c : Chip) : Chip :=
  (List.range 2).foldl (fun c p =>
    let x := panelOf c p
    let c := x.doubt.foldl (fun c r => cleanRect c p r) c
    let c := panelSet c p { panelOf c p with doubt := [], rails := 0, idleAt := none, stale := true }
    panelShow k c p) c

/-- Levels that MRAM does not hold are lost with the power, and counted (R434). -/
def faceForget (c : Chip) (p : Nat) : Chip :=
  let x := panelOf c p
  if c.num Key.WrHold.MRAM_WRITE = 0 then panelSet c p { x with saved := x.levels }
  else
    let lost := (x.levels.filter fun e => decide (levelAt x.saved e.1 ≠ e.2)).length
    (panelSet c p { x with levels := x.saved }).bump Key.WrHold.HELD_LOST lost

/-- BANKED entry: waveforms run to their end, pending levels stay (R407). A DXP-60 has to be detected again. -/
def faceBank (c : Chip) : Chip :=
  (List.range 2).foldl (fun c p =>
    let x := panelOf c p
    let x := x.drive.foldl pixelEnd { x with drive := [] }
    faceForget (panelSet c p { x with rails := 0, idleAt := none, held := false, present := p = 0 }) p) c

/-- Feed is lost: pixels in a waveform are uncertain (R407). -/
def faceOff (c : Chip) : Chip :=
  (List.range 2).foldl (fun c p =>
    let x := panelOf c p
    let rects := (x.regs.filter fun r => x.drive.any (·.reg = r.id)).map (·.rect)
    faceForget (panelSet c p { panelStop x with held := false, present := p = 0, doubt := x.doubt ++ rects }) p) c

/-- A panel is ashed: it keeps its image (R411), and what waits is not dropped (R405). -/
def panelAsh (k : Keeper) (c : Chip) (p : Nat) : Chip :=
  panelShow k (panelSet c p (panelStop (panelOf c p))) p

/-- PANEL_RAILS_UP: A panel's rails finish powering up, and the first panel frame begins (R400). -/
def execPanelRailsUp (panel : Fin 2) (s : State) : Host.Outcome State Fault Refusal := onChip (fun k c => railsUp k c panel) s
/-- PANEL_FRAME: At an 85 Hz frame boundary, pixels start, drive or end their waveforms (R405). -/
def execPanelFrame (panel : Fin 2) (s : State) : Host.Outcome State Fault Refusal := onChip (fun k c => panelFrame k c panel) s
/-- RAIL_IDLE_EXPIRY: FACE_IDLE_MS passes with no pixel driving or pending, and the rails go down (R400). -/
def execRailIdleExpiry (panel : Fin 2) (s : State) : Host.Outcome State Fault Refusal :=
  onChip (fun k c => railIdle k c panel) s
/-- DXP60_DETECTED: A DXP-60 is detected on X12, and its whole array is given a clean update (R407). -/
def execDxp60Detected (vcomMv : BitVec 16) (s : State) : Host.Outcome State Fault Refusal :=
  onChip (fun k c => dxpFound k c vcomMv.toNat) s
/-- DXP60_LOST: The DXP-60 is lost on X12 (R411). -/
def execDxp60Lost (s : State) : Host.Outcome State Fault Refusal := onChip (fun k c => dxpLost k c false) s

end Sys2Proof.Machine
end

