-- ==== Sys2Proof/Machine/Recorder.lean ====
section
/-! DEFINITION. The event recorder (15): measures, commits, the reading window, clears. Fault records are counted in
Ops.lean, where events are raised. -/

namespace Sys2Proof.Machine

/-! ## Configuration (R389) -/

/-- The configuration of a measure; unconfigured where none is held. -/
def measOf (cfg : List MeasCfg) (m : Nat) : MeasCfg := (cfg.find? (·.id = m)).getD { id := m }

/-- Puts a configuration in its place. -/
def measPut : List MeasCfg → MeasCfg → List MeasCfg
  | [], x => [x]
  | y :: t, x => if x.id = y.id then x :: t else if x.id < y.id then x :: y :: t else y :: measPut t x

/-- A field of a configuration, by the sub-index of 0x4801. -/
def measField (x : MeasCfg) (sub : Nat) (v : Val) : MeasCfg :=
  let n := v.toNum
  match sub with
  | 1 => { x with dims := n }
  | 2 => { x with srcX := n }
  | 3 => { x with srcY := n }
  | 4 => { x with loX := n }
  | 5 => { x with hiX := n }
  | 6 => { x with loY := n }
  | 7 => { x with hiY := n }
  | 8 => { x with sampleMs := n }
  | 9 => { x with modes := n }
  | 10 => { x with name := v.toBlob }
  | _ => x

/-- Bins a measure takes. -/
def measBins (x : MeasCfg) : Nat := if x.dims = 1 then 64 else if x.dims = 2 then 4096 else 0

/-- An object whose value is a number, readable. -/
def measSource (ref : Nat) : Bool :=
  refKind ref = 3 && match objInfo (refWhich ref) with
    | some o => o.ty ≠ .vstr && o.ty ≠ .domain && o.acc ≠ .wo
    | none => false

/-- A configuration as R389 asks. -/
def measOk (x : MeasCfg) : Bool :=
  (x.dims = 0 || (measSource x.srcX && fLt fmt32 x.loX x.hiX))
    && (x.dims ≠ 2 || (measSource x.srcY && fLt fmt32 x.loY x.hiY))
    && (refKind x.srcX = 0 || measSource x.srcX) && (refKind x.srcY = 0 || measSource x.srcY)

/-- A write that configures a measure. -/
def measKey (key : Nat) : Bool := key / 256 = 0x4801

/-- The recorder's selection and configurations after a list of writes: REC_SELECT names the measure a later write
concerns. -/
def measAfter (sel : Nat) (cfg : List MeasCfg) : List (Nat × Val) → Nat × List MeasCfg
  | [] => (sel, cfg)
  | (key, v) :: t =>
    if key = Key.Rec.REC_SELECT then measAfter v.toNum cfg t
    else if measKey key && sel < 256 then measAfter sel (measPut cfg (measField (measOf cfg sel) (key % 256) v)) t
    else measAfter sel cfg t

/-- Result of the configurations a list of pending and new writes leaves (R389). -/
def measCheck (c : Chip) (ws : List (Nat × Val)) : Nat :=
  let cfg := (measAfter (c.num Key.Rec.REC_SELECT) c.recd.cfg ws).2
  if !cfg.all measOk then Rc.OUT_OF_RANGE
  else if 524288 < cfg.foldl (fun n x => n + measBins x) 0 then Rc.REC_FULL
  else Rc.OK

/-! ## The window (R392, R395) -/

/-- Length of the record of a number. -/
def recLength (c : Chip) (id : Nat) : Nat :=
  if 0x10000 ≤ id then 336
  else match (measOf c.recd.cfg id).dims with
    | 0 => 0
    | 1 => 352
    | _ => 16480

/-- An extreme in a record. -/
def extBytes (e : Extreme) : List Byte := leBytes 4 e.value ++ leBytes 6 e.epoch ++ leBytes 6 e.ms

/-- The bytes ahead of the bins. -/
def recHead (id seq dims : Nat) : RecBody → List Byte
  | .meas flags first last samples nans ext _ =>
    leBytes 4 seq ++ leBytes 2 id ++ leBytes 1 dims ++ leBytes 1 flags ++ leBytes 6 first ++ leBytes 6 last ++
      leBytes 4 samples ++ leBytes 4 nans ++ ext.flatMap extBytes ++ leBytes 4 0
  | .fault count supp inj first firstMs last lastMs byMode _ =>
    leBytes 4 seq ++ leBytes 2 (id % 0x10000) ++ leBytes 2 0 ++ leBytes 4 count ++ leBytes 4 supp ++ leBytes 4 inj ++
      leBytes 6 first ++ leBytes 6 firstMs ++ leBytes 6 last ++ leBytes 6 lastMs ++ byMode.flatMap (leBytes 4) ++ leBytes 4 0

/-- The count of a bin. -/
def binAt (bins : List (Nat × Nat)) (b : Nat) : Nat := ((bins.find? (·.1 = b)).map (·.2)).getD 0

/-- The bins of a record. -/
def recBins : RecBody → List (Nat × Nat)
  | .meas _ _ _ _ _ _ bins => bins
  | .fault _ _ _ _ _ _ _ _ bins => bins

/-- The word at a byte offset, a multiple of four, of a record's current copy. -/
def recWord (c : Chip) (id off : Nat) : Nat :=
  let x := recFind c.recd id
  let head := recHead id x.seq (measOf c.recd.cfg id).dims x.stored
  if recLength c id ≤ off then 0
  else if off < head.length then ofLeBytes ((head.drop off).take 4)
  else binAt (recBins x.stored) ((off - head.length) / 4)

/-- The record named by REC_KIND and REC_SELECT; none where the selection fits no record of that kind. -/
def recSelected (c : Chip) : Option Nat :=
  let sel := c.num Key.Rec.REC_SELECT
  if c.num Key.Rec.REC_KIND = 0 then (if sel < 256 then some sel else none)
  else if (detector? sel).isSome then some (0x10000 + sel) else none

/-- REC_SELECT names a measure or a code of the detector table. -/
def recSelectOk (n : Nat) : Bool := n < 256 || (detector? n).isSome

/-- REC_OFFSET lies below the length of the selected record; 0 is always accepted. [DEDUCED: log 68] -/
def recOffsetOk (c : Chip) (n : Nat) : Bool :=
  n = 0 || match recSelected c with
    | some id => n < recLength c id
    | none => false

/-- The objects of the measure REC_SELECT names, and BINS_USED, show what is configured (R389). [DEDUCED: log 68] -/
def measShow (c : Chip) : Chip :=
  let sel := c.num Key.Rec.REC_SELECT
  let x := measOf c.recd.cfg (if sel < 256 then sel else 0x10000)
  let used := c.recd.cfg.foldl (fun n x => n + measBins x) 0
  (((((((((((c.put Key.Meas.M_DIMS x.dims).put Key.Meas.SRC_X x.srcX).put Key.Meas.SRC_Y x.srcY).put Key.Meas.LO_X
    x.loX).put Key.Meas.HI_X x.hiX).put Key.Meas.LO_Y x.loY).put Key.Meas.HI_Y x.hiY).put Key.Meas.SAMPLE_MS x.sampleMs).put
    Key.Meas.M_MODES x.modes).putBlob Key.Meas.M_NAME x.name).put Key.Rec.BINS_USED used)

/-- The words of a record from an offset on. [DEDUCED: log 68] -/
def recWordsShow (c : Chip) (word : Nat → Nat) : Chip :=
  (List.range 64).foldl (fun c j => c.put (Key.RecV.WORD j) (word j)) c

/-- The view of the record that is selected. [DEDUCED: log 68] -/
def recViewShow (c : Chip) : Chip :=
  match recSelected c with
  | none => recWordsShow ((c.put Key.RecV.REC_SEQ 0).put Key.RecV.REC_LENGTH 0) fun _ => 0
  | some id =>
    let r := recFind c.recd id
    let off := c.num Key.Rec.REC_OFFSET
    recWordsShow ((c.put Key.RecV.REC_SEQ (if r.busy.isSome then r.seq + 1 else r.seq)).put Key.RecV.REC_LENGTH
      (recLength c id)) fun j => recWord c id (off + 4 * j)

/-- The measure's objects, BINS_USED and the window follow the recorder. -/
def recShow (c : Chip) : Chip := recViewShow (measShow c)

/-! ## Clears (R396) -/

/-- Clears one record. -/
def recZero (c : Chip) (id : Nat) : Chip :=
  let x := recFind c.recd id
  recStore c { x with live := if id < 0x10000 then emptyMeas else emptyFault, dirty := true }

/-- Records a clear and asks for a commit. -/
def clearNote (k : Keeper) (c : Chip) (org : Origin) (what : Nat) : Chip :=
  let c := (c.bump Key.Rec.CLEAR_COUNT).put Key.Rec.LAST_CLEAR_EPOCH (wireEpoch k.epoch)
  let c := ((c.put Key.Rec.LAST_CLEAR_GNSS_MS (gnssMs c)).put Key.Rec.LAST_CLEAR_WHAT what).put Key.Rec.LAST_CLEAR_KIND
    (originKind org)
  let c := c.put Key.Rec.LAST_CLEAR_ADDR (originAddr org)
  { c with recd := { c.recd with asked := true } }

/-- REC_CLEAR applies: a measure, all measures, all fault records, or both. -/
def recClear (k : Keeper) (c : Chip) (org : Origin) (what : Nat) : Chip :=
  let ids := (c.recd.recs.map (·.id)).filter fun id =>
    if what < 256 then id = what
    else (id < 0x10000 && what ≠ 0x200) || (0x10000 ≤ id && what ≠ 0x100)
  clearNote k (ids.foldl recZero c) org what

/-- A write of a measure's configuration applies to the measure REC_SELECT names, and clears it (R389); M_NAME alone
clears nothing. A configuration loaded from the dataset keeps the records. -/
def measApply (k : Keeper) (c : Chip) (org : Option Origin) (sub : Nat) (v : Val) : Chip :=
  let sel := c.num Key.Rec.REC_SELECT
  if 256 ≤ sel then c
  else
    let c := { c with recd := { c.recd with cfg := measPut c.recd.cfg (measField (measOf c.recd.cfg sel) sub v) } }
    match org with
    | some o => if sub = 10 then c else clearNote k (recZero c sel) o sel
    | none => c

/-! ## Sampling (R386–R388) -/

/-- The bin of a value on an axis; none where the quotient is no number. [DESIGN CHOICE: log 19] -/
def binOf (v lo hi : Nat) : Option Nat :=
  let scale := fDiv fmt32 (fNat fmt32 64) (fSub fmt32 hi lo)
  let q := fMul fmt32 (fSub fmt32 v lo) scale
  if fIsNan fmt32 q then none
  else if !fFinite fmt32 q then some (if fNeg fmt32 q then 0 else 63)
  else some (max 0 (min 63 (fFloor fmt32 q))).toNat

/-- A new extreme where a value is strictly beyond the one held. -/
def extremeNext (low : Bool) (e : Extreme) (v epoch ms : Nat) : Extreme :=
  if fIsNan fmt32 e.value || (if low then fLt fmt32 v e.value else fLt fmt32 e.value v) then ⟨v, epoch, ms⟩ else e

/-- The copy of an epoch, or the state itself where it is not retained. -/
def copyAt (k : Keeper) (c : Chip) : Chip :=
  match k.copies.find? (·.epoch = k.epoch) with
  | some x => { c with od := x.od }
  | none => c

/-- M_MODES holds the mode's bit. -/
def measMode (x : MeasCfg) (m : Mode) : Bool := 3 ≤ modeCode m && bitOf x.modes (modeCode m - 3)

/-- Adds a sample to a body: the bin, the extremes and the counts; whether a count has stopped. -/
def measBinned (b : RecBody) (bin epoch ms : Nat) (vs : List Nat) : RecBody × Bool :=
  match b with
  | .meas flags first _ samples nans ext bins =>
    let bins' := binInc bins bin
    let full := binAt bins' bin = 0xFFFFFFFF
    let ext' := (List.range 4).map fun i =>
      match vs[i / 2]? with
      | some v => extremeNext (i % 2 = 0) (ext.getD i ⟨fmt32.nan, 0, 0⟩) v epoch ms
      | none => ext.getD i ⟨fmt32.nan, 0, 0⟩
    (.meas (if full then flags ||| 1 else flags) (if first = 0 then epoch else first) epoch (satInc samples) nans ext' bins',
      full && binAt bins bin ≠ 0xFFFFFFFF)
  | x => (x, false)

/-- Adds a sample that is no number on some axis. [DEDUCED: log 68] -/
def measNan (b : RecBody) (epoch : Nat) : RecBody :=
  match b with
  | .meas flags first _ samples nans ext bins =>
    .meas (flags ||| 2) (if first = 0 then epoch else first) epoch samples (satInc nans) ext bins
  | x => x

/-- The last sample a body counts. [DEDUCED: log 68] -/
def bodyLast : RecBody → Nat
  | .meas _ first last _ _ _ _ => if first = 0 then 0 else last
  | .fault .. => 0

/-- MEASURE_SAMPLE: one sample of a measure at an edge its SAMPLE_MS divides. [DEDUCED: log 68] -/
def measSample (k : Keeper) (c : Chip) (m : Nat) : Chip :=
  let x := measOf c.recd.cfg m
  let r := recFind c.recd m
  let now := wireEpoch k.epoch
  if x.dims = 0 || k.epoch % x.sampleMs ≠ 0 || !measMode x c.mode || bodyLast r.live = now then c
  else
    let at_ := copyAt k c
    let vs := (refValue at_ x.srcX) :: (if x.dims = 2 then [refValue at_ x.srcY] else [])
    if vs.any (fIsNan fmt32) then recStore c { r with live := measNan r.live now, dirty := true }
    else
      let open_ := Config.openBin c.free % 64
      let bx := binOf (vs.getD 0 0) x.loX x.hiX
      let b_y := if x.dims = 2 then binOf (vs.getD 1 0) x.loY x.hiY else some 0
      let c := if bx.isNone || b_y.isNone then { c with free := c.free + 1 } else c
      let p := measBinned r.live (bx.getD open_ + 64 * b_y.getD open_) now (gnssMs at_) vs
      let c := recStore c { r with live := p.1, dirty := true }
      if p.2 then raise k c 0x0F03 (unitRec m) else c

/-- An injection sets bin 0 of a measure to its end. [DEDUCED: log 68] -/
def measSaturate (k : Keeper) (c : Chip) (m : Nat) : Chip :=
  let r := recFind c.recd m
  match r.live with
  | .meas flags first last samples nans ext bins =>
    let c := recStore c { r with
      live := .meas (flags ||| 1) first last samples nans ext ((0, 0xFFFFFFFF) :: bins.filter fun b => decide (b.1 ≠ 0))
      dirty := true }
    raise k c 0x0F03 (unitRec m) true
  | _ => c

/-! ## Commits (R393, R394) -/

/-- Commits are held: MRAM writes are not permitted, or an injection says so. -/
def commitHeld (k : Keeper) (c : Chip) : Bool :=
  c.num Key.WrHold.MRAM_WRITE ≠ 0 || armedFor k c Key.Inj.REC_DEFERRED 1

/-- RECORDER_COMMIT: changed records begin a commit, none sooner than a second after its last; those that come sooner
wait for their second (R393). -/
def recCommit (k : Keeper) (c : Chip) : Chip :=
  let due := decide (c.recd.lastCycle + c.num Key.Rec.COMMIT_S * 1000 ≤ k.epoch)
  let now := due || c.recd.asked
  if !up c 2 || !(now || c.recd.recs.any (·.wants)) then c
  else if commitHeld k c then
    let was := c.flag Key.Rec.COMMIT_HELD
    let c := c.putFlag Key.Rec.COMMIT_HELD true
    if was then c else raise k c 0x0F02 theModule (c.num Key.WrHold.MRAM_WRITE = 0)
  else
    let c := c.putFlag Key.Rec.COMMIT_HELD false
    let ready := fun x : RecX => x.busy.isNone && (x.seq = 0 && x.began = 0 || decide (x.began + 1000 ≤ k.epoch))
    let recs := c.recd.recs.map fun x : RecX =>
      if !(x.dirty && (now || x.wants)) then x
      else if ready x then { x with busy := some x.live, dirty := false, began := k.epoch, wants := false }
      else { x with wants := true }
    recShow { c with recd := { c.recd with
      recs, asked := false, lastCycle := if due then k.epoch else c.recd.lastCycle } }

/-- A commit's valid mark is written. -/
def recMark (k : Keeper) (c : Chip) (x : RecX) : Chip :=
  match x.busy with
  | some b =>
    (recStore c { x with stored := b, seq := (x.seq + 2) % 0x100000000, busy := none }).put Key.Rec.LAST_COMMIT_EPOCH
      (wireEpoch k.epoch)
  | none => c

/-- COMMIT_COMPLETE. -/
def commitComplete (k : Keeper) (c : Chip) (id : Nat) : Chip :=
  if c.recd.recs.any (fun x => x.id = id && x.busy.isSome) then recShow (recMark k c (recFind c.recd id)) else c

/-- COMMIT_NOW applies. -/
def commitNow (c : Chip) : Chip := { c with recd := { c.recd with asked := true } }

/-- BANKED entry commits every changed record (Table 3.8, step 2), where MRAM writes are permitted. -/
def recBank (k : Keeper) (c : Chip) : Chip :=
  if c.num Key.WrHold.MRAM_WRITE ≠ 0 then c
  else
    let c := (c.recd.recs.filter (fun x => x.busy.isSome)).foldl (fun c x => recMark k c (recFind c.recd x.id)) c
    (c.recd.recs.filter (·.dirty)).foldl (fun c x =>
      recMark k c { recFind c.recd x.id with
        busy := some x.live, dirty := false, began := k.epoch, wants := false }) c

/-- Feed is lost: the commit in progress completes within the hold-up where MRAM writes are permitted; of several that
have begun, the first in order (R102, R394). What was not committed is lost. [DEDUCED: log 68] -/
def recOff (k : Keeper) (c : Chip) : Chip :=
  let c := match c.recd.recs.find? (fun x => x.busy.isSome) with
    | some x => if c.num Key.WrHold.MRAM_WRITE = 0 then recMark k c x else c
    | none => c
  { c with recd := { c.recd with
    asked := false, recs := c.recd.recs.map fun x : RecX =>
      { x with live := x.stored, dirty := false, busy := none, wants := false } } }

/-- K2: records are loaded; one without a valid copy starts empty (R394). -/
def recLoad (k : Keeper) (c : Chip) (lost : List Nat) : Chip :=
  let c := { c with recd := { c.recd with
    cfg := [], asked := false, lastCycle := k.epoch
    recs := c.recd.recs.map fun x : RecX => { x with live := x.stored, dirty := false, busy := none, wants := false } } }
  let inj := (List.range 256).filter fun m => armedAt c Key.Inj.REC_CORRUPT m
  let c := inj.foldl (fun c m => disarm c Key.Inj.REC_CORRUPT m) c
  let ids := lost.filter fun id => id < 256 || (0x10000 ≤ id && (detector? (id - 0x10000)).isSome)
  let c := (ids ++ inj.filter fun m => !ids.contains m).foldl (fun c id =>
    let x := recFind c.recd id
    let e := if id < 0x10000 then emptyMeas else emptyFault
    raise k ((recStore c { x with live := e, stored := e, dirty := false }).bump Key.Rec.RECORDS_LOST) 0x0F01 (unitRec id)
      (inj.contains id)) c
  recShow c

/-- The recorder's part of an edge: RUN_S (R391), and the end of a hold. -/
def recEdge (k : Keeper) (c : Chip) : Chip :=
  let c := if c.mode = .off || c.mode = .banked then c
    else
      let ms := c.recd.runMs + 1
      if 1000 ≤ ms then
        ({ c with recd := { c.recd with runMs := ms - 1000 } }).put Key.Rec.RUN_S (min (c.num Key.Rec.RUN_S + 1) 0xFFFFFFFF)
      else { c with recd := { c.recd with runMs := ms } }
  if c.flag Key.Rec.COMMIT_HELD && !commitHeld k c then
    closeHandling (c.putFlag Key.Rec.COMMIT_HELD false) 0x0F02 theModule
  else c

/-- MEASURE_SAMPLE: At each edge that is a multiple of SAMPLE_MS, a measure bins its sources and updates extremes
(R386). -/
def execMeasureSample (m : Fin 256) (s : State) : Host.Outcome State Fault Refusal := onChip (fun k c => measSample k c m) s
/-- RECORDER_COMMIT: Every COMMIT_S, changed records begin committing to their older MRAM copy (R393). -/
def execRecorderCommit (s : State) : Host.Outcome State Fault Refusal := onChip recCommit s
/-- COMMIT_COMPLETE: A record's valid mark is written, and its SEQ rises by 2 (R393). -/
def execCommitComplete (rec : Nat) (s : State) : Host.Outcome State Fault Refusal :=
  onChip (fun k c => commitComplete k c rec) s

end Sys2Proof.Machine
end

