-- ==== Sys2Proof/Machine/Faults.lean ====
section
/-! DEFINITION. Faults, retirement and injection (18): which unit a detector concerns, what an ash does to a unit and its
clear gives back, the handler's rows, and what each injection object does. -/

namespace Sys2Proof.Machine

/-! ## Units and detectors -/

/-- How many units a class has (Table 18.4). -/
def classCount (cls : Nat) : Nat :=
  match cls with
  | 0x00 => 1 | 0x01 => 512 | 0x02 => 256 | 0x03 => 2 | 0x04 => 16 | 0x05 => 1 | 0x06 => 48 | 0x07 => 12 | 0x08 => 48
  | 0x09 => 6 | 0x0A => 128 | 0x0B => 8 | 0x0C => 2 | 0x0D => 16 | 0x0E => 3 | 0x0F => 1 | 0x10 => 12 | 0x11 => 12
  | 0x12 => 2 | 0x13 => 2 | 0x14 => 4 | 0x15 => 16 | 0x16 => 43 | 0x17 => 21 | 0x18 => 2 | 0x19 => 8388608
  | 0x1A => 4096 | 0x1B => 31 | 0x1C => 3 | 0x1D => 128 | 0x1E => 8 | 0x1F => 4 | 0x20 => 16 | 0x21 => 8 | 0x22 => 64
  | 0x23 => 10 | 0x24 => 4 | 0x25 => 10 | 0x26 => 0x20000 | _ => 0

/-- A unit ID names a unit of Table 18.4. -/
def unitExists (u : Nat) : Bool := unitNum u < classCount (unitClass u) && u ≠ unitSlot 0

/-- The classes whose units a detector's row concerns (R492). -/
def detUnits (code : Nat) : List Nat :=
  match code with
  | 0x0401 | 0x0402 | 0x0404 | 0x0406 => [0x01, 0x02]
  | 0x0403 => [0x03]
  | 0x0501 | 0x0502 | 0x0503 | 0x0509 => [0x1B]
  | 0x0504 | 0x0505 | 0x0506 => [0x04]
  | 0x0601 | 0x0602 | 0x0603 => [0x05]
  | 0x0604 => [0x22]
  | 0x0707 => [0x07]
  | 0x0708 => [0x1C]
  | 0x070B => [0x1D]
  | 0x0807 | 0x0808 => [0x09]
  | 0x0809 | 0x080C => [0x0A]
  | 0x080A | 0x080B | 0x080D => [0x0B]
  | 0x0901 | 0x0902 => [0x0C]
  | 0x0909 => [0x0D]
  | 0x0A01 | 0x0A02 | 0x0A03 => [0x1E]
  | 0x0A04 | 0x0A05 => [0x0E]
  | 0x0B01 => [0x20]
  | 0x0B02 | 0x0B05 => [0x0F]
  | 0x0B04 => [0x21]
  | 0x0B07 => [0x1F]
  | 0x0C06 | 0x0C07 => [0x11]
  | 0x0D01 | 0x0D04 => [0x12]
  | 0x0E01 | 0x0E02 => [0x24]
  | 0x0E06 | 0x0E08 => [0x25]
  | 0x0F01 | 0x0F03 => [0x26]
  | 0x1102 => [0x14]
  | 0x1103 => [0x23]
  | 0x1104 => [0x15]
  | 0x1105 | 0x1106 | 0x1107 => [0x16]
  | 0x1201 | 0x1202 => [0x17]
  | 0x1203 => [0x18]
  | 0x1205 | 0x1206 => [0x19]
  | 0x1207 => [0x1A]
  | _ =>
    if 0x0701 ≤ code && code ≤ 0x070A then [0x06]
    else if 0x0801 ≤ code && code ≤ 0x0806 then [0x08]
    else if 0x0C01 ≤ code && code ≤ 0x0C05 then [0x10]
    else if code / 256 = 0x10 then [0x13]
    else [0x00]

/-- A detector of the tables on a unit its row concerns. [DEDUCED: log 83] -/
def detOn (code u : Nat) : Bool := (detector? code).isSome && unitExists u && (detUnits code).contains (unitClass u)

/-! ## What an ash does to a unit -/

/-- Units that an ash of a unit ashes with it (R446, Table 17.4), each beside its own. [DEDUCED: log 84] -/
def unitParts (u : Nat) : List Nat :=
  let n := unitNum u
  let from_ := fun (mk : Nat → Nat) (lo count : Nat) => (List.range count).map fun i => mk (lo + i)
  match unitClass u with
  | 0x07 => from_ unitValve (4 * n) 4
  | 0x09 => from_ unitLs (8 * n) 8
  | 0x0B => from_ unitDio (16 * n) 16
  | 0x15 =>
    match n with
    | 1 => from_ unitPll 0 4
    | 2 => from_ unitImp 0 16
    | 3 => [unitTile 0]
    | 4 => [unitTile 1]
    | 5 => from_ unitCle 0 2
    | 8 => from_ unitPipe 0 3
    | 9 => from_ unitGnb 0 16
    | 10 => from_ unitAnt 0 2
    | 11 => from_ unitEth 0 12 ++ from_ unitFab 0 2
    | 12 => from_ unitCan 0 12
    | 13 => from_ unitGrp 0 8 ++ from_ unitDio 0 128
    | 14 => from_ unitBank 0 12 ++ from_ unitValve 0 48 ++ from_ unitSec 0 6 ++ from_ unitLs 0 48
    | 15 => from_ unitPanel 0 2
    | _ => []
  | 0x17 =>
    if 1 ≤ n && n ≤ 3 then from_ unitBank (4 * (n - 1)) 4 ++ from_ unitValve (16 * (n - 1)) 16
    else if 4 ≤ n && n ≤ 9 then unitSec (n - 4) :: from_ unitLs (8 * (n - 4)) 8
    else if 10 ≤ n && n ≤ 17 then unitGrp (n - 10) :: from_ unitDio (16 * (n - 10)) 16
    else if n = 18 then from_ unitImp 0 16
    else if 19 ≤ n && n ≤ 20 then [unitAnt (n - 19)]
    else []
  | _ => []

/-- Drops what an item had in the making. -/
def itemStop (c : Chip) (i : Nat) : Chip :=
  { c with eng := { c.eng with
    items := c.eng.items.map fun x : ItemX => if x.item = i then { x with sample := none, ready := none } else x } }

/-- The engine runs on the instances that are left; with none it stops (R131). -/
def cleDown (k : Keeper) (c : Chip) (n : Nat) : Chip :=
  if c.eng.down.contains n then c
  else
    let c := { c with eng := { c.eng with down := c.eng.down ++ [n] } }
    if c.eng.down.contains 0 && c.eng.down.contains 1 then raise k (c.put Key.Eng.ENGINE_STATE 3) 0x0405 theModule
    else c.put Key.Eng.ENGINE_STATE (if n = 0 then 2 else 1)

/-- Commands on their way over links that fail are gone: a device acts on them within their epoch or is ashed (R32).
[DEDUCED: log 38] -/
def linkDrop (c : Chip) (gone : Nat → Bool) : Chip :=
  let stays := fun m : Nat × Nat => !gone (linkOfKey m.1)
  { c with link := { c.link with edge := c.link.edge.filter stays, now := c.link.now.filter stays } }

/-- A die's ash is cleared: with its link restored it leaves the safe values a silence brought (R22). -/
def linkUnash (c : Chip) (n : Nat) : Chip :=
  let x := nth c.link.links n {}
  if x.silent = 0 then { c with link := { c.link with links := c.link.links.set n { x with safe := false } } } else c

/-- What a unit does once it is ashed, as its own chapter says. [DEDUCED: log 84] -/
def ashOne (k : Keeper) (c : Chip) (u : Nat) : Chip :=
  let n := unitNum u
  match unitClass u with
  | 0x01 => (itemStop c n).put (Key.Cell.STATE n) 7
  | 0x02 => ((itemStop c (512 + n)).put (Key.Node.STATE n) 3).put (Key.Node.WINNER n) 0xFF
  | 0x03 => cleDown k c n
  | 0x05 => guideAsh k c
  | 0x06 => valveAsh k c n
  | 0x07 => bankAsh k c n
  | 0x08 => if c.num (Key.Ls.STATE n) = 5 then c else lsAsh c n
  | 0x09 => secAsh c n
  | 0x0A => if c.num (Key.Dio.CH_STATE n) = 4 then c else dioAsh k c n
  | 0x0B => grpAsh k c n
  | 0x0C => setAntStatus c n 3
  | 0x0E => pipeAsh c n
  | 0x0F => fusionAsh c
  | 0x10 => canAsh c n
  | 0x11 => ethAsh k c n
  | 0x12 => fabAsh k c n
  | 0x13 => panelAsh k c n
  | 0x14 => c.put (Key.Pll.PLL_STATE n) 4
  | 0x15 =>
    linkDrop (c.put (Key.Pd.PD_STATE n) 4) fun l => (n = 14 && l < 9) || (n = 13 && 9 ≤ l && l < 17)
  | 0x16 => c.put (Key.Sensor.SENSE_STATUS n) 4
  | 0x17 => linkDrop c fun l => l + 1 = n
  | 0x18 => { c with flt := { c.flt with tilesOut := c.flt.tilesOut ++ [n] } }
  | _ => c

/-- What the entries of the table hold (Table 18.7). -/
def ashShow (c : Chip) : Chip :=
  let l := c.flt.ashes.filter (·.entry)
  (c.putBlob Key.Flt.ASH_TABLE (l.flatMap fun a =>
    leBytes 4 a.unit ++ leBytes 2 a.code ++ leBytes 1 (if a.injected then 1 else 0) ++ leBytes 1 0 ++ leBytes 6 a.epoch ++
      leBytes 2 0)).put Key.Flt.ASHED_UNITS l.length

/-- A unit and what it holds are ashed. [DEDUCED: log 84] -/
def ashUnit (k : Keeper) (c : Chip) (u : Nat) : Chip := (u :: unitParts u).foldl (ashOne k) c

/-- An ash applies at its edge (Table 18.2, step 4). Both tiles ashed raise TILE_STOPPED. The table takes 512 entries; an
ash beyond them lasts until the next KINDLING (R454). With every spare block used up, the record in an ashed MRAM block is lost (Table 18.5).
[DEDUCED: log 84; DEDUCED: log 85] -/
def ashApply (k : Keeper) (c : Chip) (d : AshDue) : Chip :=
  if ashOwn c d.unit then c
  else
    let room := (c.flt.ashes.filter (·.entry)).length < 512
    let tiles := tilesRun c
    let c := { c with flt := { c.flt with ashes := c.flt.ashes ++ [⟨d.unit, d.code, d.injected, wireEpoch k.epoch, room⟩] } }
    let c := ashShow (if room then c else c.bump Key.Flt.ASH_OVERFLOWS)
    let c := ashUnit k c d.unit
    let blocks := (c.flt.ashes.filter fun a => unitClass a.unit = 0x1A).length
    let c := if unitClass d.unit = 0x1A && 32 < blocks then c.bump Key.Rec.RECORDS_LOST else c
    if tiles && !tilesRun c then raise k c 0x1204 theModule else c

/-- Every ash due at the edge being processed. -/
def ashesEdge (k : Keeper) (c : Chip) : Chip :=
  let due := c.flt.due.filter fun d => decide (d.edge ≤ k.epoch)
  due.foldl (ashApply k) { c with flt := { c.flt with due := c.flt.due.filter fun d => decide (k.epoch < d.edge) } }

/-! ## Clearing an ash (R448) -/

/-- A unit that is ashed no more returns to the state its chapter gives on a clear: a power domain is powered again, as the
modes above KINDLING ask (R86). CLE instances, tiles and PLLs return at the next KINDLING (R448). [DEDUCED: log 84] -/
def unashOne (k : Keeper) (c : Chip) (u : Nat) : Chip :=
  let n := unitNum u
  if unitAshed c u then c
  else match unitClass u with
  | 0x01 =>
    let c := c.putFlag (Key.Cell.ENABLE n) false
    if itemConfigured c.od n then c.put (Key.Cell.STATE n) 1 else itemRestate (c.put (Key.Cell.STATE n) 0) n false
  | 0x02 => itemRestate (c.put (Key.Node.STATE n) 0) (512 + n) (itemConfigured c.od (512 + n))
  | 0x06 => valveUnash k c n
  | 0x07 => bankUnash k c n
  | 0x08 => lsUnash c n
  | 0x09 => secUnash c n
  | 0x0A => dioUnash c n
  | 0x0B => grpUnash k c n
  | 0x0C => setAntStatus c n 0
  | 0x0E => pipeUnash k c n
  | 0x10 => canUnash c n
  | 0x11 => ethUnash c n
  | 0x12 => fabUnash c n
  | 0x13 => panelShow k c n
  | 0x15 => pdUp k c n
  | 0x16 => c.put (Key.Sensor.SENSE_STATUS n) 0
  | 0x17 => linkUnash c (n - 1)
  | _ => c

/-- The units an ASH_CLEAR value names: every ashed unit, or one. -/
def ashNamed (c : Chip) (v : Nat) : List Nat :=
  if v = 0xFFFFFFFF then (c.flt.ashes.map (·.unit)).eraseDups else if ashOwn c v then [v] else []

/-- An ASH_CLEAR value is refused where it names no ashed unit. -/
def ashClearCheck (c : Chip) (v : Nat) : Nat := if ashNamed c v = [] then Rc.OUT_OF_RANGE else Rc.OK

/-- One unit's ash is cleared. -/
def ashRemove (k : Keeper) (c : Chip) (u : Nat) : Chip :=
  let c := { c with flt := { c.flt with
    ashes := c.flt.ashes.filter (fun a => decide (a.unit ≠ u)), budget := c.flt.budget.filter (fun b => !(u :: unitParts u).contains b.2.1) } }
  let c := (ashShow c).bump Key.Flt.ASH_CLEARS
  (u :: unitParts u).foldl (unashOne k) c

/-- ASH_CLEAR applies at its edge. -/
def ashClearApply (k : Keeper) (c : Chip) (v : Nat) : Chip := (ashNamed c v).foldl (ashRemove k) c

/-- The ashes that a KINDLING keeps show again once their units come up; those without an entry are gone (R454).
[DEDUCED: log 85] -/
def ashKindling (c : Chip) : Chip :=
  { c with flt := { ashes := c.flt.ashes.filter (·.entry), armed := c.flt.armed } }

/-! ## Detection -/

/-- A short to ground of a valve channel opens its bank's switch (Table 7.8). [DEDUCED: log 70] -/
def shortGnd (k : Keeper) (c : Chip) (n : Nat) (injected : Bool) : Chip :=
  let b := n / 4
  if c.num (Key.Bank.BANK_STATE b) = 4 then c
  else
    let c := { c with valve := { c.valve with trips := c.valve.trips.set b (some (nowUs k c, 0x0703)) } }
    raise k (c.put (Key.Bank.BANK_STATE b) 3) 0x0703 (unitValve n) injected

/-- A detector reports an event of a unit, with the protective action its own chapter gives (Table 18.2, step 1).
[DESIGN CHOICE: log 20] -/
def detect (k : Keeper) (c : Chip) (code u : Nat) (injected : Bool) : Chip :=
  let n := unitNum u
  match code with
  | 0x0404 => raise k (c.bump Key.Eng.ECC_CORRECTED) code u injected
  | 0x0702 => raise k (vcSet c n { vcOf c n with cut := true }) code u injected
  | 0x0703 => shortGnd k c n injected
  | 0x0707 => bankTrip k c n code injected
  | 0x0802 => lsTrip k c n .short injected
  | 0x0803 => latchSet k c n injected
  | 0x0805 => shortBat k c n injected
  | 0x0806 => openLoad k c n injected
  | 0x0809 => dioOverload k c n injected
  | 0x080A => grpOverload k c n injected
  | 0x080C => dioMismatch k c n injected
  | 0x0901 => antOpen k c n injected
  | 0x0902 => antShort k c n injected
  | 0x0B05 => fusionSram k c injected
  | 0x0C01 => canBusOff k c n 256 (c.num (Key.Can.REC n)) injected
  | 0x0C02 => canJudge k (c.put (Key.Can.TEC n) 128) n injected
  | 0x0E01 => buildFail k c n injected
  | 0x0E04 => healthBreak k c 1 injected
  | 0x1001 => faceRail k c n injected
  | 0x1004 => dxpLost k c injected
  | 0x1102 => pllLost k c n injected
  | 0x1103 => domStop k c n injected
  | 0x1104 => (let c := pdRail k c n injected; if n = 13 then dioRail k c else c)
  | 0x1202 => raise k (c.bump Key.Flt.DRIVE_CRC_ERRORS) code u injected
  | _ => raise k c code u injected

/-- FAULT_DETECTED: a detector reports an event of an instance (R443). [DEDUCED: log 83] -/
def execFaultDetected (fcode : BitVec 16) (unit : BitVec 32) (s : State) : Host.Outcome State Fault Refusal :=
  onChip (fun k c =>
    if c.mode = .off || c.mode = .banked || !detOn fcode.toNat unit.toNat then c
    else detect k c fcode.toNat unit.toNat false) s

/-- FAULT_HANDLER_TAKE: step 3 completes for the handling that occupies the handler, and the next is taken (R444).
[DEDUCED: log 83] -/
def execFaultHandlerTake (s : State) : Host.Outcome State Fault Refusal :=
  onChip (fun k c =>
    match c.flt.cur with
    | some e => handlerNext (classify k { c with flt := { c.flt with cur := none } } e)
    | none => c) s

/-- RETRY_OUTCOME: a retry is seen to succeed, or a condition to end, and the handling closes (R443): a domain's rail
stands again, and a pin's short to the supply is gone (Table 8.8). -/
def execRetryOutcome (fcode : BitVec 16) (unit : BitVec 32) (s : State) : Host.Outcome State Fault Refusal :=
  onChip (fun k c =>
    let n := unitNum unit.toNat
    if fcode.toNat = 0x1104 then (let c := pdHolds k c n; if n = 13 then dioRail k c else c)
    else
      let c := if fcode.toNat = 0x0805 && !armedFor k c Key.InjLs.INJ_LS_SHORT_BAT n then
          c.putBits (Key.Ls.FLAGS n) 8 false else c
      closeHandling c fcode.toNat unit.toNat) s

/-! ## Injection (R453) -/

/-- Frames of a camera are withheld for 10 / FPS + 100 ms. -/
def camGap (c : Chip) (n : Nat) : Nat :=
  let f := fExact fmt32 (c.num (Key.CamCfg.FPS n))
  100 + (if f.1 ≤ 0 then 0 else ((10000 * (f.2 : Int) + f.1 - 1) / f.1).toNat)

/-- What a write of an injection object does: its event now, or at the occasion its row names.
[DESIGN CHOICE: log 20; DEDUCED: log 85] -/
def injectAt (k : Keeper) (c : Chip) (key v : Nat) : Chip :=
  let next := arm c key v 0
  let for_ := fun ms : Nat => arm c key v (k.epoch + ms)
  let page := key / 256
  match page, key % 256 with
  -- supervisor, links, tiles, memories
  | 0x2380, 0x01 => raise k c 0x1201 (unitDie (v + 1)) true
  | 0x2380, 0x03 => raise k c 0x1203 (unitTile v) true
  | 0x2380, 0x04 => raise k c 0x1205 (unitPage (Config.dramPage [])) true
  | 0x2380, 0x05 =>
    let gone := (c.flt.ashes.filter fun a => unitClass a.unit = 0x19).map fun a => unitNum a.unit
    raise k c 0x1206 (unitPage (Config.dramPage gone)) true
  | 0x2380, 0x06 =>
    let gone := (c.flt.ashes.filter fun a => unitClass a.unit = 0x1A).map fun a => unitNum a.unit
    raise k c 0x1207 (unitBlock (Config.mramBlock gone)) true
  | 0x2380, 0x07 => raise k c 0x1208 theModule true
  -- crop flow and map
  | 0x23A0, 0x06 => for_ 100
  | 0x23A0, 0x08 => for_ 1000
  -- guidance: the value is a time
  | 0x23B0, 0x02 => for_ v
  -- valve drive
  | 0x23C0, 0x01 => for_ 3
  | 0x23C0, 0x02 => detect k c 0x0702 (unitValve v) true
  | 0x23C0, 0x03 => detect k c 0x0703 (unitValve v) true
  | 0x23C0, 0x07 => detect k c 0x0707 (unitBank v) true
  -- load switches and isolated I/O
  | 0x23D0, 0x02 => detect k c 0x0802 (unitLs v) true
  | 0x23D0, 0x03 => detect k (for_ 1000) 0x0803 (unitLs v) true
  | 0x23D0, 0x05 => detect k (for_ 100) 0x0805 (unitLs v) true
  | 0x23D0, 0x06 => detect k (for_ 100) 0x0806 (unitLs v) true
  | 0x23D0, 0x09 => detect k c 0x0809 (unitDio v) true
  | 0x23D0, 0x0A => detect k c 0x080A (unitGrp v) true
  | 0x23D0, 0x0B => for_ 10
  | 0x23D0, 0x0C => detect k c 0x080C (unitDio v) true
  | 0x23D0, 0x0D => for_ (c.num (Key.Grp.SILENCE_TIMEOUT v) + 1)
  -- GNSS and time
  | 0x23E0, 0x01 => detect k (for_ 2000) 0x0901 (unitAnt v) true
  | 0x23E0, 0x02 => detect k c 0x0902 (unitAnt v) true
  | 0x23E0, 0x03 => for_ 2000
  | 0x23E0, 0x06 => for_ 11000
  | 0x23E0, 0x07 => for_ (1000 * v)
  | 0x23E0, 0x09 => raise k c 0x0909 (unitGnb v) true
  -- vision
  | 0x23F0, 0x01 => for_ (camGap c v)
  | 0x23F0, 0x04 => raise k c 0x0A04 (unitPipe v) true
  | 0x23F0, 0x06 => pwrDerate k (for_ 10000) true
  -- fusion
  | 0x23F1, 0x01 => for_ 1000
  | 0x23F1, 0x03 => for_ v
  | 0x23F1, 0x04 => for_ 1000
  | 0x23F1, 0x05 => detect k c 0x0B05 unitFusion true
  -- CAN and Ethernet
  | 0x23F2, 0x01 => detect k c 0x0C01 (unitCan v) true
  | 0x23F2, 0x02 => detect k c 0x0C02 (unitCan v) true
  | 0x23F2, 0x04 => claimHeard k c v 0 (canOf c v).claimAddr true
  | 0x23F2, 0x05 => raise k c 0x0C05 (unitCan v) true
  | 0x23F2, 0x06 => for_ 1000
  | 0x23F2, 0x07 => raise k c 0x0C07 (unitEth v) true
  -- fabric
  | 0x23F3, 0x04 => raise k c 0x0D04 (unitFab v) true
  | 0x23F3, 0x03 => arm (for_ 1000) key (256 + c.num Key.Fab.TIME_SOURCE) (k.epoch + 1000)
  | 0x23F3, _ => for_ 1000
  -- update
  | 0x23F4, 0x02 => buildInject k c v
  | 0x23F4, 0x04 => healthBreak k c 1 true
  -- recorder
  | 0x23F5, 0x02 => for_ 10000
  | 0x23F5, 0x03 => measSaturate k c v
  -- service face
  | 0x23F6, 0x01 => detect k c 0x1001 (unitPanel v) true
  | 0x23F6, 0x02 => for_ 10000
  | 0x23F6, 0x04 => detect k (for_ 1000) 0x1004 (unitPanel 1) true
  -- clocks, power, temperature
  | 0x23F7, 0x01 => for_ 11000
  | 0x23F7, 0x03 => detect k c 0x1103 (unitDom v) true
  | 0x23F7, 0x04 => detect k c 0x1104 (unitPd v) true
  | 0x23F7, 0x05 => for_ 10000
  | 0x23F7, 0x06 => for_ 10000
  | 0x23F7, 0x07 => for_ 10000
  | 0x23F7, 0x08 => for_ 512
  | 0x23F7, 0x09 => for_ 10000
  -- every other acts on the next occasion of its detector
  | _, _ => next

/-- The injection objects. -/
def isInjection (key : Nat) : Bool := 0x2380 ≤ key / 256 && key / 256 < 0x2400

/-- A write of an injection object applies: a BOOL one injects only when it is written true. [DEDUCED: log 85] -/
def inject (k : Keeper) (c : Chip) (key v : Nat) : Chip :=
  match objInfo key with
  | some o => if o.ty = .bool && v = 0 then c else injectAt k c key v
  | none => c

end Sys2Proof.Machine
end

