-- ==== Sys2Proof/Machine/Rules.lean ====
section
/-! DEFINITION. The checks of a write (R53, R59, R63, R66, R68, R124–R127, R142 and the rules of the chapters that judge
a write), in the order the spec gives them. -/

namespace Sys2Proof.Machine

/-- A write judged with others: its object and value. -/
structure Cand where
  key : Nat
  val : Val
deriving DecidableEq, Repr

/-- A store after a list of writes. -/
def odWith (od : OD) (l : List Cand) : OD := l.foldl (fun od w => odSet od w.key w.val) od

/-! ## Presence, access, type, length (R59, R66) -/

/-- Presence and access, with the check for C access of a cord directly behind (R59, R66). A write of an RWS object outside
SERVICE fails here (Table 2.3). [DEDUCED: log 25] -/
def checkAccess (c : Chip) (key : Nat) (cord : Bool) : Except Nat ObjInfo :=
  match objInfo key with
  | none => .error Rc.NO_OBJECT
  | some o =>
    if o.acc = .ro then .error Rc.WRITE_REFUSED
    else if o.acc = .rws && c.mode ≠ .service then .error Rc.SERVICE_ONLY
    else if cord && o.acc ≠ .rwc then .error Rc.NOT_CORD_MEMBER
    else .ok o

/-- The way a value comes to the module: by a type code in a WRITE or CORD_ADD, by one in a dataset record, as a completed
DOMAIN_SEG block, or over SDO, which carries no type. -/
inductive Way where
  | typed (code : Nat)
  | record (code : Nat)
  | seg
  | sdo
deriving DecidableEq, Repr

/-- The type check: WRITE and CORD_ADD name the object's own type, and a DOMAIN moves by DOMAIN_SEG alone. -/
def typeOk (t : Ty) : Way → Bool
  | .typed code => t ≠ .domain && code = tyCode t
  | .record code => code = tyCode t
  | .seg => t = .domain
  | .sdo => t ≠ .domain

/-! ## Range (R12, R14) -/

/-- Ranges that depend on other objects without making a pair, and on the content of a block. [DEDUCED: log 28] -/
def valueOk (c : Chip) (key : Nat) (v : Val) : Bool :=
  let ix := key / 256
  let sub := key % 256
  let words := fun b : List Byte => (List.range (b.length / 2)).map fun i => tableWord b i
  if 0x4210 ≤ ix && ix < 0x4218 && key = Key.CamCfg.LIN_TABLE (ix - 0x4210) then
    (let w := words v.toBlob; (w.zip (w.drop 1)).all fun p => p.1 ≤ p.2)
  else if 0x2230 ≤ ix && ix < 0x2250 && key = Key.Sensor.NTC_TABLE (ix - 0x2230) then ntcOk v.toBlob
  else if key = Key.Rec.REC_SELECT then recSelectOk v.toNum
  else if key = Key.Prof.PROFILE_SELECT then 1 ≤ v.toNum && v.toNum ≤ c.num Key.Prof.PROFILES
  else if key = Key.Rec.REC_OFFSET then recOffsetOk c v.toNum
  else if 0x4505 ≤ ix && ix ≤ 0x450B && sub = 2 then v.toNum = 0
  else if 0x4501 ≤ ix && ix ≤ 0x450B && sub = 4 then v.toNum = 0
  else true

/-! ## Pairs (R14, R127, R178, R331 and the ranges that name another object) -/

/-- a > b in binary32. -/
def gt32 (a b : Nat) : Bool := fLt fmt32 b a

/-- Squared horizontal distance of the antennas' lever arms, mm² (R178). -/
def armDist2 (od : OD) : Int :=
  let g := fun key => toInt 32 (odNum od key)
  let dx := g Key.Geo.ANT1_X - g Key.Geo.ANT0_X
  let dy := g Key.Geo.ANT1_Y - g Key.Geo.ANT0_Y
  dx * dx + dy * dy

/-- Limits of a cell or node out of order (R127). -/
def itemPairBad (od : OD) (i sub : Nat) : Bool :=
  let g := fun s => odNum od (itemKey i s)
  let phase := fun r p => g p ≠ 0xFF && itemPeriod od i ≤ g p && r = r
  if i < 512 then
    if sub = 0x0E || sub = 0x0F then gt32 (g 0x0E) (g 0x0F)
    else if sub = 0x10 || sub = 0x11 then gt32 (g 0x10) (g 0x11)
    else if sub = 0x12 || sub = 0x13 then gt32 (g 0x12) (g 0x13)
    else if sub = 0x04 || sub = 0x05 then phase 0x04 0x05
    else false
  else if sub = 0x0D || sub = 0x0E then gt32 (g 0x0D) (g 0x0E)
  else if sub = 0x0A || sub = 0x0B then phase 0x0A 0x0B
  else false

/-- Limits of a valve channel out of order (Table 7.4). -/
def valvePairBad (od : OD) (n : Nat) (key : Nat) : Bool :=
  let g := fun k => odNum od k
  ((key = Key.Valve.COMMAND n || key = Key.Valve.PEAK_MAX n) && gt32 (g (Key.Valve.COMMAND n)) (g (Key.Valve.PEAK_MAX n)))
  || ((key = Key.Valve.HOLD_MAX n || key = Key.Valve.PEAK_MAX n) && gt32 (g (Key.Valve.HOLD_MAX n)) (g (Key.Valve.PEAK_MAX n)))
  || ((key = Key.Valve.T_DERATE n || key = Key.Valve.T_TRIP n) && gt32 (g (Key.Valve.T_DERATE n)) (g (Key.Valve.T_TRIP n)))
  || ((key = Key.Valve.DERATE_FLOOR n || key = Key.Valve.HOLD_MAX n)
    && gt32 (g (Key.Valve.DERATE_FLOOR n)) (g (Key.Valve.HOLD_MAX n)))

/-- Pairs of a camera out of order (Table 10.9). -/
def camPairBad (od : OD) (n : Nat) (key : Nat) : Bool :=
  let g := fun k => odNum od k
  let isOf := fun l : List Nat => l.contains key
  (isOf [Key.CamCfg.RATIO_A n, Key.CamCfg.RATIO_B n] && 256 < g (Key.CamCfg.RATIO_A n) * g (Key.CamCfg.RATIO_B n))
  || (isOf [Key.CamCfg.DISP_W n, Key.CamCfg.WIDTH n] && g (Key.CamCfg.WIDTH n) < g (Key.CamCfg.DISP_W n))
  || (isOf [Key.CamCfg.DISP_H n, Key.CamCfg.HEIGHT n] && g (Key.CamCfg.HEIGHT n) < g (Key.CamCfg.DISP_H n))
  || (isOf [Key.CamCfg.CODE_QP_MIN n, Key.CamCfg.CODE_QP_MAX n] && g (Key.CamCfg.CODE_QP_MAX n) < g (Key.CamCfg.CODE_QP_MIN n))
  || (isOf [Key.CamCfg.BLACK n, Key.CamCfg.ORDER n, Key.CamCfg.BITS n]
    && 2 ^ (if g (Key.CamCfg.ORDER n) = 1 then g (Key.CamCfg.BITS n) else 24) ≤ g (Key.CamCfg.BLACK n))

/-- A mapped signal of 8 bits or more off its byte boundary or beyond its frame (R154). -/
def slotPairBad (od : OD) (s : Nat) : Bool :=
  let start := odNum od (Key.Slot.CAN_START s)
  let bits := odNum od (Key.Slot.CAN_BITS s)
  8 ≤ bits && (start % 8 ≠ 0 || 8 * odNum od (Key.Slot.CAN_LEN s) < start + bits)

/-- The pair an object belongs to is out of order in a store. -/
def pairBad (od : OD) (key : Nat) : Bool :=
  let ix := key / 256
  let sub := key % 256
  let g := fun k => odNum od k
  let among := fun l : List Nat => l.contains key
  match itemOfKey key with
  | some i => itemPairBad od i sub
  | none =>
    if 0x3400 ≤ ix && ix < 0x3430 then valvePairBad od (ix - 0x3400) key
    else if 0x4210 ≤ ix && ix < 0x4218 then camPairBad od (ix - 0x4210) key
    else if 0x2400 ≤ ix && ix < 0x241E then 0x24 ≤ sub && sub ≤ 0x26 && slotPairBad od (ix - 0x2400)
    else if 0x4400 ≤ ix && ix < 0x44C0 then
      (ix - 0x4400) % 16 = 0 && 2 ≤ sub && sub ≤ 0x0B && canTimingBad od ((ix - 0x4400) / 16)
    else if ix = 0x2700 then
      among [Key.Geo.ANT0_X, Key.Geo.ANT0_Y, Key.Geo.ANT1_X, Key.Geo.ANT1_Y]
        && (armDist2 od < 1000000 || 9000000 < armDist2 od)
    else if among [Key.Speed.SLOPE_V0, Key.Speed.SLOPE_V1] then gt32 (g Key.Speed.SLOPE_V1) (g Key.Speed.SLOPE_V0)
    else if among [Key.Speed.SLOPE_A0, Key.Speed.SLOPE_A1] then gt32 (g Key.Speed.SLOPE_A0) (g Key.Speed.SLOPE_A1)
    else if among [Key.Guide.ENGAGE_XTE_MAX, Key.Guide.DISENGAGE_XTE] then
      gt32 (g Key.Guide.ENGAGE_XTE_MAX) (g Key.Guide.DISENGAGE_XTE)
    else if among [Key.Fus.CONFIRM_M, Key.Fus.CONFIRM_N] then g Key.Fus.CONFIRM_N < g Key.Fus.CONFIRM_M
    else if among [Key.Cart.SWING_MIN, Key.Cart.SWING_MAX] then gt32 (g Key.Cart.SWING_MIN) (g Key.Cart.SWING_MAX)
    else if among [Key.Cart.TIP_MIN, Key.Cart.TIP_MAX] then gt32 (g Key.Cart.TIP_MIN) (g Key.Cart.TIP_MAX)
    else if 0x4330 ≤ ix && ix < 0x4338 then
      let z := ix - 0x4330
      let i := fun k => toInt 32 (g k)
      ((sub = 2 || sub = 3) && i (Key.Zone.X_MAX z) < i (Key.Zone.X_MIN z))
        || ((sub = 4 || sub = 5) && i (Key.Zone.Y_MAX z) < i (Key.Zone.Y_MIN z))
        || ((sub = 9 || sub = 0x0A) && gt32 (g (Key.Zone.D_STOP z)) (g (Key.Zone.D_FREE z)))
    else if among [Key.Health.CONFIRM_S, Key.Health.TRIAL_S] then g Key.Health.TRIAL_S < g Key.Health.CONFIRM_S
    else if (0x2224 ≤ ix && ix < 0x222F) || (0x2230 ≤ ix && ix < 0x2250) then
      let i := if ix < 0x2230 then 32 + (ix - 0x2224) else ix - 0x2230
      among [Key.Sensor.WARN i, Key.Sensor.CRIT i, Key.Sensor.LIMIT i, Key.Sensor.RESUME i]
        && !(fLt fmt32 (g (Key.Sensor.RESUME i)) (g (Key.Sensor.WARN i))
          && fLe fmt32 (g (Key.Sensor.WARN i)) (g (Key.Sensor.CRIT i))
          && fLt fmt32 (g (Key.Sensor.CRIT i)) (g (Key.Sensor.LIMIT i)))
    else false

/-! ## Mode (R59, R79, R84, R85, R148) -/

/-- A row of Table 3.3 for the present mode and a requested one, with its condition. [DEDUCED: log 46] -/
def requestOk (k : Keeper) (c : Chip) (to_ : Mode) : Bool :=
  match c.mode, to_ with
  | .service, .road => !updInProgress c
  | .service, .kindling => true
  | .road, .field => true
  | .field, .harvest => true
  | .harvest, .field => true
  | .field, .road => true
  | .road, .service => speedLow k c
  | .field, .service => speedLow k c
  | .harvest, .service => speedLow k c
  | .service, .safe => true
  | .road, .safe => true
  | .field, .safe => true
  | .harvest, .safe => true
  | .safe, .service =>
    c.modes.beatSafe && c.num Key.Therm.THERMAL_STAGE ≠ 2 && !c.flag Key.Safe.SAFE_STOP && speedLow k c
  | .safe, .kindling => c.modes.feedGood
  | .service, .banked => true
  | .road, .banked => true
  | .safe, .banked => true
  | _, _ => false

/-- The slot of a MODE_REQ object. -/
def slotOfReq (key : Nat) : Option Nat :=
  let ix := key / 256
  if 0x2400 ≤ ix && ix < 0x241E && key % 256 = 1 then some (ix - 0x2400) else none

/-- The mode check. [DEDUCED: log 25; DEDUCED: log 27] -/
def modeCheck (k : Keeper) (c : Chip) (acc : Acc) (key : Nat) (v : Val) : Nat :=
  if key = Key.Mode.MODE_REQUEST then
    if c.mode = .kindling then Rc.MODE_FORBIDDEN
    else if v.toNum = 0 || requestOk k c (modeOf v.toNum) then Rc.OK else Rc.MODE_FORBIDDEN
  else if isInjection key then
    if c.mode = .service || (c.mode = .kindling && up c 8) then Rc.OK else Rc.MODE_FORBIDDEN
  else if acc = .rwc && !modeRuns c.mode then Rc.MODE_FORBIDDEN
  else match slotOfReq key with
    | some s => if ceiling c s < v.toNum then Rc.MODE_FORBIDDEN else Rc.OK
    | none => Rc.OK

/-! ## Driven objects (R124) -/

/-- An OUT_TARGET of a store names an object. -/
def targetNamed (od : OD) (key : Nat) : Bool :=
  od.any fun e => match itemOfKey e.1 with
    | some i => e.1 % 256 = itemTargetSub i && e.2.toNum = 0x3000000 + key
    | none => false

/-- The cell whose SETPOINT an object is. -/
def cellOfSetpoint (key : Nat) : Option Nat :=
  match itemOfKey key with
  | some i => if i < 512 && key % 256 = 2 then some i else none
  | none => none

/-- An object is driven: by an item's output, or by a set-point reference, now or once the writes of `od` apply. -/
def driven (c : Chip) (od : OD) (key : Nat) : Bool :=
  targetNamed c.od key || targetNamed od key
  || match cellOfSetpoint key with
    | some n => odNum c.od (Key.Cell.SP_REF n) ≠ 0 || odNum od (Key.Cell.SP_REF n) ≠ 0
    | none => false

/-- An object belongs to a cord that is OPEN, COMMITTED or DUE. -/
def inCord (c : Chip) (key : Nat) : Bool :=
  (c.dict.cords.zip (List.range 32)).any fun (x, s) =>
    let st := c.num (Key.Cord.CORD_STATE s)
    1 ≤ st && st ≤ 3 && x.members.any (·.key = key)

/-- A write of OUT_TARGET or SP_REF meets a cord (R124). -/
def meetsCord (c : Chip) (key : Nat) (v : Val) : Bool :=
  match itemOfKey key with
  | some i =>
    (key % 256 = itemTargetSub i && refKind v.toNum = 3 && inCord c (refWhich v.toNum))
    || (i < 512 && key % 256 = 7 && inCord c (Key.Cell.SETPOINT i))
  | none => false

/-! ## Checks of the owning chapters -/

/-- A new yield map fits in UFS (R170). [DESIGN CHOICE: log 21] -/
def mapRoom (c : Chip) (n : Nat) : Bool :=
  c.crop.maps.any (·.number = n)
    || (c.crop.maps.length < 4095
      && c.crop.maps.foldl (fun s m => s + 16 + 32 * m.records.length) 0 + 48 ≤ Config.ufsMapBytes)

/-- The module's map state is not IDLE. -/
def mapActive (c : Chip) : Bool := c.num Key.Map.MAP_STATE ≠ 0

/-- The rules of the owning chapters for one write, after the checks of R59. `od` is the store as pending and accepted
writes will leave it, without this write. -/
def chapterCheck (c : Chip) (od : OD) (key : Nat) (v : Val) : Nat :=
  let ix := key / 256
  let sub := key % 256
  let n := v.toNum
  match slotOfReq key with
  | some s =>
    if s = 24 && c.flag Key.Guide.GUIDE_ENABLE then Rc.GUIDANCE_OWNS
    else if n ≠ 0 && boundRoots c s = [] then Rc.SLOT_UNBOUND
    else Rc.OK
  | none =>
    if driven c od key then Rc.DRIVEN
    else if meetsCord c key v then Rc.BUSY
    else if key = Key.Map.CROP then (if mapActive c then Rc.MAP_BUSY else Rc.OK)
    else if key = Key.Map.MAP_NUMBER then
      (if mapActive c then Rc.MAP_BUSY else if mapRoom c n then Rc.OK else Rc.NO_ROOM)
    else if key = Key.Map.MAP_DELETE then
      (if mapActive c && n = c.num Key.Map.MAP_NUMBER then Rc.MAP_BUSY else Rc.OK)
    else if ix = 0x2704 && 1 ≤ sub && sub ≤ 4 then (if guideHolds c then Rc.GUIDE_BUSY else Rc.OK)
    else if key = Key.Line.LINE_DATA then lineCheck c (odNum od Key.Line.LINE_SELECT) v.toBlob
    else if key = Key.Line.LINE_DELETE then
      (if guideHolds c && c.num Key.GLine.ACTIVE_LINE = n then Rc.GUIDE_BUSY else Rc.OK)
    else if 0x3480 ≤ ix && ix < 0x3500 && key = Key.Prog.CODE (ix - 0x3480) then codeCheck c (ix - 0x3480) v.toBlob
    else if 0x3600 ≤ ix && ix < 0x3680 && sub = 1 then
      (if odNum od (Key.Dio.DIR (ix - 0x3600)) = 1 then Rc.OK else Rc.NOT_OUTPUT)
    else if 0x4400 ≤ ix && ix < 0x44C0 && key = Key.CanX.FILTER_LIST ((ix - 0x4400) / 16) then
      (if filterListOk v.toBlob then Rc.OK else Rc.LIST_INVALID)
    else if 0x4400 ≤ ix && ix < 0x44C0 && key = Key.CanX.TX_SUBMIT ((ix - 0x4400) / 16) then
      txSubmitCheck od ((ix - 0x4400) / 16) v.toBlob
    else if key = Key.Flt.ASH_CLEAR then ashClearCheck c n
    else if ix = 0x2120 && 1 ≤ sub && sub ≤ 21 then gateCheck od (sub - 1) (n ≠ 0)
    else if gateClash (odSet od key v) && !gateClash od then Rc.GATED
    else Rc.OK

/-- Two results: the first that is not OK. -/
def andThen (a b : Nat) : Nat := if a = Rc.OK then b else a

/-- Range, mode and ashed unit, in the order of R59, then the chapters' rules. UPD_PKG and FACE_UPDATE are judged by their
own chapters (R372, R404), which give these checks an order of their own. A cord's member keeps its range by itself; a
write's pairs are judged over its datagram. [DEDUCED: log 28; DEDUCED: log 49] -/
def checkValue (k : Keeper) (c : Chip) (od : OD) (o : ObjInfo) (key : Nat) (cord : Bool) (v : Val) : Nat :=
  if key = Key.Upd.UPD_PKG then updCheck c v.toBlob
  else if key = Key.Face.FACE_UPDATE then faceCheck c v.toBlob
  else if !(inRange o.ty o.rng v && valueOk c key v) || (cord && pairBad (odSet od key v) key) then Rc.OUT_OF_RANGE
  else
    andThen (modeCheck k c o.acc key v)
      (if keyAshed c key || (key = Key.InjCle.INJ_LOCKSTEP && c.num Key.Eng.ENGINE_STATE ≠ 0) then Rc.UNIT_ASHED
        else chapterCheck c od key v)

/-- The checks of one write or, with `cord`, of a CORD_ADD (R59, R68): its value, or the first code. -/
def checkPlain (k : Keeper) (c : Chip) (od : OD) (key : Nat) (way : Way) (cord : Bool) (data : List Byte) : Except Nat Val :=
  match checkAccess c key cord with
  | .error e => .error e
  | .ok o =>
    if !typeOk o.ty way then .error Rc.TYPE_MISMATCH
    else match bytesVal o.ty data with
      | .error e => .error e
      | .ok v =>
        let r := checkValue k c od o key cord v
        if r = Rc.OK then .ok v else .error r

/-- Objects that R282's admission judges. -/
def isVision (key : Nat) : Bool :=
  let ix := key / 256
  let n := ix - 0x4210
  0x4210 ≤ ix && ix < 0x4218
    && [Key.CamCfg.CAM_ENABLE n, Key.CamCfg.WIDTH n, Key.CamCfg.HEIGHT n, Key.CamCfg.EXPOSURES n, Key.CamCfg.FPS n,
      Key.CamCfg.OUT_MASK n, Key.CamCfg.CODE_DIV n, Key.CamCfg.CODE_RATE n, Key.CamCfg.CODE_DEST n,
      Key.CamCfg.RING_MIB n].contains key

/-! ## Profiles (R382) -/

/-- The records of a profile of the dataset in use. -/
def profileRecords (c : Chip) (p : Nat) : List DsRec := ((dsRecords c.upd.ds).getD []).filter fun r => r.2.2.2.1 = p

/-- The writes a profile stands for, in record order; a record that selects a profile stands for that one's. -/
def profileWrites (c : Chip) : Nat → Nat → List Cand
  | 0, _ => []
  | fuel + 1, p =>
    (profileRecords c p).flatMap fun r =>
      match objInfo (dsKey r) with
      | none => []
      | some o =>
        match bytesVal o.ty r.2.2.2.2 with
        | .error _ => []
        | .ok v => if (dsKey r = Key.Prof.PROFILE_SELECT) then profileWrites c fuel v.toNum else [⟨dsKey r, v⟩]

/-- The first record of a profile that fails its checks; a profile that selects itself is out of range.
[DEDUCED: log 49] -/
def profileCheck (k : Keeper) (c : Chip) (od : OD) : Nat → Nat → Nat
  | 0, _ => Rc.OUT_OF_RANGE
  | fuel + 1, p =>
    (profileRecords c p).foldl (fun code r =>
      if code ≠ Rc.OK then code
      else match checkPlain k c od (dsKey r) (.record r.2.2.1) false r.2.2.2.2 with
        | .error e => e
        | .ok v => if (dsKey r = Key.Prof.PROFILE_SELECT) then profileCheck k c od fuel v.toNum else Rc.OK) Rc.OK

/-- What a profile may nest. -/
abbrev profileDepth : Nat := 17

/-- A profile as a whole: its records, then what they are judged by together. [DEDUCED: log 49] -/
def profileJudge (k : Keeper) (c : Chip) (od : OD) (p : Nat) : Nat :=
  let r := profileCheck k c od profileDepth p
  if r ≠ Rc.OK then r
  else
    let ws := profileWrites c profileDepth p
    let after := odWith od ws
    if ws.any (fun w => pairBad after w.key) then Rc.OUT_OF_RANGE
    else if ws.any (fun w => isVision w.key) && !visAdmitted after then Rc.VISION_ADMISSION
    else if ws.any (fun w => measKey w.key) then measCheck c (ws.map fun w => (w.key, w.val))
    else Rc.OK

/-- The own checks of a write or, with `cord`, of a CORD_ADD: those of R59 and R68 and, for PROFILE_SELECT, those of its
records. [DEDUCED: log 49] -/
def checkOwn (k : Keeper) (c : Chip) (od : OD) (key : Nat) (way : Way) (cord : Bool) (data : List Byte) : Except Nat Val :=
  match checkPlain k c od key way cord data with
  | .error e => .error e
  | .ok v =>
    if key = Key.Prof.PROFILE_SELECT then
      (let r := profileJudge k c od v.toNum; if r = Rc.OK then .ok v else .error r)
    else .ok v

/-! ## Writes judged over a datagram (R53) -/

/-- Binding objects of a slot: those that default to NONE, ROOT0–ROOT3 and SENSOR0–SENSOR3 (R140, R142). -/
def isBinding (key : Nat) : Bool :=
  let ix := key / 256
  0x2400 ≤ ix && ix < 0x241E && 8 ≤ key % 256 && key % 256 ≤ 0x0F

/-- The CAN mapping of a slot: CAN_PORT and CAN_ID. A composite has none (R166). -/
def isMapping (key : Nat) : Bool :=
  let ix := key / 256
  0x2400 ≤ ix && ix < 0x241E && !isComposite (ix - 0x2400) && (key % 256 = 0x21 || key % 256 = 0x22)

/-- Slots and roots bound in a store. -/
def bindings (od : OD) : List (Nat × Nat × Nat) :=
  allRoots.filterMap fun (s, r) => (slotRoot od s r).map fun i => (s, r, i)

/-- The objects a slot's own roots drive. -/
def ownTargets (od : OD) (s : Nat) : List Nat :=
  (List.range 4).filterMap fun r => (slotRoot od s r).bind fun i => itemTarget od i

/-- A binding breaks R142: what it names in its own slot. -/
def bindingBad (od : OD) (edges : List (Nat × Nat)) (b : Nat × Nat × Nat) : Bool :=
  let (s, _, i) := b
  if isComposite s then
    match slotRoot od 23 0 with
    | some r => !(i < 512 && (edges.any fun e => e.1 = i && (rootOf edges e.2).1 = r))
    | none => true
  else (parentIn edges i).isSome || itemTarget od i = none

/-- Items of the tree of a bound root; a composite root binds its cell alone. -/
def boundItems (edges : List (Nat × Nat)) (items : List Nat) (b : Nat × Nat × Nat) : List Nat :=
  if isComposite b.1 then [b.2.2] else items.filter fun i => (rootOf edges i).1 = b.2.2

/-- The slots that break R142, bound or not. Composite roots bid inside the tree of FS24, so their cells are not bound twice by
standing in it. -/
def bindingBreaks (od : OD) : List Nat :=
  let items := configuredItems od
  let edges := treeEdges od items
  let bs := bindings od
  let twice := fun (a b : Nat × Nat × Nat) => a.1 ≠ b.1 && isComposite a.1 = isComposite b.1
    && ((boundItems edges items a ++ [a.2.2]).any (boundItems edges items b ++ [b.2.2]).contains
      || (!isComposite a.1 && (itemTarget od a.2.2).isSome && itemTarget od a.2.2 = itemTarget od b.2.2))
  let targets := od.filterMap fun e => match itemOfKey e.1 with
    | some i => if e.1 % 256 = itemTargetSub i then some (i, e.2.toNum) else none
    | none => none
  let named := fun s => targets.any fun t => t.2 = 0x3000000 + Key.Slot.CAN_CMD s
    && !((List.range 4).any fun r => slotRoot od s r = some t.1)
  (List.range 30).filter fun s => (bs.any fun b => b.1 = s && (bindingBad od edges b || bs.any (twice b))) || named s

/-- Two slots map the same port and identifier (R152). -/
def mapClash (od : OD) (s : Nat) : Bool :=
  let port := odNum od (Key.Slot.CAN_PORT s)
  let id := fun s => odNum od (Key.Slot.CAN_ID s) % 0x20000000 / 256
  port ≠ 0xFF && (List.range 30).any fun t => t ≠ s && !isComposite t && odNum od (Key.Slot.CAN_PORT t) = port && id t = id s

/-- Objects of a camera that make a pair. -/
def isCamPair (key : Nat) : Bool :=
  let ix := key / 256
  let n := ix - 0x4210
  0x4210 ≤ ix && ix < 0x4218
    && [Key.CamCfg.RATIO_A n, Key.CamCfg.RATIO_B n, Key.CamCfg.DISP_W n, Key.CamCfg.DISP_H n, Key.CamCfg.WIDTH n,
      Key.CamCfg.HEIGHT n, Key.CamCfg.CODE_QP_MIN n, Key.CamCfg.CODE_QP_MAX n, Key.CamCfg.BLACK n, Key.CamCfg.ORDER n,
      Key.CamCfg.BITS n].contains key

/-- The source whose configuration an object belongs to (R308). -/
def sourceOf (key : Nat) : Option Nat :=
  let ix := key / 256
  if 0x4310 ≤ ix && ix < 0x4320 && key % 256 ≤ 4 then some (ix - 0x4310) else none

/-- A write that is judged over the whole datagram (R53). [DEDUCED: log 29] -/
def isJoint (key : Nat) : Bool :=
  let ix := key / 256
  let sub := key % 256
  isStructural key || isBinding key || isMapping key || isVision key || isCamPair key || measKey key || (sourceOf key).isSome
  || (match itemOfKey key with
      | some i => if i < 512 then 0x0E ≤ sub && sub ≤ 0x13 else sub = 0x0D || sub = 0x0E
      | none => false)
  || (0x3400 ≤ ix && ix < 0x3430 && [1, 5, 6, 0x10, 0x11, 0x12].contains sub)
  || (0x2400 ≤ ix && ix < 0x241E && 0x24 ≤ sub && sub ≤ 0x26)
  || (0x4400 ≤ ix && ix < 0x44C0 && (ix - 0x4400) % 16 = 0 && 2 ≤ sub && sub ≤ 0x0B)
  || (ix = 0x2700 && 1 ≤ sub && sub ≤ 5)
  || (ix = 0x2601 && 7 ≤ sub && sub ≤ 0x0A)
  || key = Key.Guide.ENGAGE_XTE_MAX || key = Key.Guide.DISENGAGE_XTE
  || key = Key.Fus.CONFIRM_M || key = Key.Fus.CONFIRM_N
  || (ix = 0x4302 && [0x0A, 0x0B, 0x0E, 0x0F].contains sub)
  || (0x4330 ≤ ix && ix < 0x4338 && [2, 3, 4, 5, 9, 0x0A].contains sub)
  || key = Key.Health.CONFIRM_S || key = Key.Health.TRIAL_S
  || (((0x2224 ≤ ix && ix < 0x222F) || (0x2230 ≤ ix && ix < 0x2250)) && 7 ≤ sub && sub ≤ 0x0A)
  || key = Key.Rec.REC_SELECT

/-- Writes judged together: what is still in the running, and the result of each place that is decided. -/
structure Joint where
  chip : Chip
  /-- Writes still in the running, by their place. -/
  live : List (Nat × Cand)
  /-- Results decided so far, by place. -/
  out : List (Nat × Nat)

/-- The store with every pending write and every write still in the running. -/
def Joint.od (j : Joint) : OD := odWith (prospect j.chip) (j.live.map (·.2))

/-- Refuses the writes a test names. -/
def Joint.refuse (j : Joint) (code : Nat) (bad : Cand → Bool) : Joint :=
  { j with live := j.live.filter (fun p => !bad p.2)
           out := j.out ++ (j.live.filter fun p => bad p.2).map fun p => (p.1, code) }

/-- Pairs out of order, again until none is left: at most once for each write. -/
def jointPairs : Nat → Joint → Joint
  | 0, j => j
  | fuel + 1, j =>
    let od := j.od
    if j.live.any (fun p => pairBad od p.2.key) then jointPairs fuel (j.refuse Rc.OUT_OF_RANGE fun w => pairBad od w.key)
    else j

/-- Admission of the structural writes (R125): judged, recorded and refused as a whole. -/
def jointEngine (j : Joint) : Joint :=
  let ws := (j.live.map (·.2)).filter fun w => isStructural w.key
  if ws = [] then j
  else
    let (code, c) := judgeAdmission j.chip j.od (ws.map (·.key))
    let j := { j with chip := c }
    if code = Rc.OK then j else j.refuse code fun w => isStructural w.key

/-- Bindings (R142) and CAN mappings (R152), each refused as a whole. -/
def jointSlots (j : Joint) : Joint :=
  let j := if j.live.any (fun p => isBinding p.2.key) && bindingBreaks j.od ≠ [] then
      j.refuse Rc.SLOT_BINDING fun w => isBinding w.key else j
  let od := j.od
  j.refuse Rc.CANMAP_CLASH fun w => isMapping w.key && mapClash od (w.key / 256 - 0x2400)

/-- Admission of a camera configuration (R282), and sources whose input is missing (R308). -/
def jointVision (j : Joint) : Joint :=
  let j := if j.live.any (fun p => isVision p.2.key) && !visAdmitted j.od then
      j.refuse Rc.VISION_ADMISSION fun w => isVision w.key else j
  let od := j.od
  j.refuse Rc.SOURCE_INVALID fun w => match sourceOf w.key with
    | some s => sourceInvalid od s
    | none => false

/-- Measures (R389). -/
def jointMeas (j : Joint) : Joint :=
  if j.live.any (fun p => measKey p.2.key) then
    let ws := j.chip.dict.pend.map (fun w => (w.key, w.val)) ++ (j.live.map fun p => (p.2.key, p.2.val))
    let code := measCheck j.chip ws
    if code = Rc.OK then j else j.refuse code fun w => measKey w.key
  else j

/-- Commands that a write of the same datagram makes driven (R124). -/
def jointDriven (j : Joint) : Joint :=
  let od := j.od
  j.refuse Rc.DRIVEN fun w => targetNamed od w.key

/-- Judges a list of writes that have passed their own checks, by place (R53). Pairs are judged again at the end, since a
refused write leaves its object as it was. [DEDUCED: log 29] -/
def judgeJoint (c : Chip) (live : List (Nat × Cand)) : Joint :=
  let j := jointPairs live.length ⟨c, live, []⟩
  let j := jointDriven (jointMeas (jointVision (jointSlots (jointEngine j))))
  jointPairs live.length j

/-- The result of a place: its refusal, OK where it is still in the running, none where it was not judged. -/
def Joint.result (j : Joint) (place : Nat) : Option Nat :=
  match j.out.find? (·.1 = place) with
  | some p => some p.2
  | none => if j.live.any (·.1 = place) then some Rc.OK else none

/-! ## One write -/

/-- Judges a write alone, as an SDO write is (R125), or the only write of a command: its value where it is accepted.
[DEDUCED: log 29] -/
def judgeOne (k : Keeper) (c : Chip) (key : Nat) (way : Way) (data : List Byte) : Nat × Val × Chip :=
  match checkOwn k c (prospect c) key way false data with
  | .error e => (e, .num 0, c)
  | .ok v =>
    if isJoint key then
      let j := judgeJoint c [(0, ⟨key, v⟩)]
      ((j.result 0).getD Rc.OK, v, j.chip)
    else (Rc.OK, v, c)

/-! ## Heartbeats (R73, R89, R99) -/

/-- A heartbeat is processed: supervision restarts. -/
def beat (k : Keeper) (c : Chip) (org : Origin) : Chip :=
  let c := ((c.put Key.Hb.HB_LAST_EPOCH (wireEpoch k.epoch)).put Key.Hb.HB_LAST_KIND (originKind org)).put
    Key.Hb.HB_LAST_ADDR (originAddr org)
  { c with modes := { c.modes with
    beaten := c.modes.beaten || modeRuns c.mode, beatSafe := c.modes.beatSafe || c.mode = .safe
    deadline := if (modeRuns c.mode) then some (k.epoch + c.num Key.Hb.HB_TIMEOUT) else c.modes.deadline } }

/-- Objects whose accepted writes act as they are taken, not at an edge. -/
def actsAtOnce (key : Nat) : Bool := key = Key.Hb.HEARTBEAT || key = Key.Rtcm.RTCM_IN

/-- Takes an accepted write: it becomes due (R29); a heartbeat acts when it is processed (R73), and the bytes of RTCM_IN are
parsed when their transfer completes (R266). -/
def takeWrite (k : Keeper) (c : Chip) (org : Origin) (key : Nat) (v : Val) : Chip :=
  if key = Key.Hb.HEARTBEAT then beat k c org
  else if key = Key.Rtcm.RTCM_IN then rtcmBytes k c false v.toBlob
  else acceptWrite k c org key v

/-- Services run: Ethernet and CAN are up (K8). -/
def served (c : Chip) : Bool := up c 8

/-- One ordinary write outside a datagram: judged, taken, and its result given. -/
def writeOne (k : Keeper) (c : Chip) (org : Origin) (key : Nat) (way : Way) (data : List Byte) : Chip :=
  if !served c then c
  else
    let (code, v, c) := judgeOne k c key way data
    (if code = Rc.OK then takeWrite k c org key v else c).emit (.result code [])

/-- The bytes of a number for an object. -/
def numBytes (key n : Nat) : List Byte := valBytes (((objInfo key).map fun o : ObjInfo => o.ty).getD Ty.u8) (.num n)

/-- The writes of one datagram, as (key, bytes): judged together, taken in order, each with its result.
[DESIGN CHOICE: log 50] -/
def writeAll (k : Keeper) (c : Chip) (org : Origin) (ws : List (Nat × List Byte)) : Chip :=
  if !served c then c
  else
    let own := (ws.zip (List.range ws.length)).map fun ((key, b), i) => (i, key, checkOwn k c (prospect c) key .sdo false b)
    let live := own.filterMap fun (i, key, r) => match r with
      | .ok v => if (isJoint key) then some (i, (⟨key, v⟩ : Cand)) else none
      | .error _ => none
    let j := judgeJoint c live
    own.foldl (fun c (i, key, r) => match r with
      | .error e => c.emit (.result e [])
      | .ok v =>
        let code := (j.result i).getD Rc.OK
        (if code = Rc.OK then takeWrite k c org key v else c).emit (.result code [])) j.chip

end Sys2Proof.Machine
end

