-- ==== Sys2Proof/Machine/Apply.lean ====
section
/-! DEFINITION. A write applied at its edge (R30): what it stores, and what it does besides. -/

namespace Sys2Proof.Machine

/-- What the writes of an edge leave for the end of R30's order: items whose structure changed, the last non-zero request
of a mode with how many there were, and views that follow a configuration. -/
structure Applied where
  chip : Chip
  items : List Nat := []
  req : Option Nat := none
  reqs : Nat := 0
  recorder : Bool := false
  vision : Bool := false

/-- The value an object takes (R104, Table 3.2, Table 8.5): a subnormal written to a cell or node is a zero of its sign,
KEY cannot be cleared in WAKE_ENABLE, FILTER_US goes in steps of 5 µs. -/
def storedVal (t : Ty) (key : Nat) (v : Val) : Val :=
  match v with
  | .blob b => .blob b
  | .num n =>
    if (itemOfKey key).isSome && t = .f32 then .num (fFlush fmt32 n)
    else if key = Key.Wake.WAKE_ENABLE then .num (n ||| 1)
    else if 0x3600 ≤ key / 256 && key / 256 < 0x3680 && key = Key.Dio.FILTER_US (key / 256 - 0x3600) then .num (n - n % 5)
    else .num n

/-- Frees a snapshot slot (R58). -/
def snapFree (c : Chip) (n : Nat) : Chip :=
  let c := { c with dict := { c.dict with snaps := c.dict.snaps.set n {} } }
  ((((c.put (Key.Snap.SNAP_STATE n) 0).put (Key.Snap.SNAP_EPOCH n) 0).put (Key.Snap.SNAP_COUNT n) 0).put
    (Key.Snap.SNAP_OWNER n) 0).putBlob (Key.Snap.SNAP_DATA n) []

/-- HB_TIMEOUT applies: the deadline is recomputed from the last heartbeat (R89). -/
def hbRecompute (k : Keeper) (c : Chip) : Chip :=
  if c.modes.beaten && c.modes.deadline.isSome then
    { c with modes := { c.modes with
      deadline := some (max (c.num Key.Hb.HB_LAST_EPOCH + c.num Key.Hb.HB_TIMEOUT) k.epoch) } }
  else c

/-- Objects that are commands: they store nothing, or their own operation stores them. [DESIGN CHOICE: log 23] -/
def notStored (acc : Acc) (key : Nat) : Bool :=
  acc = .wo || measKey key || (key / 256 = 0x2120 && 1 ≤ key % 256 && key % 256 ≤ 21)
    || key = Key.Line.LINE_DATA || key = Key.Line.LINE_DELETE

/-- What a write of a machine-function object does beside its store (05, 06). -/
def applyFunctions (c : Chip) (key : Nat) (v : Val) : Chip :=
  match slotOfReq key with
  | some s => { c with crop := { c.crop with reqs := c.crop.reqs.filter (fun r => decide (r.1 ≠ s)) ++ [(s, v.toNum)] } }
  | none =>
    if key = Key.Map.MAP_DELETE then
      mapShow { c with crop := { c.crop with maps := c.crop.maps.filter fun m => decide (m.number ≠ v.toNum) } }
    else if key = Key.Map.MAP_NUMBER || key = Key.Map.MAP_SELECT then mapShow c
    else if key = Key.Guide.ENGAGE_CMD then { c with guide := { c.guide with cmd := some v.toNum } }
    else if key = Key.Line.LINE_DATA then lineStore c (c.num Key.Line.LINE_SELECT) v.toBlob
    else if key = Key.Line.LINE_DELETE then lineRemove (c.put key v.toNum) v.toNum
    else if key = Key.Line.LINE_SELECT then lineShow c
    else c

/-- A SAFE_KIND written while its override lasts applies (R204, R230, R247). -/
def resafe (k : Keeper) (c : Chip) (key : Nat) : Chip :=
  let ix := key / 256
  let n := ix % 256
  if 0x3400 ≤ ix && ix < 0x3430 && key = Key.Valve.SAFE_KIND n then vcResafe k c n
  else if 0x3500 ≤ ix && ix < 0x3530 && key = Key.Ls.SAFE_KIND n then
    (if c.num (Key.Ls.STATE n) = 4 then lsSafe k c n else c)
  else if 0x3600 ≤ ix && ix < 0x3680 && key = Key.Dio.SAFE_KIND n then
    (if c.num (Key.Dio.CH_STATE n) = 3 then dioSafe k c n (dioOf c n).edgeOn else c)
  else c

/-- Every output takes its safe value anew, as the mode has it: a HOLD is off in KINDLING and BANKED (R87, R95). -/
def outputsSafe (k : Keeper) (c : Chip) : Chip :=
  let c := (List.range 48).foldl (vcResafe k) (valveOverrides k c)
  let c := (List.range 48).foldl (fun c n => if c.num (Key.Ls.STATE n) = 4 then lsSafe k c n else c) (lsOverrides k c)
  (List.range 128).foldl (fun c n =>
    if isOutput c n && c.num (Key.Dio.CH_STATE n) ≠ 4 then dioSafe k c n (dioOf c n).edgeOn else c) c

/-- What a write of a driver object does beside its store (07, 08). A command waits for the frame that carries its edge
(R32); a channel that becomes an input switches its output off (R242). `old` is the store before the write. -/
def applyDrives (k : Keeper) (c : Chip) (old : OD) (key : Nat) (v : Val) : Chip :=
  let ix := key / 256
  if isDeviceKey key && key % 256 = 1 && (0x3440 > ix || 0x3500 ≤ ix) then
    { c with link := { c.link with edge := c.link.edge ++ [(key, v.toNum)] } }
  else if 0x3400 ≤ ix && ix < 0x3430 && (key % 256 = 2 || key % 256 = 3) then
    usersShow c [odNum old key, v.toNum]
  else if 0x3480 ≤ ix && ix < 0x3500 && key = Key.Prog.CODE (ix - 0x3480) then codeApply c (ix - 0x3480) v.toBlob
  else if 0x3600 ≤ ix && ix < 0x3680 && key % 256 = 2 && v.toNum = 0 && odNum old key = 1 then
    let n := ix - 0x3600
    (dioDrive k (dioSet c n { dioOf c n with retryAt := none }) n false).put (Key.Dio.CH_STATE n) 0
  else if 0x3600 ≤ ix && ix < 0x3680 && key % 256 = 5 then dioInvert c (ix - 0x3600)
  else if 0x3500 ≤ ix && ix < 0x3530 && key % 256 = 2 then lsJudge k c (ix - 0x3500)
  else resafe k c key

/-- What a write of a GNSS, vision, CAN or fabric object does beside its store (09–13). [DEDUCED: log 51] -/
def applyComms (k : Keeper) (c : Chip) (key : Nat) (v : Val) : Chip :=
  let ix := key / 256
  let sub := key % 256
  if key = Key.Gnss.ANT_BIAS then antBiasApply c
  else if 0x4210 ≤ ix && ix < 0x4218 && sub = 1 then camEnableApply k c (ix - 0x4210) (v.toNum ≠ 0)
  else if 0x4400 ≤ ix && ix < 0x44C0 then
    let p := (ix - 0x4400) / 16
    if key = Key.CanX.TX_SUBMIT p then txSubmitApply k c p v.toBlob
    else if key = Key.CanX.FILTER_LIST p then c.put (Key.CanX.LIST_COUNT p) (v.toBlob.length / 12)
    else if key = Key.Can.RECOVER p then (if v.toNum = 1 then recoverApply c p else c)
    else if (ix - 0x4400) % 16 = 0 && ((2 ≤ sub && sub ≤ 0x0B) || sub = 0x0E) then canReintegrate k c p
    else c
  else c

/-- What a write of an update, recorder, face, power or fault object does beside its store (14–18). -/
def applySystem (k : Keeper) (c : Chip) (org : Origin) (key : Nat) (v : Val) : Chip :=
  let ix := key / 256
  let sub := key % 256
  let n := v.toNum
  if key = Key.Upd.UPD_PKG then updStart c v.toBlob
  else if 0x4701 ≤ ix && ix < 0x4705 && key = Key.Build.ABORT (ix - 0x4701) then
    (if n = 1 then buildAbort c (ix - 0x4701) else c)
  else if key = Key.Health.UPD_ACCEPT then acceptApply c n
  else if measKey key then measApply k c (some org) sub v
  else if key = Key.Rec.REC_CLEAR then recClear k c org n
  else if key = Key.Rec.COMMIT_NOW then (if n = 1 then commitNow c else c)
  else if key = Key.Rec.FAULT_BIN_H then
    clearNote k (((c.recd.recs.map (·.id)).filter (0x10000 ≤ ·)).foldl recZero c) org 0x200
  else if key = Key.Comm.SDO_NODE_ID then { c with dict := { c.dict with nodeNext := some n } }
  else if key = Key.Face.FACE_UPDATE then faceApply k c org v.toBlob
  else if ix = 0x2120 && 1 ≤ sub && sub ≤ 21 then gateApply c (sub - 1) (n ≠ 0)
  else if key = Key.Flt.ASH_CLEAR then ashClearApply k c n
  else if isInjection key then inject k c key n
  else c

/-- One plain write applied: stored, recorded as a last write (R60, R74), and acted on. -/
def applyPlain (k : Keeper) (viaCord : Bool) (r : Applied) (org : Origin) (key : Nat) (v : Val) : Applied :=
  match objInfo key with
  | none => r
  | some o =>
    if keyAshed r.chip key then { r with chip := r.chip.bump Key.Flt.WRITES_DISCARDED }
    else
      let old := r.chip.od
      let v := storedVal o.ty key v
      let c := if notStored o.acc key then r.chip else { r.chip with od := odSet old key v }
      let c := noteWriter k c key org viaCord
      let ix := key / 256
      let c :=
        if key = Key.Hb.HB_TIMEOUT then hbRecompute k c
        else if 0x2048 ≤ ix && ix < 0x2050 && key % 256 = 6 then (if v.toNum = 1 then snapFree c (ix - 0x2048) else c)
        else if ix < 0x3000 && 0x2400 ≤ ix then applyFunctions c key v
        else if 0x3400 ≤ ix && ix < 0x4000 then applyDrives k c old key v
        else if 0x4000 ≤ ix && ix < 0x4600 then applyComms k c key v
        else applySystem k c org key v
      let c := match itemOfKey key with
        | some i => if i < 512 && (key % 256 = 0x04 || key = Key.Cell.KI i) then putKit c i else c
        | none => c
      { r with
        chip := c
        items := if isStructural key then r.items ++ (itemOfKey key).toList else r.items
        req := if key = Key.Mode.MODE_REQUEST && v.toNum ≠ 0 then some v.toNum else r.req
        reqs := if key = Key.Mode.MODE_REQUEST && v.toNum ≠ 0 then r.reqs + 1 else r.reqs
        recorder := r.recorder || measKey key || ix = 0x4800
        vision := r.vision || (0x4200 ≤ ix && ix < 0x4300) }

/-- One write applied: PROFILE_SELECT applies the records of its profile in order (R382). -/
def applyWrite (k : Keeper) (viaCord : Bool) (r : Applied) (org : Origin) (key : Nat) (v : Val) : Applied :=
  if key = Key.Prof.PROFILE_SELECT then
    let r := applyPlain k viaCord r org key v
    (profileWrites r.chip profileDepth v.toNum).foldl (fun r w => applyPlain k viaCord r org w.key w.val) r
  else applyPlain k viaCord r org key v

/-- The end of R30's order: the wheel, and views that follow what has been written. -/
def applyEnd (r : Applied) : Chip :=
  let c := if r.items = [] then r.chip else engineRebuild r.chip r.items
  let c := if r.recorder then recShow c else c
  if r.vision then visShow c else c

/-- A tile-produced value takes its place (R30); its last writer is TILE. -/
def tileStore (k : Keeper) (c : Chip) (key : Nat) (v : Val) : Chip := noteWriter k { c with od := odSet c.od key v } key .tile false

/-- Tile-produced values and ordinary writes due at an edge, in the order of R30. -/
def applyDue (k : Keeper) (c : Chip) : Applied :=
  let due := fun w : Write => decide (w.due ≤ k.epoch)
  let ws := c.dict.tile.filter due ++ c.dict.pend.filter due
  let c := { c with dict := { c.dict with
    tile := c.dict.tile.filter (fun w => !due w), pend := c.dict.pend.filter (fun w => !due w) } }
  ws.foldl (fun r w =>
    match w.org with
    | .tile => { r with chip := tileStore k r.chip w.key w.val }
    | _ => applyWrite k false r w.org w.key w.val) { chip := c }

end Sys2Proof.Machine
end

