-- ==== Sys2Proof/Machine/Dict.lean ====
section
/-! DEFINITION. The operations of the object dictionary (02): reads, snapshots, DOMAIN transfers, SDO, cords. -/

namespace Sys2Proof.Machine

/-! ## Reads (R56) -/

/-- The copy that serves the reads of a datagram: 0 names the newest servable one. -/
def serveCopy (k : Keeper) (named : Nat) : Except Nat Copy :=
  match k.servable with
  | none => .error Rc.EPOCH_FUTURE
  | some n =>
    let e := if named = 0 then wireEpoch n else named
    if wireEpoch n < e then .error Rc.EPOCH_FUTURE
    else match k.copies.find? fun x : Copy => decide (wireEpoch x.epoch = e) with
      | some x => .ok x
      | none => .error Rc.EPOCH_GONE

/-- SERVICE_EPOCH of a response: the named epoch, or the newest servable one. -/
def serviceEpoch (k : Keeper) (named : Nat) : Nat := if named = 0 then wireEpoch (k.servable.getD 0) else named

/-- Presence, access and type of a READ (R47, R48); type 0 is any. -/
def readCheck (key type : Nat) : Except Nat ObjInfo :=
  match objInfo key with
  | none => .error Rc.NO_OBJECT
  | some o =>
    if o.acc = .wo then .error Rc.READ_REFUSED
    else if o.ty = .domain || (type ≠ 0 && type ≠ tyCode o.ty) then .error Rc.TYPE_MISMATCH
    else .ok o

/-- A READ from a copy: its type code and the bytes of its value. -/
def opRead (copy : Except Nat Copy) (key type : Nat) : Except Nat (Nat × List Byte) :=
  match copy with
  | .error e => .error e
  | .ok x =>
    match readCheck key type with
    | .error e => .error e
    | .ok o => .ok (tyCode o.ty, valBytes o.ty (odGet x.od key))

/-! ## Snapshots (R57, R58) -/

/-- The key of a snapshot entry. -/
def entryKey (e : BitVec 16 × BitVec 8) : Nat := mkKey e.1.toNat e.2.toNat

/-- Bytes an entry may take at worst: its head of 7, and 255 for a VSTR. -/
def entrySize (o : ObjInfo) : Nat := 7 + (tySize o.ty).getD 255

/-- The record of an entry in SNAP_DATA. -/
def snapRecord (c : Chip) (x : Copy) (e : BitVec 16 × BitVec 8) (wasAshed : Bool) : List Byte :=
  let key := entryKey e
  let (t, code, b) := match readCheck key 0 with
    | .error r => (0, r, [])
    | .ok o => if keyAshed c key && !wasAshed then (tyCode o.ty, Rc.UNIT_ASHED, [])
               else (tyCode o.ty, Rc.OK, valBytes o.ty (odGet x.od key))
  leBytes 2 e.1.toNat ++ leBytes 1 e.2.toNat ++ leBytes 1 t ++ leBytes 1 code ++ leBytes 2 b.length ++ b

/-- A slot captures its entries from a copy. [DESIGN CHOICE: log 34] -/
def snapCapture (k : Keeper) (c : Chip) (n : Nat) (x : Copy) : Chip :=
  let s := nth c.dict.snaps n {}
  let data := (s.entries.zip s.ashed).flatMap fun (e, a) => snapRecord c x e a
  let c := { c with dict := { c.dict with snaps := c.dict.snaps.set n { s with taken := k.epoch } } }
  (c.put (Key.Snap.SNAP_STATE n) 2).putBlob (Key.Snap.SNAP_DATA n) data

/-- The entries of a snapshot pass: each would pass a READ, and the whole fits.
[DESIGN CHOICE: log 34; DESIGN CHOICE: log 90] -/
def snapCheck (entries : List (BitVec 16 × BitVec 8)) : Nat :=
  match entries.findSome? fun e => match readCheck (entryKey e) 0 with
    | .error r => some r
    | .ok _ => none with
  | some r => r
  | none =>
    if 128 < entries.length then Rc.OUT_OF_RANGE
    else if 16384 < entries.foldl (fun s e => s + ((objInfo (entryKey e)).map entrySize).getD 0) 0 then Rc.NO_ROOM
    else Rc.OK

/-- SNAPSHOT: the slot and the target epoch. [DESIGN CHOICE: log 90] -/
def opSnapshot (k : Keeper) (c : Chip) (org : Origin) (target : Nat) (entries : List (BitVec 16 × BitVec 8)) :
    Nat × List Byte × Chip :=
  let t := if target = 0 then wireEpoch (k.epoch + 1) else target
  let newest := wireEpoch (k.servable.getD 0)
  let r := snapCheck entries
  if r ≠ Rc.OK then (r, [], c)
  else if newest + 60000 < t then (Rc.OUT_OF_RANGE, [], c)
  else
    let copy := serveCopy k t
    match copy, (List.range 8).find? fun n => c.num (Key.Snap.SNAP_STATE n) = 0 with
    | .error 0x0A, _ => (Rc.EPOCH_GONE, [], c)
    | _, none => (Rc.SNAPSHOT_FULL, [], c)
    | copy, some n =>
      let s : SnapX := { entries, ashed := entries.map fun e => keyAshed c (entryKey e) }
      let c := { c with dict := { c.dict with snaps := c.dict.snaps.set n s } }
      let c := (((c.put (Key.Snap.SNAP_STATE n) 1).put (Key.Snap.SNAP_EPOCH n) t).put (Key.Snap.SNAP_COUNT n)
        entries.length).put (Key.Snap.SNAP_OWNER n) (originAddr org)
      let c := match copy with
        | .ok x => snapCapture k c n x
        | .error _ => c
      (Rc.OK, leBytes 1 n ++ leBytes 6 t, c)

/-- An armed slot whose target's copy can be served captures it. -/
def snapDue (k : Keeper) (c : Chip) (n : Nat) : Chip :=
  if c.num (Key.Snap.SNAP_STATE n) ≠ 1 then c
  else match serveCopy k (c.num (Key.Snap.SNAP_EPOCH n)) with
    | .ok x => snapCapture k c n x
    | .error _ => c

/-! ## DOMAIN transfers (R61–R63) -/

/-- Presence, access and type of a DOMAIN_SEG read. -/
def segReadCheck (key type : Nat) : Except Nat ObjInfo :=
  match objInfo key with
  | none => .error Rc.NO_OBJECT
  | some o =>
    if o.acc = .wo then .error Rc.READ_REFUSED
    else if o.ty ≠ .domain || type ≠ 0x0C then .error Rc.TYPE_MISMATCH
    else .ok o

/-- The frozen content of an object for a source. [DESIGN CHOICE: log 34] -/
def frozenOf (c : Chip) (org : Origin) (key : Nat) : Option Frozen :=
  c.dict.frozen.find? fun f => decide (f.org = org ∧ f.key = key)

/-- Releases it. -/
def frozenDrop (c : Chip) (org : Origin) (key : Nat) : Chip :=
  { c with dict := { c.dict with frozen := c.dict.frozen.filter fun f => decide ¬(f.org = org ∧ f.key = key) } }

/-- A DOMAIN_SEG read of a present, readable DOMAIN: its result data, where they fit `room` bytes.
[DESIGN CHOICE: log 34] -/
def segServe (k : Keeper) (c : Chip) (copy : Except Nat Copy) (org : Origin) (key off most room : Nat) :
    Nat × List Byte × Chip :=
  let held := frozenOf c org key
  let source : Except Nat (List Byte) :=
    if off = 0 then
      match copy with
      | .error e => .error e
      | .ok x =>
        let b := (odGet x.od key).toBlob
        if held.isNone && b ≠ [] && 8 ≤ c.dict.frozen.length then .error Rc.BUSY else .ok b
    else match held with
      | some f => .ok f.bytes
      | none => .error Rc.SEGMENT_ERROR
  match source with
  | .error e => (e, [], c)
  | .ok b =>
    if b.length < off then (Rc.OUT_OF_RANGE, [], c)
    else
      let part := (b.drop off).take most
      if room < 8 + part.length then (Rc.NO_ROOM, [], c)
      else
        let beyond := decide (b = []) || (part ≠ [] && b.length ≤ off + part.length)
        let c := frozenDrop c org key
        let c := if beyond then c
          else { c with dict := { c.dict with frozen := c.dict.frozen ++ [⟨org, key, b, k.epoch⟩] } }
        (Rc.OK, leBytes 4 off ++ leBytes 4 b.length ++ part, c)

/-- DOMAIN_SEG read. -/
def opSegRead (k : Keeper) (c : Chip) (copy : Except Nat Copy) (org : Origin) (key type off most room : Nat) :
    Nat × List Byte × Chip :=
  match segReadCheck key type with
  | .error e => (e, [], c)
  | .ok _ => segServe k c copy org key off most room

/-- Discards the transfer of an object. -/
def transferDrop (c : Chip) (key : Nat) : Chip :=
  { c with dict := { c.dict with transfers := c.dict.transfers.filter fun t => decide (t.key ≠ key) } }

/-- A completed block is judged as one write (R63). -/
def blockWrite (k : Keeper) (c : Chip) (od : OD) (org : Origin) (key : Nat) (b : List Byte) : Nat × Chip :=
  match checkOwn k c od key .seg false b with
  | .error e => (e, c)
  | .ok v => (Rc.OK, takeWrite k c org key v)

/-- DOMAIN_SEG write. A package that outgrows staging ends with NO_ROOM (R372). [DESIGN CHOICE: log 34] -/
def opSegWrite (k : Keeper) (c : Chip) (od : OD) (org : Origin) (key type off : Nat) (data : List Byte) (last : Bool) :
    Nat × Chip :=
  let open_ := c.dict.transfers.find? (·.key = key)
  let mine := match open_ with
    | some t => decide (t.org = org)
    | none => false
  let dropMine : Chip := if mine then transferDrop c key else c
  match checkAccess c key false with
  | .error e => (e, dropMine)
  | .ok o =>
    if o.ty ≠ .domain || type ≠ 0x0C then (Rc.TYPE_MISMATCH, dropMine)
    else if off = 0 && open_.isSome && !mine then (Rc.BUSY, c)
    else
      let before : Option (List Byte) :=
        if off = 0 then some []
        else if mine then (open_.map (·.bytes)).filter fun b => decide (b.length = off)
        else none
      match before with
      | none => (Rc.SEGMENT_ERROR, dropMine)
      | some b =>
        let b := b ++ data
        let c := transferDrop c key
        if key = Key.Upd.UPD_PKG && 2 ^ 30 < stagedBytes c + b.length then (Rc.NO_ROOM, c)
        else if last then blockWrite k c od org key b
        else (Rc.OK, { c with dict := { c.dict with transfers := c.dict.transfers ++ [⟨org, key, b, k.epoch⟩] } })

/-! ## Cords (R66–R71) -/

/-- The cord slot a handle names: bits 7–5 zero, the generation present, the slot not FREE (R67). -/
def cordOf (c : Chip) (handle : Nat) : Option Nat :=
  let s := handle % 32
  if handle / 32 % 8 = 0 && handle < 0x10000 && c.num (Key.Cord.CORD_STATE s) ≠ 0
      && handle / 256 = c.num (Key.Cord.CORD_GEN s) then some s
  else none

/-- The handle of a slot. -/
def cordHandle (c : Chip) (s : Nat) : Nat := c.num (Key.Cord.CORD_GEN s) * 256 + s

def cordX (c : Chip) (s : Nat) : CordX := nth c.dict.cords s {}
def cordSet (c : Chip) (s : Nat) (x : CordX) : Chip := { c with dict := { c.dict with cords := c.dict.cords.set s x } }

/-- The next number of the order in which slots end and commits arrive. -/
def cordStamp (c : Chip) : Nat × Chip := (c.dict.stamp + 1, { c with dict := { c.dict with stamp := c.dict.stamp + 1 } })

/-- A slot is in a final state: FREE, APPLIED, FAILED or ABORTED. -/
def cordFinal (c : Chip) (s : Nat) : Bool := !(1 ≤ c.num (Key.Cord.CORD_STATE s) && c.num (Key.Cord.CORD_STATE s) ≤ 3)

/-- A slot reaches a final state with a result. -/
def cordEnd (c : Chip) (s st result : Nat) : Chip :=
  let (n, c) := cordStamp c
  let c := cordSet c s { cordX c s with stamp := n }
  (c.put (Key.Cord.CORD_STATE s) st).put (Key.Cord.CORD_RESULT s) result

/-- A cord fails; `at_` names the member's position and object, where there is one. -/
def cordFail (c : Chip) (s result : Nat) (at_ : Option (Nat × Nat)) : Chip :=
  let c := match at_ with
    | some (pos, key) => (c.put (Key.Cord.CORD_FAIL_MEMBER s) pos).put (Key.Cord.CORD_FAIL_OBJECT s) key
    | none => c
  cordEnd c s 5 result

/-- Cords may be opened and committed: not in KINDLING and SAFE (R85). -/
def cordsServed (c : Chip) : Bool := modeRuns c.mode

/-- Of two slots the one longer in a final state; the earlier one where they are equal. -/
def cordOlder (c : Chip) (best : Option Nat) (s : Nat) : Option Nat :=
  match best with
  | none => some s
  | some t => if (cordX c s).stamp < (cordX c t).stamp then some s else some t

/-- The slot CORD_OPEN takes: the one longest in a final state, ties to the lowest (R67). [DESIGN CHOICE: log 91] -/
def cordPick (c : Chip) : Option Nat := ((List.range 32).filter (cordFinal c)).foldl (cordOlder c) none

/-- CORD_OPEN. [DESIGN CHOICE: log 91] -/
def opCordOpen (k : Keeper) (c : Chip) (org : Origin) : Nat × List Byte × Chip :=
  if !cordsServed c then (Rc.MODE_FORBIDDEN, [], c)
  else
    match cordPick c with
    | none => (Rc.CORDS_EXHAUSTED, [], c)
    | some s =>
      let c := cordSet c s { owner := org, opened := k.epoch }
      let put := fun (c : Chip) (p : Nat × Nat) => c.put p.1 p.2
      let c := [(Key.Cord.CORD_STATE s, 1), (Key.Cord.CORD_GEN s, (c.num (Key.Cord.CORD_GEN s) + 1) % 256),
        (Key.Cord.CORD_OWNER_KIND s, originKind org), (Key.Cord.CORD_OWNER_ADDR s, originAddr org),
        (Key.Cord.CORD_COUNT s, 0), (Key.Cord.CORD_COMMIT_EPOCH s, 0), (Key.Cord.CORD_RESULT s, 0),
        (Key.Cord.CORD_FAIL_MEMBER s, 0xFF), (Key.Cord.CORD_FAIL_OBJECT s, 0), (Key.Cord.CORD_APPLIED_EPOCH s, 0)].foldl put c
      (Rc.OK, leBytes 2 (cordHandle c s), c)

/-- CORD_ADD: takes the next position, whether accepted or refused; a refused one poisons the cord. [DEDUCED: log 30] -/
def opCordAdd (k : Keeper) (c : Chip) (od : OD) (handle key : Nat) (way : Way) (data : List Byte) : Nat × List Byte × Chip :=
  match cordOf c handle with
  | none => (Rc.CORD_UNKNOWN, [], c)
  | some s =>
    if c.num (Key.Cord.CORD_STATE s) ≠ 1 then (Rc.CORD_STATE, [], c)
    else
      let x := cordX c s
      let pos := x.next
      if 64 ≤ pos then (Rc.CORD_FULL, [], c)
      else
        match checkOwn k c od key way true data with
        | .error e =>
          (e, leBytes 1 pos, cordSet c s { x with next := pos + 1, poison := x.poison <|> some (e, pos, key) })
        | .ok v =>
          let members := x.members ++ [⟨pos, key, v⟩]
          (Rc.OK, leBytes 1 pos, (cordSet c s { x with next := pos + 1, members }).put (Key.Cord.CORD_COUNT s) members.length)

/-- CORD_COMMIT. -/
def opCordCommit (k : Keeper) (c : Chip) (handle epoch : Nat) : Nat × List Byte × Chip :=
  if !cordsServed c then (Rc.MODE_FORBIDDEN, [], c)
  else match cordOf c handle with
    | none => (Rc.CORD_UNKNOWN, [], c)
    | some s =>
      if c.num (Key.Cord.CORD_STATE s) ≠ 1 then (Rc.CORD_STATE, [], c)
      else
        let x := cordX c s
        let e := if epoch = 0 then openEdge k else epoch
        match x.poison with
        | some (code, pos, key) => (code, [], cordFail c s code (some (pos, key)))
        | none =>
          if e < openEdge k then (Rc.COMMIT_PASSED, [], cordFail c s Rc.COMMIT_PASSED none)
          else if k.servable.getD 0 + 60000 < e then (Rc.OUT_OF_RANGE, [], c)
          else
            let (n, c) := cordStamp c
            let c := (cordSet c s { x with seq := n }).put (Key.Cord.CORD_STATE s) 2
            (Rc.OK, leBytes 6 e, c.put (Key.Cord.CORD_COMMIT_EPOCH s) (wireEpoch e))

/-- CORD_ABORT. -/
def opCordAbort (c : Chip) (handle : Nat) : Nat × Chip :=
  match cordOf c handle with
  | none => (Rc.CORD_UNKNOWN, c)
  | some s =>
    let st := c.num (Key.Cord.CORD_STATE s)
    if st = 1 ∨ st = 2 then (Rc.OK, cordEnd c s 6 Rc.OK) else (Rc.CORD_STATE, c)

/-- A cord left OPEN for 10 s is aborted. -/
def cordExpire (k : Keeper) (c : Chip) (s : Nat) : Chip :=
  if c.num (Key.Cord.CORD_STATE s) = 1 && (cordX c s).opened + 10000 ≤ k.epoch then cordEnd c s 6 Rc.CORD_EXPIRED else c

/-- Cord slots by the arrival order of their commits, of a state and commit epoch. -/
def cordsAt (c : Chip) (st epoch : Nat) : List Nat :=
  let l := (List.range 32).filter fun s =>
    c.num (Key.Cord.CORD_STATE s) = st && c.num (Key.Cord.CORD_COMMIT_EPOCH s) = wireEpoch epoch
  l.foldl (fun r s =>
    r.takeWhile (fun t => decide ((cordX c t).seq < (cordX c s).seq)) ++ [s]
      ++ r.dropWhile (fun t => decide ((cordX c t).seq < (cordX c s).seq))) []

/-- A unit of an object is ashed, or its ash is decided (R33). -/
def keyDecided (c : Chip) (key : Nat) : Bool :=
  keyAshed c key || (unitsOfKey key).any fun u => c.flt.due.any fun d => decide (d.unit = u) || (unitHolders u).contains d.unit

/-- A member is judged again at the close (R70): ashed unit, range, mode. -/
def memberCheck (k : Keeper) (c : Chip) (m : Member) : Nat :=
  match objInfo m.key with
  | none => Rc.NO_OBJECT
  | some o =>
    if keyDecided c m.key then Rc.UNIT_ASHED
    else if !(inRange o.ty o.rng m.val && valueOk c m.key m.val) || pairBad (odSet (prospect c) m.key m.val) m.key then
      Rc.OUT_OF_RANGE
    else
      let r := modeCheck k c o.acc m.key m.val
      if r ≠ Rc.OK then r
      else if m.key = Key.Prof.PROFILE_SELECT then profileJudge k c (prospect c) m.val.toNum
      else Rc.OK

/-- The close of an application set: the cords of its edge become DUE or FAILED. -/
def cordsClose (k : Keeper) (c : Chip) (edge : Nat) : Chip :=
  (cordsAt c 2 edge).foldl (fun c s =>
    match (cordX c s).members.findSome? fun m =>
        let r := memberCheck k c m
        if r = Rc.OK then none else some (r, m.pos, m.key) with
    | some (r, pos, key) => cordFail c s r (some (pos, key))
    | none => c.put (Key.Cord.CORD_STATE s) 3) c

/-- The cords DUE at an edge are applied whole, or fail (R70); `stopped` says that SAFE or BANKED is entered at it. -/
def cordsEdge (k : Keeper) (stopped : Bool) (r : Applied) : Applied :=
  (cordsAt r.chip 3 k.epoch).foldl (fun r s =>
    let x := cordX r.chip s
    if stopped then { r with chip := cordFail r.chip s Rc.MODE_FORBIDDEN none }
    else match x.members.find? fun m => keyDecided r.chip m.key with
      | some m => { r with chip := cordFail r.chip s Rc.UNIT_ASHED (some (m.pos, m.key)) }
      | none =>
        let r := x.members.foldl (fun r m => applyWrite k true r x.owner m.key m.val) r
        { r with chip := (cordEnd r.chip s 4 Rc.OK).put (Key.Cord.CORD_APPLIED_EPOCH s) (wireEpoch k.epoch) }) r

/-! ## SDO on CAN0 (R64, R65) -/

/-- An SDO response: it leaves on 0x580 + node-ID, with a lifetime of 1,000 ms. -/
def sdoSend (k : Keeper) (c : Chip) (data : List Byte) : Chip :=
  let data := data ++ List.replicate (8 - data.length) 0
  txEnter k (canFlush k (c.emit (.sdo data)) 0) 0
    { id := 0x580 + c.dict.node, ext := false, data, born := nowUs k c, life := 1000, kind := .sdo }

/-- The abort code of a result (Table 2.9). [PRESUMED: log 35] -/
def sdoAbortCode (code key : Nat) : Nat :=
  if code = Rc.NO_OBJECT then (if (highestSub (key / 256)).isNone then 0x06020000 else 0x06090011)
  else if code = Rc.READ_REFUSED then 0x06010001
  else if code = Rc.WRITE_REFUSED then 0x06010002
  else if code = Rc.TYPE_MISMATCH || code = Rc.LENGTH_MISMATCH then 0x06070010
  else if code = Rc.OUT_OF_RANGE then 0x06090030
  else if code = Rc.SERVICE_ONLY || code = Rc.MODE_FORBIDDEN then 0x08000022
  else if code = Rc.UNIT_ASHED then 0x08000020
  else if code = Rc.BUSY then 0x08000021
  else 0x08000000

/-- INDEX and SUB as SDO frames carry them. -/
def sdoName (key : Nat) : List Byte := leBytes 2 (key / 256) ++ leBytes 1 (key % 256)

def sdoSet (c : Chip) (x : SdoX) : Chip := { c with dict := { c.dict with sdo := x } }

/-- Aborts the open transfer, or a request. [PRESUMED: log 35] -/
def sdoAbort (k : Keeper) (c : Chip) (key abort : Nat) : Chip :=
  sdoSend k (sdoSet c .idle) (leBytes 1 0x80 ++ sdoName key ++ leBytes 4 abort)

/-- An upload of an object has completed from a copy. -/
def sdoUploaded (c : Chip) (key copy : Nat) : Chip :=
  if key = Key.Epoch.SDO_READ_EPOCH then c else c.put Key.Epoch.SDO_READ_EPOCH (wireEpoch copy)

/-- An upload initiate. [DEDUCED: log 36] -/
def sdoUpload (k : Keeper) (c : Chip) (key : Nat) : Chip :=
  let c := sdoSet c .idle
  match objInfo key, serveCopy k 0 with
  | none, _ => sdoAbort k c key (sdoAbortCode Rc.NO_OBJECT key)
  | some _, .error e => sdoAbort k c key (sdoAbortCode e key)
  | some o, .ok x =>
    if o.acc = .wo then sdoAbort k c key (sdoAbortCode Rc.READ_REFUSED key)
    else if o.ty = .domain then sdoAbort k c key (sdoAbortCode Rc.TYPE_MISMATCH key)
    else
      let v := if key = Key.Epoch.SDO_READ_EPOCH then odGet c.od key else odGet x.od key
      let b := valBytes o.ty v
      if 1 ≤ b.length && b.length ≤ 4 then
        sdoUploaded (sdoSend k c (leBytes 1 (0x43 + 4 * (4 - b.length)) ++ sdoName key ++ b)) key x.epoch
      else
        sdoSend k (sdoSet c (.up key b false x.epoch k.epoch)) (leBytes 1 0x41 ++ sdoName key ++ leBytes 4 b.length)

/-- An upload segment request. [PRESUMED: log 35] -/
def sdoUploadSeg (k : Keeper) (c : Chip) (toggle : Bool) : Chip :=
  match c.dict.sdo with
  | .up key rest t copy _ =>
    if t ≠ toggle then sdoAbort k c key 0x05030000
    else
      let part := rest.take 7
      let rest := rest.drop 7
      let head := (if toggle then 0x10 else 0) + 2 * (7 - part.length) + (if rest = [] then 1 else 0)
      let c := sdoSend k c (leBytes 1 head ++ part)
      if rest = [] then sdoUploaded (sdoSet c .idle) key copy
      else sdoSet c (.up key rest (!t) copy k.epoch)
  | .down key .. => sdoAbort k c key 0x05040001
  | .idle => sdoAbort k c 0 0x05040001

/-- The write a download ends with: an ordinary write, judged alone. -/
def sdoWrite (k : Keeper) (c : Chip) (key : Nat) (b : List Byte) : Nat × Chip :=
  let (code, v, c) := judgeOne k c key .sdo b
  (code, if code = Rc.OK then takeWrite k c .sdo key v else c)

/-- A download initiate, expedited or segmented. Presence, access and type are judged at once: a
DOMAIN moves by DOMAIN_SEG alone (R61). -/
def sdoDownload (k : Keeper) (c : Chip) (key : Nat) (expedited : Option (List Byte)) (size : Option Nat) : Chip :=
  let c := sdoSet c .idle
  match checkAccess c key false with
  | .error e => sdoAbort k c key (sdoAbortCode e key)
  | .ok o =>
    if o.ty = .domain then sdoAbort k c key (sdoAbortCode Rc.TYPE_MISMATCH key)
    else
    match expedited with
    | some b =>
      let (code, c) := sdoWrite k c key b
      if code = Rc.OK then sdoSend k c (leBytes 1 0x60 ++ sdoName key) else sdoAbort k c key (sdoAbortCode code key)
    | none => sdoSend k (sdoSet c (.down key [] size false k.epoch)) (leBytes 1 0x60 ++ sdoName key)

/-- A download segment; the last one makes the write. [PRESUMED: log 35] -/
def sdoDownloadSeg (k : Keeper) (c : Chip) (toggle : Bool) (data : List Byte) (last : Bool) : Chip :=
  match c.dict.sdo with
  | .down key got size t _ =>
    if t ≠ toggle then sdoAbort k c key 0x05030000
    else
      let got := got ++ data
      let answer := leBytes 1 (0x20 + if toggle then 0x10 else 0)
      if !last then sdoSend k (sdoSet c (.down key got size (!t) k.epoch)) answer
      else if (size.getD got.length) ≠ got.length then sdoAbort k c key (sdoAbortCode Rc.LENGTH_MISMATCH key)
      else
        let (code, c) := sdoWrite k (sdoSet c .idle) key got
        if code = Rc.OK then sdoSend k c answer else sdoAbort k c key (sdoAbortCode code key)
  | .up key .. => sdoAbort k c key 0x05040001
  | .idle => sdoAbort k c 0 0x05040001

/-- A gap of more than 1,000 ms between segments. -/
def sdoTimeout (k : Keeper) (c : Chip) : Chip :=
  match c.dict.sdo with
  | .up key _ _ _ last => if last + 1000 < k.epoch then sdoAbort k c key 0x05040000 else c
  | .down key _ _ _ last => if last + 1000 < k.epoch then sdoAbort k c key 0x05040000 else c
  | .idle => c

/-- An SDO request frame (CiA 301): the client command specifier stands in bits 7–5 of its first byte. -/
def sdoFrame (k : Keeper) (c : Chip) (d : List Byte) : Chip :=
  if d.length ≠ 8 then c
  else
    let b := ofLeBytes (d.take 1)
    let key := mkKey (ofLeBytes ((d.drop 1).take 2)) (ofLeBytes ((d.drop 3).take 1))
    let body := d.drop 4
    let open_ := match c.dict.sdo with
      | .up key .. => key
      | .down key .. => key
      | .idle => key
    match b / 32 with
    | 0 => sdoDownloadSeg k c (bitOf b 4) ((d.drop 1).take (7 - b / 2 % 8)) (bitOf b 0)
    | 1 =>
      if bitOf b 1 then sdoDownload k c key (some (body.take (if bitOf b 0 then 4 - b / 4 % 4 else 4))) none
      else sdoDownload k c key none (if bitOf b 0 then some (ofLeBytes body) else none)
    | 2 => sdoUpload k c key
    | 3 => sdoUploadSeg k c (bitOf b 4)
    | 4 => sdoSet c .idle
    | _ => sdoAbort k c open_ 0x05040001

/-! ## The commands of chapter 02 that work on one object -/

/-- A dictionary operation where services run: its result. [DEDUCED: log 26] -/
def serve (f : Keeper → Chip → Nat × List Byte × Chip) (s : State) : Host.Outcome State Fault Refusal :=
  onChip (fun k c => if served c then (let (code, b, c) := f k c; c.emit (.result code b)) else c) s

/-- A read where services run: its result, with the publication epoch that served it (R28, R34). -/
def serveRead (copy : Nat) (f : Keeper → Chip → Nat × List Byte × Chip) (s : State) : Host.Outcome State Fault Refusal :=
  onChip (fun k c =>
    if served c then (let (code, b, c) := f k c; c.emit (.readResult code (serviceEpoch k copy) b)) else c) s

/-- READ. [DEDUCED: log 26] -/
def execRead (_ : Origin) (copy : Nat) (index : BitVec 16) (sub type : BitVec 8) (s : State) :
    Host.Outcome State Fault Refusal :=
  serveRead copy (fun k c => match opRead (serveCopy k copy) (mkKey index.toNat sub.toNat) type.toNat with
    | .error e => (e, [], c)
    | .ok (_, b) => (Rc.OK, b, c)) s

/-- WRITE. [DEDUCED: log 26] -/
def execWrite (org : Origin) (index : BitVec 16) (sub type : BitVec 8) (data : List Byte) (s : State) :
    Host.Outcome State Fault Refusal :=
  onChip (fun k c => writeOne k c org (mkKey index.toNat sub.toNat) (.typed type.toNat) data) s

/-- SNAPSHOT. -/
def execSnapshot (org : Origin) (target : Nat) (entries : List (BitVec 16 × BitVec 8)) (s : State) :
    Host.Outcome State Fault Refusal :=
  serve (fun k c => opSnapshot k c org target entries) s

/-- SNAPSHOT_CAPTURE. -/
def execSnapshotCapture (slot : Fin 8) (s : State) : Host.Outcome State Fault Refusal :=
  onChip (fun k c => snapDue k c slot.val) s

/-- SNAPSHOT_EXPIRY: 60 s after capture. -/
def execSnapshotExpiry (slot : Fin 8) (s : State) : Host.Outcome State Fault Refusal :=
  onChip (fun k c =>
    let n := slot.val
    if c.num (Key.Snap.SNAP_STATE n) = 2 && (nth c.dict.snaps n {}).taken + 60000 ≤ k.epoch then snapFree c n else c) s

/-- CORD_OPEN. -/
def execCordOpen (org : Origin) (s : State) : Host.Outcome State Fault Refusal := serve (fun k c => opCordOpen k c org) s

/-- CORD_ADD. -/
def execCordAdd (_ : Origin) (handle index : BitVec 16) (sub type : BitVec 8) (data : List Byte) (s : State) :
    Host.Outcome State Fault Refusal :=
  serve (fun k c => opCordAdd k c (prospect c) handle.toNat (mkKey index.toNat sub.toNat) (.typed type.toNat) data) s

/-- CORD_COMMIT. -/
def execCordCommit (handle : BitVec 16) (epoch : Nat) (s : State) : Host.Outcome State Fault Refusal :=
  serve (fun k c => opCordCommit k c handle.toNat epoch) s

/-- CORD_ABORT. -/
def execCordAbort (handle : BitVec 16) (s : State) : Host.Outcome State Fault Refusal :=
  serve (fun _ c => let (r, c) := opCordAbort c handle.toNat; (r, [], c)) s

/-- CORD_EXPIRED. -/
def execCordExpired (slot : Fin 32) (s : State) : Host.Outcome State Fault Refusal :=
  onChip (fun k c => cordExpire k c slot.val) s

/-- DOMAIN_SEG_READ. -/
def execDomainSegRead (org : Origin) (copy : Nat) (index : BitVec 16) (sub : BitVec 8) (offset maxLen : Nat) (s : State) :
    Host.Outcome State Fault Refusal :=
  serveRead copy (fun k c => opSegRead k c (serveCopy k copy) org (mkKey index.toNat sub.toNat) 0x0C offset maxLen 1448) s

/-- DOMAIN_SEG_WRITE. -/
def execDomainSegWrite (org : Origin) (index : BitVec 16) (sub : BitVec 8) (offset : Nat) (data : List Byte) (last : Bool)
    (s : State) : Host.Outcome State Fault Refusal :=
  serve (fun k c =>
    let (r, c) := opSegWrite k c (prospect c) org (mkKey index.toNat sub.toNat) 0x0C offset data last
    (r, [], c)) s

/-- FROZEN_READ_EXPIRY. -/
def execFrozenReadExpiry (org : Origin) (index : BitVec 16) (sub : BitVec 8) (s : State) :
    Host.Outcome State Fault Refusal :=
  onChip (fun k c =>
    let key := mkKey index.toNat sub.toNat
    match frozenOf c org key with
    | some f => if f.last + 10000 ≤ k.epoch then frozenDrop c org key else c
    | none => c) s

/-- DOMAIN_TRANSFER_IDLE. -/
def execDomainTransferIdle (index : BitVec 16) (sub : BitVec 8) (s : State) : Host.Outcome State Fault Refusal :=
  onChip (fun k c =>
    let key := mkKey index.toNat sub.toNat
    match c.dict.transfers.find? (·.key = key) with
    | some t => if t.last + 10000 ≤ k.epoch then transferDrop c key else c
    | none => c) s

/-- SDO requests are served where CAN0 runs (K8) and the port can answer (R64). -/
def sdoServed (c : Chip) : Bool := served c && canOnBus c 0

/-- SDO_UPLOAD_INITIATE. -/
def execSdoUploadInitiate (index : BitVec 16) (sub : BitVec 8) (s : State) : Host.Outcome State Fault Refusal :=
  onChip (fun k c => if sdoServed c then sdoUpload k c (mkKey index.toNat sub.toNat) else c) s

/-- SDO_UPLOAD_SEGMENT. -/
def execSdoUploadSegment (toggle : Bool) (s : State) : Host.Outcome State Fault Refusal :=
  onChip (fun k c => if sdoServed c then sdoUploadSeg k c toggle else c) s

/-- SDO_DOWNLOAD_INITIATE. -/
def execSdoDownloadInitiate (index : BitVec 16) (sub : BitVec 8) (expedited : Option (List Byte)) (size : Option Nat)
    (s : State) : Host.Outcome State Fault Refusal :=
  onChip (fun k c => if sdoServed c then sdoDownload k c (mkKey index.toNat sub.toNat) expedited size else c) s

/-- SDO_DOWNLOAD_SEGMENT. -/
def execSdoDownloadSegment (toggle : Bool) (data : List Byte) (last : Bool) (s : State) :
    Host.Outcome State Fault Refusal :=
  onChip (fun k c => if sdoServed c then sdoDownloadSeg k c toggle data last else c) s

/-- SDO_SEGMENT_TIMEOUT. -/
def execSdoSegmentTimeout (s : State) : Host.Outcome State Fault Refusal := onChip sdoTimeout s

end Sys2Proof.Machine
end

