-- ==== Sys2Proof/Machine/Jop.lean ====
section
/-! DEFINITION. JOP datagrams (R49–R56, R464): parsing, the two passes, repeats, responses. -/

namespace Sys2Proof.Machine

/-- An operation: its head (Table 2.6) and data. In a request STATUS is segment control, in a response the result. -/
structure JopOp where
  op : Byte
  status : Byte
  index : BitVec 16
  sub : Byte
  type : Byte
  data : List Byte
deriving DecidableEq, Repr

/-- An operation on the wire. -/
def opBytes (o : JopOp) : List Byte :=
  [o.op, o.status] ++ leBytes 2 o.index.toNat ++ [o.sub, o.type] ++ leBytes 2 o.data.length ++ o.data

/-- The key an operation names. -/
def JopOp.key (o : JopOp) : Nat := mkKey o.index.toNat o.sub.toNat

/-- Exactly `n` operations; none where one runs past the end or bytes remain. -/
def parseOps : Nat → List Byte → Option (List JopOp)
  | 0, [] => some []
  | 0, _ :: _ => none
  | n + 1, op :: status :: i0 :: i1 :: sub :: type :: l0 :: l1 :: rest =>
    let len := ofLeBytes [l0, l1]
    if rest.length < len then none
    else (parseOps n (rest.drop len)).map fun l =>
      ⟨op, status, BitVec.ofNat 16 (ofLeBytes [i0, i1]), sub, type, rest.take len⟩ :: l
  | _ + 1, _ => none

/-- A JOP header (Table 2.4). -/
structure JopHead where
  version : Nat
  flags : Nat
  target : Nat
  seq : Nat
  epoch : Nat
  count : Nat
deriving DecidableEq, Repr

/-- The header of a datagram; none where it is short or its MAGIC is wrong (R51). [DEDUCED: log 31] -/
def jopHead (b : List Byte) : Option JopHead :=
  let u := fun off n => ofLeBytes ((b.drop off).take n)
  if b.length < 16 || u 0 2 ≠ 0x4B4A then none
  else some ⟨u 2 1, u 3 1, u 4 1, u 5 4, u 9 6, u 15 1⟩

/-- A response: its header and operations. -/
def jopResponse (number seq epoch : Nat) (refused : Bool) (ops : List JopOp) : List Byte :=
  [0x4A, 0x4B, 0x01, if refused then 0x90 else 0x80] ++ leBytes 1 number ++ leBytes 4 seq ++ leBytes 6 epoch
    ++ leBytes 1 ops.length ++ ops.flatMap opBytes

/-- Room an operation's result takes at most beyond its head, reads apart (R54, Table 2.7). [DESIGN CHOICE: log 33] -/
def opReserve (op : Nat) : Nat :=
  match op with
  | 3 => 7
  | 4 => 2
  | 5 => 1
  | 6 => 6
  | _ => 0

/-- An operation's data fit the fields of its op code (R52, R61). A value of WRITE is checked as one of R59.
[DESIGN CHOICE: log 33] -/
def opFits (o : JopOp) : Bool :=
  let n := o.data.length
  match o.op.toNat with
  | 1 | 4 => n = 0
  | 3 => 7 ≤ n && n = 7 + 3 * ofLeBytes ((o.data.drop 6).take 1)
  | 5 => 2 ≤ n
  | 6 => n = 8
  | 7 => n = 2
  | 8 => if bitOf o.status.toNat 0 then 4 ≤ n else n = 6
  | _ => true

/-- MALFORMED and LENGTH_MISMATCH of an operation as such. [DEDUCED: log 29] -/
def opJudge (o : JopOp) : Nat :=
  let s := o.status.toNat
  if o.op.toNat = 0 || 8 < o.op.toNat then Rc.MALFORMED
  else if o.op.toNat = 8 then
    (if 4 ≤ s || s = 2 then Rc.MALFORMED else if opFits o then Rc.OK else Rc.LENGTH_MISMATCH)
  else if s ≠ 0 then Rc.MALFORMED
  else if opFits o then Rc.OK else Rc.LENGTH_MISMATCH

/-- The entries of a SNAPSHOT operation. -/
def snapEntries : Nat → List Byte → List (BitVec 16 × BitVec 8)
  | 0, _ => []
  | n + 1, b => (BitVec.ofNat 16 (ofLeBytes (b.take 2)), BitVec.ofNat 8 (ofLeBytes ((b.drop 2).take 1))) :: snapEntries n (b.drop 3)

/-! ## The two passes (R53) -/

/-- The first pass: the writes judged over the datagram, each after its own checks. [DEDUCED: log 29] -/
def firstPass (k : Keeper) (c : Chip) (ops : List (JopOp × Nat)) : Joint × List (Nat × Nat × Nat × Val) :=
  let own := ops.filterMap fun (o, i) =>
    if o.op.toNat = 2 && opJudge o = Rc.OK && isJoint o.key then
      some (i, o.key, match checkOwn k c (prospect c) o.key (.typed o.type.toNat) false o.data with
        | .ok v => (Rc.OK, v)
        | .error e => (e, Val.num 0))
    else none
  let live := (own.filter fun p => p.2.2.1 = Rc.OK).map fun p => (p.1, (⟨p.2.1, p.2.2.2⟩ : Cand))
  (judgeJoint c live, own)

/-- Where the second pass stands. -/
structure JopRun where
  chip : Chip
  /-- Writes accepted in the first pass that are still to come, by place. -/
  left : List (Nat × Cand)
  /-- Bytes of the response so far, what is reserved included (R54). -/
  used : Nat
  out : List JopOp

/-- The store as other operations see it: every accepted write of the datagram and of before. -/
def JopRun.od (r : JopRun) : OD := odWith (prospect r.chip) (r.left.map (·.2))

/-- Answers an operation. [DESIGN CHOICE: log 90] -/
def JopRun.answer (r : JopRun) (o : JopOp) (code : Nat) (data : List Byte) (c : Chip) : JopRun :=
  { r with chip := c, out := r.out ++ [{ o with status := BitVec.ofNat 8 code, data }] }

/-- A WRITE in its place: judged in the first pass, or now. -/
def runWrite (k : Keeper) (org : Origin) (j : Joint) (own : List (Nat × Nat × Nat × Val)) (r : JopRun) (o : JopOp) (i : Nat) :
    JopRun :=
  match own.find? (·.1 = i) with
  | some (_, _, code, v) =>
    let code := if code = Rc.OK then (j.result i).getD Rc.OK else code
    let r := { r with left := r.left.filter fun p => decide (p.1 ≠ i) }
    r.answer o code [] (if code = Rc.OK then takeWrite k r.chip org o.key v else r.chip)
  | none =>
    match checkOwn k r.chip r.od o.key (.typed o.type.toNat) false o.data with
    | .error e => r.answer o e [] r.chip
    | .ok v => r.answer o Rc.OK [] (takeWrite k r.chip org o.key v)

/-- A READ in its place. -/
def runRead (copy : Except Nat Copy) (r : JopRun) (o : JopOp) : JopRun :=
  match opRead copy o.key o.type.toNat with
  | .error e => r.answer o e [] r.chip
  | .ok (t, b) =>
    let o := { o with type := BitVec.ofNat 8 t }
    if 1472 < r.used + b.length then r.answer o Rc.NO_ROOM [] r.chip
    else { r.answer o Rc.OK b r.chip with used := r.used + b.length }

/-- A DOMAIN_SEG in its place. -/
def runSeg (k : Keeper) (copy : Except Nat Copy) (org : Origin) (r : JopRun) (o : JopOp) : JopRun :=
  let off := ofLeBytes (o.data.take 4)
  if bitOf o.status.toNat 0 then
    let (e, c) := opSegWrite k r.chip r.od org o.key o.type.toNat off (o.data.drop 4) (bitOf o.status.toNat 1)
    r.answer o e [] c
  else
    let (e, b, c) := opSegRead k r.chip copy org o.key o.type.toNat off (ofLeBytes ((o.data.drop 4).take 2)) (1472 - r.used)
    { r.answer o e b c with used := r.used + b.length }

/-- One operation of the second pass. -/
def runOp (k : Keeper) (copy : Except Nat Copy) (org : Origin) (j : Joint) (own : List (Nat × Nat × Nat × Val))
    (r : JopRun) (p : JopOp × Nat) : JopRun :=
  let (o, i) := p
  let u := fun off n => ofLeBytes ((o.data.drop off).take n)
  let bad := opJudge o
  if bad ≠ Rc.OK then r.answer o bad [] r.chip
  else match o.op.toNat with
    | 1 => runRead copy r o
    | 2 => runWrite k org j own r o i
    | 3 => let (e, b, c) := opSnapshot k r.chip org (u 0 6) (snapEntries (u 6 1) (o.data.drop 7)); r.answer o e b c
    | 4 => let (e, b, c) := opCordOpen k r.chip org; r.answer o e b c
    | 5 =>
      let (e, b, c) := opCordAdd k r.chip r.od (u 0 2) o.key (.typed o.type.toNat) (o.data.drop 2)
      r.answer o e b c
    | 6 => let (e, b, c) := opCordCommit k r.chip (u 0 2) (u 2 6); r.answer o e b c
    | 7 => let (e, c) := opCordAbort r.chip (u 0 2); r.answer o e [] c
    | _ => runSeg k copy org r o

/-- Room for the results that operations reserve, in request order, within 1,472 bytes (R49, R54): the bytes taken, and which
operations have theirs; one that has none is not executed. [DESIGN CHOICE: log 33] -/
def roomFor : Nat → List Nat → Nat × List Bool
  | used, [] => (used, [])
  | used, n :: t =>
    let fit := decide (used + n ≤ 1472)
    let (u, l) := roomFor (if fit then used + n else used) t
    (u, fit :: l)

/-- The operations of a datagram, executed: the chip and the answered operations. -/
def runOps (k : Keeper) (c : Chip) (org : Origin) (epoch : Nat) (ops : List JopOp) : Chip × List JopOp :=
  let copy := serveCopy k epoch
  let placed := ops.zip (List.range ops.length)
  let (j, own) := firstPass k c placed
  let (used, fits) := roomFor (16 + 8 * ops.length) (ops.map fun o => opReserve o.op.toNat)
  let r := (placed.zip fits).foldl (fun r (p, fit) =>
    if fit then runOp k copy org j own r p else r.answer p.1 Rc.NO_ROOM [] r.chip)
    { chip := j.chip, left := j.live, used, out := [] }
  (r.chip, r.out)

/-! ## Datagrams -/

/-- A datagram is refused (R51); with FWD set it must have come through the fabric (R362).
[DEDUCED: log 31; DESIGN CHOICE: log 90] -/
def jopRefused (h : JopHead) (ops : Option (List JopOp)) (fabric : Bool) : Bool :=
  h.version ≠ 1 || h.flags % 16 ≠ 0 || h.count = 0 || ops.isNone || (!fabric && bitOf h.flags 5)

/-- The response a source last got stays; the least recently heard source goes (R55). -/
def keptPut (c : Chip) (e : Kept) : Chip :=
  let l := c.dict.kept.filter fun q => decide ¬(q.addr = e.addr ∧ q.port = e.port)
  { c with dict := { c.dict with kept := (l ++ [e]).drop (l.length + 1 - 32) } }

/-- A datagram served by this module: its response, none where none is sent (R55, SILENT of Table 2.5).
[DEDUCED: log 31; DESIGN CHOICE: log 90] -/
def jopServe (k : Keeper) (c : Chip) (addr : BitVec 32) (port : BitVec 16) (h : JopHead) (ops : List JopOp) :
    Option (List Byte) × Chip :=
  match c.dict.kept.find? fun q => decide (q.addr = addr ∧ q.port = port ∧ q.seq = h.seq) with
  | some e => (e.resp, (keptPut c e).bump Key.Jop.JOP_REPEATS)
  | none =>
    let (c, out) := runOps k c (.jop addr port) h.epoch ops
    let resp := jopResponse (fabNumber c) h.seq (serviceEpoch k h.epoch) false out
    let silent := bitOf h.flags 6 && out.all fun o => decide (o.status = 0)
    let resp := if silent then none else some resp
    (resp, keptPut c ⟨addr, port, h.seq, resp⟩)

/-- What a datagram comes to. -/
inductive JopFate where
  | dropped
  | answer (data : List Byte)
  | forward (target : Nat) (data : List Byte)

/-- A datagram that reaches the JOP service (R51, R464, R362): counted, queued, then refused, served or forwarded. `ahead`
is the number of operations queued before it. [DEDUCED: log 31] -/
def jopTake (k : Keeper) (c : Chip) (addr : BitVec 32) (port : BitVec 16) (ahead : Nat) (fabric : Bool) (data : List Byte) :
    JopFate × Chip :=
  match jopHead data with
  | none => (.dropped, c.bump Key.Jop.JOP_BAD_MAGIC)
  | some h =>
    let c := c.bump Key.Jop.JOP_DATAGRAMS
    if 2000 < ahead + h.count then (.dropped, c.bump Key.Load.JOP_SHED)
    else
      let c := c.put Key.Load.JOP_QUEUED (ahead + h.count)
      let ops := parseOps h.count (data.drop 16)
      if jopRefused h ops fabric then
        (.answer (jopResponse (fabNumber c) h.seq (serviceEpoch k h.epoch) true []), c.bump Key.Jop.JOP_REFUSED)
      else if fabric || h.target = 0 || h.target = fabNumber c then
        let (resp, c) := jopServe k c addr port h (ops.getD [])
        (match resp with
          | some b => .answer b
          | none => .dropped, c)
      else if (fabRoute c h.target).isSome then
        (.forward h.target (data.set 3 (BitVec.ofNat 8 (h.flags + 0x20))), c.bump Key.Fab.FWD_SENT)
      else (.dropped, c.bump Key.Fab.FWD_UNREACHABLE)

/-- A datagram on ETH11, port 47600. [DESIGN CHOICE: log 32] -/
def jopEntry (k : Keeper) (c : Chip) (addr : BitVec 32) (port : BitVec 16) (ahead : Nat) (data : List Byte) : Chip :=
  match jopTake k c addr port ahead false data with
  | (.dropped, c) => c
  | (.answer b, c) => c.emit (.jop addr port b)
  | (.forward m b, c) =>
    (fabSend c 2 { src := fabNumber c, dst := m, hops := 15, origAddr := addr, origPort := port, payload := b }).getD c

/-- JOP_DATAGRAM. [DESIGN CHOICE: log 9; DESIGN CHOICE: log 32] -/
def execJopDatagram (addr : BitVec 32) (port : BitVec 16) (ahead : Nat) (data : List Byte) (s : State) :
    Host.Outcome State Fault Refusal :=
  onChip (fun k c => if served c then jopEntry k c addr port ahead data else c) s

/-! ## JOP frames of the fabric (R361, R362) -/

/-- A JOP frame that is not for this module is relayed. -/
def fabForMe (c : Chip) (fr : FabFrame) : Bool := fr.dst = fabNumber c && fr.dst ≠ 0

/-- JOP_REQUEST_FRAME: executed as if the master had sent it directly, or relayed. -/
def execJopRequestFrame (f : Fin 2) (frame : FabFrame) (s : State) : Host.Outcome State Fault Refusal :=
  onChip (fun k c =>
    if !fabOn c || !fabUpLink c f.val then c
    else if !fabForMe c frame then fabRelay c 2 frame
    else match jopTake k c frame.origAddr frame.origPort 0 true frame.payload with
      | (.answer b, c) => (fabSend c 3 { frame with src := fabNumber c, dst := frame.src, hops := 15, payload := b }).getD c
      | (_, c) => c) s

/-- JOP_RESPONSE_FRAME: the entry sends it from port 47600 to the original source; others relay it. -/
def execJopResponseFrame (f : Fin 2) (frame : FabFrame) (s : State) : Host.Outcome State Fault Refusal :=
  onChip (fun _ c =>
    if !fabOn c || !fabUpLink c f.val then c
    else if !fabForMe c frame then fabRelay c 3 frame
    else c.emit (.jop frame.origAddr frame.origPort frame.payload)) s

end Sys2Proof.Machine
end

