-- ==== Sys2Proof/Machine/Dataset.lean ====
section
/-! DEFINITION. The active dataset at KINDLING (R128, R142, R378–R381): K5, K6 and K7. -/

namespace Sys2Proof.Machine

/-- The bytes of the active dataset; none where no OEM dataset is active. -/
def dsActive (c : Chip) : List Byte :=
  match nth c.upd.active 9 .factory with
  | .built _ ps => ps.flatten
  | _ => []

/-- The major version of a dataset; the present one where there is none. -/
def dsMajor (b : List Byte) : Nat := if b = [] then 5 else field b 0 1

/-- A record through the migration (R381): its outcome and what it becomes. [DESIGN CHOICE: log 48] -/
def dsThrough (major : Nat) (r : DsRec) : Nat × DsRec := if major = 5 then (0, r) else Config.migrate major r

/-- Records of a dataset through the migration. -/
def dsView (b : List Byte) : List (Nat × DsRec) := ((dsRecords b).getD []).map (dsThrough (dsMajor b))

/-- A dataset of the present format (Table 14.7). -/
def dsEncode (profiles : Nat) (l : List DsRec) : List Byte :=
  [0x05, 0x02] ++ leBytes 2 0x8400 ++ leBytes 4 l.length ++ leBytes 1 profiles ++ List.replicate 7 0
    ++ l.flatMap fun r => leBytes 2 r.1 ++ leBytes 1 r.2.1 ++ leBytes 1 r.2.2.1 ++ leBytes 1 r.2.2.2.1
      ++ leBytes 2 r.2.2.2.2.length ++ r.2.2.2.2

/-- The dataset as the module uses it: itself, or its migrated records. -/
def dsInUse (b : List Byte) : List Byte :=
  if b = [] || dsMajor b = 5 then b
  else dsEncode (field b 8 1) (((dsView b).filter (·.1 = 0)).map (·.2))

/-- The content of a CODE keeps R211. -/
def codeFits (key : Nat) (v : Val) : Bool :=
  let ix := key / 256
  !(0x3480 ≤ ix && ix < 0x3500 && key = Key.Prog.CODE (ix - 0x3480)) || codeOk v.toBlob

/-- A record's own checks as a write (R59): presence, access, type, length, range. [DESIGN CHOICE: log 48] -/
def dsChecked (c : Chip) (r : DsRec) : Option Val :=
  let key := dsKey r
  match objInfo key with
  | none => none
  | some o =>
    if o.acc = .ro || !typeOk o.ty (.record r.2.2.1) then none
    else match bytesVal o.ty r.2.2.2.2 with
      | .error _ => none
      | .ok v => if inRange o.ty o.rng v && valueOk c key v && codeFits key v then some (storedVal o.ty key v) else none

/-- Objects that are commands, or select a mode or a profile: no configuration. -/
def dsCommand (key : Nat) : Bool :=
  (objInfo key).any (fun o : ObjInfo => decide (o.acc = .wo)) || key = Key.Mode.MODE_REQUEST || key = Key.Prof.PROFILE_SELECT
    || (slotOfReq key).isSome

/-- The value a record loads into its object. -/
def dsValue (c : Chip) (r : DsRec) : Option (Nat × Val) :=
  if dsCommand (dsKey r) then none else (dsChecked c r).map fun v => (dsKey r, v)

/-- Loads one base record. [DESIGN CHOICE: log 48] -/
def dsLoad (k : Keeper) (c : Chip) (r : DsRec) : Chip :=
  match dsValue c r with
  | none => c
  | some (key, v) =>
    if measKey key then measApply k c none (key % 256) v
    else
      let c := { c with od := odSet c.od key v }
      match itemOfKey key with
      | some i => if i < 512 && (key % 256 = 0x04 || key = Key.Cell.KI i) then putKit c i else c
      | none => c

/-- The step that loads an object: K5 for the engine and the slots, K6 for the drive parts, K7 for the rest. -/
def dsStep (key : Nat) : Nat :=
  let ix := key / 256
  if 0x3000 ≤ ix && ix < 0x3300 then 5
  else if 0x2400 ≤ ix && ix < 0x241E then 51
  else if 0x3400 ≤ ix && ix < 0x3700 then 6
  else 7

/-- Base records of the dataset in use that a step loads. -/
def dsBase (c : Chip) (step : Nat) : List DsRec :=
  ((dsRecords c.upd.ds).getD []).filter fun r => r.2.2.2.1 = 0 && dsStep (dsKey r) = step

/-- Loads the base records of a step. [DESIGN CHOICE: log 48] -/
def dsLoadStep (k : Keeper) (c : Chip) (step : Nat) : Chip := (dsBase c step).foldl (dsLoad k) c

/-- K5: the engine's configuration is admitted as a whole (R128); none of it is loaded where it is refused. The chip, and
whether the step fails. -/
def dsEngine (k : Keeper) (c : Chip) : Chip × Option (Nat × Nat × Bool) :=
  let c := { c with upd := { c.upd with ds := dsInUse (dsActive c) } }
  let after := dsLoadStep k c 5
  let keys := ((dsBase c 5).map dsKey).filter isStructural
  let injected := armedAt c Key.InjCle.INJ_ADMISSION 1
  let (code, judged) := judgeAdmission { after with eng := { after.eng with items := [] } } after.od keys
  let show_ := fun c : Chip => (c.put Key.Eng.ADMIT_CODE (judged.num Key.Eng.ADMIT_CODE)).put Key.Eng.ADMIT_OBJECT
    (judged.num Key.Eng.ADMIT_OBJECT)
  if code ≠ Rc.OK || injected then
    (show_ (disarm c Key.InjCle.INJ_ADMISSION 1), some (0x0408, theModule, injected))
  else
    (engineRebuild (show_ { after with eng := { after.eng with items := [] } }) ((keys.filterMap itemOfKey).eraseDups), none)

/-- K5: bindings after the engine; a slot whose binding fails is left unbound (R142). -/
def dsSlots (k : Keeper) (c : Chip) : Chip :=
  let c := dsLoadStep k c 51
  let injected := (List.range 30).filter fun s => armedAt c Key.InjFs.INJ_SLOT_BIND (s + 1)
  let bad := bindingBreaks c.od
  ((bad ++ injected.filter fun s => !bad.contains s)).foldl (fun c s =>
    let c := (List.range 4).foldl (fun c r => c.put (Key.Slot.ROOT s r) 0) (disarm c Key.InjFs.INJ_SLOT_BIND (s + 1))
    raise k c 0x0503 (unitSlot (s + 1)) (injected.contains s)) c

/-- Removes what the dataset has loaded: no OEM dataset is active (R381), and the outputs take the safe values that are then
in force. -/
def dsUnload (k : Keeper) (c : Chip) : Chip :=
  let keys := ((dsRecords c.upd.ds).getD []).map dsKey
  let items := (keys.filterMap itemOfKey).eraseDups
  let c := { c with od := keys.foldl odErase c.od, upd := { c.upd with ds := [] } }
  let c := (items.filter (· < 512)).foldl putKit c
  let c := engineRebuild c items
  if c.modes.drives then outputsSafe k c else c

/-- How a migration ends: 1 OK, 2 a record is REFUSED, 3 a record fails its checks as a write, or names from a profile an
object it may not. [DESIGN CHOICE: log 12] -/
def migJudge (c : Chip) (b : List Byte) : Nat :=
  let l := dsView b
  if (dsRecords b).isNone then 3
  else if l.any (·.1 = 3) then 2
  else if (l.filter (·.1 = 0)).any (fun r => (dsChecked c r.2).isNone) then 3
  else if !dsProfilesOk ((l.filter (·.1 = 0)).map (·.2)) then 3
  else 1

/-- MIGRATED, DEFAULTED, DROPPED and REFUSED. -/
def migCounts (c : Chip) (b : List Byte) : Chip :=
  let n := fun o => ((dsView b).filter (·.1 = o)).length
  (((c.put Key.Ds.MIGRATED (n 0)).put Key.Ds.DEFAULTED (n 1)).put Key.Ds.DROPPED (n 2)).put Key.Ds.REFUSED (n 3)

/-- Views of the shaper programs: USERS, and WORDS of those the dataset brings (Table 7.6). -/
def dsProgViews (c : Chip) : Chip :=
  let named := (List.range 48).flatMap fun n => [c.num (Key.Valve.PROGRAM_ON n), c.num (Key.Valve.PROGRAM_OFF n)]
  let codes := ((dsBase c 6).map dsKey).filter fun key => 0x3480 ≤ key / 256 && key / 256 < 0x3500
  codes.foldl (fun c key =>
    let p := key / 256 - 0x3480
    c.put (Key.Prog.WORDS p) ((c.blob (Key.Prog.CODE p)).length / 2)) (usersShow c named)

/-- Views that follow the whole configuration. -/
def dsViews (c : Chip) : Chip :=
  let c := (List.range 12).foldl (fun c p => c.put (Key.CanX.LIST_COUNT p) ((c.blob (Key.CanX.FILTER_LIST p)).length / 12)) c
  let c := (List.range 21).foldl (fun c j => c.put (Key.Gate.GATE_STATE j) (c.num (Key.Gate.GATE_ENABLE j))) c
  lineShow (mapShow (visShow (recShow c)))

/-- The ember's own configuration, and the arrangement K4 boots the tiles in, stay until K7 loads them anew. -/
def emberKeys : List Nat :=
  [Key.Wake.WAKE_ENABLE, Key.Wake.WAKE_TIMER, Key.Wake.KEY_OFF_DELAY, Key.Kindling.TILE_ARRANGEMENT]

/-- K7: the migration is completed, and the rest is loaded (R378, R381). [DESIGN CHOICE: log 48] -/
def dsActivate (k : Keeper) (c : Chip) : Chip :=
  let b := dsActive c
  let injected := armedAt c Key.Inj.MIGRATION_FAIL 1
  let c := disarm c Key.Inj.MIGRATION_FAIL 1
  let migrates := dsMajor b ≠ 5
  let r := if injected then 3 else if migrates then migJudge c b else 0
  let c := if migrates then migCounts (c.put Key.Ds.DS_ORIGIN (field b 0 1 * 256 + field b 1 1)) b else c
  let c := c.put Key.Ds.MIG_RESULT r
  let c := emberKeys.foldl (fun c key => { c with od := odErase c.od key }) c
  if 2 ≤ r then dsViews (healthBreak k (raise k (dsUnload k c) 0x0E07 theModule injected) 3 injected)
  else
    let c := c.put Key.Ds.DS_VERSION (if b = [] || migrates then 0x0502 else field b 0 1 * 256 + field b 1 1)
    let c := c.put Key.Prof.PROFILES (field c.upd.ds 8 1)
    let c := dsLoadStep k c 7
    let c := if migrates then
        (if c.num Key.WrHold.MRAM_WRITE = 0 then dsWrite c c.upd.ds else { c with upd := { c.upd with dsHeld := some c.upd.ds } })
      else c
    dsViews c

end Sys2Proof.Machine
end

