-- ==== Sys2Proof/Machine/Modes.lean ====
section
/-! DEFINITION. Operating modes (03): transitions, KINDLING and its steps, SAFE, BANKED, wake and the feed. -/

namespace Sys2Proof.Machine

/-! ## Mode objects -/

/-- The mode changes at the edge being processed, and the mode objects say so (Table 3.2). -/
def setMode (k : Keeper) (c : Chip) (m : Mode) : Chip :=
  if c.mode = m then c
  else
    let c := (c.put Key.Mode.MODE_PREVIOUS (modeCode c.mode)).put Key.Mode.MODE (modeCode m)
    { (c.put Key.Mode.MODE_SINCE (wireEpoch k.epoch)).bump Key.Mode.MODE_CHANGES with mode := m }

/-- SAFE_CAUSE, SAFE_CAUSES, SAFE_FAULT and SAFE_STOP are cleared when SAFE is left (R78). [DEDUCED: log 43] -/
def safeClear (c : Chip) : Chip :=
  (((c.put Key.Safe.SAFE_CAUSE 0).put Key.Safe.SAFE_CAUSES 0).put Key.Safe.SAFE_FAULT 0).putFlag Key.Safe.SAFE_STOP false

/-! ## What is kept (R14, R39, R78, R97, R454 and the chapters' own tables) -/

/-- Why objects return to their defaults: the feed is lost, BANKED is entered, a KINDLING begins from BANKED, or from
SERVICE or SAFE. -/
inductive Restart where
  | off | bank | wake | again
deriving DecidableEq, Repr

/-- Objects kept in MRAM: they survive OFF. [DEDUCED: log 41; DEDUCED: log 80] -/
def keptAlways (key : Nat) : Bool :=
  let ix := key / 256
  let sub := key % 256
  [Key.Safe.SAFE_ENTRIES, Key.Safe.SAFE_CAUSE, Key.Safe.SAFE_FAULT, Key.Safe.SAFE_STOP, Key.Kindling.KINDLING_FAIL_STEP,
   Key.Kindling.KINDLING_COUNT, Key.Wake.LOW_FEED_COUNT, Key.Epoch.EPOCH_RESUMES, Key.Epoch.EPOCH_RESUME_FROM,
   Key.Health.HEALTH, Key.Health.STARTS_USED, Key.Health.TRIAL_ELAPSED, Key.Health.HEALTH_CAUSE, Key.Health.FALLBACKS,
   Key.Flt.ASH_TABLE, Key.Flt.ASH_CLEARS, Key.Flt.ASH_OVERFLOWS,
   Key.Flt.ASHED_UNITS, Key.Flt.EVENT_LOG, Key.Rec.CLEAR_COUNT, Key.Rec.LAST_CLEAR_EPOCH, Key.Rec.LAST_CLEAR_GNSS_MS,
   Key.Rec.LAST_CLEAR_WHAT, Key.Rec.LAST_CLEAR_KIND, Key.Rec.LAST_CLEAR_ADDR, Key.Rec.RUN_S, Key.Rec.RECORDS_LOST,
   Key.WrHold.EPOCH_RESERVE, Key.WrHold.HELD_LOST].contains key
  || emberKeys.contains key || (List.range 8).any (fun n => key = Key.CamSt.CODE_CLIP n)
  || (0x4701 ≤ ix && ix < 0x4705 && [1, 2, 3, 4].contains sub)
  || (List.range 10).any (fun r => key = Key.Region.ACTIVE_VERSION r || key = Key.Region.INACTIVE_VERSION r
      || key = Key.Region.ACTIVE_SLOT r)
  || (0x3480 ≤ ix && ix < 0x3500 && (key = Key.Prog.CODE (ix - 0x3480) || key = Key.Prog.WORDS (ix - 0x3480)
      || key = Key.Prog.VALID (ix - 0x3480)))
  || [0, 1].any (fun p => [Key.Panel.LOCK_SET p, Key.Panel.LOCK_RECT p, Key.Panel.LOCK_EPOCH p, Key.Panel.LOCK_KIND p,
      Key.Panel.LOCK_ADDR p].contains key)

/-- What the power domains, their clocks and the PLLs show: it stands while the feed does (R86, R96).
[DEDUCED: log 41] -/
def keptPower (key : Nat) : Bool :=
  let ix := key / 256
  key = Key.Hearth.HEARTH_STATE
  || (0x2101 ≤ ix && ix < 0x2105 && key = Key.Pll.PLL_STATE (ix - 0x2101))
  || (0x2110 ≤ ix && ix < 0x2120 && [Key.Dom.DOM_FREQ (ix - 0x2110), Key.Dom.DOM_SOURCE (ix - 0x2110),
      Key.Dom.DOM_ON_ALT (ix - 0x2110), Key.Dom.DOM_DIVISOR (ix - 0x2110)].contains key)
  || (0x2200 ≤ ix && ix < 0x2210 && (key = Key.Pd.PD_STATE (ix - 0x2200) || key = Key.Pd.PD_EPOCH (ix - 0x2200)))

/-- Objects of the drive dies: they stand while PD13 and PD14 power the dies. -/
def isDriveObject (key : Nat) : Bool :=
  let ix := key / 256
  (0x3400 ≤ ix && ix < 0x3700) && !(0x3480 ≤ ix && ix < 0x3500)

/-- The last position, GNSS time and its state (R97). -/
def keptPosition (key : Nat) : Bool :=
  [Key.Sol.LAT, Key.Sol.LON, Key.Sol.HGT, Key.Sol.SOL_EPOCH, Key.Time.TIME_STATE, Key.Time.TIME_OFFSET, Key.Time.TIME_UNC,
   Key.Time.HOLD_EPOCH, Key.Time.HEARTH_PPB, Key.Raw.LEAP_S, Key.Raw.LEAP_VALID, Key.Pps.PPS_STATE 0,
   Key.Pps.PPS_STATE 1,
   Key.Epoch.EPOCH_ALIGNED, Key.Epoch.EDGE_GNSS_MS].contains key

/-- Objects kept while the feed stays: BANKED_EPOCH, the coil models, position and time. The ephemerides are the unit's own.
[DEDUCED: log 41] -/
def keptFed (key : Nat) : Bool :=
  let ix := key / 256
  key = Key.Wake.BANKED_EPOCH
  || (0x3400 ≤ ix && ix < 0x3430 && (key = Key.Valve.T_WINDING (ix - 0x3400) || key = Key.Valve.T_BODY (ix - 0x3400)))
  || keptPosition key || keptPower key

/-- The objects of the mode. -/
def modeObjects : List Nat := [Key.Mode.MODE, Key.Mode.MODE_PREVIOUS, Key.Mode.MODE_SINCE, Key.Mode.MODE_CHANGES]

/-- Whether an object keeps its value. In BANKED the GNSS bursts go on under the configuration they find; the drive dies
hold their own until they are powered down, and over a restart. [DEDUCED: log 41] -/
def kept (why : Restart) (key : Nat) : Bool :=
  keptAlways key
  || (why ≠ .off && keptFed key)
  || (why = .bank && (modeObjects.contains key || (0x4000 ≤ key / 256 && key / 256 < 0x4200 && key ≠ Key.Hdg.HDG_VALID)))
  || ((why = .bank || why = .again) && isDriveObject key)
  || (why = .again && (key = Key.Safe.SAFE_CAUSES || key = Key.Vis.HOLD_USED
      || (List.range 8).any fun n => key = Key.CamSt.RECORD_HELD n))

/-- Contents that wait in LPDDR5 for a write are lost with its power, and counted (R434). -/
def heldDrop (c : Chip) : Chip :=
  let n := c.crop.held.length + (if (c.upd.dsHeld.isSome) then 1 else 0)
  { c with crop := { c.crop with held := [] }, upd := { c.upd with dsHeld := none } }.bump Key.WrHold.HELD_LOST n

/-- Pictures that wait for UFS stay where LPDDR5 stays powered. -/
def visionRestart (c : Chip) (why : Restart) : Chip :=
  if why = .again then
    let hold := c.vis.hold
    let used := c.num Key.Vis.HOLD_USED
    let c := visionDown { c with vis := { c.vis with hold := [] } }
    { c with vis := { c.vis with hold := hold } }.put Key.Vis.HOLD_USED used
  else visionDown c

/-- GNSS over a restart: time, position and ephemerides stay while the feed does (R97). -/
def gnssRestart (c : Chip) (why : Restart) : Chip :=
  if why = .off then { timeReset c with gnss := {} }
  else
    let c := if why = .bank then pulsesRest c else c
    { c with gnss := { c.gnss with
      raw := none, sol := none, slip := false, navs := if why = .bank then c.gnss.navs else 0
      framerIn := [], framerUdp := [], arp := none, corrAt := none, rtkFloat := true, tracks := []
      biasRetry := if why = .bank then c.gnss.biasRetry else [none, none]
      burst := none, noiseAt := none, baseAt := none, baseBad := false } }

/-- The RO objects in which the drive dies show what stands over a restart. [DEDUCED: log 41] -/
def driveStands (key : Nat) : Bool :=
  let ix := key / 256
  let n := ix % 256
  (ix < 0x3430 && (key = Key.Valve.STATE n || key = Key.Valve.TARGET n || key = Key.Valve.T_WINDING n
      || key = Key.Valve.T_BODY n))
  || (0x3500 ≤ ix && ix < 0x3530 && (key = Key.Ls.STATE n || key = Key.Ls.DUTY n))
  || (0x3540 ≤ ix && ix < 0x3546 && (key = Key.Sec.SEC_STATE (ix - 0x3540) || key = Key.Sec.V_SEC (ix - 0x3540)))
  || (0x3600 ≤ ix && ix < 0x3680 && (key = Key.Dio.STATE (ix - 0x3600) || key = Key.Dio.CH_STATE (ix - 0x3600)
      || key = Key.Dio.EDGE_EPOCH (ix - 0x3600)))

/-- The drive dies begin anew: after power-up with nothing but the temperatures of coils and wires, over a restart, `warm`,
with their outputs as they stand. -/
def drivesReset (k : Keeper) (c : Chip) (warm : Bool) : Chip :=
  let stays := fun key : Nat => !isDriveObject key || (if warm then driveStands key else keptFed key)
  let l := c.load
  let c := { c with od := c.od.filter fun e => stays e.1 }
  if warm then
    { c with
      valve := { c.valve with chans := c.valve.chans.map fun x : VcX => { x with cmd := 0, prog := none } }
      load := { chans := l.chans.map fun x : LsX => { x with
                  cmd := 0, run := 0, runOn := false, written := false, wait := false, counted := [], attempts := [] }
                secs := l.secs.map fun x : SecX => { x with restores := [] }
                dios := l.dios.map fun x : DioX => { x with cmd := false, edges := [], lastEdge := none }
                grps := l.grps.map fun _ => { advance := nowUs k c } } }
  else
    { c with
      valve := {}
      load := { chans := l.chans.map fun x : LsX => { theta := x.theta }
                secs := l.secs.map fun x : SecX => { theta := x.theta }
                grps := l.grps.map fun _ => { advance := nowUs k c } } }

/-- Every unit returns to where it stands after power-up, every object to its default but for what is kept. -/
def coreRestart (c : Chip) (why : Restart) : Chip :=
  let c := if why = .off then updOff c else updAbortAll c
  let c := ashKindling (gnssRestart (ethDown (canDown (visionRestart c why))) why)
  let c := if why = .again then c else heldDrop c
  let drives := why = .again || why = .bank
  let c := { c with
    od := c.od.filter fun e => kept why e.1
    dict := { node := c.dict.node, nodeNext := if why = .again then c.dict.nodeNext else none }
    eng := {}, link := {}, fus := {}
    valve := if drives then c.valve else {}
    crop := { mram := c.crop.mram, held := c.crop.held, maps := c.crop.maps }
    load := if drives then c.load else
      { chans := c.load.chans.map fun x : LsX => { theta := x.theta }
        secs := c.load.secs.map fun x : SecX => { theta := x.theta } }
    guide := { lines := c.guide.lines, badLines := c.guide.badLines }
    fab := { ownAt := c.fab.ownAt, ownErr := c.fab.ownErr }
    upd := { c.upd with ds := [] } }
  pwrKindling c (why = .off)

/-! ## KINDLING (R86–R88, R100) -/

/-- KINDLING begins at its first step. [DEDUCED: log 41] -/
def kindlingStart (k : Keeper) (c : Chip) (why : Restart) (wake first : Nat) : Chip :=
  let stood := if why = .again && 6 ≤ c.modes.reached then k.epoch else c.modes.stood
  let remote := if why = .again then c.flag Key.Wake.REMOTE_WAKE else (wake = 2 || wake = 3) && !c.modes.key
  let c := setMode k (coreRestart c why) .kindling
  let c := ((c.bump Key.Kindling.KINDLING_COUNT).put Key.Kindling.KINDLING_WAKE wake).put Key.Kindling.KINDLING_STEP first
  let c := c.putFlag Key.Wake.REMOTE_WAKE remote
  let m := c.modes
  let c := { c with modes := {
    feedGood := m.feedGood, key := m.key, keyOff := m.keyOff, can0 := m.can0, start := k.epoch, reached := first
    fromOff := m.fromOff || why = .off, stood := stood, tiles := m.tiles, born := true, saved := m.saved
    saveDue := m.saveDue, drives := m.drives, safeDue := m.safeDue.filter fun d => decide (k.epoch < d.edge) } }
  let c := if c.modes.drives then outputsSafe k c else c
  pwrStep k c first

/-- A step cannot end: SAFE is decided, or a permanent fault of severity SAFE or STOP is on its way (R88).
[DEDUCED: log 47] -/
def kindlingFailing (c : Chip) : Bool :=
  !c.modes.safeDue.isEmpty || (c.flt.cur.toList ++ c.flt.stack ++ c.flt.queue).any fun e : Event => e.perm && 3 ≤ e.sev

/-- The step with which a unit comes up (Table 3.5). -/
def unitStep (u : Nat) : Nat :=
  match unitClass u with
  | 0x14 | 0x15 | 0x16 => 1
  | 0x03 | 0x01 | 0x02 | 0x05 => 5
  | 0x06 | 0x07 | 0x08 | 0x09 | 0x0A | 0x0B => 6
  | 0x0C | 0x10 | 0x11 | 0x12 => 8
  | 0x0E | 0x0F | 0x13 => 9
  | _ => 10

/-- Units that are ashed still come up ashed (R132, R454). -/
def reshow (k : Keeper) (c : Chip) (step : Nat) : Chip :=
  let l := (c.flt.ashes.map (·.unit)).flatMap fun u => u :: unitParts u
  ((l.filter fun u => unitStep u = step).eraseDups).foldl (ashOne k) c

/-- A CLE instance fails its self-test (R132). -/
def selfTest (k : Keeper) (c : Chip) (sideB : Bool) : Chip :=
  let n := if sideB then 1 else 0
  if unitAshed c (unitCle n) then c else cleDown k (raise k c 0x0403 (unitCle n)) n

/-- The coil nodes at K6 (R217): at the ambient temperature after OFF, else restored over the time they have stood.
[DEDUCED: log 41] -/
def coilNode (k : Keeper) (c : Chip) (ambient : List (Fin 48 × F32)) (n : Nat) : Chip :=
  let c := match ambient.find? (·.1.val = n) with
    | some x =>
      let ch := c.num (Key.Valve.AMBIENT_CH n)
      if ch = 0xFF then c else c.put (Key.Sensor.TEMP ch) x.2.toNat
    | none => c
  let ta := coilAmbient c n
  if c.modes.fromOff then (c.put (Key.Valve.T_WINDING n) ta).put (Key.Valve.T_BODY n) ta
  else
    let r := fExact fmt32 (c.num (Key.Valve.RTH_BA n))
    let h := fExact fmt32 (c.num (Key.Valve.CTH_B n))
    let e := fExpNeg fmt32 ((k.epoch - c.modes.stood) * (r.2 * h.2)) (1000 * (r.1 * h.1).toNat)
    let back := fun key => clAdd ta (clMul (clSub (c.num key) ta) e)
    (c.put (Key.Valve.T_WINDING n) (back (Key.Valve.T_WINDING n))).put (Key.Valve.T_BODY n) (back (Key.Valve.T_BODY n))

/-- The work of a step, done at its end (Table 3.5). [DESIGN CHOICE: log 42; DEDUCED: log 78] -/
def stepWork (k : Keeper) (c : Chip) (f : KindlingFinding) (step : Nat) : Chip :=
  match step with
  | 2 => recLoad k c f.lostRecords
  | 3 => (updK3 k c (f.badCopies.map fun x => (x.1.val, x.2)) f.badBuild).1
  | 4 => { c with modes := { c.modes with tiles := c.num Key.Kindling.TILE_ARRANGEMENT } }
  | 5 =>
    let c := f.selfTest.foldl (selfTest k) (reshow k c 5)
    match dsEngine k c with
    | (c, some (code, unit, injected)) => raise k c code unit injected
    | (c, none) => reshow k (dsSlots k c) 5
  | 6 =>
    let cold := c.modes.cold
    let c := dsProgViews (dsLoadStep k (drivesReset k c (!cold)) 6)
    let c := if cold then
        let c := thetaRestore c (if (c.modes.fromOff) then none else some (k.epoch - c.modes.stood))
        (List.range 48).foldl (fun c n => coilNode k c f.ambient n) c
      else { c with load := { c.load with secs := c.load.secs.map fun x : SecX => { x with loaded := false } } }
    let c := shaperCheck k { c with modes := { c.modes with fromOff := false } } (f.badPrograms.map (·.val))
    outputsSafe k (reshow k c 6)
  | 7 => dsActivate k (lineKindling k c (f.badLines.map (·.val)))
  | _ => c

/-- What begins with a step: its domains, services, and units that come up ashed. [DESIGN CHOICE: log 42] -/
def stepBegin (k : Keeper) (c : Chip) (step : Nat) : Chip :=
  let c := { c.put Key.Kindling.KINDLING_STEP step with modes := { c.modes with reached := max step c.modes.reached } }
  let c := pwrStep k c step
  let c := if step = 8 then
      let node := c.dict.nodeNext.getD (c.num Key.Comm.SDO_NODE_ID)
      fabStart k { c.put Key.Comm.SDO_NODE_ID node with dict := { c.dict with node, nodeNext := none } }
    else if step = 6 then { c with modes := { c.modes with cold := !c.modes.drives, drives := true } }
    else if step = 9 then faceUp k (fusionUp k (visionUp k c))
    else c
  if step = 5 then c else reshow k c step

/-- A detector of the step reports a permanent fault (R88). [DEDUCED: log 47] -/
def stepFault (k : Keeper) (c : Chip) (f : KindlingFinding) : Chip :=
  match f.fault with
  | some (code, u) => if detOn code u then raiseWith k c code u false true else c
  | none => c

/-- The end of K0: the hearth has settled; a wake source is active and the feed stands at 10 V or more, or BANKED follows (R98, R100).
[DESIGN CHOICE: log 81] -/
def k0End (k : Keeper) (c : Chip) : Chip :=
  let c := c.put Key.Hearth.HEARTH_STATE 1
  let can := c.modes.can0 && bitOf (c.num Key.Wake.WAKE_ENABLE) 1
  if !c.modes.feedGood || !(c.modes.key || can) then { c with modes := { c.modes with bankDue := some (k.epoch + 1) } }
  else
    let remote := !c.modes.key
    stepBegin k ((c.put Key.Kindling.KINDLING_WAKE (if remote then 2 else 0)).putFlag Key.Wake.REMOTE_WAKE remote) 1

/-- KINDLING_STEP_END: a step ends, and the next begins. [DEDUCED: log 47; DESIGN CHOICE: log 81] -/
def kindlingStepEnd (k : Keeper) (c : Chip) (f : KindlingFinding) : Chip :=
  if c.mode ≠ .kindling || c.modes.exitDue || c.modes.bankDue.isSome || kindlingFailing c then c
  else
    let step := c.num Key.Kindling.KINDLING_STEP
    let c := stepFault k (stepWork k c f step) f
    if kindlingFailing c then c
    else if step = 0 then k0End k c
    else if step = 9 then
      { c.put Key.Kindling.KINDLING_STEP 10 with modes := { c.modes with exitDue := true } }
    else stepBegin k c (step + 1)

/-- K10: the exit mode applies (R78, R89). [DEDUCED: log 44] -/
def handover (k : Keeper) (c : Chip) : Chip :=
  let c := safeClear (setMode k c (modeOf (c.num Key.Kindling.KINDLING_EXIT)))
  let c := c.put Key.Kindling.KINDLING_MS (min (k.epoch - c.modes.start) 0xFFFFFFFF)
  { c with modes := { c.modes with
    exitDue := false, reached := 10, handover := k.epoch, deadline := some (k.epoch + c.num Key.Hb.HB_GRACE)
    beaten := false } }

/-! ## SAFE (R83, R93, R94) -/

/-- A cause joins SAFE: its bit, the first fault, a STOP. [DEDUCED: log 43] -/
def safeJoin (c : Chip) (d : SafeDue) : Chip :=
  let c := c.putBits Key.Safe.SAFE_CAUSES (2 ^ (d.cause - 1)) true
  let c := if c.num Key.Safe.SAFE_FAULT = 0 then c.put Key.Safe.SAFE_FAULT d.fault else c
  if d.stop then c.putFlag Key.Safe.SAFE_STOP true else c

/-- SAFE is entered for the causes decided, the first of which is SAFE_CAUSE; from KINDLING it is KINDLING_FAIL (R88).
[DEDUCED: log 43] -/
def enterSafe (k : Keeper) (c : Chip) (l : List SafeDue) : Chip :=
  let failed := c.mode = .kindling
  let first := if failed then 6 else ((l.head?).map (·.cause)).getD 0
  let c := if failed then
      healthBreak k (c.put Key.Kindling.KINDLING_FAIL_STEP (min (c.num Key.Kindling.KINDLING_STEP) 9)) 2 false
    else c
  let c := (c.bump Key.Safe.SAFE_ENTRIES).put Key.Safe.SAFE_CAUSE first
  let c := (c.put Key.Safe.SAFE_CAUSES (2 ^ (first - 1))).put Key.Safe.SAFE_FAULT 0
  let c := setMode k (l.foldl safeJoin c) .safe
  { c with modes := { c.modes with safeDue := c.modes.safeDue.filter (fun d => decide (k.epoch < d.edge)), beatSafe := false, deadline := none, exitDue := false } }

/-! ## BANKED (R95–R97) -/

/-- The epoch counter is written to MRAM, with the reserve of R435; where MRAM writes are not permitted it waits until they
are (R434). [DEDUCED: log 39] -/
def saveEpoch (k : Keeper) (c : Chip) : Chip :=
  if c.num Key.WrHold.MRAM_WRITE ≠ 0 then { c with modes := { c.modes with saveDue := true } }
  else { c with modes := { c.modes with
    saveDue := false
    saved := k.epoch + if (c.flag Key.WrHold.EPOCH_RESERVE) then 2 ^ 32 else 0 } }

/-- The edge at which the domains of an entry to BANKED at this edge are down: 60 to 1,000 ms after the edge before it
(Table 3.8). [DESIGN CHOICE: log 102] -/
def bankDownAt (k : Keeper) (c : Chip) : Nat := k.epoch + 59 + Config.bankDown c.free % 941

/-- The domains go down, every output with them, and stand as in BANKED (Table 3.8, step 4, Table 3.9). -/
def bankDown (k : Keeper) (c : Chip) : Chip :=
  pdBanked k (drivesReset k { c with modes := { c.modes with drives := false, bankDown := none } } false)

/-- An edge in BANKED: the domains go down once their time has come, and a burst ends. [DEDUCED: log 40] -/
def bankDownEdge (k : Keeper) (c : Chip) : Chip :=
  let c := if c.modes.bankDown.any (fun e => decide (e ≤ k.epoch)) then bankDown k c else c
  if c.gnss.burst.any (fun e => decide (e ≤ k.epoch)) then pdBurst k { c with gnss := { c.gnss with burst := none } } false
  else c

/-- Wake events that are held from the start of BANKED: a key input that is still active, and a pattern that K0 found below
10 V (R98, R101). [DEDUCED: log 40] -/
def heldAtBank (c : Chip) : List Nat :=
  (if c.modes.key then [1] else [])
    ++ (if c.mode = .kindling && c.num Key.Kindling.KINDLING_STEP = 0 && c.modes.can0
          && bitOf (c.num Key.Wake.WAKE_ENABLE) 1 then [2] else [])

/-- BANKED is entered: the safe values apply and last until the domains go down (R95). [DEDUCED: log 40] -/
def enterBanked (k : Keeper) (c : Chip) : Chip :=
  let stood := if 6 ≤ c.modes.reached then k.epoch else c.modes.stood
  let c := faceBank (recBank k (saveEpoch k c))
  let held := heldAtBank c
  let c := coreRestart (setMode k c .banked) .bank
  let m := c.modes
  let c := { c.put Key.Wake.BANKED_EPOCH (wireEpoch k.epoch) with
    free := c.free + 1
    modes := { feedGood := m.feedGood, key := m.key, keyOff := m.keyOff, can0 := m.can0
               held := held, fromOff := m.fromOff, stood := stood, tiles := m.tiles, born := m.born
               saved := m.saved, saveDue := m.saveDue, drives := m.drives, bankDown := some (bankDownAt k c) } }
  if m.drives then outputsSafe k c else c

/-- The edge at which BANKED follows an event now: the entry is decided at the first edge not before it (Table 3.8).
[DEDUCED: log 40] -/
def bankAt (k : Keeper) (c : Chip) : Nat := (if c.us = 0 then k.epoch else k.epoch + 1) + 1

/-- BANKED is decided, unless it is already. [DEDUCED: log 40] -/
def bankDecide (k : Keeper) (c : Chip) : Chip :=
  { c with modes := { c.modes with bankDue := c.modes.bankDue.or (some (bankAt k c)) } }

/-! ## The mode at an edge (R80, R81, R94) -/

/-- A requested transition, its condition checked again (R80). [DEDUCED: log 44; DEDUCED: log 45; DEDUCED: log 46] -/
def requestEdge (k : Keeper) (c : Chip) (n : Nat) : Chip :=
  let to_ := modeOf n
  if !requestOk k c to_ then c.put Key.Mode.MODE_RESULT Rc.MODE_FORBIDDEN
  else
    let c := c.put Key.Mode.MODE_RESULT Rc.OK
    match to_ with
    | .safe => enterSafe k c [⟨k.epoch, 5, 0, false⟩]
    | .banked => { c with modes := { c.modes with bankDue := some (k.epoch + 1) } }
    | .kindling => kindlingStart k c .again 4 1
    | .service =>
      if c.mode = .safe then
        let c := safeClear (setMode k c .service)
        { c with modes := { c.modes with
          beaten := true, deadline := some (c.num Key.Hb.HB_LAST_EPOCH + c.num Key.Hb.HB_TIMEOUT) } }
      else setMode k c .service
    | m => setMode k c m

/-- SAFE entries due at an edge. [DEDUCED: log 43] -/
def safeDueAt (k : Keeper) (c : Chip) : List SafeDue := c.modes.safeDue.filter fun d => decide (d.edge ≤ k.epoch)

/-- BANKED is due at an edge. -/
def bankDueAt (k : Keeper) (c : Chip) : Bool := c.modes.bankDue.any fun e => decide (e ≤ k.epoch)

/-- The cords due at an edge fail: SAFE or BANKED is entered at it (R71, R93, R95). `req` is the request it evaluates. -/
def cordsStopped (k : Keeper) (c : Chip) (req : Option Nat) : Bool :=
  bankDueAt k c || (c.mode ≠ .safe && !(safeDueAt k c).isEmpty) || (req = some 7 && modeRuns c.mode)

/-- The mode of an edge. BANKED overrides SAFE, and either overrides a request. [DEDUCED: log 45] -/
def modeEdge (k : Keeper) (c : Chip) (req : Option Nat) : Chip :=
  let due := safeDueAt k c
  if bankDueAt k c then enterBanked k c
  else if due ≠ [] && c.mode ≠ .safe then enterSafe k c due
  else
    let c := { due.foldl safeJoin c with modes := { c.modes with safeDue := c.modes.safeDue.filter fun d => decide (k.epoch < d.edge) } }
    if c.modes.resumeDue.any (fun e => decide (e ≤ k.epoch)) && thermalSafe c then kindlingStart k c .again 5 1
    else if c.modes.exitDue then handover k c
    else match req with
      | some n => requestEdge k { c with modes := { c.modes with resumeDue := none } } n
      | none => { c with modes := { c.modes with resumeDue := none } }

/-- Wake events in BANKED: KINDLING begins once the feed is good, and the domains are down (R98). [DEDUCED: log 40] -/
def wakeEdge (k : Keeper) (c : Chip) : Chip :=
  match c.modes.held with
  | w :: _ => if c.modes.feedGood && c.modes.bankDown.isNone then kindlingStart k c .wake w 1 else c
  | [] => c

/-! ## Commands -/

/-- FEED_ON: KINDLING begins at K0. The epoch counter starts at 0, after a loss of supply at the last value written plus
65,536 (R24, R25). [DEDUCED: log 3; DEDUCED: log 39] -/
def execFeedOn (keyActive tenVolts : Bool) (s : State) : Host.Outcome State Fault Refusal :=
  let c := { s.chip with out := [] }
  if c.mode ≠ .off then .next { s with chip := c }
  else
    let k : Keeper := { epoch := if c.modes.born then c.modes.saved + 65536 else 0 }
    let c := { c with us := 0, modes := { c.modes with
      feedGood := tenVolts, key := keyActive, keyOff := k.epoch, can0 := false, drives := false } }
    let c := if c.modes.born then
        (c.bump Key.Epoch.EPOCH_RESUMES).put Key.Epoch.EPOCH_RESUME_FROM k.epoch else c
    .next { s with keeper := k, chip := kindlingStart k c .off 0 0 }

/-- FEED_LOW: below 10 V for 100 ms (Table 3.3). -/
def feedLow (k : Keeper) (c : Chip) : Chip :=
  if c.mode = .off then c
  else
    let c := { c with modes := { c.modes with feedGood := false } }
    if c.mode = .banked then c
    else
      let c := bankDecide k c
      if c.mode = .kindling then c else c.bump Key.Wake.LOW_FEED_COUNT

/-- FEED_LOSS: the hold-up write, and OFF at once (R102). -/
def feedLoss (k : Keeper) (c : Chip) : Chip :=
  if c.mode = .off then c
  else
    let c := faceOff (recOff k (saveEpoch k c))
    let c := coreRestart { c with mode := .off } .off
    { c with modes := { tiles := c.modes.tiles, born := c.modes.born, saved := c.modes.saved } }

/-- FEED_RESTORED: at 10 V or more for 100 ms. -/
def feedRestored (c : Chip) : Chip := if c.mode = .off then c else { c with modes := { c.modes with feedGood := true } }

/-- A wake event joins those held, once. -/
def heldWith (l : List Nat) (source : Nat) : List Nat := if l.contains source then l else l ++ [source]

/-- A wake event in BANKED is held until the feed is good. [DEDUCED: log 40] -/
def wakeHold (c : Chip) (source : Nat) : Chip :=
  if c.mode = .banked then { c with modes := { c.modes with held := heldWith c.modes.held source } } else c

/-- KEY_INPUT_CHANGE (R98, R99). -/
def keyChange (k : Keeper) (c : Chip) (active : Bool) : Chip :=
  if c.mode = .off || c.modes.key = active then c
  else if active then
    wakeHold ({ c with modes := { c.modes with key := true } }.putFlag Key.Wake.REMOTE_WAKE false) 1
  else
    { c with modes := { c.modes with
      key := false, keyOff := k.epoch, held := c.modes.held.filter (· ≠ 1) } }

/-- From when the key-off delay counts (R99). [DESIGN CHOICE: log 92] -/
def keyDelayFrom (c : Chip) : Nat :=
  if c.flag Key.Wake.REMOTE_WAKE then max c.modes.handover (c.num Key.Hb.HB_LAST_EPOCH) else c.modes.keyOff

/-- KEY_OFF_DELAY_EXPIRY. -/
def keyDelayExpiry (k : Keeper) (c : Chip) : Chip :=
  if (modeRuns c.mode || c.mode = .safe) && !c.modes.key && keyDelayFrom c + c.num Key.Wake.KEY_OFF_DELAY ≤ k.epoch then
    bankDecide k c
  else c

/-- CAN0_WAKE_PATTERN. -/
def can0Wake (c : Chip) : Chip :=
  if c.mode = .off then c
  else
    let c := { c with modes := { c.modes with can0 := true } }
    if bitOf (c.num Key.Wake.WAKE_ENABLE) 1 then wakeHold c 2 else c

/-- WAKE_TIMER_EXPIRY, at a 1 s boundary of the ember. -/
def timerWake (k : Keeper) (c : Chip) : Chip :=
  let t := c.num Key.Wake.WAKE_TIMER
  if bitOf (c.num Key.Wake.WAKE_ENABLE) 2 && t ≠ 0 && k.epoch % 1000 = 0
      && c.num Key.Wake.BANKED_EPOCH + 1000 * t ≤ k.epoch then wakeHold c 3
  else c

/-- HEARTBEAT_MISS: the deadline edge has come with no heartbeat (R90). [DEDUCED: log 44] -/
def heartbeatMiss (k : Keeper) (c : Chip) : Chip :=
  if modeRuns c.mode && c.modes.deadline.any (fun d => decide (d ≤ k.epoch)) then
    let c := decideSafe (c.bump Key.Hb.HB_MISSES) (k.epoch + 1) 1 0 false
    { c with modes := { c.modes with deadline := none } }
  else c

/-- FEED_LOW: The feed below 10 V for 100 ms takes the module to BANKED and counts LOW_FEED_COUNT (R82). -/
def execFeedLow (s : State) : Host.Outcome State Fault Refusal := onChip feedLow s
/-- FEED_LOSS: The feed below 8 V for 50 µs cuts the domains, makes the hold-up write, and turns the module OFF
(R102). -/
def execFeedLoss (s : State) : Host.Outcome State Fault Refusal := onChip feedLoss s
/-- FEED_RESTORED: The feed at 10 V or more for 100 ms with an enabled wake source still active starts KINDLING (R98).
-/
def execFeedRestored (s : State) : Host.Outcome State Fault Refusal := onChip (fun _ c => feedRestored c) s
/-- KINDLING_STEP_END: A KINDLING step completes its work, and the next step begins (R87). [DEDUCED: log 7] -/
def execKindlingStepEnd (f : KindlingFinding) (s : State) : Host.Outcome State Fault Refusal :=
  onChip (fun k c => kindlingStepEnd k c f) s
/-- HEARTBEAT_MISS: The deadline edge passes with no heartbeat, HB_MISSES counts, and SAFE follows at the next edge
(R90). [DEDUCED: log 7] -/
def execHeartbeatMiss (s : State) : Host.Outcome State Fault Refusal := onChip heartbeatMiss s
/-- KEY_INPUT_CHANGE: The filtered key input on X8 changes after 20 ms stable (R98). -/
def execKeyInputChange (active : Bool) (s : State) : Host.Outcome State Fault Refusal := onChip (fun k c => keyChange k c active) s
/-- KEY_OFF_DELAY_EXPIRY: KEY_OFF_DELAY expires with the key input inactive, and the module banks (R99). -/
def execKeyOffDelayExpiry (s : State) : Host.Outcome State Fault Refusal := onChip keyDelayExpiry s
/-- CAN0_WAKE_PATTERN: A completed ISO 11898-2 wake-up pattern on CAN0 is a wake event (R98). -/
def execCan0WakePattern (s : State) : Host.Outcome State Fault Refusal := onChip (fun _ c => can0Wake c) s
/-- WAKE_TIMER_EXPIRY: WAKE_TIMER seconds elapse since BANKED_EPOCH at a 1 s boundary of the ember (R98). -/
def execWakeTimerExpiry (s : State) : Host.Outcome State Fault Refusal := onChip timerWake s

/-- GNSS_BURST: in BANKED a burst on ANT0, with up to 64 channels, gives a time solution and a position, no RTK and no
heading (R277); PD10 is powered while it lasts (Table 3.9). Its position stands at once. [DEDUCED: log 40] -/
def execGnssBurst (burst : GnssBurst) (s : State) : Host.Outcome State Fault Refusal :=
  onChip (fun k c =>
    let sol := burst.sol
    if c.mode ≠ .banked then c
    else
      let c := if c.modes.bankDown.isNone then
          pdBurst k { c with gnss := { c.gnss with burst := some (k.epoch + 200) } } true else c
      let c := trackSignals c 64 (burst.signals.filter fun x => x.ant.val = 0)
      let c := positionDue k (c.put Key.Gnss.SATS_USED (min (satsUsed c) 255)) (if 3 ≤ sol.kind.val then { sol with kind := 1 } else sol)
      let now := c.dict.tile
      let c := now.foldl (fun c w => tileStore k c w.key w.val) { c with dict := { c.dict with tile := [] } }
      timeDue k c sol) s

end Sys2Proof.Machine
end

