-- ==== Sys2Proof/Machine/Wire.lean ====
section
/-! DEFINITION. What reaches the module on its wires: drive links (R21–R23, R32), CAN frames (R334) and UDP datagrams
(R348, R349). -/

namespace Sys2Proof.Machine

/-! ## Drive links -/

def linkOf (c : Chip) (n : Nat) : LinkX := nth c.link.links n {}
def linkSet (c : Chip) (n : Nat) (x : LinkX) : Chip := { c with link := { c.link with links := c.link.links.set n x } }

/-- A link is up: K2 for the DXA, K6 for the others (Table 3.5). -/
def linkUp (c : Chip) (n : Nat) : Bool := up c (if n = 17 then 2 else 6)

/-- A device takes one command, `written` where a write or a cord brought it. [DEDUCED: log 38] -/
def deviceTake (k : Keeper) (written : Bool) (c : Chip) (cmd : Nat × Nat) : Chip :=
  let ix := cmd.1 / 256
  if ix < 0x3500 then valveAct k c (ix - 0x3400) cmd.2
  else if ix < 0x3600 then lsAct k c (ix - 0x3500) cmd.2 written
  else dioAct k c (ix - 0x3600) (cmd.2 ≠ 0)

/-- A die's ash stands, is decided, or its link's failure is being handled. -/
def dieFailing (c : Chip) (u : Nat) : Bool :=
  unitAshed c u || handlingOf c 0x1201 u || c.flt.due.any fun d => decide (d.unit = u)

/-- A good frame reaches a device: the commands of the engine it carries are taken, and safe values a silence brought end
once no ash of the device stands or is on its way (R22, R32). [DEDUCED: log 38] -/
def frameOut (k : Keeper) (c : Chip) (n : Nat) : Chip :=
  let x := linkOf c n
  let now := c.link.now.filter fun m => decide (linkOfKey m.1 = n)
  let c := linkSet c n { x with failOut := 0, silent := 0, safe := x.safe && dieFailing c (unitDie (n + 1)) }
  let c := { c with link := { c.link with now := c.link.now.filter fun m => decide (linkOfKey m.1 ≠ n) } }
  now.foldl (deviceTake k false) c

/-- A frame fails its CRC: it is counted, and what it carried waits for the next one. -/
def frameBad (k : Keeper) (c : Chip) (n : Nat) (toDxc injected : Bool) : Chip :=
  let x := linkOf c n
  let c := linkSet c n (if toDxc then { x with failIn := x.failIn + 1 }
    else { x with failOut := x.failOut + 1, silent := x.silent + 1 })
  let c := if toDxc && n = 17 then impGap c else c
  raise k (c.bump Key.Flt.DRIVE_CRC_ERRORS) 0x1202 (unitDie (n + 1)) injected

/-- DRIVE_LINK_FRAME: a 5 µs frame of one direction, with the samples of the DXA where it comes from there (R23).
[DEDUCED: log 38] -/
def driveFrame (k : Keeper) (c : Chip) (n : Nat) (toDxc good : Bool) (samples : List (Nat × List Int)) : Chip :=
  if !linkUp c n then c
  else
    let inj := good && armedAt c Key.Inj.DRIVE_CRC n
    if !good || inj then frameBad k (if inj then disarm c Key.Inj.DRIVE_CRC n else c) n toDxc inj
    else if toDxc then
      let c := linkSet c n { linkOf c n with failIn := 0 }
      if n = 17 && up c 3 then impFrame k c samples else c
    else frameOut k c n

/-- DRIVE_LINK_FRAME: A 5 µs drive-link frame is received and its CRC is checked (R21). -/
def execDriveLinkFrame (link : Fin 18) (toDxc good : Bool) (dxa : List (Fin 16 × List Int)) (s : State) :
    Host.Outcome State Fault Refusal :=
  onChip (fun k c => driveFrame k c link.val toDxc good (dxa.map fun x => (x.1.val, x.2))) s

/-- DRIVE_LINK_FAIL: eight failed frames in a row; the device is ashed (R21). -/
def driveFail (k : Keeper) (c : Chip) (n : Nat) : Chip :=
  if linkUp c n && (8 ≤ (linkOf c n).failIn || 8 ≤ (linkOf c n).failOut) && !ashOwn c (unitDie (n + 1)) then
    raise k c 0x1201 (unitDie (n + 1))
  else c

/-- DRIVE_LINK_FAIL: After 8 consecutive failed frames the link is declared failed, and the device on it is ashed
(R21). -/
def execDriveLinkFail (link : Fin 18) (s : State) : Host.Outcome State Fault Refusal :=
  onChip (fun k c => driveFail k c link.val) s

/-- LINK_SILENCE_SAFE: a DXV or DXS without a good frame for 20 frames applies its safe values on its own (R22).
[DEDUCED: log 38] -/
def linkSilence (k : Keeper) (c : Chip) (n : Nat) : Chip :=
  if linkUp c n && n < 9 && 20 ≤ (linkOf c n).silent && !(linkOf c n).safe then
    let c := linkSet c n { linkOf c n with safe := true }
    if n < 3 then valveOverrides k c else lsOverrides k c
  else c

/-- LINK_SILENCE_SAFE: A DXV or DXS that receives no good frame for 20 frames applies its safe values on its own
(R22). -/
def execLinkSilenceSafe (link : Fin 18) (s : State) : Host.Outcome State Fault Refusal :=
  onChip (fun k c => linkSilence k c link.val) s

/-- What the channels of a link keep under a HOLD, once the device has acted on the edge (R92). [DEDUCED: log 38] -/
def linkLatch (c : Chip) (n : Nat) : Chip :=
  if n < 3 then (List.range 16).foldl (fun c i => vcLatch c (16 * n + i)) c
  else if n < 9 then (List.range 8).foldl (fun c i => lsLatch c (8 * (n - 3) + i)) c
  else if n < 17 then (List.range 16).foldl (fun c i => dioLatch c (16 * (n - 9) + i)) c
  else c

/-- EDGE_MARKER_FRAME: a device acts on all of its commands for the edge at the first good frame that carries its epoch;
`lost` frames delay it by 5 µs each (R32). [DEDUCED: log 38] -/
def edgeMarker (k : Keeper) (c : Chip) (n lost : Nat) : Chip :=
  if !linkUp c n || (linkOf c n).acted || ashOwn c (unitDie (n + 1)) then c
  else
    let mine := c.link.edge.filter fun m => decide (linkOfKey m.1 = n)
    let c := linkSet c n { linkOf c n with acted := true }
    let c := { c with link := { c.link with edge := c.link.edge.filter fun m => decide (linkOfKey m.1 ≠ n) } }
    let c := if 9 ≤ n && n < 17 then grpSet c (n - 9) { grpOf c (n - 9) with marker := k.epoch % 65536 } else c
    let c := if mine ≠ [] && lost ≠ 0 then c.bump Key.Epoch.TAKE_DELAYED else c
    linkLatch (mine.foldl (deviceTake k true) c) n

/-- EDGE_MARKER_FRAME: At the first good frame carrying epoch E, a companion device acts on all of its commands for E
(R32). [DEDUCED: log 38] -/
def execEdgeMarkerFrame (link : Fin 18) (lost : Fin 8) (s : State) : Host.Outcome State Fault Refusal :=
  onChip (fun k c => edgeMarker k c link.val lost.val) s

/-! ## CAN frames -/

/-- What a frame is ahead of every filter (R334): an SDO request, an address claim, or a request for the claimed address. -/
inductive CanKnown where
  | sdo | claim | asked | other
deriving DecidableEq, Repr

/-- Recognises a frame. Claims have PDU format 0xEE, requests 0xEA with the PGN 0xEE00 in their data, both of data page 0
(SAE J1939). [PRESUMED: log 52; DEDUCED: log 54] -/
def canKnown (c : Chip) (p : Nat) (f : CanFrame) : CanKnown :=
  let id := f.id.toNat
  let format := id / 65536 % 1024
  let to_ := id / 256 % 256
  if f.rtr then .other
  else if !f.ext then (if p = 0 && !f.fdf && id = 0x600 + c.dict.node then .sdo else .other)
  else if to_ ≠ 255 && to_ ≠ (canOf c p).claimAddr then .other
  else if format = 0xEE && f.data.length = 8 then .claim
  else if format = 0xEA && f.data = leBytes 3 0xEE00 then .asked
  else .other

/-- A frame from the bus; one begun before the port re-integrates completes (R333). An FD frame is an error to a port without FD_ENABLE.
[PRESUMED: log 53; DEDUCED: log 54] -/
def canReceive (k : Keeper) (c : Chip) (p : Nat) (f : CanFrame) (sof : Nat) : Chip :=
  let old := canOld c p sof
  if !canOnBus c p && old.isNone then c
  else if f.fdf && !((old.map (·.1)).getD (c.flag (Key.Can.FD_ENABLE p))) then
    canJudge k ((c.bump (Key.Can.ERR_FRAMES p)).put (Key.Can.REC p) (min (c.num (Key.Can.REC p) + 1) 255)) p false
  else
    let what := canKnown c p f
    let c := canAccept k (recGood k c p) p f sof (what ≠ .other)
    match what with
    | .sdo => sdoFrame k c f.data
    | .claim => claimHeard k c p (ofLeBytes f.data) (f.id.toNat % 256) false
    | .asked => claimAsked k c p
    | .other => c

/-- CAN_FRAME_RECEIVED. No bus carries a frame that R328 does not allow. [DESIGN CHOICE: log 8] -/
def execCanFrameReceived (port : Fin 12) (frame : CanFrame) (sofNs : Nat) (s : State) : Host.Outcome State Fault Refusal :=
  if canFrameOk frame then onChip (fun k c => canReceive k c port.val frame sofNs) s else .fault .illFormed

/-! ## UDP -/

/-- A datagram to its service (Table 12.5). [DESIGN CHOICE: log 9] -/
def udpReceive (k : Keeper) (c : Chip) (d : UdpIn) : Chip :=
  let p := d.port.val
  if !ethUp c p then c
  else if d.irregular || !hasIp p || (d.dst.toNat ≠ c.num (Key.Eth.IP_ADDR p) && d.dst.toNat ≠ 0xFFFFFFFF) then ethDiscard c p
  else
    let c := ethRx c p
    let to_ := d.dstPort.toNat
    if p = 11 && to_ = 47600 then jopEntry k c d.src d.srcPort 0 d.data
    else if p = 11 && to_ = 47601 then rtcmBytes k c true d.data
    else if p ≤ 3 && to_ = 47610 + p then lidarReceive k c p d.data
    else c.bump Key.Jop.UDP_NO_SERVICE

/-- UDP_DATAGRAM. [DESIGN CHOICE: log 9] -/
def execUdpDatagram (d : UdpIn) (s : State) : Host.Outcome State Fault Refusal := onChip (fun k c => udpReceive k c d) s

end Sys2Proof.Machine
end

