-- ==== Sys2Proof/Machine/Edge.lean ====
section
/-! DEFINITION. The epoch: its edge, the close of an application set, the latched copies (01). -/

namespace Sys2Proof.Machine

/-- The last-writer record LW_QUERY names, as the copy of this edge shows it (R74). -/
def lwShow (c : Chip) : Chip :=
  let w := c.dict.writers.find? (·.key = c.num Key.Lw.LW_QUERY)
  let g := fun (f : LastWriter → Nat) => (w.map f).getD 0
  ((((c.put Key.Lw.LW_KIND (g fun w => originKind w.org)).put Key.Lw.LW_ADDR (g fun w => originAddr w.org)).put
    Key.Lw.LW_PORT (g fun w => originPort w.org)).put Key.Lw.LW_EPOCH (g fun w => wireEpoch w.epoch)).putFlag
    Key.Lw.LW_VIA_CORD ((w.map (·.viaCord)).getD false)

/-- Service times of the last second (R463): free values. [DESIGN CHOICE: log 6; DESIGN CHOICE: log 22] -/
def jopTimesEdge (k : Keeper) (c : Chip) : Chip :=
  if served c && k.epoch % 1000 = 0 then
    let t := Config.jopTimes c.free
    let worst := t.2 % 40001
    { (c.put Key.Load.JOP_MEDIAN_US (t.1 % (worst + 1))).put Key.Load.JOP_WORST_US worst with free := c.free + 1 }
  else c

/-- Outputs that safe values override, once the mode and the slots of the edge stand (R93).
[DEDUCED: log 37; DESIGN CHOICE: log 69] -/
def outputsEdge (k : Keeper) (c : Chip) (m : EdgeMeas) (began : Bool) : Chip :=
  if c.modes.drives then dioEdge k (loadEdge k (valveOverrides k c) began) m else c

/-- The units at an edge, after actions, mode and slots. [DEDUCED: log 37] -/
def unitsEdge (k : Keeper) (c : Chip) (m : EdgeMeas) (began : Bool) : Chip :=
  let c := outputsEdge k c m began
  let c := if up c 3 then (List.range 16).foldl (impEdge k) c else c
  let c := mapEdge k (cropFlowEdge c)
  let c := if c.modes.drives then valveEdge k c m else c
  let c := fusionEdge k (visionEdge k (gnssEdge k c))
  let c := updEdge (fabEdge k (ethEdge k (canEdge k c)))
  let ashed := c.flt.due.any fun d => decide (d.edge ≤ k.epoch)
  let c := ashesEdge k c
  let c := if ashed then outputsEdge k c m false else c
  let c := recEdge k (faceEdge k (reportEdge (pwrEdge k c) m))
  jopTimesEdge k c

/-- An edge while the module is powered beyond BANKED: Table 1.3 step 3, in the order of R30, then the mode (R81), the
slots and the units. [DEDUCED: log 37; DESIGN CHOICE: log 69] -/
def poweredEdge (k : Keeper) (c : Chip) (m : EdgeMeas) : Chip :=
  let was := c.mode
  let c := { c with link := { c.link with links := c.link.links.map fun x : LinkX => { x with acted := false } } }
  let r := applyDue k c
  let r := cordsEdge k (cordsStopped k r.chip r.req) r
  let c := modeEdge k (applyEnd r) r.req
  if c.mode = .banked then gnssEdge k c
  else
    let c := slotsEdge k (guideEdge k (groundSpeedEdge k (fixEdge c)))
    lwShow (unitsEdge k c m (c.mode ≠ was))

/-- The chip at an edge. In BANKED no actions are applied; the ember counts, keeps GNSS time and wakes (R26, R31, R97).
[DEDUCED: log 37] -/
def edgeChip (k : Keeper) (c : Chip) (m : EdgeMeas) : Chip :=
  let c := { c with us := 0 }
  let c := match c.mode with
    | .off => c
    | .banked => wakeEdge k (bankDownEdge k (gnssEdge k c))
    | _ => poweredEdge k c m
  let c := if c.modes.saveDue then saveEpoch k c else c
  c.put Key.Epoch.EPOCH_NOW k.epoch

/-- The keeper latches the copy of the edge: the newest 64 stay (R34, R35). None is latched in BANKED.
[DEDUCED: log 37] -/
def latch (k : Keeper) (c : Chip) : Keeper :=
  if c.mode = .off || c.mode = .banked then { epoch := k.epoch }
  else
    let copies := (⟨k.epoch, c.od⟩ :: k.copies).take 64
    { epoch := k.epoch, copies := copies
      servable := k.servable.filter fun e => copies.any fun x => x.epoch = e }

/-- EPOCH_EDGE: the keeper counts the edge, and what is due at it happens. Without feed nothing counts.
[DEDUCED: log 3] -/
def execEpochEdge (m : EdgeMeas) (s : State) : Host.Outcome State Fault Refusal :=
  let c := { s.chip with out := [] }
  if c.mode = .off then .next { s with chip := c }
  else
    let k : Keeper := { s.keeper with epoch := s.keeper.epoch + 1, setClosed := false }
    let c := edgeChip k c m
    .next { s with keeper := latch k c, chip := c }

/-- APPLICATION_SET_CLOSE: the set of the next edge closes, 100 µs before it; cords due at it are judged (R29, R70).
[DEDUCED: log 3; DESIGN CHOICE: log 4] -/
def execApplicationSetClose (s : State) : Host.Outcome State Fault Refusal :=
  let c := { s.chip with out := [] }
  if c.mode = .off || c.mode = .banked || s.keeper.setClosed then .next { s with chip := c }
  else
    let k := { s.keeper with setClosed := true }
    .next { s with keeper := k, chip := cordsClose k { c with us := 900 } (k.epoch + 1) }

/-- COPY_SERVABLE: 40 µs after an edge its copy becomes the one reads are served from (R31, step 7).
[DEDUCED: log 3; DESIGN CHOICE: log 4] -/
def execCopyServable (s : State) : Host.Outcome State Fault Refusal :=
  let c := { s.chip with out := [] }
  match s.keeper.copies with
  | x :: _ =>
    if x.epoch = s.keeper.epoch then
      .next { s with keeper := { s.keeper with servable := some x.epoch }, chip := { c with us := max 40 c.us } }
    else .next { s with chip := c }
  | [] => .next { s with chip := c }

/-- EPOCH_COUNTER_SAVE: every 65,536 edges the counter is written to MRAM (R25, R435).
[DEDUCED: log 39; DESIGN CHOICE: log 88] -/
def execEpochCounterSave (s : State) : Host.Outcome State Fault Refusal :=
  onChip (fun k c => if c.mode ≠ .off && k.epoch % 65536 = 0 then saveEpoch k c else c) s

end Sys2Proof.Machine
end

