-- ==== Sys2Proof/Machine/Writes.lean ====
section
/-! DEFINITION. The rows that are a write of one object, or the writes of one datagram: each is judged and taken as R59
and R125 say, outside a JOP datagram. -/

namespace Sys2Proof.Machine

/-- A write of a number to an object. [DESIGN CHOICE: log 50] -/
def writeNum (k : Keeper) (c : Chip) (org : Origin) (key n : Nat) : Chip := writeOne k c org key .sdo (numBytes key n)

/-- Writes of numbers that a row carries together; a row carries writes of its own kind alone.
[DESIGN CHOICE: log 50] -/
def writeKind (k : Keeper) (c : Chip) (org : Origin) (kind : Nat → Bool) (ws : List (Nat × List Byte)) : Chip :=
  if ws.all fun w => kind w.1 then writeAll k c org ws else c

/-- The writes of a row that names its objects by INDEX and SUB. [DESIGN CHOICE: log 50] -/
def namedWrites (ws : List (BitVec 16 × BitVec 8 × Nat)) : List (Nat × List Byte) :=
  ws.map fun w => (mkKey w.1.toNat w.2.1.toNat, numBytes (mkKey w.1.toNat w.2.1.toNat) w.2.2)

/-- Roots, sensors and their bounds in a slot's table (Table 5.3): what a binding write touches. -/
def isSlotConfig (key : Nat) : Bool := 0x2400 ≤ key / 256 && key / 256 < 0x241E && key % 256 ≠ 1

/-- A command object's write that applies now and that its device takes: judged as R59 and Table 3.4 say (R205, R228, R247);
a refused one gives its code. -/
def commandNow (k : Keeper) (c : Chip) (key n : Nat) (take : Chip → Chip) : Chip :=
  if !served c then c
  else
    let (code, _, c) := judgeOne k c key .sdo (numBytes key n)
    if code = Rc.OK then take (c.put key n) else c.emit (.result code [])

/-- VALVE_COMMAND: a COMMAND is applied and the DXV takes it (R203, R205). -/
def execValveCommand (ch : Fin 48) (value : F32) (s : State) : Host.Outcome State Fault Refusal :=
  onChip (fun k c =>
    commandNow k c (Key.Valve.COMMAND ch.val) value.toNat fun c => valveAct k c ch.val value.toNat) s

/-- LOAD_SWITCH_COMMAND: a COMMAND is applied and the DXS takes it (R228). -/
def execLoadSwitchCommand (ch : Fin 48) (value : F32) (s : State) : Host.Outcome State Fault Refusal :=
  onChip (fun k c =>
    commandNow k c (Key.Ls.COMMAND ch.val) value.toNat fun c => lsAct k c ch.val value.toNat true) s

/-- DO_CMD: a command applies at the field side; an input returns NOT_OUTPUT (R247). -/
def execDoCmd (ch : Fin 128) (value : Bool) (s : State) : Host.Outcome State Fault Refusal :=
  onChip (fun k c =>
    commandNow k c (Key.Dio.DO_CMD ch.val) (if value then 1 else 0) fun c => dioAct k c ch.val value) s

/-- A write of SNAP_RELEASE (R58). -/
def execSnapRelease (org : Origin) (slot : Fin 8) (value : Byte) (s : State) : Host.Outcome State Fault Refusal :=
  onChip (fun k c => writeNum k c org (Key.Snap.SNAP_RELEASE slot.val) value.toNat) s

/-- A write of HEARTBEAT (R73). -/
def execHeartbeat (org : Origin) (value : BitVec 32) (s : State) : Host.Outcome State Fault Refusal :=
  onChip (fun k c => writeNum k c org Key.Hb.HEARTBEAT value.toNat) s

/-- A write of HB_TIMEOUT (R89). -/
def execHbTimeout (org : Origin) (value : BitVec 16) (s : State) : Host.Outcome State Fault Refusal :=
  onChip (fun k c => writeNum k c org (Key.Hb.HB_TIMEOUT) value.toNat) s

/-- A write of LW_QUERY (R74). -/
def execLwQuery (org : Origin) (value : BitVec 32) (s : State) : Host.Outcome State Fault Refusal :=
  onChip (fun k c => writeNum k c org (Key.Lw.LW_QUERY) value.toNat) s

/-- A write of MODE_REQUEST (R79). -/
def execModeRequest (org : Origin) (value : Byte) (s : State) : Host.Outcome State Fault Refusal :=
  onChip (fun k c => writeNum k c org (Key.Mode.MODE_REQUEST) value.toNat) s

/-- A write of ASH_CLEAR (R448). -/
def execAshClear (org : Origin) (unit : BitVec 32) (s : State) : Host.Outcome State Fault Refusal :=
  onChip (fun k c => writeNum k c org (Key.Flt.ASH_CLEAR) unit.toNat) s

/-- A write of MODE_REQ of a slot (R148). -/
def execModeReq (org : Origin) (slot : Fin 30) (value : Byte) (s : State) : Host.Outcome State Fault Refusal :=
  onChip (fun k c => writeNum k c org (Key.Slot.MODE_REQ slot.val) value.toNat) s

/-- A write of MAP_NUMBER (R170). -/
def execMapNumber (org : Origin) (value : BitVec 16) (s : State) : Host.Outcome State Fault Refusal :=
  onChip (fun k c => writeNum k c org (Key.Map.MAP_NUMBER) value.toNat) s

/-- A write of CROP (R170). -/
def execCrop (org : Origin) (value : Byte) (s : State) : Host.Outcome State Fault Refusal :=
  onChip (fun k c => writeNum k c org (Key.Map.CROP) value.toNat) s

/-- A write of MAP_DELETE (R170). -/
def execMapDelete (org : Origin) (value : BitVec 16) (s : State) : Host.Outcome State Fault Refusal :=
  onChip (fun k c => writeNum k c org (Key.Map.MAP_DELETE) value.toNat) s

/-- A write of ENGAGE_CMD (R189). -/
def execEngageCmd (org : Origin) (value : Byte) (s : State) : Host.Outcome State Fault Refusal :=
  onChip (fun k c => writeNum k c org (Key.Guide.ENGAGE_CMD) value.toNat) s

/-- A write of GUIDE_ENABLE (R187). -/
def execGuideEnable (org : Origin) (value : Byte) (s : State) : Host.Outcome State Fault Refusal :=
  onChip (fun k c => writeNum k c org (Key.Guide.GUIDE_ENABLE) value.toNat) s

/-- A write of LINE_DELETE (R192). -/
def execLineDelete (org : Origin) (value : Byte) (s : State) : Host.Outcome State Fault Refusal :=
  onChip (fun k c => writeNum k c org (Key.Line.LINE_DELETE) value.toNat) s

/-- A write of RECOVER (R344). -/
def execRecover (org : Origin) (port : Fin 12) (value : Byte) (s : State) : Host.Outcome State Fault Refusal :=
  onChip (fun k c => writeNum k c org (Key.Can.RECOVER port.val) value.toNat) s

/-- A write of ABORT of a build (R373). -/
def execAbort (org : Origin) (b : Fin 4) (value : Byte) (s : State) : Host.Outcome State Fault Refusal :=
  onChip (fun k c => writeNum k c org (Key.Build.ABORT b.val) value.toNat) s

/-- A write of UPD_ACCEPT (R376). -/
def execUpdAccept (org : Origin) (value : Byte) (s : State) : Host.Outcome State Fault Refusal :=
  onChip (fun k c => writeNum k c org (Key.Health.UPD_ACCEPT) value.toNat) s

/-- A write of PROFILE_SELECT (R382). -/
def execProfileSelect (org : Origin) (value : Byte) (s : State) : Host.Outcome State Fault Refusal :=
  onChip (fun k c => writeNum k c org (Key.Prof.PROFILE_SELECT) value.toNat) s

/-- A write of COMMIT_NOW (R393). -/
def execCommitNow (org : Origin) (value : Byte) (s : State) : Host.Outcome State Fault Refusal :=
  onChip (fun k c => writeNum k c org (Key.Rec.COMMIT_NOW) value.toNat) s

/-- A write of REC_CLEAR (R396). -/
def execRecClear (org : Origin) (value : BitVec 16) (s : State) : Host.Outcome State Fault Refusal :=
  onChip (fun k c => writeNum k c org (Key.Rec.REC_CLEAR) value.toNat) s

/-- A write of FAULT_BIN_H (R391). -/
def execFaultBinH (org : Origin) (value : BitVec 16) (s : State) : Host.Outcome State Fault Refusal :=
  onChip (fun k c => writeNum k c org (Key.Rec.FAULT_BIN_H) value.toNat) s

/-- A write of GATE_ENABLE (R420). -/
def execGateEnable (org : Origin) (node : Fin 21) (value : Byte) (s : State) : Host.Outcome State Fault Refusal :=
  onChip (fun k c => writeNum k c org (Key.Gate.GATE_ENABLE node.val) value.toNat) s

/-- A block for LINE_DATA (R180). -/
def execLineData (org : Origin) (block : List Byte) (s : State) : Host.Outcome State Fault Refusal :=
  onChip (fun k c => writeOne k c org (Key.Line.LINE_DATA) .seg block) s

/-- A block for CODE of a shaper program (R211). -/
def execCode (org : Origin) (program : Fin 128) (block : List Byte) (s : State) : Host.Outcome State Fault Refusal :=
  onChip (fun k c => writeOne k c org (Key.Prog.CODE program.val) .seg block) s

/-- A block for RTCM_IN (R266). -/
def execRtcmIn (org : Origin) (block : List Byte) (s : State) : Host.Outcome State Fault Refusal :=
  onChip (fun k c => writeOne k c org (Key.Rtcm.RTCM_IN) .seg block) s

/-- A block for TX_SUBMIT (R341). -/
def execTxSubmit (org : Origin) (port : Fin 12) (block : List Byte) (s : State) : Host.Outcome State Fault Refusal :=
  onChip (fun k c => writeOne k c org (Key.CanX.TX_SUBMIT port.val) .seg block) s

/-- A block for FILTER_LIST (R336). -/
def execFilterList (org : Origin) (port : Fin 12) (block : List Byte) (s : State) : Host.Outcome State Fault Refusal :=
  onChip (fun k c => writeOne k c org (Key.CanX.FILTER_LIST port.val) .seg block) s

/-- A block for UPD_PKG (R372). -/
def execUpdPkg (org : Origin) (block : List Byte) (s : State) : Host.Outcome State Fault Refusal :=
  onChip (fun k c => writeOne k c org (Key.Upd.UPD_PKG) .seg block) s

/-- A block for FACE_UPDATE (R404). -/
def execFaceUpdate (org : Origin) (block : List Byte) (s : State) : Host.Outcome State Fault Refusal :=
  onChip (fun k c => writeOne k c org (Key.Face.FACE_UPDATE) .seg block) s

/-- FAULT_INJECTION: a write of an injection object (R453). -/
def execFaultInjection (org : Origin) (index : BitVec 16) (sub : BitVec 8) (value : Nat) (s : State) :
    Host.Outcome State Fault Refusal :=
  onChip (fun k c =>
    let key := mkKey index.toNat sub.toNat
    writeKind k c org isInjection [(key, numBytes key value)]) s

/-- STRUCTURAL_WRITE: the structural writes of a datagram, judged together by admission control (R125). -/
def execStructuralWrite (org : Origin) (writes : List (BitVec 16 × BitVec 8 × Nat)) (s : State) :
    Host.Outcome State Fault Refusal :=
  onChip (fun k c => writeKind k c org isStructural (namedWrites writes)) s

/-- SLOT_BINDING_WRITE: binding writes of slots, judged over the datagram (R142). -/
def execSlotBindingWrite (org : Origin) (writes : List (BitVec 16 × BitVec 8 × Nat)) (s : State) :
    Host.Outcome State Fault Refusal :=
  onChip (fun k c => writeKind k c org isSlotConfig (namedWrites writes)) s

/-- CAN_TIMING_WRITE: timing, FD_ENABLE and LISTEN_ONLY of a port (R333). -/
def execCanTimingWrite (org : Origin) (port : Fin 12) (writes : List (BitVec 8 × Nat)) (s : State) :
    Host.Outcome State Fault Refusal :=
  onChip (fun k c =>
    let ix := 0x4400 + 16 * port.val
    writeKind k c org (fun key => 2 ≤ key % 256 && key % 256 ≤ 0x0E)
      (writes.map fun w => (mkKey ix w.1.toNat, numBytes (mkKey ix w.1.toNat) w.2))) s

/-- MEASURE_CONFIG_WRITE: the configuration of the selected measure (R389). -/
def execMeasureConfigWrite (org : Origin) (writes : List (BitVec 8 × List Byte)) (s : State) :
    Host.Outcome State Fault Refusal :=
  onChip (fun k c => writeKind k c org measKey (writes.map fun w => (mkKey 0x4801 w.1.toNat, w.2))) s

end Sys2Proof.Machine
end

