-- ==== Sys2Proof/Machine/Dispatch.lean ====
section
/-! DEFINITION. The command each constructor stands for: one arm, one call. -/

namespace Sys2Proof.Machine

/-- The effect of a command on everything but the queue. -/
def exec (i : Instr) (s : State) : Host.Outcome State Fault Refusal :=
  match i with
  | .epochEdge m => Sys2Proof.Machine.execEpochEdge m s
  | .applicationSetClose => Sys2Proof.Machine.execApplicationSetClose s
  | .copyServable => Sys2Proof.Machine.execCopyServable s
  | .epochCounterSave => Sys2Proof.Machine.execEpochCounterSave s
  | .driveLinkFrame link toDxc good dxa => Sys2Proof.Machine.execDriveLinkFrame link toDxc good dxa s
  | .driveLinkFail link => Sys2Proof.Machine.execDriveLinkFail link s
  | .linkSilenceSafe link => Sys2Proof.Machine.execLinkSilenceSafe link s
  | .edgeMarkerFrame link lost => Sys2Proof.Machine.execEdgeMarkerFrame link lost s
  | .jopDatagram addr port ahead data => Sys2Proof.Machine.execJopDatagram addr port ahead data s
  | .read org copy index sub type => Sys2Proof.Machine.execRead org copy index sub type s
  | .write org index sub type data => Sys2Proof.Machine.execWrite org index sub type data s
  | .snapshot org target entries => Sys2Proof.Machine.execSnapshot org target entries s
  | .snapshotCapture slot => Sys2Proof.Machine.execSnapshotCapture slot s
  | .snapRelease org slot value => Sys2Proof.Machine.execSnapRelease org slot value s
  | .snapshotExpiry slot => Sys2Proof.Machine.execSnapshotExpiry slot s
  | .cordOpen org => Sys2Proof.Machine.execCordOpen org s
  | .cordAdd org handle index sub type data => Sys2Proof.Machine.execCordAdd org handle index sub type data s
  | .cordCommit handle epoch => Sys2Proof.Machine.execCordCommit handle epoch s
  | .cordAbort handle => Sys2Proof.Machine.execCordAbort handle s
  | .cordExpired slot => Sys2Proof.Machine.execCordExpired slot s
  | .domainSegRead org copy index sub offset maxLen => Sys2Proof.Machine.execDomainSegRead org copy index sub offset maxLen s
  | .domainSegWrite org index sub offset data last => Sys2Proof.Machine.execDomainSegWrite org index sub offset data last s
  | .frozenReadExpiry org index sub => Sys2Proof.Machine.execFrozenReadExpiry org index sub s
  | .domainTransferIdle index sub => Sys2Proof.Machine.execDomainTransferIdle index sub s
  | .sdoUploadInitiate index sub => Sys2Proof.Machine.execSdoUploadInitiate index sub s
  | .sdoUploadSegment toggle => Sys2Proof.Machine.execSdoUploadSegment toggle s
  | .sdoDownloadInitiate index sub expedited size => Sys2Proof.Machine.execSdoDownloadInitiate index sub expedited size s
  | .sdoDownloadSegment toggle data last => Sys2Proof.Machine.execSdoDownloadSegment toggle data last s
  | .sdoSegmentTimeout => Sys2Proof.Machine.execSdoSegmentTimeout s
  | .heartbeat org value => Sys2Proof.Machine.execHeartbeat org value s
  | .hbTimeout org value => Sys2Proof.Machine.execHbTimeout org value s
  | .lwQuery org value => Sys2Proof.Machine.execLwQuery org value s
  | .modeRequest org value => Sys2Proof.Machine.execModeRequest org value s
  | .feedOn keyActive tenVolts => Sys2Proof.Machine.execFeedOn keyActive tenVolts s
  | .feedLow => Sys2Proof.Machine.execFeedLow s
  | .feedLoss => Sys2Proof.Machine.execFeedLoss s
  | .feedRestored => Sys2Proof.Machine.execFeedRestored s
  | .kindlingStepEnd f => Sys2Proof.Machine.execKindlingStepEnd f s
  | .heartbeatMiss => Sys2Proof.Machine.execHeartbeatMiss s
  | .keyInputChange active => Sys2Proof.Machine.execKeyInputChange active s
  | .keyOffDelayExpiry => Sys2Proof.Machine.execKeyOffDelayExpiry s
  | .can0WakePattern => Sys2Proof.Machine.execCan0WakePattern s
  | .wakeTimerExpiry => Sys2Proof.Machine.execWakeTimerExpiry s
  | .thermalResume => Sys2Proof.Machine.execThermalResume s
  | .wheelSlot slot faults => Sys2Proof.Machine.execWheelSlot slot faults s
  | .structuralWrite org writes => Sys2Proof.Machine.execStructuralWrite org writes s
  | .faultInjection org index sub value => Sys2Proof.Machine.execFaultInjection org index sub value s
  | .ashClear org unit => Sys2Proof.Machine.execAshClear org unit s
  | .modeReq org slot value => Sys2Proof.Machine.execModeReq org slot value s
  | .slotBindingWrite org writes => Sys2Proof.Machine.execSlotBindingWrite org writes s
  | .canMapCompose slot => Sys2Proof.Machine.execCanMapCompose slot s
  | .slopeCapCycle => Sys2Proof.Machine.execSlopeCapCycle s
  | .slopeCapComplete => Sys2Proof.Machine.execSlopeCapComplete s
  | .yieldRecordComplete => Sys2Proof.Machine.execYieldRecordComplete s
  | .deferredRecordFlush => Sys2Proof.Machine.execDeferredRecordFlush s
  | .mapNumber org value => Sys2Proof.Machine.execMapNumber org value s
  | .crop org value => Sys2Proof.Machine.execCrop org value s
  | .mapDelete org value => Sys2Proof.Machine.execMapDelete org value s
  | .guidanceCycle => Sys2Proof.Machine.execGuidanceCycle s
  | .guidanceCycleComplete => Sys2Proof.Machine.execGuidanceCycleComplete s
  | .guidanceCycleLost => Sys2Proof.Machine.execGuidanceCycleLost s
  | .engageCmd org value => Sys2Proof.Machine.execEngageCmd org value s
  | .guideEnable org value => Sys2Proof.Machine.execGuideEnable org value s
  | .lineData org block => Sys2Proof.Machine.execLineData org block s
  | .lineDelete org value => Sys2Proof.Machine.execLineDelete org value s
  | .opPresentChange active => Sys2Proof.Machine.execOpPresentChange active s
  | .speedOutOfRangeExpiry => Sys2Proof.Machine.execSpeedOutOfRangeExpiry s
  | .coastExpiry => Sys2Proof.Machine.execCoastExpiry s
  | .valveCommand ch value => Sys2Proof.Machine.execValveCommand ch value s
  | .shaperTick currents => Sys2Proof.Machine.execShaperTick currents s
  | .seti ch operand => Sys2Proof.Machine.execSeti ch operand s
  | .ramp ch operand => Sys2Proof.Machine.execRamp ch operand s
  | .wait ch operand => Sys2Proof.Machine.execWait ch operand s
  | .dither ch operand => Sys2Proof.Machine.execDither ch operand s
  | .loop ch operand => Sys2Proof.Machine.execLoop ch operand s
  | .mark ch operand => Sys2Proof.Machine.execMark ch operand s
  | .peakwin ch operand => Sys2Proof.Machine.execPeakwin ch operand s
  | .quench ch operand => Sys2Proof.Machine.execQuench ch operand s
  | .endProgram ch => Sys2Proof.Machine.execEndProgram ch s
  | .peakTimeExpiry ch => Sys2Proof.Machine.execPeakTimeExpiry ch s
  | .overlapWinExpiry ch => Sys2Proof.Machine.execOverlapWinExpiry ch s
  | .quenchComplete bank clampJ => Sys2Proof.Machine.execQuenchComplete bank clampJ s
  | .code org program block => Sys2Proof.Machine.execCode org program block s
  | .lowSideHardCut ch => Sys2Proof.Machine.execLowSideHardCut ch s
  | .bankSwitchTrip bank => Sys2Proof.Machine.execBankSwitchTrip bank s
  | .bankReclose bank => Sys2Proof.Machine.execBankReclose bank s
  | .loadSwitchCommand ch value => Sys2Proof.Machine.execLoadSwitchCommand ch value s
  | .wireCurveUpdate sec spacing samples => Sys2Proof.Machine.execWireCurveUpdate sec spacing samples s
  | .hardShortCutoff ch => Sys2Proof.Machine.execHardShortCutoff ch s
  | .inrushWindowEnd ch => Sys2Proof.Machine.execInrushWindowEnd ch s
  | .lsRetry ch => Sys2Proof.Machine.execLsRetry ch s
  | .sectionRestore sec => Sys2Proof.Machine.execSectionRestore sec s
  | .junctionLatchSet ch => Sys2Proof.Machine.execJunctionLatchSet ch s
  | .junctionLatchClear ch => Sys2Proof.Machine.execJunctionLatchClear ch s
  | .lampPeriodStart ch => Sys2Proof.Machine.execLampPeriodStart ch s
  | .sectionVoltageFilter sec vMs => Sys2Proof.Machine.execSectionVoltageFilter sec vMs s
  | .openLoadDetect ch => Sys2Proof.Machine.execOpenLoadDetect ch s
  | .dioInputEdge ch pin overrun => Sys2Proof.Machine.execDioInputEdge ch pin overrun s
  | .doCmd ch value => Sys2Proof.Machine.execDoCmd ch value s
  | .dioOutputOverload ch => Sys2Proof.Machine.execDioOutputOverload ch s
  | .dioOverloadRetry target => Sys2Proof.Machine.execDioOverloadRetry target s
  | .dioGroupOvercurrent grp => Sys2Proof.Machine.execDioGroupOvercurrent grp s
  | .dioMismatchDetect ch => Sys2Proof.Machine.execDioMismatchDetect ch s
  | .barrierFrame grp good => Sys2Proof.Machine.execBarrierFrame grp good s
  | .groupSilence grp => Sys2Proof.Machine.execGroupSilence grp s
  | .measurementEdge noiseRise signals => Sys2Proof.Machine.execMeasurementEdge noiseRise signals s
  | .rawSetComplete records => Sys2Proof.Machine.execRawSetComplete records s
  | .solutionComplete sol => Sys2Proof.Machine.execSolutionComplete sol s
  | .navWordDecoded word => Sys2Proof.Machine.execNavWordDecoded word s
  | .rtcmFrame udp frame => Sys2Proof.Machine.execRtcmFrame udp frame s
  | .rtcmIn org block => Sys2Proof.Machine.execRtcmIn org block s
  | .rtcmDatagram data => Sys2Proof.Machine.execRtcmDatagram data s
  | .correctionsLapse => Sys2Proof.Machine.execCorrectionsLapse s
  | .clockCorrectionUpdate ppt => Sys2Proof.Machine.execClockCorrectionUpdate ppt s
  | .timeSolutionLoss => Sys2Proof.Machine.execTimeSolutionLoss s
  | .ppsLeadingEdge p => Sys2Proof.Machine.execPpsLeadingEdge p s
  | .ppsTrailingEdge p => Sys2Proof.Machine.execPpsTrailingEdge p s
  | .antennaBiasOpen ant => Sys2Proof.Machine.execAntennaBiasOpen ant s
  | .antennaBiasShort ant => Sys2Proof.Machine.execAntennaBiasShort ant s
  | .antennaBiasRetry ant holds => Sys2Proof.Machine.execAntennaBiasRetry ant holds s
  | .gnssBurst burst => Sys2Proof.Machine.execGnssBurst burst s
  | .cam0FrameStart vsyncNs => Sys2Proof.Machine.execCam0FrameStart vsyncNs s
  | .cam0FrameEnd format rows => Sys2Proof.Machine.execCam0FrameEnd format rows s
  | .rvfPacket cam p => Sys2Proof.Machine.execRvfPacket cam p s
  | .memoryPipeTake => Sys2Proof.Machine.execMemoryPipeTake s
  | .frameProcessed cam => Sys2Proof.Machine.execFrameProcessed cam s
  | .cameraLost cam => Sys2Proof.Machine.execCameraLost cam s
  | .pictureCoded cam p => Sys2Proof.Machine.execPictureCoded cam p s
  | .codedRecordFlush => Sys2Proof.Machine.execCodedRecordFlush s
  | .fusionCycle => Sys2Proof.Machine.execFusionCycle s
  | .fusionCycleComplete ego => Sys2Proof.Machine.execFusionCycleComplete ego s
  | .fusionCycleLost => Sys2Proof.Machine.execFusionCycleLost s
  | .lidarDatagram n data => Sys2Proof.Machine.execLidarDatagram n data s
  | .egoCoastExpiry => Sys2Proof.Machine.execEgoCoastExpiry s
  | .tileDetectionsComplete src sourceEpoch found => Sys2Proof.Machine.execTileDetectionsComplete src sourceEpoch found s
  | .canFrameReceived port frame sofNs => Sys2Proof.Machine.execCanFrameReceived port frame sofNs s
  | .canFrameTransmitted port outcome => Sys2Proof.Machine.execCanFrameTransmitted port outcome s
  | .canFrameLifetimeExpiry port => Sys2Proof.Machine.execCanFrameLifetimeExpiry port s
  | .txSubmit org port block => Sys2Proof.Machine.execTxSubmit org port block s
  | .addressClaimReceived port name addr => Sys2Proof.Machine.execAddressClaimReceived port name addr s
  | .claimSettleExpiry port => Sys2Proof.Machine.execClaimSettleExpiry port s
  | .busOff port tec rec => Sys2Proof.Machine.execBusOff port tec rec s
  | .recover org port value => Sys2Proof.Machine.execRecover org port value s
  | .recoveryComplete port => Sys2Proof.Machine.execRecoveryComplete port s
  | .timeReferenceMessage port => Sys2Proof.Machine.execTimeReferenceMessage port s
  | .canTimingWrite org port writes => Sys2Proof.Machine.execCanTimingWrite org port writes s
  | .filterList org port block => Sys2Proof.Machine.execFilterList org port block s
  | .ethLinkChange port up => Sys2Proof.Machine.execEthLinkChange port up s
  | .udpDatagram d => Sys2Proof.Machine.execUdpDatagram d s
  | .arpRequest port target => Sys2Proof.Machine.execArpRequest port target s
  | .icmpEchoRequest port src dst data => Sys2Proof.Machine.execIcmpEchoRequest port src dst data s
  | .gptpSync port => Sys2Proof.Machine.execGptpSync port s
  | .gptpPeerDelayRequest port rxNs => Sys2Proof.Machine.execGptpPeerDelayRequest port rxNs s
  | .foreignAnnounce port => Sys2Proof.Machine.execForeignAnnounce port s
  | .ethFrameDiscarded port => Sys2Proof.Machine.execEthFrameDiscarded port s
  | .helloSend => Sys2Proof.Machine.execHelloSend s
  | .helloReceived f h => Sys2Proof.Machine.execHelloReceived f h s
  | .fabricLinkTimeout f => Sys2Proof.Machine.execFabricLinkTimeout f s
  | .moduleRecordTimeout identity => Sys2Proof.Machine.execModuleRecordTimeout identity s
  | .settlingEnd => Sys2Proof.Machine.execSettlingEnd s
  | .numberHoldExpiry m => Sys2Proof.Machine.execNumberHoldExpiry m s
  | .jopRequestFrame f frame => Sys2Proof.Machine.execJopRequestFrame f frame s
  | .jopResponseFrame f frame => Sys2Proof.Machine.execJopResponseFrame f frame s
  | .otherFabricPortFrame f => Sys2Proof.Machine.execOtherFabricPortFrame f s
  | .updPkg org block => Sys2Proof.Machine.execUpdPkg org block s
  | .buildComplete b => Sys2Proof.Machine.execBuildComplete b s
  | .buildHeld b => Sys2Proof.Machine.execBuildHeld b s
  | .buildResume b => Sys2Proof.Machine.execBuildResume b s
  | .abort org b value => Sys2Proof.Machine.execAbort org b value s
  | .healthConfirm => Sys2Proof.Machine.execHealthConfirm s
  | .trialWindowEnd => Sys2Proof.Machine.execTrialWindowEnd s
  | .updAccept org value => Sys2Proof.Machine.execUpdAccept org value s
  | .profileSelect org value => Sys2Proof.Machine.execProfileSelect org value s
  | .buildWriteError b => Sys2Proof.Machine.execBuildWriteError b s
  | .measureSample m => Sys2Proof.Machine.execMeasureSample m s
  | .recorderCommit => Sys2Proof.Machine.execRecorderCommit s
  | .commitNow org value => Sys2Proof.Machine.execCommitNow org value s
  | .commitComplete rec => Sys2Proof.Machine.execCommitComplete rec s
  | .recClear org value => Sys2Proof.Machine.execRecClear org value s
  | .measureConfigWrite org writes => Sys2Proof.Machine.execMeasureConfigWrite org writes s
  | .faultBinH org value => Sys2Proof.Machine.execFaultBinH org value s
  | .faceUpdate org block => Sys2Proof.Machine.execFaceUpdate org block s
  | .panelRailsUp panel => Sys2Proof.Machine.execPanelRailsUp panel s
  | .panelFrame panel => Sys2Proof.Machine.execPanelFrame panel s
  | .railIdleExpiry panel => Sys2Proof.Machine.execRailIdleExpiry panel s
  | .dxp60Detected vcomMv => Sys2Proof.Machine.execDxp60Detected vcomMv s
  | .dxp60Lost => Sys2Proof.Machine.execDxp60Lost s
  | .pllWindow pll driftPs => Sys2Proof.Machine.execPllWindow pll driftPs s
  | .pllReturn pll => Sys2Proof.Machine.execPllReturn pll s
  | .hearthPpbMeasurement ppb => Sys2Proof.Machine.execHearthPpbMeasurement ppb s
  | .gateEnable org node value => Sys2Proof.Machine.execGateEnable org node value s
  | .gateClosed node => Sys2Proof.Machine.execGateClosed node s
  | .housekeepingSlot slot r => Sys2Proof.Machine.execHousekeepingSlot slot r s
  | .derateStep => Sys2Proof.Machine.execDerateStep s
  | .emberSensorRead hearth mram => Sys2Proof.Machine.execEmberSensorRead hearth mram s
  | .fnDemandEvaluation => Sys2Proof.Machine.execFnDemandEvaluation s
  | .faultDetected fcode unit => Sys2Proof.Machine.execFaultDetected fcode unit s
  | .faultHandlerTake => Sys2Proof.Machine.execFaultHandlerTake s
  | .retryOutcome fcode unit => Sys2Proof.Machine.execRetryOutcome fcode unit s

end Sys2Proof.Machine
end

