-- ==== Sys2Proof/Machine/Step.lean ====
section
/-! DEFINITION. One step: the command at the front of the queue is executed. -/

namespace Sys2Proof.Machine

/-- Takes the command at the front of the queue and executes it with the rest of the queue. On an empty queue the module
waits: time passes only by commands (EPOCH_EDGE, WHEEL_SLOT, SHAPER_TICK and the other time-driven rows).
[DESIGN CHOICE: log 1] -/
def step (s : State) : Host.Outcome State Fault Refusal :=
  match s.pending with
  | [] => .next s
  | c :: rest => exec c { s with pending := rest }

/-- The state with the command a word spells put in front; no word spells one.
[DESIGN CHOICE: log 1; DESIGN CHOICE: log 2] -/
def State.withFetchWord (s : State) (nbits w : Nat) : State :=
  match decodeTableWord nbits w with
  | some c => { s with pending := c :: s.pending }
  | none => s

end Sys2Proof.Machine
end

