-- ==== Sys2Proof/Safety.lean ====
section
/-! DEFINITION. What claims speak of: the keeper's invariant, an event handed to an idle handler, objects left alone. -/

namespace Sys2Proof.Machine

/-! ## The epoch keeper -/

/-- Epochs of a list of copies strictly fall: newest first, no epoch twice (R35). -/
def newestFirst : List Copy → Bool
  | [] => true
  | [_] => true
  | a :: b :: t => decide (b.epoch < a.epoch) && newestFirst (b :: t)

/-- The keeper holds at most 64 copies, newest first, none of an epoch still to come, and serves reads from one it holds
(R24, R34, R35). -/
def Keeper.wf (k : Keeper) : Bool :=
  newestFirst k.copies && decide (k.copies.length ≤ 64) && k.copies.all (fun x => decide (x.epoch ≤ k.epoch)) &&
    (match k.servable with
     | none => true
     | some e => k.copies.any fun x => decide (x.epoch = e))

/-- The commands that act on the epoch keeper; every other command leaves it alone. [DEDUCED: log 3] -/
def movesKeeper : Instr → Bool
  | .epochEdge _ | .applicationSetClose | .copyServable | .feedOn _ _ => true
  | _ => false

/-- The chip as a command finds it: what the command before sent out is gone. -/
def State.found (s : State) : Chip := { s.chip with out := [] }

/-! ## Objects -/

/-- Every object outside a list of keys holds what it held. -/
def KeepsObjects (except : List Nat) (c d : Chip) : Prop := ∀ key, key ∉ except → odGet d.od key = odGet c.od key

/-- The objects that an event may change: the handler's counters and log, and the health condition (Table 18.7, R376). -/
def eventKeys : List Nat :=
  [Key.Flt.EVENTS, Key.Flt.PERMANENTS, Key.Flt.QUEUE_DEPTH, Key.Flt.QUEUE_PEAK, Key.Flt.HANDLING, Key.Flt.EVENT_LOG,
   Key.Health.HEALTH, Key.Health.HEALTH_CAUSE]

/-! ## Events (R442–R444) -/

/-- The handler is idle, the instance has no handling, and no health condition is at stake: an event of it is taken at
once. -/
def HandlerFree (c : Chip) (code unit : Nat) : Prop :=
  c.flt.cur = none ∧ handlingOf c code unit = false ∧ c.num Key.Health.HEALTH ≠ 1

/-- The event occupies the handler, and is counted. -/
def Taken (c d : Chip) (code unit : Nat) (injected : Bool) : Prop :=
  (∃ e, d.flt.cur = some e ∧ e.code = code ∧ e.unit = unit ∧ e.sev = severity code unit ∧ e.injected = injected) ∧
    d.num Key.Flt.EVENTS = (c.num Key.Flt.EVENTS + 1) % 0x100000000 ∧ d.num Key.Flt.HANDLING = code

/-! ## Writes (R29, R53, R59, R125) -/

/-- A write is accepted: services run, and its judgement gives OK with a value. -/
def Accepts (s : State) (key : Nat) (way : Way) (data : List Byte) (v : Val) : Prop :=
  served s.chip = true ∧ ∃ c, judgeOne s.keeper s.found key way data = (Rc.OK, v, c)

/-- A write is refused with a code. -/
def Refuses (s : State) (key : Nat) (way : Way) (data : List Byte) (code : Nat) : Prop :=
  served s.chip = true ∧ code ≠ Rc.OK ∧ ∃ v c, judgeOne s.keeper s.found key way data = (code, v, c)

/-- The objects that a write may change before its edge: the last admission, and the count of late writes. -/
def writeKeys : List Nat := [Key.Eng.ADMIT_CODE, Key.Eng.ADMIT_OBJECT, Key.Epoch.LATE_WRITES]

/-- A write has been taken: it is due at the first edge whose set is still open, it is answered with OK, it counts in
LATE_WRITES where the close has moved it (R29), and no object has changed but those of `writeKeys`. -/
def WriteTaken (s t : State) (org : Origin) (key : Nat) (v : Val) : Prop :=
  t.chip.dict.pend = s.chip.dict.pend ++ [⟨openEdge s.keeper, org, key, v⟩] ∧ t.chip.out = [.result Rc.OK []] ∧
    t.chip.num Key.Epoch.LATE_WRITES =
      (if s.keeper.setClosed then (s.chip.num Key.Epoch.LATE_WRITES + 1) % 0x100000000
       else s.chip.num Key.Epoch.LATE_WRITES) ∧
    t.chip.mode = s.chip.mode ∧ KeepsObjects writeKeys s.chip t.chip

/-- The writes of a datagram with their places, keys and own checks. -/
def ownChecks (k : Keeper) (c : Chip) (ws : List (Nat × List Byte)) : List (Nat × Nat × Except Nat Val) :=
  (ws.zip (List.range ws.length)).map fun w => (w.2, w.1.1, checkOwn k c (prospect c) w.1.1 .sdo false w.1.2)

/-- The writes of a datagram that are judged together. -/
def jointWrites (own : List (Nat × Nat × Except Nat Val)) : List (Nat × Cand) :=
  own.filterMap fun w => match w.2.2 with
    | .ok v => if (isJoint w.2.1) then some (w.1, ⟨w.2.1, v⟩) else none
    | .error _ => none

/-- The result of each write of a datagram, in order. -/
def writeResults (k : Keeper) (c : Chip) (ws : List (Nat × List Byte)) : List Nat :=
  let own := ownChecks k c ws
  let j := judgeJoint c (jointWrites own)
  own.map fun w => match w.2.2 with
    | .error e => e
    | .ok _ => (j.result w.1).getD Rc.OK

/-- The writes of a datagram that are accepted, as they become due. -/
def writesDue (k : Keeper) (c : Chip) (org : Origin) (ws : List (Nat × List Byte)) : List Write :=
  let own := ownChecks k c ws
  let j := judgeJoint c (jointWrites own)
  own.filterMap fun w => match w.2.2 with
    | .error _ => none
    | .ok v => if ((j.result w.1).getD Rc.OK = Rc.OK) then some ⟨openEdge k, org, w.2.1, v⟩ else none

/-- The writes of a datagram have been judged together and taken: each has its result, those accepted are due, and no object
has changed but those of `writeKeys` (R29, R53). -/
def JointTaken (s t : State) (org : Origin) (ws : List (Nat × List Byte)) : Prop :=
  t.chip.out = (writeResults s.keeper s.found ws).map (fun r => Output.result r []) ∧
    t.chip.dict.pend = s.chip.dict.pend ++ writesDue s.keeper s.found org ws ∧ t.chip.mode = s.chip.mode ∧
    KeepsObjects writeKeys s.chip t.chip

end Sys2Proof.Machine
end

