-- ==== Sys2Proof/Certificates/Slice0/Obligations.lean ====
section
/-! DEFINITION. The statements given to the provers. "Completes" in a name: each clause's conclusion is the next state that
a command answers, under hypotheses on the state and the operands alone. `s.found` is the chip a command finds, the outputs of
the command before gone; `KeepsObjects l c d` says that every object outside `l` holds what it held. -/

open Sys2Proof Sys2Proof.Machine

/-- A step takes the command at the front of the queue and executes it with the rest of the queue. -/
def Obligations.StepRunsTheFrontCommand : Prop :=
  ∀ (s : State) (c : Instr) (rest : List Instr), s.pending = c :: rest → step s = exec c { s with pending := rest }

/-- With no command waiting a step changes nothing: time passes by commands alone (the model's choice, log entry 1).
-/
def Obligations.StepIdlesOnAnEmptyQueue : Prop := ∀ s : State, s.pending = [] → step s = .next s

/-- No command changes the queue. -/
def Obligations.CommandsLeaveTheQueue : Prop :=
  ∀ (i : Instr) (s t : State), exec i s = .next t → t.pending = s.pending

/-- Only EPOCH_EDGE, APPLICATION_SET_CLOSE, COPY_SERVABLE and FEED_ON act on the epoch keeper. That no other row acts
on it is the model's reading (log entry 3). -/
def Obligations.KeeperFrame : Prop :=
  ∀ (i : Instr) (s t : State), movesKeeper i = false → exec i s = .next t → t.keeper = s.keeper

/-- The table gives its rows no bits: no word spells a command, and none is put in front (log entry 1). -/
def Obligations.NoWordSpellsACommand : Prop :=
  ∀ (s : State) (nbits w : Nat), decodeTableWord nbits w = none ∧ s.withFetchWord nbits w = s

/-- After manufacture the module is OFF, its queue empty, every object at its default (R14), and its keeper holds no
copy; the counter has not started (R24). The empty queue and the counter not yet started are the model's choice (log
entries 2, 23). -/
def Obligations.ResetState : Prop :=
  State.reset.chip.mode = .off ∧ State.reset.pending = [] ∧ State.reset.keeper.wf = true ∧
    odWf State.reset.chip.od = true ∧ (∀ key, odGet State.reset.chip.od key = objDefault key) ∧
    State.reset.chip.modes.born = false

/-- R24, R34, R35: from every state in which it holds, every step keeps the keeper's invariant: at most 64 copies,
newest first with no epoch twice, none of an epoch still to come, and reads served from one of them. That no other row
touches the keeper is the model's reading (log entry 3). -/
def Obligations.KeeperInvariantKept : Prop :=
  ∀ s t : State, s.keeper.wf = true → step s = .next t → t.keeper.wf = true

/-- R24, R31: an edge makes the counter exactly one greater; no other command but FEED_ON changes it. Without feed no
edge counts. That no other row changes it is the model's reading (log entry 3). -/
def Obligations.EpochCountsEdges : Prop :=
  (∀ (s : State) (m : EdgeMeas), s.chip.mode ≠ .off →
    ∃ t, exec (.epochEdge m) s = .next t ∧ t.keeper.epoch = s.keeper.epoch + 1 ∧ t.keeper.setClosed = false ∧
      t.chip.num Key.Epoch.EPOCH_NOW = s.keeper.epoch + 1 ∧
      (t.chip.mode ≠ .off → t.chip.mode ≠ .banked →
        t.keeper.copies = (⟨s.keeper.epoch + 1, t.chip.od⟩ :: s.keeper.copies).take 64)) ∧
  (∀ (s : State) (m : EdgeMeas), s.chip.mode = .off → exec (.epochEdge m) s = .next { s with chip := s.found }) ∧
  (∀ (i : Instr) (s t : State), (∀ m, i ≠ .epochEdge m) → (∀ a b, i ≠ .feedOn a b) → exec i s = .next t →
    t.keeper.epoch = s.keeper.epoch)

/-- R25, R102: after a loss of feed with MRAM writes permitted, FEED_ON starts the counter above every epoch issued
before, counts the resume and records the first new epoch. That the counter restarts at the row FEED_ON is the model's
reading (log entry 39). -/
def Obligations.FeedLossNeverReusesAnEpoch : Prop :=
  ∀ (s : State) (key ten : Bool), s.chip.mode ≠ .off → s.chip.modes.born = true → s.chip.num Key.WrHold.MRAM_WRITE = 0 →
    ∃ t u, exec .feedLoss s = .next t ∧ t.chip.mode = .off ∧ exec (.feedOn key ten) t = .next u ∧
      s.keeper.epoch + 65536 ≤ u.keeper.epoch ∧ u.chip.mode = .kindling

/-- R29, R31, R25, R434: the close of an application set, the serving of a copy, and the save of the counter, which waits
where MRAM writes are not permitted. The microseconds within the epoch are the model's own, and that the saves fall at
multiples of 65,536 is its reading (log entries 4, 39). -/
def Obligations.KeeperCommandsComplete : Prop :=
  (∀ s : State, s.chip.mode ≠ .off → s.chip.mode ≠ .banked → s.keeper.setClosed = false →
    ∃ t, exec .applicationSetClose s = .next t ∧ t.keeper = { s.keeper with setClosed := true } ∧
      openEdge s.keeper = s.keeper.epoch + 1 ∧ openEdge t.keeper = s.keeper.epoch + 2) ∧
  (∀ (s : State) (x : Copy) (l : List Copy), s.keeper.copies = x :: l → x.epoch = s.keeper.epoch →
    exec .copyServable s =
      .next { s with
        keeper := { s.keeper with servable := some x.epoch }
        chip := { s.found with us := max 40 s.chip.us } }) ∧
  (∀ s : State, s.chip.mode ≠ .off → s.keeper.epoch % 65536 = 0 → s.chip.num Key.WrHold.MRAM_WRITE = 0 →
    exec .epochCounterSave s = .next { s with chip := { s.found with modes := { s.chip.modes with
      saveDue := false
      saved := s.keeper.epoch + (if (s.chip.flag Key.WrHold.EPOCH_RESERVE) then 2 ^ 32 else 0) } } }) ∧
  (∀ s : State, s.chip.mode ≠ .off → s.keeper.epoch % 65536 = 0 → s.chip.num Key.WrHold.MRAM_WRITE ≠ 0 →
    exec .epochCounterSave s = .next { s with chip := { s.found with modes := { s.chip.modes with saveDue := true } } })

/-- R21–R23, R32, R92: frames of a drive link that is up. A bad one is counted in DRIVE_CRC_ERRORS and in its direction; a
good one ends the count, and safe values a silence brought stay while the device's ash stands or is on its way; eight
bad ones in a row report the device; twenty silent ones bring its safe values; a marker frame hands the device each of
its commands, in order, and what it then drives is what a HOLD keeps. Which frame hands over which command is the
model's reading (log entry 38). -/
def Obligations.DriveLinkCommandsComplete : Prop :=
  (∀ (s : State) (n : Fin 18) (toDxc : Bool) (l : List (Fin 16 × List Int)), linkUp s.chip n = true →
    s.chip.link.links.length = 18 →
    ∃ t, exec (.driveLinkFrame n toDxc false l) s = .next t ∧
      t.chip.num Key.Flt.DRIVE_CRC_ERRORS = (s.chip.num Key.Flt.DRIVE_CRC_ERRORS + 1) % 0x100000000 ∧
      (linkOf t.chip n).failIn = (linkOf s.chip n).failIn + (if toDxc then 1 else 0) ∧
      (linkOf t.chip n).failOut = (linkOf s.chip n).failOut + (if toDxc then 0 else 1)) ∧
  (∀ (s : State) (n : Fin 18) (l : List (Fin 16 × List Int)), linkUp s.chip n = true → n ≠ 17 →
    armedAt s.chip Key.Inj.DRIVE_CRC n = false →
    exec (.driveLinkFrame n true true l) s =
      .next { s with chip := linkSet s.found n { linkOf s.chip n with failIn := 0 } }) ∧
  (∀ (s : State) (n : Fin 18) (l : List (Fin 16 × List Int)), linkUp s.chip n = true →
    armedAt s.chip Key.Inj.DRIVE_CRC n = false → s.chip.link.links.length = 18 →
    (s.chip.link.now.filter fun m => decide (linkOfKey m.1 = n)) = [] →
    ∃ t, exec (.driveLinkFrame n false true l) s = .next t ∧
      linkOf t.chip n = { linkOf s.chip n with
        failOut := 0, silent := 0, safe := (linkOf s.chip n).safe && dieFailing s.chip (unitDie (n + 1)) } ∧
      t.chip.od = s.chip.od) ∧
  (∀ (s : State) (n : Fin 18), linkUp s.chip n = true →
    (8 ≤ (linkOf s.chip n).failIn ∨ 8 ≤ (linkOf s.chip n).failOut) → ashOwn s.chip (unitDie (n + 1)) = false →
    HandlerFree s.chip 0x1201 (unitDie (n + 1)) →
    ∃ t, exec (.driveLinkFail n) s = .next t ∧ Taken s.chip t.chip 0x1201 (unitDie (n + 1)) false ∧
      KeepsObjects eventKeys s.chip t.chip) ∧
  (∀ (s : State) (n : Fin 18), linkUp s.chip n = true → n.val < 9 → 20 ≤ (linkOf s.chip n).silent →
    (linkOf s.chip n).safe = false →
    exec (.linkSilenceSafe n) s = .next { s with chip :=
      if (n.val < 3) then (valveOverrides s.keeper (linkSet s.found n { linkOf s.chip n with safe := true }))
      else (lsOverrides s.keeper (linkSet s.found n { linkOf s.chip n with safe := true })) }) ∧
  (∀ (s : State) (n : Fin 18) (lost : Fin 8), linkUp s.chip n = true → (linkOf s.chip n).acted = false →
    ashOwn s.chip (unitDie (n + 1)) = false →
    let mine := s.chip.link.edge.filter fun m => decide (linkOfKey m.1 = n)
    let c1 : Chip := { s.found with link := { s.chip.link with
      links := s.chip.link.links.set n { linkOf s.chip n with acted := true }
      edge := s.chip.link.edge.filter fun m => decide (linkOfKey m.1 ≠ n) } }
    let c2 := if 9 ≤ n.val ∧ n.val < 17 then
      grpSet c1 (n - 9) { grpOf c1 (n - 9) with marker := s.keeper.epoch % 65536 } else c1
    let c3 := if mine ≠ [] ∧ lost.val ≠ 0 then c2.bump Key.Epoch.TAKE_DELAYED else c2
    exec (.edgeMarkerFrame n lost) s = .next { s with chip := linkLatch (mine.foldl (deviceTake s.keeper true) c3) n })

/-- R28, R34, R56, R61: reads are served from a latched copy, and their result carries its publication epoch. A READ
answers the value the named copy holds, in the bytes of its type; a read that cannot be served answers its code; a
DOMAIN_SEG read from offset 0 answers the block's first bytes. None of them changes an object. -/
def Obligations.ReadsAreServedFromACopy : Prop :=
  (∀ (s : State) (org : Origin) (copy : Nat) (ix : BitVec 16) (sub ty : BitVec 8) (x : Copy) (o : ObjInfo),
    served s.chip = true → serveCopy s.keeper copy = .ok x → readCheck (mkKey ix.toNat sub.toNat) ty.toNat = .ok o →
    exec (.read org copy ix sub ty) s = .next { s with chip :=
      (s.found.emit (.readResult Rc.OK (serviceEpoch s.keeper copy)
        (valBytes o.ty (odGet x.od (mkKey ix.toNat sub.toNat))))) }) ∧
  (∀ (s : State) (org : Origin) (copy : Nat) (ix : BitVec 16) (sub ty : BitVec 8) (e : Nat),
    served s.chip = true → opRead (serveCopy s.keeper copy) (mkKey ix.toNat sub.toNat) ty.toNat = .error e →
    exec (.read org copy ix sub ty) s = .next { s with chip := s.found.emit (.readResult e (serviceEpoch s.keeper copy) []) }) ∧
  (∀ (s : State) (org : Origin) (copy : Nat) (ix : BitVec 16) (sub : BitVec 8) (most : Nat) (x : Copy) (o : ObjInfo),
    served s.chip = true → serveCopy s.keeper copy = .ok x → segReadCheck (mkKey ix.toNat sub.toNat) 0x0C = .ok o →
    s.chip.dict.frozen.length < 8 → most ≤ 1440 →
    ∃ t, exec (.domainSegRead org copy ix sub 0 most) s = .next t ∧
      t.chip.out = [.readResult Rc.OK (serviceEpoch s.keeper copy) (leBytes 4 0 ++ leBytes 4 (odGet x.od (mkKey ix.toNat sub.toNat)).toBlob.length ++
        (odGet x.od (mkKey ix.toNat sub.toNat)).toBlob.take most)] ∧ t.chip.od = s.chip.od)

/-- R57, R58: a SNAPSHOT of an epoch still to come arms a free slot; its capture holds the entries as that copy had
them; 60 s later the slot is free. That a capture comes by its row alone is the model's choice (log entry 34). -/
def Obligations.SnapshotsComplete : Prop :=
  (∀ (s : State) (org : Origin) (target n : Nat) (entries : List (BitVec 16 × BitVec 8)),
    served s.chip = true → snapCheck entries = Rc.OK → target ≠ 0 → target ≤ wireEpoch (s.keeper.servable.getD 0) + 60000 →
    serveCopy s.keeper target = .error Rc.EPOCH_FUTURE →
    (List.range 8).find? (fun n => s.chip.num (Key.Snap.SNAP_STATE n) = 0) = some n →
    ∃ t, exec (.snapshot org target entries) s = .next t ∧
      t.chip.out = [.result Rc.OK (leBytes 1 n ++ leBytes 6 target)] ∧ t.chip.num (Key.Snap.SNAP_STATE n) = 1 ∧
      t.chip.num (Key.Snap.SNAP_EPOCH n) = target ∧ t.chip.num (Key.Snap.SNAP_COUNT n) = entries.length ∧
      t.chip.num (Key.Snap.SNAP_OWNER n) = originAddr org) ∧
  (∀ (s : State) (n : Fin 8) (x : Copy), s.chip.num (Key.Snap.SNAP_STATE n) = 1 →
    serveCopy s.keeper (s.chip.num (Key.Snap.SNAP_EPOCH n)) = .ok x →
    ∃ t, exec (.snapshotCapture n) s = .next t ∧ t.chip.num (Key.Snap.SNAP_STATE n) = 2 ∧
      t.chip.blob (Key.Snap.SNAP_DATA n) = ((nth s.chip.dict.snaps n {}).entries.zip (nth s.chip.dict.snaps n {}).ashed).flatMap
        (fun e => snapRecord s.found x e.1 e.2) ∧
      KeepsObjects [Key.Snap.SNAP_STATE n, Key.Snap.SNAP_DATA n] s.chip t.chip) ∧
  (∀ (s : State) (n : Fin 8), s.chip.num (Key.Snap.SNAP_STATE n) = 2 →
    (nth s.chip.dict.snaps n {}).taken + 60000 ≤ s.keeper.epoch →
    ∃ t, exec (.snapshotExpiry n) s = .next t ∧ t.chip.num (Key.Snap.SNAP_STATE n) = 0 ∧
      t.chip.num (Key.Snap.SNAP_EPOCH n) = 0 ∧ t.chip.num (Key.Snap.SNAP_COUNT n) = 0 ∧
      t.chip.num (Key.Snap.SNAP_OWNER n) = 0 ∧ t.chip.blob (Key.Snap.SNAP_DATA n) = [])

/-- R66–R71: CORD_OPEN takes a slot in a final state, gives it the next generation and answers its handle; CORD_ADD
keeps a member; CORD_COMMIT fixes its epoch; CORD_ABORT ends it, and 10 s in OPEN end it as CORD_EXPIRED. The position
a refused add answers is the model's reading (log entry 30). -/
def Obligations.CordsComplete : Prop :=
  (∀ (s : State) (org : Origin) (n : Nat), served s.chip = true → modeRuns s.chip.mode = true →
    cordPick s.found = some n →
    ∃ t, exec (.cordOpen org) s = .next t ∧
      t.chip.num (Key.Cord.CORD_STATE n) = 1 ∧
      t.chip.num (Key.Cord.CORD_GEN n) = (s.chip.num (Key.Cord.CORD_GEN n) + 1) % 256 ∧
      t.chip.num (Key.Cord.CORD_COUNT n) = 0 ∧ t.chip.num (Key.Cord.CORD_FAIL_MEMBER n) = 0xFF ∧
      t.chip.out = [.result Rc.OK (leBytes 2 (cordHandle t.chip n))]) ∧
  (∀ (s : State) (org : Origin) (h ix : BitVec 16) (sub ty : BitVec 8) (data : List Byte) (n : Nat) (v : Val),
    served s.chip = true → cordOf s.found h.toNat = some n → n < s.chip.dict.cords.length →
    s.chip.num (Key.Cord.CORD_STATE n) = 1 → (cordX s.chip n).next < 64 →
    checkOwn s.keeper s.found (prospect s.found) (mkKey ix.toNat sub.toNat) (.typed ty.toNat) true data = .ok v →
    ∃ t, exec (.cordAdd org h ix sub ty data) s = .next t ∧
      t.chip.out = [.result Rc.OK (leBytes 1 (cordX s.chip n).next)] ∧
      (cordX t.chip n).members = (cordX s.chip n).members ++ [⟨(cordX s.chip n).next, mkKey ix.toNat sub.toNat, v⟩] ∧
      t.chip.num (Key.Cord.CORD_COUNT n) = (cordX s.chip n).members.length + 1 ∧
      KeepsObjects [Key.Cord.CORD_COUNT n] s.chip t.chip) ∧
  (∀ (s : State) (h : BitVec 16) (e n : Nat), served s.chip = true → modeRuns s.chip.mode = true →
    cordOf s.found h.toNat = some n → s.chip.num (Key.Cord.CORD_STATE n) = 1 → (cordX s.chip n).poison = none →
    openEdge s.keeper ≤ e → e ≤ s.keeper.servable.getD 0 + 60000 →
    ∃ t, exec (.cordCommit h e) s = .next t ∧ t.chip.num (Key.Cord.CORD_STATE n) = 2 ∧
      t.chip.num (Key.Cord.CORD_COMMIT_EPOCH n) = wireEpoch e ∧ t.chip.out = [.result Rc.OK (leBytes 6 e)] ∧
      KeepsObjects [Key.Cord.CORD_STATE n, Key.Cord.CORD_COMMIT_EPOCH n] s.chip t.chip) ∧
  (∀ (s : State) (h : BitVec 16) (n : Nat), served s.chip = true → cordOf s.found h.toNat = some n →
    (s.chip.num (Key.Cord.CORD_STATE n) = 1 ∨ s.chip.num (Key.Cord.CORD_STATE n) = 2) →
    ∃ t, exec (.cordAbort h) s = .next t ∧ t.chip.num (Key.Cord.CORD_STATE n) = 6 ∧
      t.chip.num (Key.Cord.CORD_RESULT n) = Rc.OK ∧ t.chip.out = [.result Rc.OK []] ∧
      KeepsObjects [Key.Cord.CORD_STATE n, Key.Cord.CORD_RESULT n] s.chip t.chip) ∧
  (∀ (s : State) (n : Fin 32), s.chip.num (Key.Cord.CORD_STATE n) = 1 → (cordX s.chip n).opened + 10000 ≤ s.keeper.epoch →
    ∃ t, exec (.cordExpired n) s = .next t ∧ t.chip.num (Key.Cord.CORD_STATE n) = 6 ∧
      t.chip.num (Key.Cord.CORD_RESULT n) = Rc.CORD_EXPIRED ∧
      KeepsObjects [Key.Cord.CORD_STATE n, Key.Cord.CORD_RESULT n] s.chip t.chip)

/-- R61–R63: the first segment of a DOMAIN write opens a transfer for its source and changes no object; 10 s without a
segment discard it, and 10 s after its last segment frozen content is released. -/
def Obligations.DomainTransfersComplete : Prop :=
  (∀ (s : State) (org : Origin) (ix : BitVec 16) (sub : BitVec 8) (data : List Byte) (o : ObjInfo), served s.chip = true →
    checkAccess s.found (mkKey ix.toNat sub.toNat) false = .ok o → o.ty = .domain →
    s.chip.dict.transfers.find? (·.key = mkKey ix.toNat sub.toNat) = none →
    mkKey ix.toNat sub.toNat ≠ Key.Upd.UPD_PKG →
    ∃ t, exec (.domainSegWrite org ix sub 0 data false) s = .next t ∧ t.chip.out = [.result Rc.OK []] ∧
      t.chip.od = s.chip.od ∧ ⟨org, mkKey ix.toNat sub.toNat, data, s.keeper.epoch⟩ ∈ t.chip.dict.transfers) ∧
  (∀ (s : State) (ix : BitVec 16) (sub : BitVec 8) (x : Transfer),
    s.chip.dict.transfers.find? (·.key = mkKey ix.toNat sub.toNat) = some x → x.last + 10000 ≤ s.keeper.epoch →
    exec (.domainTransferIdle ix sub) s = .next { s with chip := { s.found with dict := { s.chip.dict with
      transfers := s.chip.dict.transfers.filter fun y => decide (y.key ≠ mkKey ix.toNat sub.toNat) } } }) ∧
  (∀ (s : State) (org : Origin) (ix : BitVec 16) (sub : BitVec 8) (x : Frozen),
    s.chip.dict.frozen.find? (fun f => decide (f.org = org ∧ f.key = mkKey ix.toNat sub.toNat)) = some x →
    x.last + 10000 ≤ s.keeper.epoch →
    exec (.frozenReadExpiry org ix sub) s = .next { s with chip := { s.found with dict := { s.chip.dict with
      frozen := s.chip.dict.frozen.filter fun f => decide ¬(f.org = org ∧ f.key = mkKey ix.toNat sub.toNat) } } })

/-- R61, R64, R65: the SDO server on CAN0. An upload of a value of 1 to 4 bytes is answered at once and names its copy in
SDO_READ_EPOCH; a DOMAIN object, which only DOMAIN_SEG moves, is not uploaded; segments follow their toggle; a download
ends in one write; a gap of more than 1,000 ms aborts. The bytes of the protocol are those of CiA 301, and an upload of SDO_READ_EPOCH is the model's reading (log entries 35,
36). -/
def Obligations.SdoServerCompletes : Prop :=
  (∀ (s : State) (ix : BitVec 16) (sub : BitVec 8) (o : ObjInfo) (x : Copy), sdoServed s.found = true →
    objInfo (mkKey ix.toNat sub.toNat) = some o → o.acc ≠ .wo → o.ty ≠ .domain → serveCopy s.keeper 0 = .ok x →
    mkKey ix.toNat sub.toNat ≠ Key.Epoch.SDO_READ_EPOCH →
    let b := valBytes o.ty (odGet x.od (mkKey ix.toNat sub.toNat))
    1 ≤ b.length → b.length ≤ 4 →
    ∃ t, exec (.sdoUploadInitiate ix sub) s = .next t ∧ t.chip.num Key.Epoch.SDO_READ_EPOCH = wireEpoch x.epoch ∧
      t.chip = (sdoSend s.keeper (sdoSet s.found .idle)
        (leBytes 1 (0x43 + 4 * (4 - b.length)) ++ sdoName (mkKey ix.toNat sub.toNat) ++ b)).put
          Key.Epoch.SDO_READ_EPOCH (wireEpoch x.epoch)) ∧
  (∀ (s : State) (ix : BitVec 16) (sub : BitVec 8) (o : ObjInfo) (x : Copy), sdoServed s.found = true →
    objInfo (mkKey ix.toNat sub.toNat) = some o → o.acc ≠ .wo → o.ty = .domain → serveCopy s.keeper 0 = .ok x →
    exec (.sdoUploadInitiate ix sub) s = .next { s with chip := (sdoAbort s.keeper (sdoSet s.found .idle)
      (mkKey ix.toNat sub.toNat) (sdoAbortCode Rc.TYPE_MISMATCH (mkKey ix.toNat sub.toNat))) }) ∧
  (∀ (s : State) (tog : Bool) (key copy last : Nat) (rest : List Byte), sdoServed s.found = true →
    s.chip.dict.sdo = .up key rest tog copy last → 7 < rest.length →
    ∃ t, exec (.sdoUploadSegment tog) s = .next t ∧ t.chip.dict.sdo = .up key (rest.drop 7) (!tog) copy s.keeper.epoch ∧
      t.chip = sdoSet (sdoSend s.keeper s.found (leBytes 1 (if tog then 0x10 else 0) ++ rest.take 7))
        (.up key (rest.drop 7) (!tog) copy s.keeper.epoch)) ∧
  (∀ (s : State) (ix : BitVec 16) (sub : BitVec 8) (o : ObjInfo) (size : Option Nat), sdoServed s.found = true →
    checkAccess (sdoSet s.found .idle) (mkKey ix.toNat sub.toNat) false = .ok o → o.ty ≠ .domain →
    exec (.sdoDownloadInitiate ix sub none size) s = .next { s with chip :=
      (sdoSend s.keeper (sdoSet s.found (.down (mkKey ix.toNat sub.toNat) [] size false s.keeper.epoch))
        (leBytes 1 0x60 ++ sdoName (mkKey ix.toNat sub.toNat))) }) ∧
  (∀ (s : State) (ix : BitVec 16) (sub : BitVec 8) (o : ObjInfo) (b : List Byte) (v : Val) (c : Chip),
    sdoServed s.found = true → checkAccess (sdoSet s.found .idle) (mkKey ix.toNat sub.toNat) false = .ok o →
    o.ty ≠ .domain → judgeOne s.keeper (sdoSet s.found .idle) (mkKey ix.toNat sub.toNat) .sdo b = (Rc.OK, v, c) →
    exec (.sdoDownloadInitiate ix sub (some b) none) s = .next { s with chip :=
      (sdoSend s.keeper (takeWrite s.keeper c .sdo (mkKey ix.toNat sub.toNat) v)
        (leBytes 1 0x60 ++ sdoName (mkKey ix.toNat sub.toNat))) }) ∧
  (∀ (s : State) (tog : Bool) (key last : Nat) (got data : List Byte) (size : Option Nat), sdoServed s.found = true →
    s.chip.dict.sdo = .down key got size tog last →
    exec (.sdoDownloadSegment tog data false) s = .next { s with chip :=
      (sdoSend s.keeper (sdoSet s.found (.down key (got ++ data) size (!tog) s.keeper.epoch))
        (leBytes 1 (0x20 + if tog then 0x10 else 0))) }) ∧
  (∀ (s : State) (key copy last : Nat) (rest : List Byte) (tog : Bool), s.chip.dict.sdo = .up key rest tog copy last →
    last + 1000 < s.keeper.epoch →
    exec .sdoSegmentTimeout s = .next { s with chip :=
      (sdoSend s.keeper (sdoSet s.found .idle) (leBytes 1 0x80 ++ sdoName key ++ leBytes 4 0x05040000)) })

/-- R49–R55: a JOP datagram for this module whose header and operations are sound is executed and answered in one
response that carries its SEQ and the service epoch; a repeat of the last one is answered again without being
executed. The order of refusals is the model's reading (log entry 31). -/
def Obligations.JopDatagramsAreAnswered : Prop :=
  (∀ (s : State) (addr : BitVec 32) (port : BitVec 16) (ahead : Nat) (data : List Byte) (h : JopHead) (ops : List JopOp),
    served s.chip = true → jopHead data = some h → ahead + h.count ≤ 2000 →
    parseOps h.count (data.drop 16) = some ops → jopRefused h (some ops) false = false → h.target = 0 →
    bitOf h.flags 6 = false →
    s.chip.dict.kept.find? (fun q => decide (q.addr = addr ∧ q.port = port ∧ q.seq = h.seq)) = none →
    let c := (s.found.bump Key.Jop.JOP_DATAGRAMS).put Key.Load.JOP_QUEUED (ahead + h.count)
    let r := runOps s.keeper c (.jop addr port) h.epoch ops
    let resp := jopResponse (fabNumber r.1) h.seq (serviceEpoch s.keeper h.epoch) false r.2
    exec (.jopDatagram addr port ahead data) s =
      .next { s with chip := (keptPut r.1 ⟨addr, port, h.seq, some resp⟩).emit (.jop addr port resp) }) ∧
  (∀ (s : State) (addr : BitVec 32) (port : BitVec 16) (ahead : Nat) (data resp : List Byte) (h : JopHead)
    (ops : List JopOp) (e : Kept), served s.chip = true → jopHead data = some h → ahead + h.count ≤ 2000 →
    parseOps h.count (data.drop 16) = some ops → jopRefused h (some ops) false = false → h.target = 0 →
    s.chip.dict.kept.find? (fun q => decide (q.addr = addr ∧ q.port = port ∧ q.seq = h.seq)) = some e →
    e.resp = some resp →
    ∃ t, exec (.jopDatagram addr port ahead data) s = .next t ∧ t.chip.out = [.jop addr port resp] ∧
      t.chip.num Key.Jop.JOP_REPEATS = (s.chip.num Key.Jop.JOP_REPEATS + 1) % 0x100000000 ∧
      KeepsObjects [Key.Jop.JOP_DATAGRAMS, Key.Load.JOP_QUEUED, Key.Jop.JOP_REPEATS] s.chip t.chip)

/-- R52: a list of operations with data of fewer than 65,536 bytes each reads back from its bytes, whatever the
operations are: no field is dropped, and exactly those operations are found. -/
def Obligations.JopOperationsRoundTrip : Prop :=
  ∀ ops : List JopOp, (∀ o ∈ ops, o.data.length < 65536) → parseOps ops.length (ops.flatMap opBytes) = some ops

/-- R8: a number of k bytes reads back from its little-endian bytes, and the bytes of a number read are those written.
-/
def Obligations.LittleEndianRoundTrip : Prop :=
  (∀ (k n : Nat), n < 256 ^ k → ofLeBytes (leBytes k n) = n) ∧ (∀ b : List Byte, leBytes b.length (ofLeBytes b) = b)

/-- R24, R25, R82, R102: FEED_ON begins KINDLING at K0 with the counter at 0 the first time, later at the last value
saved plus 65,536; FEED_LOW decides BANKED and is counted; FEED_LOSS turns the module OFF at once; FEED_RESTORED notes
the good feed and changes nothing else. That the counter restarts at the row FEED_ON, and when BANKED is entered, is
the model's reading (log entries 39, 40). -/
def Obligations.FeedCommandsComplete : Prop :=
  (∀ (s : State) (key ten : Bool), s.chip.mode = .off →
    ∃ t, exec (.feedOn key ten) s = .next t ∧ t.chip.mode = .kindling ∧ t.chip.modes.reached = 0 ∧
      t.chip.modes.key = key ∧ t.chip.modes.feedGood = ten ∧ t.chip.modes.born = true ∧
      t.keeper = { epoch := if s.chip.modes.born then s.chip.modes.saved + 65536 else 0 }) ∧
  (∀ s : State, modeRuns s.chip.mode = true ∨ s.chip.mode = .safe →
    ∃ t, exec .feedLow s = .next t ∧ t.chip.modes.feedGood = false ∧
      t.chip.modes.bankDue = s.chip.modes.bankDue.or (some (bankAt s.keeper s.chip)) ∧
      t.chip.num Key.Wake.LOW_FEED_COUNT = (s.chip.num Key.Wake.LOW_FEED_COUNT + 1) % 0x100000000 ∧
      t.chip.mode = s.chip.mode ∧ KeepsObjects [Key.Wake.LOW_FEED_COUNT] s.chip t.chip) ∧
  (∀ s : State, s.chip.mode ≠ .off →
    ∃ t, exec .feedLoss s = .next t ∧ t.chip.mode = .off ∧ t.chip.modes.feedGood = false ∧ t.chip.modes.key = false ∧
      t.chip.modes.bankDue = none ∧ t.chip.modes.safeDue = []) ∧
  (∀ s : State, s.chip.mode ≠ .off →
    exec .feedRestored s = .next { s with chip := { s.found with modes := { s.chip.modes with feedGood := true } } })

/-- R87, R88, R89: a KINDLING step that can end does its work and begins the next one; K9 leaves the handover for the
next edge; a step whose detector reports a permanent fault of severity SAFE does not end. That a step's fault is
permanent and holds the step is the model's reading (log entry 47). -/
def Obligations.KindlingStepsAdvance : Prop :=
  (∀ (s : State) (f : KindlingFinding) (n : Nat), s.chip.mode = .kindling → s.chip.modes.exitDue = false →
    s.chip.modes.bankDue = none → kindlingFailing s.found = false → s.chip.num Key.Kindling.KINDLING_STEP = n → n ≠ 0 →
    n ≠ 9 → kindlingFailing (stepFault s.keeper (stepWork s.keeper s.found f n) f) = false →
    exec (.kindlingStepEnd f) s = .next { s with chip :=
      (stepBegin s.keeper (stepFault s.keeper (stepWork s.keeper s.found f n) f) (n + 1)) }) ∧
  (∀ (s : State) (f : KindlingFinding), s.chip.mode = .kindling → s.chip.modes.exitDue = false →
    s.chip.modes.bankDue = none → kindlingFailing s.found = false → s.chip.num Key.Kindling.KINDLING_STEP = 9 →
    f.fault = none →
    ∃ t, exec (.kindlingStepEnd f) s = .next t ∧ t.chip.num Key.Kindling.KINDLING_STEP = 10 ∧ t.chip.modes.exitDue = true ∧
      t.chip.mode = .kindling ∧ KeepsObjects [Key.Kindling.KINDLING_STEP] s.chip t.chip)

/-- R90: at a deadline edge without a heartbeat HB_MISSES counts, and SAFE for cause 1 is decided for the next edge;
the mode itself does not change before it. -/
def Obligations.HeartbeatMissDecidesSafe : Prop :=
  ∀ (s : State) (d : Nat), modeRuns s.chip.mode = true → s.chip.modes.deadline = some d → d ≤ s.keeper.epoch →
    ∃ t, exec .heartbeatMiss s = .next t ∧
      t.chip.num Key.Hb.HB_MISSES = (s.chip.num Key.Hb.HB_MISSES + 1) % 0x100000000 ∧
      t.chip.modes = { s.chip.modes with
        safeDue := s.chip.modes.safeDue ++ [⟨s.keeper.epoch + 1, 1, 0, false⟩], deadline := none } ∧
      t.chip.mode = s.chip.mode ∧ KeepsObjects [Key.Hb.HB_MISSES] s.chip t.chip

/-- R98, R99: wake sources and the key. An active key input in BANKED is held as a wake event; a wake-up pattern and
the wake timer are held where WAKE_ENABLE lets them; the key-off delay decides BANKED. That a key active at the entry
is held at once is the model's reading (log entry 40). -/
def Obligations.WakeCommandsComplete : Prop :=
  (∀ s : State, s.chip.mode ≠ .off → s.chip.modes.key = false →
    ∃ t, exec (.keyInputChange true) s = .next t ∧ t.chip.modes.key = true ∧ t.chip.num Key.Wake.REMOTE_WAKE = 0 ∧
      (s.chip.mode = .banked → t.chip.modes.held = heldWith s.chip.modes.held 1) ∧
      KeepsObjects [Key.Wake.REMOTE_WAKE] s.chip t.chip) ∧
  (∀ s : State, s.chip.mode ≠ .off → s.chip.modes.key = true →
    ∃ t, exec (.keyInputChange false) s = .next t ∧ t.chip.modes.key = false ∧ t.chip.modes.keyOff = s.keeper.epoch ∧
      t.chip.od = s.chip.od) ∧
  (∀ s : State, (modeRuns s.chip.mode = true ∨ s.chip.mode = .safe) → s.chip.modes.key = false →
    keyDelayFrom s.chip + s.chip.num Key.Wake.KEY_OFF_DELAY ≤ s.keeper.epoch →
    exec .keyOffDelayExpiry s = .next { s with chip := { s.found with modes := { s.chip.modes with
      bankDue := s.chip.modes.bankDue.or (some (bankAt s.keeper s.chip)) } } }) ∧
  (∀ s : State, s.chip.mode = .banked → bitOf (s.chip.num Key.Wake.WAKE_ENABLE) 1 = true →
    exec .can0WakePattern s = .next { s with chip := { s.found with modes := { s.chip.modes with
      can0 := true, held := heldWith s.chip.modes.held 2 } } }) ∧
  (∀ s : State, s.chip.mode = .banked → bitOf (s.chip.num Key.Wake.WAKE_ENABLE) 2 = true →
    s.chip.num Key.Wake.WAKE_TIMER ≠ 0 → s.keeper.epoch % 1000 = 0 →
    s.chip.num Key.Wake.BANKED_EPOCH + 1000 * s.chip.num Key.Wake.WAKE_TIMER ≤ s.keeper.epoch →
    exec .wakeTimerExpiry s = .next { s with chip := { s.found with modes := { s.chip.modes with
      held := heldWith s.chip.modes.held 3 } } }) ∧
  (∀ (s : State) (a : Nat), s.chip.pwr.coolAt = some a → s.chip.num Key.Therm.THERMAL_STAGE = 3 →
    thermalSafe s.chip = true → a + 30000 ≤ s.keeper.epoch + 1 →
    exec .thermalResume s = .next { s with chip := { s.found with modes := { s.chip.modes with
      resumeDue := some (s.keeper.epoch + 1) } } })

/-- R94: whatever mode was requested, a decided BANKED is entered at its edge, whether SAFE is due or not; a decided
SAFE is entered at its edge where BANKED is not due. The order of the two is the model's reading (log entry 45). -/
def Obligations.ModePriorityAtAnEdge : Prop :=
  (∀ (k : Keeper) (c : Chip) (req : Option Nat), bankDueAt k c = true → (modeEdge k c req).mode = .banked) ∧
  (∀ (k : Keeper) (c : Chip) (req : Option Nat), bankDueAt k c = false → safeDueAt k c ≠ [] → c.mode ≠ .safe →
    (modeEdge k c req).mode = .safe)

/-- R29, R53, R58, R74, R79, R448: a write of any object but HEARTBEAT and RTCM_IN, of SNAP_RELEASE, LW_QUERY, HB_TIMEOUT,
MODE_REQUEST or ASH_CLEAR, that its checks accept is taken: it is due at the first edge whose set is still open, and
until then no object changes but those of `writeKeys`. -/
def Obligations.ServiceWritesComplete : Prop :=
  (∀ (s : State) (org : Origin) (ix : BitVec 16) (sub ty : BitVec 8) (data : List Byte) (v : Val),
    actsAtOnce (mkKey ix.toNat sub.toNat) = false → Accepts s (mkKey ix.toNat sub.toNat) (.typed ty.toNat) data v →
    ∃ t, exec (.write org ix sub ty data) s = .next t ∧ WriteTaken s t org (mkKey ix.toNat sub.toNat) v) ∧
  (∀ (s : State) (org : Origin) (slot : Fin 8) (value : Byte) (v : Val),
    Accepts s (Key.Snap.SNAP_RELEASE slot) .sdo (numBytes (Key.Snap.SNAP_RELEASE slot) value.toNat) v →
    ∃ t, exec (.snapRelease org slot value) s = .next t ∧ WriteTaken s t org (Key.Snap.SNAP_RELEASE slot) v) ∧
  (∀ (s : State) (org : Origin) (value : BitVec 16) (v : Val),
    Accepts s Key.Hb.HB_TIMEOUT .sdo (numBytes Key.Hb.HB_TIMEOUT value.toNat) v →
    ∃ t, exec (.hbTimeout org value) s = .next t ∧ WriteTaken s t org Key.Hb.HB_TIMEOUT v) ∧
  (∀ (s : State) (org : Origin) (value : BitVec 32) (v : Val),
    Accepts s Key.Lw.LW_QUERY .sdo (numBytes Key.Lw.LW_QUERY value.toNat) v →
    ∃ t, exec (.lwQuery org value) s = .next t ∧ WriteTaken s t org Key.Lw.LW_QUERY v) ∧
  (∀ (s : State) (org : Origin) (value : Byte) (v : Val),
    Accepts s Key.Mode.MODE_REQUEST .sdo (numBytes Key.Mode.MODE_REQUEST value.toNat) v →
    ∃ t, exec (.modeRequest org value) s = .next t ∧ WriteTaken s t org Key.Mode.MODE_REQUEST v) ∧
  (∀ (s : State) (org : Origin) (unit : BitVec 32) (v : Val),
    Accepts s Key.Flt.ASH_CLEAR .sdo (numBytes Key.Flt.ASH_CLEAR unit.toNat) v →
    ∃ t, exec (.ashClear org unit) s = .next t ∧ WriteTaken s t org Key.Flt.ASH_CLEAR v)

/-- R29, R148, R170, R180, R187, R189, R192: accepted writes of MODE_REQ, MAP_NUMBER, CROP, MAP_DELETE, ENGAGE_CMD,
GUIDE_ENABLE, LINE_DELETE and LINE_DATA are taken, due at the first edge whose set is still open. -/
def Obligations.FieldWritesComplete : Prop :=
  (∀ (s : State) (org : Origin) (slot : Fin 30) (value : Byte) (v : Val),
    Accepts s (Key.Slot.MODE_REQ slot) .sdo (numBytes (Key.Slot.MODE_REQ slot) value.toNat) v →
    ∃ t, exec (.modeReq org slot value) s = .next t ∧ WriteTaken s t org (Key.Slot.MODE_REQ slot) v) ∧
  (∀ (s : State) (org : Origin) (value : BitVec 16) (v : Val),
    Accepts s Key.Map.MAP_NUMBER .sdo (numBytes Key.Map.MAP_NUMBER value.toNat) v →
    ∃ t, exec (.mapNumber org value) s = .next t ∧ WriteTaken s t org Key.Map.MAP_NUMBER v) ∧
  (∀ (s : State) (org : Origin) (value : Byte) (v : Val),
    Accepts s Key.Map.CROP .sdo (numBytes Key.Map.CROP value.toNat) v →
    ∃ t, exec (.crop org value) s = .next t ∧ WriteTaken s t org Key.Map.CROP v) ∧
  (∀ (s : State) (org : Origin) (value : BitVec 16) (v : Val),
    Accepts s Key.Map.MAP_DELETE .sdo (numBytes Key.Map.MAP_DELETE value.toNat) v →
    ∃ t, exec (.mapDelete org value) s = .next t ∧ WriteTaken s t org Key.Map.MAP_DELETE v) ∧
  (∀ (s : State) (org : Origin) (value : Byte) (v : Val),
    Accepts s Key.Guide.ENGAGE_CMD .sdo (numBytes Key.Guide.ENGAGE_CMD value.toNat) v →
    ∃ t, exec (.engageCmd org value) s = .next t ∧ WriteTaken s t org Key.Guide.ENGAGE_CMD v) ∧
  (∀ (s : State) (org : Origin) (value : Byte) (v : Val),
    Accepts s Key.Guide.GUIDE_ENABLE .sdo (numBytes Key.Guide.GUIDE_ENABLE value.toNat) v →
    ∃ t, exec (.guideEnable org value) s = .next t ∧ WriteTaken s t org Key.Guide.GUIDE_ENABLE v) ∧
  (∀ (s : State) (org : Origin) (value : Byte) (v : Val),
    Accepts s Key.Line.LINE_DELETE .sdo (numBytes Key.Line.LINE_DELETE value.toNat) v →
    ∃ t, exec (.lineDelete org value) s = .next t ∧ WriteTaken s t org Key.Line.LINE_DELETE v) ∧
  (∀ (s : State) (org : Origin) (block : List Byte) (v : Val), Accepts s Key.Line.LINE_DATA .seg block v →
    ∃ t, exec (.lineData org block) s = .next t ∧ WriteTaken s t org Key.Line.LINE_DATA v)

/-- R29, R63, R211, R266, R336, R341, R344, R372, R404: accepted blocks for CODE, TX_SUBMIT, FILTER_LIST, UPD_PKG and
FACE_UPDATE, and accepted writes of RECOVER, are taken, due at the first edge whose set is still open; the bytes of an
accepted block for RTCM_IN are parsed at once. -/
def Obligations.BlockWritesComplete : Prop :=
  (∀ (s : State) (org : Origin) (program : Fin 128) (block : List Byte) (v : Val),
    Accepts s (Key.Prog.CODE program) .seg block v →
    ∃ t, exec (.code org program block) s = .next t ∧ WriteTaken s t org (Key.Prog.CODE program) v) ∧
  (∀ (s : State) (org : Origin) (block : List Byte) (v : Val), Accepts s Key.Rtcm.RTCM_IN .seg block v →
    exec (.rtcmIn org block) s =
      .next { s with chip := (rtcmBytes s.keeper s.found false v.toBlob).emit (.result Rc.OK []) }) ∧
  (∀ (s : State) (org : Origin) (port : Fin 12) (block : List Byte) (v : Val),
    Accepts s (Key.CanX.TX_SUBMIT port) .seg block v →
    ∃ t, exec (.txSubmit org port block) s = .next t ∧ WriteTaken s t org (Key.CanX.TX_SUBMIT port) v) ∧
  (∀ (s : State) (org : Origin) (port : Fin 12) (block : List Byte) (v : Val),
    Accepts s (Key.CanX.FILTER_LIST port) .seg block v →
    ∃ t, exec (.filterList org port block) s = .next t ∧ WriteTaken s t org (Key.CanX.FILTER_LIST port) v) ∧
  (∀ (s : State) (org : Origin) (block : List Byte) (v : Val), Accepts s Key.Upd.UPD_PKG .seg block v →
    ∃ t, exec (.updPkg org block) s = .next t ∧ WriteTaken s t org Key.Upd.UPD_PKG v) ∧
  (∀ (s : State) (org : Origin) (block : List Byte) (v : Val), Accepts s Key.Face.FACE_UPDATE .seg block v →
    ∃ t, exec (.faceUpdate org block) s = .next t ∧ WriteTaken s t org Key.Face.FACE_UPDATE v) ∧
  (∀ (s : State) (org : Origin) (port : Fin 12) (value : Byte) (v : Val),
    Accepts s (Key.Can.RECOVER port) .sdo (numBytes (Key.Can.RECOVER port) value.toNat) v →
    ∃ t, exec (.recover org port value) s = .next t ∧ WriteTaken s t org (Key.Can.RECOVER port) v)

/-- R29, R373, R376, R382, R391, R393, R396, R420: accepted writes of ABORT, UPD_ACCEPT, PROFILE_SELECT, COMMIT_NOW,
REC_CLEAR, FAULT_BIN_H and GATE_ENABLE are taken, due at the first edge whose set is still open. -/
def Obligations.UpkeepWritesComplete : Prop :=
  (∀ (s : State) (org : Origin) (b : Fin 4) (value : Byte) (v : Val),
    Accepts s (Key.Build.ABORT b) .sdo (numBytes (Key.Build.ABORT b) value.toNat) v →
    ∃ t, exec (.abort org b value) s = .next t ∧ WriteTaken s t org (Key.Build.ABORT b) v) ∧
  (∀ (s : State) (org : Origin) (value : Byte) (v : Val),
    Accepts s Key.Health.UPD_ACCEPT .sdo (numBytes Key.Health.UPD_ACCEPT value.toNat) v →
    ∃ t, exec (.updAccept org value) s = .next t ∧ WriteTaken s t org Key.Health.UPD_ACCEPT v) ∧
  (∀ (s : State) (org : Origin) (value : Byte) (v : Val),
    Accepts s Key.Prof.PROFILE_SELECT .sdo (numBytes Key.Prof.PROFILE_SELECT value.toNat) v →
    ∃ t, exec (.profileSelect org value) s = .next t ∧ WriteTaken s t org Key.Prof.PROFILE_SELECT v) ∧
  (∀ (s : State) (org : Origin) (value : Byte) (v : Val),
    Accepts s Key.Rec.COMMIT_NOW .sdo (numBytes Key.Rec.COMMIT_NOW value.toNat) v →
    ∃ t, exec (.commitNow org value) s = .next t ∧ WriteTaken s t org Key.Rec.COMMIT_NOW v) ∧
  (∀ (s : State) (org : Origin) (value : BitVec 16) (v : Val),
    Accepts s Key.Rec.REC_CLEAR .sdo (numBytes Key.Rec.REC_CLEAR value.toNat) v →
    ∃ t, exec (.recClear org value) s = .next t ∧ WriteTaken s t org Key.Rec.REC_CLEAR v) ∧
  (∀ (s : State) (org : Origin) (value : BitVec 16) (v : Val),
    Accepts s Key.Rec.FAULT_BIN_H .sdo (numBytes Key.Rec.FAULT_BIN_H value.toNat) v →
    ∃ t, exec (.faultBinH org value) s = .next t ∧ WriteTaken s t org Key.Rec.FAULT_BIN_H v) ∧
  (∀ (s : State) (org : Origin) (node : Fin 21) (value : Byte) (v : Val),
    Accepts s (Key.Gate.GATE_ENABLE node) .sdo (numBytes (Key.Gate.GATE_ENABLE node) value.toNat) v →
    ∃ t, exec (.gateEnable org node value) s = .next t ∧ WriteTaken s t org (Key.Gate.GATE_ENABLE node) v)

/-- R73, R90: a write of any value to HEARTBEAT while the module runs restarts master supervision: the deadline is
HB_TIMEOUT epochs on, and the source is shown. -/
def Obligations.HeartbeatRestartsSupervision : Prop :=
  ∀ (s : State) (org : Origin) (value : BitVec 32) (v : Val), modeRuns s.chip.mode = true →
    Accepts s Key.Hb.HEARTBEAT .sdo (numBytes Key.Hb.HEARTBEAT value.toNat) v →
    ∃ t, exec (.heartbeat org value) s = .next t ∧ t.chip.out = [.result Rc.OK []] ∧
      t.chip.modes.deadline = some (s.keeper.epoch + s.chip.num Key.Hb.HB_TIMEOUT) ∧
      t.chip.num Key.Hb.HB_LAST_EPOCH = wireEpoch s.keeper.epoch ∧ t.chip.num Key.Hb.HB_LAST_KIND = originKind org ∧
      t.chip.num Key.Hb.HB_LAST_ADDR = originAddr org ∧ t.chip.mode = s.chip.mode ∧
      KeepsObjects [Key.Hb.HB_LAST_EPOCH, Key.Hb.HB_LAST_KIND, Key.Hb.HB_LAST_ADDR] s.chip t.chip

/-- R53, R59: a write that its checks refuse is answered with the code of the check, never becomes due, and no object
changes but those of `writeKeys`. The order of checks the rules leave open is the model's reading (log entries 25 to
28). -/
def Obligations.RefusedWritesAreAnswered : Prop :=
  ∀ (s : State) (org : Origin) (ix : BitVec 16) (sub ty : BitVec 8) (data : List Byte) (code : Nat),
    Refuses s (mkKey ix.toNat sub.toNat) (.typed ty.toNat) data code →
    ∃ t, exec (.write org ix sub ty data) s = .next t ∧ t.chip.out = [.result code []] ∧ t.chip.dict = s.chip.dict ∧
      t.chip.mode = s.chip.mode ∧ KeepsObjects writeKeys s.chip t.chip

/-- R53, R29, R125, R142, R333, R389, R453: the writes of one datagram are judged together; each has its result, those
accepted become due in order, and no object changes but those of `writeKeys`. Which writes are judged together is the
model's reading (log entry 29). -/
def Obligations.JointWritesComplete : Prop :=
  (∀ (s : State) (org : Origin) (l : List (BitVec 16 × BitVec 8 × Nat)), served s.chip = true →
    ((namedWrites l).all fun w => isStructural w.1) = true →
    ∃ t, exec (.structuralWrite org l) s = .next t ∧ JointTaken s t org (namedWrites l)) ∧
  (∀ (s : State) (org : Origin) (l : List (BitVec 16 × BitVec 8 × Nat)), served s.chip = true →
    ((namedWrites l).all fun w => isSlotConfig w.1) = true →
    ∃ t, exec (.slotBindingWrite org l) s = .next t ∧ JointTaken s t org (namedWrites l)) ∧
  (∀ (s : State) (org : Origin) (port : Fin 12) (l : List (BitVec 8 × Nat)), served s.chip = true →
    (∀ w ∈ l, 2 ≤ w.1.toNat ∧ w.1.toNat ≤ 0x0E) →
    ∃ t, exec (.canTimingWrite org port l) s = .next t ∧ JointTaken s t org (l.map fun w =>
      (mkKey (0x4400 + 16 * port.val) w.1.toNat, numBytes (mkKey (0x4400 + 16 * port.val) w.1.toNat) w.2))) ∧
  (∀ (s : State) (org : Origin) (l : List (BitVec 8 × List Byte)), served s.chip = true →
    (l.all fun w => measKey (mkKey 0x4801 w.1.toNat)) = true →
    ∃ t, exec (.measureConfigWrite org l) s = .next t ∧
      JointTaken s t org (l.map fun w => (mkKey 0x4801 w.1.toNat, w.2))) ∧
  (∀ (s : State) (org : Origin) (ix : BitVec 16) (sub : BitVec 8) (value : Nat), served s.chip = true →
    isInjection (mkKey ix.toNat sub.toNat) = true →
    ∃ t, exec (.faultInjection org ix sub value) s = .next t ∧
      JointTaken s t org [(mkKey ix.toNat sub.toNat, numBytes (mkKey ix.toNat sub.toNat) value)])

/-- R107–R117, R123: while the engine runs, a slot of the wheel runs the frames that begin in it; stopped, or with no
supply, nothing happens but that the time within the epoch moves on. The microseconds within the epoch are the model's
own (log entry 4). -/
def Obligations.WheelSlotsComplete : Prop :=
  (∀ (s : State) (slot : Fin 200) (faults : List (Fin 768 × LockFault)), s.found.mode ≠ .off → s.found.mode ≠ .banked →
    s.found.num Key.Eng.ENGINE_STATE ≠ 3 →
    exec (.wheelSlot slot faults) s = .next { s with chip :=
      (runSlot s.keeper { s.found with us := 50 * (slot.val % 20) } slot.val (faults.map fun f => (f.1.val, f.2))) }) ∧
  (∀ (s : State) (slot : Fin 200) (faults : List (Fin 768 × LockFault)),
    s.found.mode = .off ∨ s.found.mode = .banked ∨ s.found.num Key.Eng.ENGINE_STATE = 3 →
    exec (.wheelSlot slot faults) s = .next { s with chip := { s.found with us := 50 * (slot.val % 20) } })

/-- R114: a relay cell whose inputs are numbers and whose error is finite computes: it is in ACT_UP (4) with OUT_MAX,
in ACT_DOWN (5) with OUT_MIN or in HOLD (2) with OUT_REST, its integrator is as it was, KP, KI, I_MIN and I_MAX make
no difference, and on its enable it enters ACT_UP where e > BAND_OUT, ACT_DOWN where e < −BAND_OUT, and HOLD
otherwise. -/
def Obligations.RelayCellsFollowTheirLaw : Prop :=
  ∀ (s : CellSample) (base i : Nat), fIsNan fmt32 s.sp = false → fIsNan fmt32 s.pv = false → fIsNan fmt32 s.ff = false →
    let e := if s.dir then clSub s.sp s.pv else fOpp fmt32 (clSub s.sp s.pv)
    fFinite fmt32 e = true →
    ∃ r, computeRelay s base i = some r ∧
      ((r.state = 4 ∧ r.out = s.outMax) ∨ (r.state = 5 ∧ r.out = s.outMin) ∨ (r.state = 2 ∧ r.out = s.rest)) ∧
      r.cand = i ∧ r.err = e ∧
      (∀ kp kit iMin iMax, computeRelay { s with kp := kp, kit := kit, iMin := iMin, iMax := iMax } base i = some r) ∧
      (base = 1 → r.state = if fLt fmt32 s.bandOut e then 4 else if fLt fmt32 e (fOpp fmt32 s.bandOut) then 5 else 2)

/-- R116, R146: a node freezes on a NaN input. Otherwise the winner is an input that is not withdrawn, no input that
is not withdrawn is less, every one before it is greater, so that ties go to the lowest index; the output is the
winner's value clamped, and the node is saturated when the clamp changed it. -/
def Obligations.NodesPickTheLowestInput : Prop :=
  ∀ (ins : List (Nat × Bool)) (outMin outMax : Nat),
    ((ins.any fun v => fIsNan fmt32 v.1) = true → computeNode ins outMin outMax = none) ∧
    ((ins.any fun v => fIsNan fmt32 v.1) = false → (ins.any fun v => !v.2) = true →
      ∃ r v, computeNode ins outMin outMax = some r ∧ ins[r.win]? = some (v, false) ∧
        (∀ j w, ins[j]? = some (w, false) → fLt fmt32 w v = false ∧ (j < r.win → fLt fmt32 v w = true)) ∧
        r.out = clClamp v outMin outMax ∧ r.sat = !fEq fmt32 r.out v)

/-- R164, R169, R171, R154: the crop commands. A slope cycle computes the cap from the tilt and gives it at the first
open edge; a yield record that has come to its edge is written, or deferred into MRAM while UFS is not written;
deferred records are written in order once UFS is; a mapped message is composed from CAN_CMD and enters its port's
queue. Exact sums rounded once are the model's reading (log entry 61). -/
def Obligations.CropCommandsComplete : Prop :=
  (∀ s : State, s.keeper.epoch % 50 = 0 → tilesRun s.found = true → s.found.mode ≠ .off → s.found.mode ≠ .banked →
    (s.found.mode = .kindling → 5 ≤ s.found.num Key.Kindling.KINDLING_STEP) →
    let g := s.found.num
    let tilt := s.found.flag Key.Hdg.HDG_VALID
    exec .slopeCapCycle s = .next { s with chip := { s.found with crop := { s.found.crop with slope := some (s.keeper.epoch,
      if tilt then slopeCap (g Key.Speed.SLOPE_V0) (g Key.Speed.SLOPE_V1) (g Key.Speed.SLOPE_A0) (g Key.Speed.SLOPE_A1)
        (fAbs fmt32 (g Key.Hdg.TILT)) else g Key.Speed.SLOPE_V1,
      if tilt then g Key.Hdg.HDG_EPOCH else wireEpoch s.keeper.epoch) } } }) ∧
  (∀ (s : State) (e cap ep : Nat), s.found.crop.slope = some (e, cap, ep) →
    exec .slopeCapComplete s = .next { s with chip := { s.found with
      crop := { s.found.crop with slope := none },
      dict := { s.found.dict with tile := s.found.dict.tile ++ [⟨openEdge s.keeper, .tile, Key.Speed.SLOPE_CAP,
        .num cap⟩] ++
        [⟨openEdge s.keeper, .tile, Key.Speed.SLOPE_EPOCH, .num ep⟩] } } }) ∧
  (∀ (s : State) (x : Transit) (rest : List Transit), s.found.crop.transit = x :: rest →
    x.stop + transportDelay s.found ≤ s.keeper.epoch → s.found.num Key.WrHold.UFS_WRITE = 0 →
    armedAt s.found Key.InjFs.INJ_MAP_DEFERRED 1 = false → s.found.crop.mram = [] → s.found.crop.held = [] →
    exec .yieldRecordComplete s = .next { s with chip := (mapShow (ufsAppend
      { s.found with crop := { s.found.crop with transit := rest } } (s.found.num Key.Map.MAP_NUMBER) (yieldBytes x))) }) ∧
  (∀ (s : State) (x : Transit) (rest : List Transit), s.found.crop.transit = x :: rest →
    x.stop + transportDelay s.found ≤ s.keeper.epoch → s.found.num Key.WrHold.UFS_WRITE ≠ 0 →
    s.found.num Key.WrHold.MRAM_WRITE = 0 → armedAt s.found Key.InjFs.INJ_MAP_DEFERRED 1 = false → s.found.crop.held = [] →
    s.found.crop.mram.length < 32768 →
    ∃ t, exec .yieldRecordComplete s = .next t ∧
      t.chip.crop = { s.found.crop with
        transit := rest
        mram := (s.found.crop.mram ++ [(s.found.num Key.Map.MAP_NUMBER, yieldBytes x)]) }) ∧
  (∀ s : State, s.found.mode ≠ .off → s.found.mode ≠ .banked → s.found.num Key.WrHold.UFS_WRITE = 0 →
    let c := (s.found.crop.mram ++ s.found.crop.held).foldl (fun c r => ufsAppend c r.1 r.2) s.found
    exec .deferredRecordFlush s =
      .next { s with chip := mapShow { c with crop := { c.crop with mram := [], held := [] } } }) ∧
  (∀ (s : State) (slot : Fin 30), up s.found 8 = true →
    let n := slot.val
    let g := s.found.num
    isComposite n = false → g (Key.Slot.CAN_PORT n) < 12 → s.keeper.epoch % max (g (Key.Slot.CAN_PERIOD n)) 1 = 0 →
    s.found.crop.composed.find? (fun q => decide (q.1 = n)) = none → safeApplied s.found (Key.Slot.CAN_CMD n) = false →
    armedAt s.found Key.InjFs.INJ_CANMAP_DROP (n + 1) = false →
    let raw := rawOf (g (Key.Slot.CAN_CMD n)) (g (Key.Slot.CAN_OFFSET n)) (g (Key.Slot.CAN_SCALE n)) (g (Key.Slot.CAN_BITS n))
    let data := mapBytes (g (Key.Slot.CAN_FILL n)) (g (Key.Slot.CAN_START n)) (g (Key.Slot.CAN_BITS n)) raw (g (Key.Slot.CAN_LEN n))
    exec (.canMapCompose slot) s = .next { s with chip := (txEnter s.keeper
      { s.found with crop := { s.found.crop with
        composed := s.found.crop.composed.filter (fun q => decide (q.1 ≠ n)) ++ [(n, raw, s.keeper.epoch)] } }
      (g (Key.Slot.CAN_PORT n))
      { id := g (Key.Slot.CAN_ID n) % 0x20000000 / 256 * 256, ext := true, data, born := nowUs s.keeper s.found,
        life := g (Key.Slot.CAN_PERIOD n), kind := .mapped n raw s.keeper.epoch }) })

/-- R41, R186, R188–R191: the guidance commands. A cycle begins with a solution and a line; complete in time, it gives
its results at the first open edge and ends a run of lost cycles; lost, it counts in CYCLES_LOST and its event is
taken, the second in a row ends guidance; an operator's presence is shown; a speed out of range for 500 ms and the end
of RTK_COAST disengage. -/
def Obligations.GuidanceCommandsComplete : Prop :=
  (∀ s : State, s.keeper.epoch % 20 = 0 → up s.found 5 = true → tilesRun s.found = true →
    s.found.flag Key.Guide.GUIDE_ENABLE = true → unitAshed s.found unitGuide = false →
    lineValid s.found (s.found.num Key.GLine.ACTIVE_LINE) = true → s.found.gnss.fix.isSome = true →
    armedAt s.found Key.Inj.GUIDE_CYCLE_LOST 2 = false → armedAt s.found Key.Inj.GUIDE_CYCLE_LOST 1 = false →
    ∃ t, exec .guidanceCycle s = .next t ∧ t.chip.guide = { s.found.guide with cycle := some (s.keeper.epoch,
      guideCompute s.keeper (disarm (disarm s.found Key.Inj.GUIDE_CYCLE_LOST 2) Key.Inj.GUIDE_CYCLE_LOST 1)) }) ∧
  (∀ (s : State) (g : Nat) (r : GuideRes), s.found.guide.cycle = some (g, some r) →
    nowUs s.keeper s.found ≤ 1000 * g + 5000 →
    ∃ t, exec .guidanceCycleComplete s = .next t ∧ t.chip.guide = { s.found.guide with
        cycle := none, due := s.found.guide.due ++ [(openEdge s.keeper, r)]
        dPrev := if r.held then r.delta else s.found.guide.dPrev
        lost := 0, compute := false } ∧
      t.chip.od = s.found.od ∧ (∃ l : List Write, t.chip.dict.tile = s.found.dict.tile ++ l ∧
        l.map (·.key) = [Key.GErr.XTE, Key.GErr.HE, Key.GErr.CURVATURE, Key.GErr.WHEEL_SP, Key.GErr.ALONG, Key.GErr.TO_END,
          Key.GErr.SOURCE_EPOCH, Key.GErr.FLAGS, Key.GErr.SOLUTION_AGE])) ∧
  (∀ (s : State) (e : Nat) (r : Option GuideRes), s.found.guide.cycle = some (e, r) →
    1000 * e + 5000 ≤ nowUs s.keeper s.found → HandlerFree s.found 0x0603 unitGuide →
    ∃ t, exec .guidanceCycleLost s = .next t ∧ Taken s.found t.chip 0x0603 unitGuide r.isNone ∧
      t.chip.num Key.GErr.CYCLES_LOST = (s.found.num Key.GErr.CYCLES_LOST + 1) % 0x100000000 ∧
      t.chip.guide = { s.found.guide with
        cycle := none, lost := s.found.guide.lost + 1,
          compute := guideHolds s.found && decide (1 ≤ s.found.guide.lost) } ∧
      KeepsObjects (Key.GErr.CYCLES_LOST :: eventKeys) s.found t.chip) ∧
  (∀ (s : State) (active : Bool), s.found.mode ≠ .off → s.found.mode ≠ .banked →
    ∃ t, exec (.opPresentChange active) s = .next t ∧ t.chip.flag Key.Guide.OP_PRESENT = active ∧
      KeepsObjects [Key.Guide.OP_PRESENT] s.found t.chip) ∧
  (∀ (s : State) (a : Nat), s.found.guide.speedOut = some a → guideHolds s.found = true → a + 500 ≤ s.keeper.epoch →
    exec .speedOutOfRangeExpiry s = .next { s with chip := disengage s.keeper s.found 4 }) ∧
  (∀ (s : State) (a : Nat), s.found.guide.coastAt = some a → s.found.num Key.Guide.STATE = 4 →
    a + s.found.num Key.Guide.RTK_COAST ≤ s.keeper.epoch →
    exec .coastExpiry s = .next { s with chip := disengage s.keeper s.found 13 })

/-- R208, R209: on a channel whose program runs, each shaper instruction does what Table 7.3 says of it. SETI sets a
target that it does not raise, that follows COMMAND or that fits the budgets; RAMP gives the next SETI its duration;
WAIT holds the program and, once its time is over, ends; DITHER sets the square wave; LOOP with count 0 always jumps,
and another jumps until its count is used up; MARK shows its operand and the epoch; PEAKWIN stores the time to a peak;
QUENCH zeroes the target and opens the bank switch; END leaves the target as it stands, or in OFF_RUN ends at 0. -/
def Obligations.ShaperInstructionsComplete : Prop :=
  (∀ (s : State) (ch : Fin 48) (v : BitVec 12), progRuns s.found ch = true → (vcOf s.found ch).ramp = none →
    armedAt s.found Key.InjValve.INJ_OVERLAP ch = false →
    let a := setiTarget s.found ch v.toNat
    a.2 = true ∨ fLt fmt32 (s.found.num (Key.Valve.TARGET ch)) a.1 = false ∨ targetFits s.found ch a.1 = true →
    let c := setiDone s.keeper s.found ch a.1 a.2
    exec (.seti ch v) s = .next { s with chip := (c.put (Key.Valve.STATE ch)
      (if c.num (Key.Valve.STATE ch) = 3 then 1 else c.num (Key.Valve.STATE ch))) }) ∧
  (∀ (s : State) (ch : Fin 48) (v : BitVec 12), progRuns s.found ch = true →
    exec (.ramp ch v) s = .next { s with chip :=
      (vcNext (vcSet s.found ch { vcOf s.found ch with rampUs := some (100 * v.toNat) }) ch) }) ∧
  (∀ (s : State) (ch : Fin 48) (v : BitVec 12), progRuns s.found ch = true → (vcOf s.found ch).waitEnd = none →
    exec (.wait ch v) s = .next { s with chip := (vcSet s.found ch { vcOf s.found ch with
      waitEnd := some (nowUs s.keeper s.found + waitUnit (v.toNat / 1024) * (v.toNat % 1024)) }) }) ∧
  (∀ (s : State) (ch : Fin 48) (v : BitVec 12) (e : Nat), progRuns s.found ch = true →
    (vcOf s.found ch).waitEnd = some e → e ≤ nowUs s.keeper s.found →
    exec (.wait ch v) s = .next { s with chip :=
      (vcNext (vcSet s.found ch { vcOf s.found ch with waitEnd := none }) ch) }) ∧
  (∀ (s : State) (ch : Fin 48) (v : BitVec 12), progRuns s.found ch = true →
    exec (.dither ch v) s = .next { s with chip := (vcNext (vcSettle s.keeper (vcSet s.found ch { vcOf s.found ch with
      ditherA := v.toNat / 64, ditherN := v.toNat % 64, ditherT := nowUs s.keeper s.found }) ch) ch) }) ∧
  (∀ (s : State) (ch : Fin 48) (v : BitVec 12), progRuns s.found ch = true → v.toNat % 64 = 0 →
    exec (.loop ch v) s = .next { s with chip :=
      ((vcSet s.found ch { vcOf s.found ch with step := v.toNat / 64 }).put (Key.Valve.STEP ch) (v.toNat / 64)) }) ∧
  (∀ (s : State) (ch : Fin 48) (v : BitVec 12), progRuns s.found ch = true → v.toNat % 64 ≠ 0 →
    let x := vcOf s.found ch
    let left := ((x.loops.find? fun l => decide (l.1 = x.step)).map (·.2)).getD (v.toNat % 64)
    let rest := x.loops.filter fun l => decide (l.1 ≠ x.step)
    exec (.loop ch v) s = .next { s with chip := (
      if left = 0 then vcNext (vcSet s.found ch { x with loops := rest }) ch
      else (vcSet s.found ch { x with loops := rest ++ [(x.step, left - 1)], step := v.toNat / 64 }).put
        (Key.Valve.STEP ch) (v.toNat / 64)) }) ∧
  (∀ (s : State) (ch : Fin 48) (v : BitVec 12), progRuns s.found ch = true →
    ∃ t, exec (.mark ch v) s = .next t ∧ t.chip.num (Key.Valve.LAST_MARK ch) = v.toNat % 256 ∧
      t.chip.num (Key.Valve.MARK_EPOCH ch) = wireEpoch s.keeper.epoch ∧
      t.chip.num (Key.Valve.STEP ch) = (vcOf s.found ch).step + 1 ∧
      KeepsObjects [Key.Valve.LAST_MARK ch, Key.Valve.MARK_EPOCH ch, Key.Valve.STEP ch] s.found t.chip) ∧
  (∀ (s : State) (ch : Fin 48) (v : BitVec 12), progRuns s.found ch = true →
    armedAt s.found Key.InjValve.INJ_TTP ch = false → ∀ peak : Nat, peakTime s.keeper s.found ch = some peak →
    250 * (v.toNat / 64) ≤ peak → peak ≤ 250 * (v.toNat % 64) →
    ∃ t, exec (.peakwin ch v) s = .next t ∧ t.chip.num (Key.Valve.TTP_US ch) = peak ∧
      t.chip.num (Key.Valve.STEP ch) = (vcOf s.found ch).step + 1 ∧
      KeepsObjects [Key.Valve.TTP_US ch, Key.Valve.STEP ch] s.found t.chip) ∧
  (∀ (s : State) (ch : Fin 48) (v : BitVec 12), progRuns s.found ch = true → (vcOf s.found ch).quenchEnd = none →
    armedAt s.found Key.InjValve.INJ_QUENCH_DEFER ch = false →
    ((bankChans (ch / 4)).any fun m => decide (m ≠ ch.val) && energised s.found m) = false →
    let c := vcAsk s.keeper (vcSet s.found ch { vcOf s.found ch with
      quenchEnd := some (nowUs s.keeper s.found + 100 * v.toNat) }) ch 0 false
    bankCanQuench c (ch / 4) = true → exec (.quench ch v) s = .next { s with chip := quenchStart c (ch / 4) }) ∧
  (∀ (s : State) (ch : Fin 48), progRuns s.found ch = true →
    exec (.endProgram ch) s = .next { s with chip :=
      (if s.found.num (Key.Valve.STATE ch) = 5 then (vcZero s.keeper s.found ch).put (Key.Valve.STATE ch) 0
       else (vcAbandon s.found ch).put (Key.Valve.STATE ch) 2) })

/-- R208, R209, R213: on a channel whose program runs, SETI, RAMP and DITHER complete. A SETI with no RAMP before it that
lowers the target or fits shows its target, where no limit bears on it, and the program goes on; one that does not fit
leaves the target and puts the channel in WAITING, or is refused at its first try where OVERLAP_WIN is 0; behind a RAMP
it begins a ramp from the present target, stands within it on the line between, and passes at its end. RAMP keeps its
duration for that SETI. DITHER keeps its amplitude and frequency. -/
def Obligations.ShaperTargetInstructionsComplete : Prop :=
  ∀ (s : State) (ch : Fin 48) (v : BitVec 12), progRuns s.found ch = true → s.found.valve.chans.length = 48 →
    let x := vcOf s.found ch
    let g := s.found.num
    let a := (setiTarget s.found ch v.toNat).1
    let follow := (setiTarget s.found ch v.toNat).2
    let raises := fLt fmt32 (g (Key.Valve.TARGET ch)) a
    (x.ramp = none → armedAt s.found Key.InjValve.INJ_OVERLAP ch = false → rampOf s.found ch = none → v.toNat ≤ 3000 →
      raises = false ∨ targetFits s.found ch a = true → fClamp fmt32 0 (g (Key.Valve.PEAK_MAX ch)) a = a →
      fLt fmt32 (g (Key.Valve.HOLD_MAX ch)) a = false → thermalCeiling s.found ch = none →
      ∃ t, exec (.seti ch v) s = .next t ∧ t.chip.num (Key.Valve.TARGET ch) = a ∧
        t.chip.num (Key.Valve.STEP ch) = x.step + 1) ∧
    (x.ramp = none → armedAt s.found Key.InjValve.INJ_OVERLAP ch = false → follow = false → raises = true →
      targetFits s.found ch a = false → g (Key.Bank.OVERLAP_WIN (ch / 4)) ≠ 0 →
      ∃ t, exec (.seti ch v) s = .next t ∧ (vcOf t.chip ch).tryAt = some (x.tryAt.getD (nowUs s.keeper s.found)) ∧
        t.chip.num (Key.Valve.STATE ch) = (if g (Key.Valve.STATE ch) = 1 then 3 else g (Key.Valve.STATE ch)) ∧
        KeepsObjects [Key.Valve.STATE ch] s.found t.chip) ∧
    (x.ramp = none → armedAt s.found Key.InjValve.INJ_OVERLAP ch = false → follow = false → raises = true →
      targetFits s.found ch a = false → g (Key.Bank.OVERLAP_WIN (ch / 4)) = 0 →
      exec (.seti ch v) s = .next { s with chip := vcRefuse s.keeper s.found ch false }) ∧
    (∀ d, x.ramp = none → armedAt s.found Key.InjValve.INJ_OVERLAP ch = false → rampOf s.found ch = some d →
      follow = true ∨ raises = false ∨ targetFits s.found ch a = true →
      ∃ t, exec (.seti ch v) s = .next t ∧
        (vcOf t.chip ch).ramp = some ⟨g (Key.Valve.TARGET ch), a, nowUs s.keeper s.found, d, follow⟩ ∧
        KeepsObjects [Key.Valve.STATE ch] s.found t.chip) ∧
    (∀ r, x.ramp = some r → nowUs s.keeper s.found < r.t0 + r.dur →
      exec (.seti ch v) s = .next { s with chip := (vcSettle s.keeper (vcSet s.found ch { x with
        req := fLerp fmt32 r.start r.stop (nowUs s.keeper s.found - r.t0) r.dur, follow := false }) ch) }) ∧
    (∀ r, x.ramp = some r → r.t0 + r.dur ≤ nowUs s.keeper s.found →
      ∃ t, exec (.seti ch v) s = .next t ∧ t.chip.num (Key.Valve.STEP ch) = x.step + 1 ∧
        (vcOf t.chip ch).ramp = none ∧ (vcOf t.chip ch).follow = r.follow ∧
        (vcOf t.chip ch).req = if r.follow then x.cmd else r.stop) ∧
    (∃ t, exec (.ramp ch v) s = .next t ∧ (vcOf t.chip ch).rampUs = some (100 * v.toNat) ∧
      t.chip.num (Key.Valve.STEP ch) = x.step + 1 ∧ KeepsObjects [Key.Valve.STEP ch] s.found t.chip) ∧
    (∃ t, exec (.dither ch v) s = .next t ∧ (vcOf t.chip ch).ditherA = v.toNat / 64 ∧
      (vcOf t.chip ch).ditherN = v.toNat % 64 ∧ (vcOf t.chip ch).ditherT = nowUs s.keeper s.found ∧
      t.chip.num (Key.Valve.STEP ch) = x.step + 1 ∧
      KeepsObjects [Key.Valve.STEP ch, Key.Valve.TARGET ch, Key.Bank.BANK_STATE (ch / 4), Key.Bank.BANK_DEMAND (ch / 4),
        Key.VGroup.GROUP_DEMAND (ch / 4 / 4)] s.found t.chip)

/-- R207–R209: on a channel whose program runs, WAIT, PEAKWIN and QUENCH complete. WAIT begins its time, holds the program
until it is over, and passes. PEAKWIN stores the time to a peak that lies in its window and passes, flags an early peak
and a late or missing one, raising VALVE_TTP, and holds the program until then. QUENCH alone in its bank opens the bank
switch; where another channel is energised it is flagged, counted and raised; it holds the program until the current is
below 50 mA or its timeout is over, and passes. -/
def Obligations.ShaperTimedInstructionsComplete : Prop :=
  ∀ (s : State) (ch : Fin 48) (v : BitVec 12), progRuns s.found ch = true → s.found.valve.chans.length = 48 →
    let x := vcOf s.found ch
    let g := s.found.num
    let now := nowUs s.keeper s.found
    let lo := 250 * (v.toNat / 64)
    let hi := 250 * (v.toNat % 64)
    let others := (bankChans (ch / 4)).any fun m => decide (m ≠ ch.val) && energised s.found m
    (x.waitEnd = none → ∃ t, exec (.wait ch v) s = .next t ∧
      (vcOf t.chip ch).waitEnd = some (now + waitUnit (v.toNat / 1024) * (v.toNat % 1024)) ∧
      KeepsObjects [] s.found t.chip) ∧
    (∀ e, x.waitEnd = some e → now < e → exec (.wait ch v) s = .next { s with chip := s.found }) ∧
    (∀ e, x.waitEnd = some e → e ≤ now → ∃ t, exec (.wait ch v) s = .next t ∧ (vcOf t.chip ch).waitEnd = none ∧
      t.chip.num (Key.Valve.STEP ch) = x.step + 1 ∧ KeepsObjects [Key.Valve.STEP ch] s.found t.chip) ∧
    (∀ p, armedAt s.found Key.InjValve.INJ_TTP ch = false → peakTime s.keeper s.found ch = some p → lo ≤ p → p ≤ hi →
      ∃ t, exec (.peakwin ch v) s = .next t ∧ t.chip.num (Key.Valve.TTP_US ch) = p ∧
        t.chip.num (Key.Valve.STEP ch) = x.step + 1 ∧
        KeepsObjects [Key.Valve.TTP_US ch, Key.Valve.STEP ch] s.found t.chip) ∧
    (∀ p, armedAt s.found Key.InjValve.INJ_TTP ch = false → peakTime s.keeper s.found ch = some p → p < lo → p ≤ hi →
      HandlerFree s.found 0x0704 (unitValve ch) →
      ∃ t, exec (.peakwin ch v) s = .next t ∧ Taken s.found t.chip 0x0704 (unitValve ch) false ∧
        t.chip.num (Key.Valve.TTP_US ch) = p ∧ t.chip.num (Key.Valve.STEP ch) = x.step + 1 ∧
        t.chip.num (Key.Valve.FLAGS ch) = g (Key.Valve.FLAGS ch) ||| 1 ∧
        KeepsObjects ([Key.Valve.TTP_US ch, Key.Valve.STEP ch, Key.Valve.FLAGS ch] ++ eventKeys) s.found t.chip) ∧
    (armedAt s.found Key.InjValve.INJ_TTP ch = false →
      (∃ p, peakTime s.keeper s.found ch = some p ∧ hi < p) ∨
        (peakTime s.keeper s.found ch = none ∧ hi ≤ now - x.raisedAt) → HandlerFree s.found 0x0704 (unitValve ch) →
      ∃ t, exec (.peakwin ch v) s = .next t ∧ Taken s.found t.chip 0x0704 (unitValve ch) false ∧
        t.chip.num (Key.Valve.TTP_US ch) = hi ∧ t.chip.num (Key.Valve.STEP ch) = x.step + 1 ∧
        t.chip.num (Key.Valve.FLAGS ch) = g (Key.Valve.FLAGS ch) ||| 2 ∧
        KeepsObjects ([Key.Valve.TTP_US ch, Key.Valve.STEP ch, Key.Valve.FLAGS ch] ++ eventKeys) s.found t.chip) ∧
    (armedAt s.found Key.InjValve.INJ_TTP ch = false → peakTime s.keeper s.found ch = none → now - x.raisedAt < hi →
      exec (.peakwin ch v) s = .next { s with chip := s.found }) ∧
    (x.quenchEnd = none → armedAt s.found Key.InjValve.INJ_QUENCH_DEFER ch = false → others = false →
      g (Key.Bank.BANK_STATE (ch / 4)) ≤ 2 →
      ∃ t, exec (.quench ch v) s = .next t ∧ t.chip.num (Key.Bank.BANK_STATE (ch / 4)) = 2 ∧
        t.chip.num (Key.Bank.QUENCHES (ch / 4)) = (g (Key.Bank.QUENCHES (ch / 4)) + 1) % 0x100000000 ∧
        (vcOf t.chip ch).req = 0 ∧ (vcOf t.chip ch).quenchEnd = some (now + 100 * v.toNat) ∧
        t.chip.num (Key.Valve.STEP ch) = g (Key.Valve.STEP ch)) ∧
    (x.quenchEnd = none → armedAt s.found Key.InjValve.INJ_QUENCH_DEFER ch = false → others = true →
      HandlerFree s.found 0x070A (unitValve ch) →
      ∃ t, exec (.quench ch v) s = .next t ∧ Taken s.found t.chip 0x070A (unitValve ch) false ∧
        t.chip.num (Key.Valve.FLAGS ch) = g (Key.Valve.FLAGS ch) ||| 8 ∧
        t.chip.num (Key.Valve.QUENCH_DEFERS ch) = (g (Key.Valve.QUENCH_DEFERS ch) + 1) % 0x100000000 ∧
        (vcOf t.chip ch).req = 0 ∧ (vcOf t.chip ch).quenchEnd = some (now + 100 * v.toNat)) ∧
    (∀ e, x.quenchEnd = some e → now < e → fLt fmt32 x.current (ratio 1 20) = false →
      exec (.quench ch v) s = .next { s with chip := s.found }) ∧
    (∀ e, x.quenchEnd = some e → e ≤ now ∨ fLt fmt32 x.current (ratio 1 20) = true →
      ∃ t, exec (.quench ch v) s = .next t ∧ (vcOf t.chip ch).quenchEnd = none ∧
        t.chip.num (Key.Valve.STEP ch) = x.step + 1 ∧ KeepsObjects [Key.Valve.STEP ch] s.found t.chip)

/-- R208, R209: on a channel whose program runs, LOOP, MARK and END complete. A LOOP with count 0 jumps; one with count k
jumps k times, then falls through and forgets its counter; MARK shows its value and the epoch; END leaves the target as
it stands and the channel HELD, or in OFF_RUN brings IDLE, with the program gone either way. -/
def Obligations.ShaperControlInstructionsComplete : Prop :=
  ∀ (s : State) (ch : Fin 48) (v : BitVec 12), progRuns s.found ch = true → s.found.valve.chans.length = 48 →
    let x := vcOf s.found ch
    let mine := (x.loops.find? fun l => decide (l.1 = x.step)).map (·.2)
    (v.toNat % 64 = 0 → ∃ t, exec (.loop ch v) s = .next t ∧ (vcOf t.chip ch).step = v.toNat / 64 ∧
      t.chip.num (Key.Valve.STEP ch) = v.toNat / 64 ∧ (vcOf t.chip ch).loops = x.loops ∧
      KeepsObjects [Key.Valve.STEP ch] s.found t.chip) ∧
    (∀ left, v.toNat % 64 ≠ 0 → mine.getD (v.toNat % 64) = left + 1 →
      ∃ t, exec (.loop ch v) s = .next t ∧ (vcOf t.chip ch).step = v.toNat / 64 ∧
        t.chip.num (Key.Valve.STEP ch) = v.toNat / 64 ∧ (x.step, left) ∈ (vcOf t.chip ch).loops ∧
        (∀ l ∈ (vcOf t.chip ch).loops, l.1 = x.step → l.2 = left) ∧ KeepsObjects [Key.Valve.STEP ch] s.found t.chip) ∧
    (v.toNat % 64 ≠ 0 → mine = some 0 →
      ∃ t, exec (.loop ch v) s = .next t ∧ t.chip.num (Key.Valve.STEP ch) = x.step + 1 ∧
        (∀ l ∈ (vcOf t.chip ch).loops, l.1 ≠ x.step) ∧ KeepsObjects [Key.Valve.STEP ch] s.found t.chip) ∧
    (∃ t, exec (.mark ch v) s = .next t ∧ t.chip.num (Key.Valve.LAST_MARK ch) = v.toNat % 256 ∧
      t.chip.num (Key.Valve.MARK_EPOCH ch) = wireEpoch s.keeper.epoch ∧
      t.chip.num (Key.Valve.STEP ch) = x.step + 1 ∧
      KeepsObjects [Key.Valve.LAST_MARK ch, Key.Valve.MARK_EPOCH ch, Key.Valve.STEP ch] s.found t.chip) ∧
    (s.found.num (Key.Valve.STATE ch) ≠ 5 → ∃ t, exec (.endProgram ch) s = .next t ∧
      t.chip.num (Key.Valve.STATE ch) = 2 ∧ t.chip.num (Key.Valve.STEP ch) = 0xFF ∧ (vcOf t.chip ch).prog = none ∧
      (vcOf t.chip ch).req = x.req ∧ KeepsObjects [Key.Valve.STATE ch, Key.Valve.STEP ch] s.found t.chip) ∧
    (s.found.num (Key.Valve.STATE ch) = 5 → ∃ t, exec (.endProgram ch) s = .next t ∧
      t.chip.num (Key.Valve.STATE ch) = 0 ∧ t.chip.num (Key.Valve.STEP ch) = 0xFF ∧ (vcOf t.chip ch).prog = none ∧
      (vcOf t.chip ch).req = 0 ∧ (vcOf t.chip ch).follow = false)

/-- R59, R197, R202, R203, R205, R207, R210, R213, R222: the commands of the valve drive. A COMMAND that its checks accept
is shown and taken by its channel, another answers its code; a tick senses and builds up the currents, gives waiting
programs their try first and every running program up to eight instructions, and regulates the channels; the peak time
and the overlap window end; a quench completes; a hard cut and a bank trip are taken as events; a bank recloses 10 ms
after its trip. What happens within a tick is in part the model's reading (log entries 4, 70). -/
def Obligations.ValveCommandsComplete : Prop :=
  (∀ (s : State) (ch : Fin 48) (value : F32) (v : Val) (c : Chip), served s.found = true →
    judgeOne s.keeper s.found (Key.Valve.COMMAND ch) .sdo (numBytes (Key.Valve.COMMAND ch) value.toNat) = (Rc.OK, v, c) →
    exec (.valveCommand ch value) s = .next { s with chip :=
      (valveAct s.keeper (c.put (Key.Valve.COMMAND ch) value.toNat) ch value.toNat) }) ∧
  (∀ (s : State) (ch : Fin 48) (value : F32) (code : Nat) (v : Val) (c : Chip), served s.found = true → code ≠ Rc.OK →
    judgeOne s.keeper s.found (Key.Valve.COMMAND ch) .sdo (numBytes (Key.Valve.COMMAND ch) value.toNat) = (code, v, c) →
    exec (.valveCommand ch value) s = .next { s with chip := c.emit (.result code []) }) ∧
  (∀ (s : State) (currents : List (Fin 48 × F32)), s.found.modes.drives = true →
    let c0 := currents.foldl (fun c p => vcSense s.keeper c p.1.val p.2.toNat) { s.found with us := s.found.us + 10 }
    let c0 := (List.range 48).foldl (vcTick s.keeper) { c0 with valve := { c0.valve with ticks := c0.valve.ticks + 1 } }
    let c1 := (List.range 12).foldl bankShow c0
    let late := waiting c1
    let c2 := late.foldl (fun c n => runProg s.keeper n 1 c) c1
    let c3 := (List.range 48).foldl (fun c n =>
      if progRuns c n && !(late.contains n && (vcOf c n).tryAt.isSome) then
        runProg s.keeper n (if late.contains n then 7 else 8) (vcSet c n { vcOf c n with due := false }) else c) c2
    exec (.shaperTick currents) s = .next { s with chip := ((List.range 48).foldl (fun c n =>
      let c := if (vcOf c n).follow then vcSettle s.keeper c n else c
      vcOpen s.keeper (regulate s.keeper (vcSet c n { vcOf c n with drive := setPoint s.keeper c n }) n) n) c3) }) ∧
  (∀ (s : State) (ch : Fin 48) (a : Nat), (vcOf s.found ch).peakAt = some a →
    a + 1000 * s.found.num (Key.Valve.PEAK_TIME_MAX ch) ≤ nowUs s.keeper s.found →
    exec (.peakTimeExpiry ch) s = .next { s with chip :=
      (vcSettle s.keeper (vcSet s.found ch { vcOf s.found ch with peakOver := true }) ch) }) ∧
  (∀ (s : State) (ch : Fin 48) (a : Nat), (vcOf s.found ch).tryAt = some a →
    a + 1000 * s.found.num (Key.Bank.OVERLAP_WIN (ch / 4)) ≤ nowUs s.keeper s.found →
    exec (.overlapWinExpiry ch) s = .next { s with chip := vcRefuse s.keeper s.found ch false }) ∧
  (∀ (s : State) (b : Fin 12) (clampJ : F32), s.found.num (Key.Bank.BANK_STATE b) = 2 →
    let c := (bankChans b).foldl (fun c n =>
      vcSet c n { vcOf c n with current := fMin fmt32 (vcOf c n).current (ratio 1 20) }) s.found
    exec (.quenchComplete b clampJ) s = .next { s with chip := ((bankChans b).foldl (vcSettle s.keeper)
      (bankShow ((c.put (Key.Bank.BANK_STATE b) 0).put (Key.Bank.CLAMP_ENERGY b) clampJ.toNat) b)) }) ∧
  (∀ (s : State) (ch : Fin 48), s.found.modes.drives = true → HandlerFree s.found 0x0702 (unitValve ch) →
    ∃ t, exec (.lowSideHardCut ch) s = .next t ∧ Taken s.found t.chip 0x0702 (unitValve ch) false ∧
      t.chip.valve = (vcSet s.found ch { vcOf s.found ch with cut := true }).valve ∧
        KeepsObjects eventKeys s.found t.chip) ∧
  (∀ (s : State) (b : Fin 12), s.found.modes.drives = true → s.found.num (Key.Bank.BANK_STATE b) ≠ 4 →
    HandlerFree s.found 0x0707 (unitBank b) →
    ∃ t, exec (.bankSwitchTrip b) s = .next t ∧ Taken s.found t.chip 0x0707 (unitBank b) false ∧
      t.chip.num (Key.Bank.BANK_STATE b) = 3 ∧
      t.chip.valve.trips = s.found.valve.trips.set b (some (nowUs s.keeper s.found, 0x0707)) ∧
      KeepsObjects (Key.Bank.BANK_STATE b :: eventKeys) s.found t.chip) ∧
  (∀ (s : State) (b : Fin 12) (a code : Nat), nth s.found.valve.trips b none = some (a, code) →
    s.found.num (Key.Bank.BANK_STATE b) = 3 → a + 10000 ≤ nowUs s.keeper s.found →
    exec (.bankReclose b) s = .next { s with chip := (bankShow
      (({ s.found with valve := { s.found.valve with trips := s.found.valve.trips.set b none } } : Chip).put
        (Key.Bank.BANK_STATE b) 0) b) })

/-- R59, R226–R240: the commands of the load switches. A COMMAND that its checks accept is shown and taken, another
answers its code; a hard short acts on a channel that is on, and on no other; a latch of the junction and an open load
act; the inrush window ends in ON; a channel that may retries and opens a new window; the latch clears; a restore
switches on the next channel of its section; a lamp period takes its COMMAND and sets its duty; the filter shows the
section's voltage. The precision of the wire model is the model's reading (log entry 71). -/
def Obligations.LoadSwitchCommandsComplete : Prop :=
  (∀ (s : State) (ch : Fin 48) (value : F32) (v : Val) (c : Chip), served s.found = true →
    judgeOne s.keeper s.found (Key.Ls.COMMAND ch) .sdo (numBytes (Key.Ls.COMMAND ch) value.toNat) = (Rc.OK, v, c) →
    exec (.loadSwitchCommand ch value) s = .next { s with chip :=
      (lsAct s.keeper (c.put (Key.Ls.COMMAND ch) value.toNat) ch value.toNat true) }) ∧
  (∀ (s : State) (ch : Fin 48) (value : F32) (code : Nat) (v : Val) (c : Chip), served s.found = true → code ≠ Rc.OK →
    judgeOne s.keeper s.found (Key.Ls.COMMAND ch) .sdo (numBytes (Key.Ls.COMMAND ch) value.toNat) = (code, v, c) →
    exec (.loadSwitchCommand ch value) s = .next { s with chip := c.emit (.result code []) }) ∧
  (∀ (s : State) (ch : Fin 48), (lsOf s.found ch).on = true →
    exec (.hardShortCutoff ch) s = .next { s with chip := lsTrip s.keeper s.found ch .short false }) ∧
  (∀ (s : State) (ch : Fin 48), (lsOf s.found ch).on = false →
    exec (.hardShortCutoff ch) s = .next { s with chip := s.found }) ∧
  (∀ (s : State) (ch : Fin 48), s.found.num (Key.Ls.STATE ch) = 1 →
    (lsOf s.found ch).onAt + 1000 * s.found.num (Key.Ls.INRUSH_MS ch) ≤ nowUs s.keeper s.found →
    exec (.inrushWindowEnd ch) s = .next { s with chip := s.found.put (Key.Ls.STATE ch) 2 }) ∧
  (∀ (s : State) (ch : Fin 48), retryReady s.keeper s.found ch = true →
    let c := lsHeldDuty (lsSwitchOn s.keeper (lsSet s.found ch { lsOf s.found ch with
      attempts := (lsOf s.found ch).attempts ++ [nowUs s.keeper s.found] }) ch) ch
    exec (.lsRetry ch) s = .next { s with chip :=
      (if c.num (Key.Ls.STATE ch) = 4 then c else c.put (Key.Ls.STATE ch) 1) }) ∧
  (∀ (s : State) (ch : Fin 48), s.found.modes.drives = true →
    exec (.junctionLatchSet ch) s = .next { s with chip := latchSet s.keeper s.found ch false }) ∧
  (∀ (s : State) (ch : Fin 48), armedFor s.keeper s.found Key.InjLs.INJ_LS_THERMAL ch = false →
    exec (.junctionLatchClear ch) s = .next { s with chip :=
      ((lsSet s.found ch { lsOf s.found ch with latch := false }).putBits (Key.Ls.FLAGS ch) 0x80 false) }) ∧
  (∀ (s : State) (sec : Fin 6) (spacing : Fin 101) (samples : List (List F32)), s.found.modes.drives = true →
    let n := sec.val
    let now := fun i => (nth samples i []).map BitVec.toNat
    let sum := (List.range 8).foldl (fun a i => fAdd fmt64 a (meanSquare (now i))) 0
    let c := (List.range 8).foldl (fun c i => wireStep s.keeper c (8 * n + i) spacing (now i)) s.found
    let theta := thetaStep (secOf c n).theta sum 400 10
    armedAt c Key.InjLs.INJ_SECTION_TRIP n = false → fLe fmt64 one64 theta = false →
    exec (.wireCurveUpdate sec spacing samples) s = .next { s with chip :=
      (disarm (secSet c n { secOf c n with theta }) Key.InjLs.INJ_SECTION_TRIP n) }) ∧
  (∀ (s : State) (sec : Fin 6) (m : Nat), s.found.num (Key.Sec.SEC_STATE sec) = 2 →
    (secOf s.found sec).nextAt ≤ nowUs s.keeper s.found →
    let c := s.found.putBits (Key.Sec.SEC_FLAGS sec) 2 false
    restoreNext c sec (secOf c sec).next = some m →
    let c := lsHeldDuty (lsSwitchOn s.keeper c m) m
    let c := if c.num (Key.Ls.STATE m) = 3 then c.put (Key.Ls.STATE m) 1 else c
    exec (.sectionRestore sec) s = .next { s with chip :=
      (secSet c sec { secOf c sec with next := m + 1, nextAt := nowUs s.keeper s.found + 10000 }) }) ∧
  (∀ (s : State) (ch : Fin 48), s.found.modes.drives = true → s.found.num (Key.Ls.OUT_KIND ch) = 1 →
    s.found.num (Key.Ls.STATE ch) < 4 →
    let c := lsTake s.keeper s.found ch
    let r := fDiv fmt32 (c.num (Key.Ls.V_REF ch)) (c.num (Key.Sec.V_SEC (ch / 8)))
    let d := fMul fmt32 (lsOf c ch).run (fMul fmt32 r r)
    ((lsOf c ch).on = false → exec (.lampPeriodStart ch) s = .next { s with chip := c }) ∧
    ((lsOf c ch).on = true → ∃ t, exec (.lampPeriodStart ch) s = .next t ∧
      t.chip.num (Key.Ls.DUTY ch) = (if fLe fmt32 d (fNat fmt32 1) then d else fNat fmt32 1) ∧
      KeepsObjects [Key.Ls.DUTY ch] c t.chip)) ∧
  (∀ (s : State) (sec : Fin 6) (v : F32), s.found.modes.drives = true →
    armedAt s.found Key.InjLs.INJ_SECTION_SUPPLY sec = false → fLt fmt32 v.toNat (fNat fmt32 9) = false →
    fLt fmt32 (fNat fmt32 36) v.toNat = false → (secOf s.found sec).loaded = true →
    ∃ t, exec (.sectionVoltageFilter sec v) s = .next t ∧ t.chip.num (Key.Sec.V_MS sec) = v.toNat ∧
      t.chip.num (Key.Sec.V_SEC sec) = fAdd fmt32 (s.found.num (Key.Sec.V_SEC sec)) (fMul fmt32 (ratio 198013 10000000)
        (fSub fmt32 v.toNat (s.found.num (Key.Sec.V_SEC sec)))) ∧
      KeepsObjects [Key.Sec.V_MS sec, Key.Sec.V_SEC sec, Key.Sec.SEC_FLAGS sec] s.found t.chip) ∧
  (∀ (s : State) (ch : Fin 48), (lsOf s.found ch).on = true → s.found.num (Key.Ls.OPEN_MA ch) ≠ 0 →
    exec (.openLoadDetect ch) s = .next { s with chip := openLoad s.keeper s.found ch false })

/-- R59, R243–R248: the commands of the isolated I/O. A voltage past its filter and beyond a threshold of its input type is
the channel's level; a DO_CMD that its checks accept is shown and taken, another answers its code; overloads of a channel
and of a group act where they concern an output that is on; a retry drives again; a mismatch is judged; a bad barrier
frame counts, a good one with a new marker holds what the outputs then drive; silence brings the group's safe values and
its event. That COUNT counts after INVERT, and that a mismatched output reads the other level, is the model's reading
(log entry 72). -/
def Obligations.IsolatedIoCommandsComplete : Prop :=
  (∀ (s : State) (ch : Fin 128) (mV : Int) (t : Fin 1000), dioPowered s.found = true →
    ((if s.found.num (Key.Dio.IN_TYPE ch) = 3 then 11000 else 15000) ≤ mV →
      exec (.dioInputEdge ch ⟨mV, t⟩ false) s =
        .next { s with chip := dioLevel s.keeper s.found ch true (s.keeper.epoch * 1000 + t) }) ∧
    (mV ≤ 5000 → exec (.dioInputEdge ch ⟨mV, t⟩ false) s =
        .next { s with chip := dioLevel s.keeper s.found ch false (s.keeper.epoch * 1000 + t) })) ∧
  (∀ (s : State) (ch : Fin 128) (value : Bool) (v : Val) (c : Chip), served s.found = true →
    judgeOne s.keeper s.found (Key.Dio.DO_CMD ch) .sdo
      (numBytes (Key.Dio.DO_CMD ch) (if value then 1 else 0)) = (Rc.OK, v, c) →
    exec (.doCmd ch value) s = .next { s with chip :=
      (dioAct s.keeper (c.putFlag (Key.Dio.DO_CMD ch) value) ch value) }) ∧
  (∀ (s : State) (ch : Fin 128) (value : Bool) (code : Nat) (v : Val) (c : Chip), served s.found = true → code ≠ Rc.OK →
    judgeOne s.keeper s.found (Key.Dio.DO_CMD ch) .sdo
      (numBytes (Key.Dio.DO_CMD ch) (if value then 1 else 0)) = (code, v, c) →
    exec (.doCmd ch value) s = .next { s with chip := c.emit (.result code []) }) ∧
  (∀ (s : State) (ch : Fin 128), isOutput s.found ch = true → (dioOf s.found ch).on = true →
    exec (.dioOutputOverload ch) s = .next { s with chip := dioOverload s.keeper s.found ch false }) ∧
  (∀ (s : State) (g : Fin 8), dioPowered s.found = true → keyAshed s.found (Key.Grp.GROUP_STATE g) = false →
    exec (.dioGroupOvercurrent g) s = .next { s with chip := grpOverload s.keeper s.found g false }) ∧
  (∀ (s : State) (ch : Fin 128) (a : Nat), (dioOf s.found ch).retryAt = some a → a ≤ nowUs s.keeper s.found →
    exec (.dioOverloadRetry (.inl ch)) s = .next { s with chip := dioRetry s.keeper s.found ch }) ∧
  (∀ (s : State) (g : Fin 8) (a : Nat), (grpOf s.found g).retryAt = some a → a ≤ nowUs s.keeper s.found →
    exec (.dioOverloadRetry (.inr g)) s = .next { s with chip := ((grpChans g).foldl
      (fun c n => if (dioOf c n).retryAt.isNone then dioRetry s.keeper c n else c)
      ((grpSet s.found g { grpOf s.found g with retryAt := none }).putBits (Key.Grp.GROUP_FLAGS g) 4 false)) }) ∧
  (∀ (s : State) (ch : Fin 128), isOutput s.found ch = true → s.found.num (Key.Dio.FLAGS ch) &&& 3 = 0 →
    HandlerFree s.found 0x080C (unitDio ch) →
    ∃ t, exec (.dioMismatchDetect ch) s = .next t ∧ Taken s.found t.chip 0x080C (unitDio ch) false ∧
      t.chip.num (Key.Dio.FLAGS ch) = s.found.num (Key.Dio.FLAGS ch) ||| 2 ∧
      t.chip.flag (Key.Dio.STATE ch) = ((!(dioOf s.found ch).on) != s.found.flag (Key.Dio.INVERT ch)) ∧
      KeepsObjects (Key.Dio.FLAGS ch :: Key.Dio.STATE ch :: Key.Dio.COUNT ch :: Key.Dio.EDGE_EPOCH ch :: eventKeys)
        s.found t.chip) ∧
  (∀ (s : State) (g : Fin 8), s.found.modes.drives = true →
    ∃ t, exec (.barrierFrame g false) s = .next t ∧
      t.chip.num (Key.Grp.BARRIER_ERRORS g) = (s.found.num (Key.Grp.BARRIER_ERRORS g) + 1) % 0x100000000 ∧
      KeepsObjects [Key.Grp.BARRIER_ERRORS g] s.found t.chip) ∧
  (∀ (s : State) (g : Fin 8), s.found.modes.drives = true → (grpOf s.found g).marker ≠ (grpOf s.found g).seen →
    armedFor s.keeper s.found Key.InjLs.INJ_DIO_SILENCE g = false →
    grpSilent s.found g = false →
    exec (.barrierFrame g true) s = .next { s with chip := ((grpChans g).foldl
      (fun c n => dioSet c n { dioOf c n with heldOn := (dioOf c n).on })
      (grpSet s.found g { grpOf s.found g with
        seen := (grpOf s.found g).marker, advance := nowUs s.keeper s.found, back := true })) }) ∧
  (∀ (s : State) (g : Fin 8), s.found.modes.drives = true → s.found.num (Key.Grp.GROUP_STATE g) = 0 →
    (grpOf s.found g).advance + 1000 * s.found.num (Key.Grp.SILENCE_TIMEOUT g) ≤
      nowUs s.keeper s.found + s.found.gnss.stretch / 1000000 →
    let c := ((((disarm (grpSet s.found g { grpOf s.found g with back := false }) Key.InjLs.INJ_DIO_SILENCE g).put
      (Key.Grp.GROUP_STATE g) 1).putBits (Key.Grp.GROUP_FLAGS g) 8 true).bump (Key.Grp.SILENCES g))
    exec (.groupSilence g) s = .next { s with chip := (raise s.keeper ((grpChans g).foldl (fun c n =>
        if isOutput c n && decide (c.num (Key.Dio.CH_STATE n) ≠ 3) && decide (c.num (Key.Dio.CH_STATE n) ≠ 4) then
          dioSafe s.keeper c n (dioOf c n).heldOn else c) c) 0x080D (unitGrp g)
      (s.found.flt.armed.any fun a => decide (a.key = Key.InjLs.INJ_DIO_SILENCE) && decide (a.value = g.val))) })

/-- R255, R257, R259–R270, R277: the commands of the receiver. Bias faults of a powered antenna act; a bias that holds ends
OPEN; a measurement edge gives out the channels and starts raw sets and solutions; a raw set holds the tracked signals
alone and becomes RAW_DATA at the first open edge; a word whose own bits fail its check is kept, counted and raised; a
solution of the awaited edge is due, with the satellites it uses; in BANKED a burst on ANT0 gives position and time, a
position that stands at once; corrections are taken frame by frame, and lapse past CORR_MAX_AGE. The layout of RTCM
messages and of words is presumed (log entry 66). -/
def Obligations.ReceiverCommandsComplete : Prop :=
  (∀ (s : State) (a : Fin 2), up s.found 8 = true → biasOn s.found a = true →
    exec (.antennaBiasOpen a) s = .next { s with chip := antOpen s.keeper s.found a false } ∧
    exec (.antennaBiasShort a) s = .next { s with chip := antShort s.keeper s.found a false }) ∧
  (∀ (s : State) (a : Fin 2), antStatus s.found a = 1 →
    exec (.antennaBiasRetry a true) s = .next { s with chip := setAntStatus s.found a 0 }) ∧
  (∀ (s : State) (rise : F32) (signals : List GnssSignal), up s.found 8 = true →
    let blocks := (List.range 16).filter fun b => !unitAshed s.found (unitGnb b)
    let c := trackSignals (noiseEdge s.keeper s.found rise.toNat) (64 * blocks.length) signals
    exec (.measurementEdge rise signals) s = .next { s with chip := { c with gnss := { c.gnss with
      raw := if isMeasEdge s.keeper c 100 then some (s.keeper.epoch, gnssMs c) else c.gnss.raw
      sol := if isMeasEdge s.keeper c 50 then some s.keeper.epoch else c.gnss.sol } } }) ∧
  (∀ (s : State) (records : List RawRec) (edge ms : Nat), s.found.gnss.raw = some (edge, ms) →
    let use := records.filter fun r => s.found.gnss.tracks.any fun t =>
      decide (t.ant.val = r.ant) && decide (t.signal.val = r.signal) && decide (t.sv = r.sv)
    exec (.rawSetComplete records) s = .next { s with chip := (tileWrite s.keeper
      { s.found with gnss := { s.found.gnss with raw := none, slip := false } } Key.Raw.RAW_DATA
      (.blob (leBytes 6 edge ++ leBytes 6 ms ++ leBytes 2 use.length ++ leBytes 2 0 ++
        use.flatMap (rawBytes s.found)))) }) ∧
  (∀ (s : State) (w : NavWord), up s.found 8 = true → bitOf (s.found.num Key.Gnss.SIG_ENABLE) w.signal.val = true →
    armedAt s.found Key.Inj.NAV_CHECK w.signal.val = false →
    navCheck w.signal.val w.before (wordBits w.data w.bits) = 1 → s.found.gnss.navs < 4096 →
    HandlerFree s.found 0x0904 theModule →
    ∃ t, exec (.navWordDecoded w) s = .next t ∧ Taken s.found t.chip 0x0904 theModule false ∧
      t.chip.num Key.Raw.NAV_FAILS = (s.found.num Key.Raw.NAV_FAILS + 1) % 0x100000000 ∧
      t.chip.blob Key.Raw.NAV_DATA = s.found.blob Key.Raw.NAV_DATA ++ (leBytes 6 s.keeper.epoch ++ leBytes 1 w.signal.val ++
        leBytes 1 w.sv ++ leBytes 1 w.ant.val ++ leBytes 1 1 ++ leBytes 2 w.bits ++ bitBytes (wordBits w.data w.bits)) ∧
      KeepsObjects (Key.Raw.NAV_FAILS :: Key.Raw.NAV_DATA :: eventKeys) s.found t.chip) ∧
  (∀ (s : State) (sol : Solution), s.found.gnss.sol = some sol.edge → tilesRun s.found = true →
    exec (.solutionComplete sol) s = .next { s with chip := (timeDue s.keeper (headingDue s.keeper (positionDue s.keeper
      (({ s.found with gnss := { s.found.gnss with sol := none } } : Chip).put Key.Gnss.SATS_USED (min (satsUsed s.found) 255))
      sol) sol) sol) }) ∧
  (∀ (s : State) (signals : List GnssSignal) (sol : Solution), s.found.mode = .banked →
    let c := if s.found.modes.bankDown.isNone then
      pdBurst s.keeper { s.found with gnss := { s.found.gnss with burst := some (s.keeper.epoch + 200) } } true else s.found
    let c := trackSignals c 64 (signals.filter fun x => decide (x.ant.val = 0))
    let c := positionDue s.keeper (c.put Key.Gnss.SATS_USED (min (satsUsed c) 255))
      (if 3 ≤ sol.kind.val then { sol with kind := 1 } else sol)
    let c := c.dict.tile.foldl (fun c w => tileStore s.keeper c w.key w.val) { c with dict := { c.dict with tile := [] } }
    exec (.gnssBurst ⟨signals, sol⟩) s = .next { s with chip := timeDue s.keeper c sol }) ∧
  (∀ (s : State) (udp : Bool) (frame : List Byte), up s.found 8 = true →
    exec (.rtcmFrame udp frame) s = .next { s with chip := rtcmBytes s.keeper s.found udp frame } ∧
    exec (.rtcmDatagram frame) s = .next { s with chip := rtcmBytes s.keeper s.found true frame }) ∧
  (∀ (s : State) (a : Nat), s.found.gnss.corrAt = some a →
    a + 1000 * s.found.num Key.Rtcm.CORR_MAX_AGE < s.keeper.epoch →
    exec .correctionsLapse s = .next { s with chip := corrLapse s.found })

/-- R269–R275: the commands of module time. A correction within its bounds is taken while time solutions come; their loss
is acted on; a pulse that is due, its output rested for 100 ms, rises, is shown with its epoch and the time state, and
falls at its width. -/
def Obligations.TimeCommandsComplete : Prop :=
  (∀ (s : State) (ppt : Int) (a : Nat), s.found.gnss.lastValid = some a →
    s.keeper.epoch < a + s.found.num Key.Time.LOSS_MS → s.found.mode ≠ .off →
    exec (.clockCorrectionUpdate ppt) s = .next { s with chip := { s.found with gnss := { s.found.gnss with
      corr := max (-2000000) (min 2000000 ppt) } } }) ∧
  (∀ s : State, s.found.mode ≠ .off → exec .timeSolutionLoss s = .next { s with chip := timeLoss s.keeper s.found }) ∧
  (∀ (s : State) (p : Fin 2) (e : Nat), let x := nth s.found.gnss.pps p {}
    x.high = false → x.next ≤ nowUs s.keeper s.found → s.found.mode ≠ .off → s.found.mode ≠ .banked →
    s.found.gnss.pulses = true →
    s.found.flag (Key.Pps.PPS_ENABLE p) = true → pulseEdge s.keeper s.found = some e →
    x.edge + 500 ≤ e →
    ∃ t, exec (.ppsLeadingEdge p) s = .next t ∧ t.chip.num (Key.Pps.PPS_EPOCH p) = wireEpoch e ∧
      t.chip.num (Key.Pps.PPS_STATE p) = s.found.num Key.Time.TIME_STATE ∧
      t.chip.gnss.pps = s.found.gnss.pps.set p { high := true, edge := e, lead := nowUs s.keeper s.found } ∧
      t.chip.out = s.found.out ++ [.pps p (pulseLevel s.found p true)] ∧
      KeepsObjects [Key.Pps.PPS_EPOCH p, Key.Pps.PPS_STATE p] s.found t.chip) ∧
  (∀ (s : State) (p : Fin 2), let x := nth s.found.gnss.pps p {}
    x.high = true → x.lead + 1000 * s.found.num (Key.Pps.PPS_WIDTH p) ≤ nowUs s.keeper s.found →
    exec (.ppsTrailingEdge p) s = .next { s with chip := (({ s.found with gnss := { s.found.gnss with
      pps := s.found.gnss.pps.set p { x with high := false, next := nowUs s.keeper s.found + 100000 } } } : Chip).emit
        (.pps p (pulseLevel s.found p false))) })

/-- R293: a vision value never exceeds 65,535; where it does not saturate it is within 2^(VIS_SHIFT − 1) internal
units of its component, and with VIS_SHIFT 0 it is the component itself. -/
def Obligations.VisionValuesAreWithinTheirError : Prop :=
  ∀ shift x : Nat, visValue shift x ≤ 65535 ∧
    (shift = 0 → x ≤ 65535 → visValue shift x = x) ∧
    (∀ h, shift = h + 1 → visValue shift x < 65535 →
      visValue shift x * 2 ^ shift ≤ x + 2 ^ h ∧ x ≤ visValue shift x * 2 ^ shift + 2 ^ h)

/-- R283–R287, R296, R298, R300–R305: the commands of vision. A frame of CAM0 starts, a frame left incomplete before it
being discarded, and ends; the first packet of a stream's frame starts it at its 802.1AS time; a further one adds its
rows to the frame received; the memory pipe takes the oldest frame queued; a processed frame gives its outputs; a
camera whose frames are overdue is LOST, and its event is taken; a coded picture takes the lowest quantiser that the
bucket allows, with the values its frame started with, and is skipped where it allows none; held pictures are written
in order once UFS is. The bits of a picture are the encoder's own (log entry 16). -/
def Obligations.VisionCommandsComplete : Prop :=
  (∀ (s : State) (ns : Nat), camRuns s.keeper s.found 0 = true →
    let f : FrameX := { cam := 0, ref := 1000000 * s.keeper.epoch + ns / 10 * 10, cfg := camConfig s.keeper s.found 0 s.keeper.epoch }
    let c := if (camOf s.found 0).recv.isSome then frameError s.keeper s.found 0 false else s.found
    exec (.cam0FrameStart ns) s = .next { s with chip := camSet c 0 { camOf c 0 with recv := some f } }) ∧
  (∀ (s : State) (format : FrameFormat) (rows : List (List Nat)) (f : FrameX), (camOf s.found 0).recv = some f →
    exec (.cam0FrameEnd format rows) s = .next { s with chip := (frameDone s.keeper s.found { f with
      rows := rows
      broken := !(decide (rows.length = format.lines) && rows.all fun r => decide (r.length = format.width)) }) }) ∧
  (∀ (s : State) (cam : Fin 7) (p : RvfPacket) (f : FrameX),
    let n := cam.val + 1
    camRuns s.keeper s.found n = true → p.streamId.toNat = s.found.num (Key.CamCfg.STREAM_ID n) →
    s.found.num (Key.Eth.LINK (n + 3)) = 1 → p.first = none → (camOf s.found n).recv = some f → p.last = false →
    exec (.rvfPacket cam p) s = .next { s with chip := (camSet (s.found.bump (Key.Eth.RX_FRAMES (n + 3))) n
      { camOf s.found n with recv := some { f with
        rows := f.rows ++ p.rows, broken := f.broken || p.gap || !formatAgrees f.cfg n p.format } }) }) ∧
  (∀ (s : State) (cam : Fin 7) (p : RvfPacket) (stamp : BitVec 32) (f : FrameX),
    let n := cam.val + 1
    camRuns s.keeper s.found n = true → p.streamId.toNat = s.found.num (Key.CamCfg.STREAM_ID n) →
    s.found.num (Key.Eth.LINK (n + 3)) = 1 → p.first = some stamp → p.last = false →
    let c := s.found.bump (Key.Eth.RX_FRAMES (n + 3))
    let c := streamStart s.keeper c n (avtpRef s.keeper c stamp.toNat) p.format
    (camOf c n).recv = some f →
    exec (.rvfPacket cam p) s = .next { s with chip := (camSet c n { camOf c n with recv := some { f with
      rows := f.rows ++ p.rows, broken := f.broken || p.gap || !formatAgrees f.cfg n p.format } }) }) ∧
  (∀ (s : State) (f : FrameX) (q : List FrameX), up s.found 9 = true → unitAshed s.found (unitPipe 1) = false →
    s.found.vis.proc = none → s.found.vis.queue = f :: q →
    exec .memoryPipeTake s = .next { s with chip :=
      (queueShow { s.found with vis := { s.found.vis with proc := some f, queue := q } }) }) ∧
  (∀ (s : State) (f : FrameX), s.found.vis.line = some f →
    exec (.frameProcessed 0) s = .next { s with chip :=
      (frameOutputs s.keeper { s.found with vis := { s.found.vis with line := none } } f) }) ∧
  (∀ (s : State) (cam : Fin 8) (f : FrameX), cam ≠ 0 → s.found.vis.proc = some f → f.cam = cam.val →
    exec (.frameProcessed cam) s = .next { s with chip :=
      (frameOutputs s.keeper { s.found with vis := { s.found.vis with proc := none } } f) }) ∧
  (∀ (s : State) (cam : Fin 8), up s.found 9 = true → s.found.flag (Key.CamCfg.CAM_ENABLE cam) = true →
    s.found.num (Key.CamSt.CAM_STATE cam) = 1 ∨ s.found.num (Key.CamSt.CAM_STATE cam) = 2 →
    s.found.num (Key.CamSt.FORMAT_RESULT cam) = 0 →
    10 * 1000000 * ((odRat s.found.od (Key.CamCfg.FPS cam)).2 : Int) ≤
      ((nowUs s.keeper s.found : Int) - (camOf s.found cam).since) * (odRat s.found.od (Key.CamCfg.FPS cam)).1 →
    HandlerFree s.found 0x0A01 (unitCam cam) →
    ∃ t inj, exec (.cameraLost cam) s = .next t ∧ Taken s.found t.chip 0x0A01 (unitCam cam) inj ∧
      t.chip.num (Key.CamSt.CAM_STATE cam) = 3 ∧ KeepsObjects (Key.CamSt.CAM_STATE cam :: eventKeys) s.found t.chip) ∧
  (∀ (s : State) (cam : Fin 8) (p : CodedPicture) (e : EncX) (rest : List EncX),
    s.found.vis.enc = e :: rest → e.cam = cam.val →
    odNum e.cfg (Key.CamCfg.CODE_DEST cam) = 0 → odNum e.cfg (Key.CamCfg.CODE_RECORD cam) = 0 → p.inTime = true →
    armedAt s.found Key.Inj.ENC_FAULT 1 = false →
    let x := camOf s.found cam
    let level := x.bucket - odNum e.cfg (Key.CamCfg.CODE_RATE cam) * (nowUs s.keeper s.found - x.bucketAt) / 1000000
    ∃ t, exec (.pictureCoded cam p) s = .next t ∧ t.chip.vis.enc = rest ∧
      (∀ q b, rateChoice e.cfg cam level p = some (q, b) → t.chip.num (Key.CamSt.CODE_QP cam) = q ∧
        t.chip.num (Key.CamSt.CODE_SKIPS cam) = s.found.num (Key.CamSt.CODE_SKIPS cam)) ∧
      (rateChoice e.cfg cam level p = none →
        t.chip.num (Key.CamSt.CODE_QP cam) = odNum e.cfg (Key.CamCfg.CODE_QP_MAX cam) ∧
        t.chip.num (Key.CamSt.CODE_SKIPS cam) = (s.found.num (Key.CamSt.CODE_SKIPS cam) + 1) % 0x100000000) ∧
      KeepsObjects [Key.CamSt.CODE_QP cam, Key.CamSt.CODE_SKIPS cam] s.found t.chip) ∧
  (∀ s : State, s.found.mode ≠ .off → s.found.mode ≠ .banked → s.found.num Key.WrHold.UFS_WRITE = 0 →
    exec .codedRecordFlush s = .next { s with chip := (s.found.vis.hold.foldl (fun c p => ringWrite c p.1 p.2.1 p.2.2.2)
      (({ s.found with vis := { s.found.vis with hold := [] } } : Chip).put Key.Vis.HOLD_USED 0)) })

/-- R307–R320: the commands of fusion. A cycle that may begin is under way with the edge as its own; detections of an
enabled source count and are kept where they are newer; a LIDAR datagram is taken; a cycle complete in time is due at
the first open edge; a lost one counts and its event is taken; ego data that end after EGO_COAST make EGO_VALID false.
The estimator is free, and what the rules leave of tracks and zones is the model's reading (log entries 17, 59).
-/
def Obligations.FusionCommandsComplete : Prop :=
  (∀ s : State, s.keeper.epoch % 50 = 0 → up s.found 9 = true → tilesRun s.found = true → gateOpen s.found 4 = true →
    unitAshed s.found unitFusion = false → s.found.fus.cycles = [] →
    ∃ t, exec .fusionCycle s = .next t ∧ t.chip.fus.cycles.map (·.edge) = [s.keeper.epoch] ∧ t.chip.fus.late = false) ∧
  (∀ (s : State) (src : Fin 16) (e : Nat) (found : List Detection), s.found.num (Key.Src.KIND src) = 1 →
    up s.found 9 = true → tilesRun s.found = true → unitAshed s.found unitFusion = false →
    s.found.flag (Key.Src.SRC_ENABLE src) = true → nth s.found.fus.samples src none = none →
    s.found.fus.published = none →
    exec (.tileDetectionsComplete src e found) s = .next { s with chip := { s.found.bump (Key.Src.SAMPLES src) with
      fus := { s.found.fus with samples := s.found.fus.samples.set src (some (e, found)) } } }) ∧
  (∀ (s : State) (n : Fin 4) (data : List Byte),
    exec (.lidarDatagram n data) s = .next { s with chip := lidarReceive s.keeper s.found n data }) ∧
  (∀ (s : State) (ego : Bool) (y : FusCycle) (rest : List FusCycle), s.found.fus.cycles = y :: rest → y.doomed = false →
    nowUs s.keeper s.found ≤ 1000 * y.edge + 100000 →
    ∃ t, exec (.fusionCycleComplete ego) s = .next t ∧ (openEdge s.keeper, y.edge) ∈ t.chip.fus.due) ∧
  (∀ (s : State) (y : FusCycle) (rest : List FusCycle), s.found.fus.cycles = y :: rest →
    1000 * y.edge + 100000 ≤ nowUs s.keeper s.found → HandlerFree s.found 0x0B02 unitFusion →
    ∃ t, exec .fusionCycleLost s = .next t ∧ Taken s.found t.chip 0x0B02 unitFusion y.doomed ∧
      t.chip.fus = { s.found.fus with cycles := rest } ∧
      t.chip.num Key.Fus.CYCLES_LOST = (s.found.num Key.Fus.CYCLES_LOST + 1) % 0x100000000 ∧
      KeepsObjects (Key.Fus.CYCLES_LOST :: eventKeys) s.found t.chip) ∧
  (∀ s : State, up s.found 9 = true → unitAshed s.found unitFusion = false → s.found.fus.egoLost = false →
    s.found.fus.egoAt + s.found.num Key.Fus.EGO_COAST ≤ s.keeper.epoch →
    ∃ t, exec .egoCoastExpiry s = .next t ∧ t.chip.fus.egoLost = true ∧
      (⟨openEdge s.keeper, .tile, Key.Fus.EGO_VALID, .num 0⟩ : Write) ∈ t.chip.dict.tile)

/-- R328, R334, R339–R345: the commands of a CAN port. A frame that no CAN bus carries faults; one that the port
receives is recognised and accepted; a frame sent leaves its buffer and the port, and counts in TX_SENT; an error
counts and adds 8 to TEC; claims are heard and settle after 250 ms; bus-off and its recovery change the port's state;
time references are queued. Claims are those of J1939-81, errors the rules leave out those of ISO 11898-1; which frame
faults and which is counted is the model's (log entries 8, 52 to 55). -/
def Obligations.CanCommandsComplete : Prop :=
  (∀ (s : State) (p : Fin 12) (f : CanFrame) (sof : Nat), canFrameOk f = false →
    exec (.canFrameReceived p f sof) s = .fault .illFormed) ∧
  (∀ (s : State) (p : Fin 12) (f : CanFrame) (sof : Nat), canFrameOk f = true → canOnBus s.found p = true →
    (f.fdf = true → s.found.flag (Key.Can.FD_ENABLE p) = true) → canKnown s.found p f = .other →
    exec (.canFrameReceived p f sof) s = .next { s with chip :=
      (canAccept s.keeper (recGood s.keeper s.found p) p f sof false) }) ∧
  (∀ (s : State) (p : Fin 12) (f : TxFrame) (sof : Nat), (canOf s.found p).submits = [] →
    txOffered s.keeper s.found p = some f →
    let c := (txRemove s.found p f).emit (.can p (txId s.found p f) f.ext f.fdf f.brs f.data)
    let c := (c.bump (Key.Can.TX_SENT p)).put (Key.Can.TEC p) (c.num (Key.Can.TEC p) - 1)
    exec (.canFrameTransmitted p (.sent sof none)) s = .next { s with chip :=
      (canJudge s.keeper (txDone s.keeper c p f sof) p false) }) ∧
  (∀ (s : State) (p : Fin 12) (f : TxFrame), (canOf s.found p).submits = [] → txOffered s.keeper s.found p = some f →
    s.found.num (Key.Can.TEC p) + 8 ≤ 255 →
    exec (.canFrameTransmitted p .error) s = .next { s with chip := (canJudge s.keeper
      ((s.found.bump (Key.Can.ERR_FRAMES p)).put (Key.Can.TEC p) (s.found.num (Key.Can.TEC p) + 8)) p false) }) ∧
  (∀ (s : State) (p : Fin 12), (canOf s.found p).submits = [] →
    let x := canOf s.found p
    let beyond := fun f : TxFrame => decide (f.born + 1000 * f.life ≤ nowUs s.keeper s.found)
    exec (.canFrameLifetimeExpiry p) s = .next { s with chip := ((x.queue.filter beyond ++ x.time.filter beyond).foldl
      (fun c f => txDrop s.keeper c p f true false) (canPut s.found p { x with
        queue := x.queue.filter (fun f => !beyond f), time := x.time.filter (fun f => !beyond f) })) }) ∧
  (∀ (s : State) (p : Fin 12) (name : BitVec 64) (a : Byte), canOnBus s.found p = true →
    exec (.addressClaimReceived p name a) s = .next { s with chip :=
      (claimHeard s.keeper s.found p name.toNat a.toNat false) }) ∧
  (∀ (s : State) (p : Fin 12) (a : Nat), s.found.num (Key.Can.CLAIM_STATE p) = 1 → (canOf s.found p).claimAt = some a →
    canOnBus s.found p = true → a + 250000 ≤ nowUs s.keeper s.found →
    ∃ t, exec (.claimSettleExpiry p) s = .next t ∧ t.chip.num (Key.Can.CLAIM_STATE p) = 2 ∧
      t.chip.num (Key.Can.ADDRESS p) = (canOf s.found p).claimAddr ∧
      KeepsObjects [Key.Can.CLAIM_STATE p, Key.Can.ADDRESS p] s.found t.chip) ∧
  (∀ (s : State) (p : Fin 12) (tec rec_ : Nat), canOnBus s.found p = true → HandlerFree s.found 0x0C01 (unitCan p) →
    ∃ t, exec (.busOff p tec rec_) s = .next t ∧ Taken s.found t.chip 0x0C01 (unitCan p) false ∧
      t.chip.num (Key.Can.CAN_STATE p) = 4 ∧ t.chip.num (Key.Can.TEC p) = min tec 256 ∧
      t.chip.num (Key.Can.REC p) = min rec_ 255 ∧
      t.chip.num (Key.Can.BUS_OFFS p) = (s.found.num (Key.Can.BUS_OFFS p) + 1) % 0x100000000 ∧
      KeepsObjects ([Key.Can.CAN_STATE p, Key.Can.TEC p, Key.Can.REC p, Key.Can.BUS_OFFS p] ++ eventKeys) s.found t.chip) ∧
  (∀ (s : State) (p : Fin 12), s.found.num (Key.Can.CAN_STATE p) = 5 → canActive s.found p = true →
    s.found.flag (Key.Can.CLAIM_ENABLE p) = false →
    ∃ t, exec (.recoveryComplete p) s = .next t ∧ t.chip.num (Key.Can.CAN_STATE p) = 2 ∧
      t.chip.num (Key.Can.TEC p) = 0 ∧ t.chip.num (Key.Can.REC p) = 0 ∧
      (canOf t.chip p).time = [] ∧
      KeepsObjects ([Key.Can.CAN_STATE p, Key.Can.TEC p, Key.Can.REC p, Key.Can.TX_DROPPED p] ++ eventKeys) s.found t.chip) ∧
  (∀ (s : State) (p : Fin 12), canActive s.found p = true → s.found.flag (Key.CanX.TIME_ENABLE p) = true →
    s.keeper.epoch % max (s.found.num (Key.CanX.TIME_PERIOD p)) 1 = 0 → (canOf s.found p).time = [] →
    ∃ t, exec (.timeReferenceMessage p) s = .next t ∧
      t.chip.num (Key.CanX.TIME_SEQ p) = (s.found.num (Key.CanX.TIME_SEQ p) + 1) % 256 ∧
      KeepsObjects [Key.CanX.TIME_SEQ p] s.found t.chip)

/-- R348–R351: the commands of the Ethernet ports, on a port that is up. An irregular frame is discarded; ARP and echo
requests for its address are answered; Announce and Sync leave on their intervals; a peer-delay request is answered
with its times; a foreign Announce counts; a link change is noted; a datagram for no service counts, and one for the
RTCM service is taken. The literal GPS time plus 19 s is the model's reading (log entry 56). -/
def Obligations.EthernetCommandsComplete : Prop :=
  (∀ (s : State) (p : Fin 12), ethUp s.found p = true →
    ∃ t, exec (.ethFrameDiscarded p) s = .next t ∧
      t.chip.num (Key.Eth.RX_FRAMES p) = (s.found.num (Key.Eth.RX_FRAMES p) + 1) % 0x100000000 ∧
      t.chip.num (Key.Eth.RX_DISCARDS p) = (s.found.num (Key.Eth.RX_DISCARDS p) + 1) % 0x100000000 ∧
      KeepsObjects [Key.Eth.RX_FRAMES p, Key.Eth.RX_DISCARDS p] s.found t.chip) ∧
  (∀ (s : State) (p : Fin 12) (a : BitVec 32), ethUp s.found p = true → hasIp p = true →
    s.found.num (Key.Eth.IP_ADDR p) = a.toNat →
    exec (.arpRequest p a) s = .next { s with chip :=
      (((ethRx s.found p).emit (.arp p a.toNat)).bump (Key.Eth.TX_FRAMES p)) }) ∧
  (∀ (s : State) (p : Fin 12) (src dst : BitVec 32) (data : List Byte), ethUp s.found p = true → hasIp p = true →
    (s.found.num (Key.Eth.IP_ADDR p) = dst.toNat ∨ dst.toNat = 0xFFFFFFFF) → s.found.flag Key.Jop.ICMP_ECHO = true →
    exec (.icmpEchoRequest p src dst data) s = .next { s with chip :=
      (((ethRx s.found p).emit (.echo p src.toNat data)).bump (Key.Eth.TX_FRAMES p)) }) ∧
  (∀ (s : State) (p : Fin 12), ethUp s.found p = true → s.found.flag (Key.Eth.GPTP_ENABLE p) = true →
    intervalOver (nowUs s.keeper s.found) (nth s.found.eth.ann p none) (logInterval s.found Key.Gptp.LOG_ANNOUNCE) = false →
    intervalOver (nowUs s.keeper s.found) (nth s.found.eth.sync p none) (logInterval s.found Key.Gptp.LOG_SYNC) = true →
    ∃ t, exec (.gptpSync p) s = .next t ∧
      t.chip.out = s.found.out ++ [.sync p (gptpNs s.keeper s.found (1000 * s.found.us)).toNat] ∧
      t.chip.eth.sync = s.found.eth.sync.set p (some (nowUs s.keeper s.found)) ∧
      t.chip.num (Key.Eth.TX_FRAMES p) = (s.found.num (Key.Eth.TX_FRAMES p) + 2) % 0x100000000 ∧
      KeepsObjects [Key.Eth.TX_FRAMES p] s.found t.chip) ∧
  (∀ (s : State) (p : Fin 12) (rxNs : Nat), ethUp s.found p = true → s.found.flag (Key.Eth.GPTP_ENABLE p) = true →
    exec (.gptpPeerDelayRequest p rxNs) s = .next { s with chip := (((ethRx s.found p).emit (.peerDelay p
      (gptpNs s.keeper s.found ((rxNs : Int) - 1000000 * s.keeper.epoch)).toNat
      (gptpNs s.keeper s.found (1000 * s.found.us)).toNat)).bump (Key.Eth.TX_FRAMES p) 2) }) ∧
  (∀ (s : State) (p : Fin 12), ethUp s.found p = true →
    ∃ t, exec (.foreignAnnounce p) s = .next t ∧
      t.chip.num Key.Gptp.FOREIGN_ANNOUNCE = (s.found.num Key.Gptp.FOREIGN_ANNOUNCE + 1) % 0x100000000 ∧
      KeepsObjects [Key.Eth.RX_FRAMES p, Key.Gptp.FOREIGN_ANNOUNCE] s.found t.chip) ∧
  (∀ (s : State) (p : Fin 14), p.val < 12 → ∀ b : Bool,
    exec (.ethLinkChange p b) s = .next { s with chip :=
      { s.found with eth := { s.found.eth with phy := s.found.eth.phy.set p b } } }) ∧
  (∀ (s : State) (d : UdpIn), ethUp s.found d.port = true → d.irregular = false → hasIp d.port = true →
    d.dst.toNat = s.found.num (Key.Eth.IP_ADDR d.port) → d.dstPort.toNat < 47600 →
    exec (.udpDatagram d) s = .next { s with chip := (ethRx s.found d.port).bump Key.Jop.UDP_NO_SERVICE }) ∧
  (∀ (s : State) (d : UdpIn), ethUp s.found 11 = true → d.port = 11 → d.irregular = false →
    d.dst.toNat = s.found.num (Key.Eth.IP_ADDR 11) → d.dstPort.toNat = 47601 →
    exec (.udpDatagram d) s = .next { s with chip := rtcmBytes s.keeper (ethRx s.found 11) true d.data })

/-- R356–R362: the commands of the fabric. A HELLO leaves on each port that is not ashed; a HELLO received refreshes
its link; a link and a record that are not refreshed end; a held number is freed; settling ends with a number; a frame
of another kind is discarded; requests and responses that are not for this module are relayed, a response for it
leaves to its source. The bits of a record and its refresh are the model's reading (log entry 58). -/
def Obligations.FabricCommandsComplete : Prop :=
  (∀ s : State, fabOn s.found = true → intervalOver (nowUs s.keeper s.found) s.found.fab.helloAt 10000 = true →
    unitAshed s.found (unitFab 0) = false → unitAshed s.found (unitFab 1) = false →
    let c : Chip := { s.found with fab := { s.found.fab with helloAt := some (nowUs s.keeper s.found) } }
    ∃ t, exec .helloSend s = .next t ∧ t.chip.fab.helloAt = some (nowUs s.keeper s.found) ∧
      t.chip.out = s.found.out ++ [.fab 0 1 (fabNumber c) 0 15 0 0 (helloBytes s.keeper c 0)] ++
        [.fab 1 1 (fabNumber c) 0 15 0 0 (helloBytes s.keeper
          (c.emit (.fab 0 1 (fabNumber c) 0 15 0 0 (helloBytes s.keeper c 0))) 1)] ∧ t.chip.od = s.found.od) ∧
  (∀ (s : State) (f : Fin 2) (h : Hello), fabOn s.found = true → unitAshed s.found (unitFab f) = false →
    armedFor s.keeper s.found Key.Inj.FAB_LINK f = false → s.found.num (Key.FLink.FLINK_STATE f) ≠ 1 →
    (fabLink s.found f).peer ≠ h.identity → f.val < s.found.fab.links.length →
    ∃ t, exec (.helloReceived f h) s = .next t ∧
      fabLink t.chip f = { peer := h.identity, good := 1, last := some (nowUs s.keeper s.found), t3 := h.t3, t4 := h.t4 } ∧
      t.chip.od = s.found.od) ∧
  (∀ (s : State) (f : Fin 2) (a : Nat), (fabLink s.found f).last = some a → a + 30000 ≤ nowUs s.keeper s.found →
    exec (.fabricLinkTimeout f) s = .next { s with chip := fabLinkDown s.keeper s.found f false }) ∧
  (∀ (s : State) (identity : Nat) (r : FabRec), fabRec s.found identity = some r →
    r.fresh + 100000 ≤ nowUs s.keeper s.found →
    exec (.moduleRecordTimeout identity) s = .next { s with chip := { s.found with fab := { s.found.fab with
      recs := s.found.fab.recs.map fun q : FabRec => if q.identity = identity then { q with present := false } else q
      held := if r.number = 0 then s.found.fab.held
        else s.found.fab.held.filter (fun h => decide (h.1 ≠ r.number)) ++ [(r.number, s.keeper.epoch)] } } }) ∧
  (∀ (s : State) (m : Fin 16) (n e : Nat),
    s.found.fab.held.find? (fun h => decide (h.1 = m.val + 1)) = some (n, e) →
    e + 1000 * s.found.num Key.Fab.NUMBER_HOLD ≤ s.keeper.epoch →
    exec (.numberHoldExpiry m) s = .next { s with chip := { s.found with fab := { s.found.fab with
      held := s.found.fab.held.filter (fun h => decide (h.1 ≠ m.val + 1))
      recs := s.found.fab.recs.filter fun r => r.present || decide (r.number ≠ m.val + 1) } } }) ∧
  (∀ s : State, fabOn s.found = true → s.found.num Key.Fab.FAB_STATE = 1 →
    s.found.fab.settleAt + 1000 * s.found.num Key.Fab.FAB_SETTLE ≤ nowUs s.keeper s.found →
    ∃ t st n, exec .settlingEnd s = .next t ∧ t.chip.num Key.Fab.FAB_STATE = st ∧ t.chip.num Key.Fab.MODULE_NUMBER = n ∧
      (fabPresent s.found = [] → st = 0 ∧ n = 1) ∧
      (fabPresent s.found ≠ [] → s.found.fab.former ≠ 0 → st = 2 ∧ n = s.found.fab.former) ∧
      (fabPresent s.found ≠ [] → s.found.fab.former = 0 → st = 2 ∧ fabUsed s.found n = false ∧ 1 ≤ n ∧ n ≤ 16 ∨
        st = 4 ∧ n = 0) ∧ KeepsObjects [Key.Fab.FAB_STATE, Key.Fab.MODULE_NUMBER] s.found t.chip) ∧
  (∀ (s : State) (f : Fin 2), up s.found 8 = true →
    ∃ t, exec (.otherFabricPortFrame f) s = .next t ∧
      t.chip.num (Key.FLink.FLINK_DISCARDS f) = (s.found.num (Key.FLink.FLINK_DISCARDS f) + 1) % 0x100000000 ∧
      KeepsObjects [Key.FLink.FLINK_DISCARDS f] s.found t.chip) ∧
  (∀ (s : State) (f : Fin 2) (fr : FabFrame), fabOn s.found = true → fabUpLink s.found f = true →
    fabForMe s.found fr = false →
    exec (.jopRequestFrame f fr) s = .next { s with chip := fabRelay s.found 2 fr } ∧
    exec (.jopResponseFrame f fr) s = .next { s with chip := fabRelay s.found 3 fr }) ∧
  (∀ (s : State) (f : Fin 2) (fr : FabFrame), fabOn s.found = true → fabUpLink s.found f = true →
    fabForMe s.found fr = true →
    exec (.jopResponseFrame f fr) s = .next { s with chip :=
      (s.found.emit (.jop fr.origAddr fr.origPort fr.payload)) }) ∧
  (∀ (s : State) (f : Fin 2) (fr : FabFrame) (b : List Byte) (c : Chip), fabOn s.found = true →
    fabUpLink s.found f = true → fabForMe s.found fr = true →
    jopTake s.keeper s.found fr.origAddr fr.origPort 0 true fr.payload = (.answer b, c) →
    exec (.jopRequestFrame f fr) s = .next { s with chip := ((fabSend c 3 { fr with
      src := fabNumber c, dst := fr.src, hops := 15, payload := b }).getD c) })

/-- R370–R377: the commands of field update. A build whose parts are right completes STAGED, and the active set keeps
every copy; a build that may not write is held, with its reason; it resumes; a write error fails it and takes its
event; a trial set that meets its conditions is GREEN; a trial window that ends FAILS the set. Images are free, and
what the rules leave of a trial is the model's reading (log entries 11, 77). -/
def Obligations.UpdateCommandsComplete : Prop :=
  (∀ (s : State) (b : Fin 4), buildState s.found b = 1 → buildHold s.found b = 0 →
    armedAt s.found Key.Inj.UPD_BUILD_FAIL b = false → (buildOf s.found b).parts.all (partGood s.found) = true →
    ∃ t, exec (.buildComplete b) s = .next t ∧ t.chip.num (Key.Build.BUILD_STATE b) = 3 ∧
      t.chip.num (Key.Build.PROGRESS b) = 100 ∧ t.chip.upd.active = s.found.upd.active) ∧
  (∀ (s : State) (b : Fin 4), buildState s.found b = 1 → buildHold s.found b = 3 →
    exec (.buildHeld b) s = .next { s with chip :=
      ((s.found.put (Key.Build.BUILD_STATE b) 2).put (Key.Build.HOLD_REASON b) 3) }) ∧
  (∀ (s : State) (b : Fin 4), buildState s.found b = 1 → buildHold s.found b ≠ 0 → buildHold s.found b ≠ 3 →
    HandlerFree s.found 0x0E02 (unitBuild b) →
    ∃ t, exec (.buildHeld b) s = .next t ∧ Taken s.found t.chip 0x0E02 (unitBuild b) false ∧
      t.chip.num (Key.Build.BUILD_STATE b) = 2 ∧ t.chip.num (Key.Build.HOLD_REASON b) = buildHold s.found b ∧
      KeepsObjects ([Key.Build.BUILD_STATE b, Key.Build.HOLD_REASON b] ++ eventKeys) s.found t.chip) ∧
  (∀ (s : State) (b : Fin 4), buildState s.found b = 2 → buildHold s.found b = 0 →
    (buildOf s.found b).heldTo ≤ s.keeper.epoch →
    exec (.buildResume b) s = .next { s with chip :=
      ((s.found.put (Key.Build.BUILD_STATE b) 1).put (Key.Build.HOLD_REASON b) 0) }) ∧
  (∀ (s : State) (b : Fin 4), buildState s.found b = 1 → HandlerFree s.found 0x0E01 (unitBuild b) →
    ∃ t, exec (.buildWriteError b) s = .next t ∧ Taken s.found t.chip 0x0E01 (unitBuild b) false ∧
      t.chip.num (Key.Build.BUILD_STATE b) = 5 ∧ t.chip.upd.active = s.found.upd.active) ∧
  (∀ s : State, s.found.num Key.Health.HEALTH = 1 → confirmDone s.found = true → acceptOk s.found = true →
    s.found.upd.dsHeld = none → s.found.upd.trialMs ≤ s.found.num Key.Health.TRIAL_S * 1000 →
    exec .healthConfirm s = .next { s with chip := { s.found.put Key.Health.HEALTH 0 with
      upd := { s.found.upd with confirmHeld := decide (s.found.num Key.WrHold.MRAM_WRITE ≠ 0) } } }) ∧
  (∀ s : State, s.found.num Key.Health.HEALTH = 1 → s.found.num Key.Health.TRIAL_S * 1000 ≤ s.found.upd.trialMs →
    confirmDone s.found = false →
    ∃ t, exec .trialWindowEnd s = .next t ∧ t.chip.num Key.Health.HEALTH = 2 ∧ t.chip.num Key.Health.HEALTH_CAUSE = 5 ∧
      KeepsObjects eventKeys s.found t.chip)

/-- R386–R388, R393: the commands of the recorder. A sample of a 1-D measure adds one to the bin of its value and
counts; a sample that is NaN counts in NAN_SAMPLES alone; a commit cycle that is due begins the commit of each changed
record, or is held with its event; a commit complete makes its content the record's current copy. NaN and saturation
follow the model's reading (log entry 68). -/
def Obligations.RecorderCommandsComplete : Prop :=
  (∀ (s : State) (m : Fin 256) (flags first last samples nans b : Nat) (ext : List Extreme) (bins : List (Nat × Nat)),
    let x := measOf s.found.recd.cfg m
    let r := recFind s.found.recd m
    let now := wireEpoch s.keeper.epoch
    let v := refValue (copyAt s.keeper s.found) x.srcX
    x.dims = 1 → s.keeper.epoch % x.sampleMs = 0 → measMode x s.found.mode = true →
    r.live = .meas flags first last samples nans ext bins → bodyLast r.live ≠ now → fIsNan fmt32 v = false →
    binOf v x.loX x.hiX = some b → binAt (binInc bins b) b ≠ 0xFFFFFFFF →
    ∃ ext', exec (.measureSample m) s = .next { s with chip := (recStore s.found { r with dirty := true, live :=
      (.meas flags (if first = 0 then now else first) now (satInc samples) nans ext' (binInc bins b)) }) }) ∧
  (∀ (s : State) (m : Fin 256) (flags first last samples nans : Nat) (ext : List Extreme) (bins : List (Nat × Nat)),
    let x := measOf s.found.recd.cfg m
    let r := recFind s.found.recd m
    let now := wireEpoch s.keeper.epoch
    x.dims = 1 → s.keeper.epoch % x.sampleMs = 0 → measMode x s.found.mode = true →
    r.live = .meas flags first last samples nans ext bins → bodyLast r.live ≠ now →
    fIsNan fmt32 (refValue (copyAt s.keeper s.found) x.srcX) = true →
    exec (.measureSample m) s = .next { s with chip := (recStore s.found { r with dirty := true, live :=
      (.meas (flags ||| 2) (if first = 0 then now else first) now samples (satInc nans) ext bins) }) }) ∧
  (∀ s : State, up s.found 2 = true → s.found.recd.lastCycle + s.found.num Key.Rec.COMMIT_S * 1000 ≤ s.keeper.epoch →
    commitHeld s.keeper s.found = false →
    ∃ t, exec .recorderCommit s = .next t ∧ t.chip.recd.lastCycle = s.keeper.epoch ∧
      (∀ x ∈ s.found.recd.recs, x.dirty = true → x.busy = none → x.began + 1000 ≤ s.keeper.epoch →
        { x with busy := some x.live, dirty := false, began := s.keeper.epoch, wants := false } ∈ t.chip.recd.recs) ∧
      t.chip.flt = s.found.flt) ∧
  (∀ s : State, up s.found 2 = true → s.found.recd.lastCycle + s.found.num Key.Rec.COMMIT_S * 1000 ≤ s.keeper.epoch →
    commitHeld s.keeper s.found = true → s.found.flag Key.Rec.COMMIT_HELD = false →
    HandlerFree s.found 0x0F02 theModule →
    ∃ t, exec .recorderCommit s = .next t ∧
      Taken s.found t.chip 0x0F02 theModule (decide (s.found.num Key.WrHold.MRAM_WRITE = 0)) ∧
      t.chip.num Key.Rec.COMMIT_HELD = 1 ∧ KeepsObjects (Key.Rec.COMMIT_HELD :: eventKeys) s.found t.chip) ∧
  (∀ (s : State) (n : Nat) (x : RecX) (b : RecBody), s.found.recd.recs.find? (fun y => decide (y.id = n)) = some x →
    x.busy = some b →
    ∃ t, exec (.commitComplete n) s = .next t ∧
      t.chip.recd.recs.find? (fun y => decide (y.id = n)) =
        some { x with stored := b, seq := (x.seq + 2) % 0x100000000, busy := none } ∧
      t.chip.num Key.Rec.LAST_COMMIT_EPOCH = wireEpoch s.keeper.epoch)

/-- R401–R409: the commands of a panel. Rails that are up begin its first frame; a frame moves every waveform one code
on; idle rails go off; a DXP60 that is found shows its VCOM; one that is lost is gone, and its event is taken. Corners
of drawing are the model's reading (log entry 82). -/
def Obligations.PanelCommandsComplete : Prop :=
  (∀ (s : State) (p : Fin 2), panelLive s.found p = true → (panelOf s.found p).rails = 1 →
    exec (.panelRailsUp p) s = .next { s with chip := (panelFrame s.keeper (closeHandling
      (panelSet s.found p { panelOf s.found p with rails := 2, railBad := false }) 0x1001 (unitPanel p)) p) }) ∧
  (∀ (s : State) (p : Fin 2), panelLive s.found p = true → (panelOf s.found p).rails = 2 → (panelOf s.found p).pend = [] →
    (panelOf s.found p).regs = [] → (∀ d ∈ (panelOf s.found p).drive, 2 ≤ d.codes.length) →
    p.val < s.found.face.panels.length →
    ∃ t, exec (.panelFrame p) s = .next t ∧
      (panelOf t.chip p).drive = (panelOf s.found p).drive.map (fun d : DriveX => { d with codes := d.codes.drop 1 }) ∧
      (panelOf t.chip p).levels = (panelOf s.found p).levels ∧
      t.chip.num (Key.Panel.PIXELS_BUSY p) = (panelOf s.found p).drive.length) ∧
  (∀ (s : State) (p : Fin 2) (a : Nat), (panelOf s.found p).idleAt = some a → (panelOf s.found p).rails = 2 →
    (panelOf s.found p).pend = [] → (panelOf s.found p).drive = [] →
    a + s.found.num Key.Face.FACE_IDLE_MS * 1000 ≤ nowUs s.keeper s.found →
    exec (.railIdleExpiry p) s = .next { s with chip :=
      (panelSet s.found p { panelOf s.found p with rails := 0 }) }) ∧
  (∀ (s : State) (v : BitVec 16), up s.found 9 = true → (panelOf s.found 1).present = false →
    1 < s.found.face.panels.length →
    ∃ t, exec (.dxp60Detected v) s = .next t ∧ t.chip.num (Key.Panel.VCOM_MV 1) = v.toNat ∧
      (panelOf t.chip 1).present = true) ∧
  (∀ s : State, (panelOf s.found 1).present = true → 1 < s.found.face.panels.length →
    HandlerFree s.found 0x1004 (unitPanel 1) →
    ∃ t, exec .dxp60Lost s = .next t ∧ Taken s.found t.chip 0x1004 (unitPanel 1) false ∧
      (panelOf t.chip 1).present = false ∧ t.chip.num (Key.Panel.PANEL_STATE 1) = 0 ∧
      KeepsObjects ([Key.Panel.PANEL_STATE 1, Key.Panel.PIXELS_BUSY 1, Key.Panel.PIXELS_PENDING 1,
        Key.Panel.HOLD_REASON 1] ++ eventKeys) s.found t.chip)

/-- R412–R437: the commands of clocks, power and temperature. A PLL that is acquiring counts its windows in a row and
locks at the eighth; a locked one only shows its drift; its domains return to it; HEARTH_PPB is shown, and ten
measurements in a row over the limit raise HEARTH_DRIFT; a closed gate is OFF; a reading of a housekeeping slot waits
for its edge; a derate step is taken while a sensor is at WARN; in BANKED the EMBER readings stand and decide MRAM
writes; an FN's demand rises while it dissipates more than its limit. What the rules leave of clocks and temperature
is the model's reading (log entries 78, 79). -/
def Obligations.PowerCommandsComplete : Prop :=
  (∀ (s : State) (p : Fin 4) (x : Int), s.found.num (Key.Pll.PLL_STATE p) = 1 →
    armedAt s.found Key.Inj.PLL_LOCK p = false → x.natAbs ≤ 500 → p.val < s.found.pwr.plls.length →
    ∃ t, exec (.pllWindow p x) s = .next t ∧ t.chip.num (Key.Pll.LAST_DRIFT p) = fInt fmt32 x ∧
      ((pllOf s.found p).passes < 7 → t.chip.num (Key.Pll.PLL_STATE p) = 1 ∧
        (pllOf t.chip p).passes = (pllOf s.found p).passes + 1) ∧
      (7 ≤ (pllOf s.found p).passes → t.chip.num (Key.Pll.PLL_STATE p) = 2 ∧
        (pllOf t.chip p).returnAt = some (nowUs s.keeper s.found + 1000)) ∧
      KeepsObjects [Key.Pll.PLL_STATE p, Key.Pll.LAST_DRIFT p] s.found t.chip) ∧
  (∀ (s : State) (p : Fin 4) (a : Nat), (pllOf s.found p).returnAt = some a → a ≤ nowUs s.keeper s.found →
    pllLocked s.found p = true →
    ∃ t, exec (.pllReturn p) s = .next t ∧
      ∀ d, 1 ≤ d → d < 9 → (domRow d).primary = p.val → t.chip.flag (Key.Dom.DOM_ON_ALT d) = false) ∧
  (∀ (s : State) (ppb : F32), up s.found 8 = true → s.found.num Key.Time.TIME_STATE = timeLocked →
    armedFor s.keeper s.found Key.Inj.HEARTH_DRIFT 1 = false →
    fLt fmt32 (fNat fmt32 (s.found.num Key.Hearth.DRIFT_LIMIT)) (fAbs fmt32 ppb.toNat) = true →
    9 ≤ s.found.pwr.beyond → s.found.num Key.Hearth.HEARTH_STATE = 1 → HandlerFree s.found 0x1101 theModule →
    ∃ t, exec (.hearthPpbMeasurement ppb) s = .next t ∧ Taken s.found t.chip 0x1101 theModule false ∧
      t.chip.num Key.Time.HEARTH_PPB = ppb.toNat ∧ t.chip.num Key.Hearth.HEARTH_STATE = 2 ∧
      t.chip.num Key.Hearth.HEARTH_DRIFTS = (s.found.num Key.Hearth.HEARTH_DRIFTS + 1) % 0x100000000 ∧
      KeepsObjects ([Key.Time.HEARTH_PPB, Key.Hearth.HEARTH_STATE, Key.Hearth.HEARTH_DRIFTS] ++ eventKeys)
        s.found t.chip) ∧
  (∀ (s : State) (n : Fin 21), s.found.num (Key.Gate.GATE_STATE n) = 2 →
    exec (.gateClosed n) s = .next { s with chip := s.found.put (Key.Gate.GATE_STATE n) 0 }) ∧
  (∀ (s : State) (slot : Fin 128) (r : HkReading), up s.found 3 = true → unitAshed s.found (unitDie 18) = false →
    exec (.housekeepingSlot slot r) s = .next { s with chip := { s.found with pwr := { s.found.pwr with
      due := s.found.pwr.due ++ [(openEdge s.keeper, slot.val, slotSource s.keeper slot, r)] } } }) ∧
  (∀ s : State, 2 ≤ s.found.num Key.Therm.THERMAL_STAGE → up s.found 2 = true →
    s.found.pwr.stepAt + s.found.num Key.Therm.DERATE_STEP_S * 1000 ≤ s.keeper.epoch →
    (thermals s.found).any (fun i => atLeast s.found i (Key.Sensor.WARN i)) = true →
    ∃ c, c = demandUp s.keeper { s.found with pwr := { s.found.pwr with stepAt := s.keeper.epoch } } ∧
      exec .derateStep s = .next { s with chip := c }) ∧
  (∀ (s : State) (h m : HkReading) (v : Nat), s.found.mode = .banked → unitAshed s.found (unitSensor 40) = false →
    hkTemp s.found 40 h = some (0, v) →
    ∃ t, exec (.emberSensorRead h m) s = .next t ∧ t.chip.num (Key.Sensor.TEMP 40) = v ∧
      t.chip.num (Key.Sensor.SENSE_STATUS 40) = 0 ∧ t.chip.num Key.WrHold.MRAM_WRITE = t.chip.pwr.mram) ∧
  (∀ s : State, exec .fnDemandEvaluation s = .next { s with chip := fnEval s.keeper s.found Config.isFN }) ∧
  (∀ (k : Keeper) (c : Chip), fnEval k c false = c) ∧
  (∀ (k : Keeper) (c : Chip), up c 3 = true → k.epoch % 1000 = 0 → c.pwr.fnAt = none → c.num Key.Diss.FN_DEMAND < 6 →
    fLt fmt32 (fnLimit c) (c.num Key.Diss.DISS_W) = true →
    fnEval k c true = pwrDerate k { ((c.put Key.Diss.FN_LIMIT_W (fnLimit c)).put Key.Diss.FN_DEMAND
      (c.num Key.Diss.FN_DEMAND + 1)) with pwr := { c.pwr with fnAt := some k.epoch } } false)

/-- R443, R444: the commands of fault handling. A detector's event is taken by the idle handler and counted; the
handler that has a transient handling leaves it open and goes idle; one that has a permanent handling of severity SAFE
or STOP decides SAFE and its unit's ash for the first open edge; a retry that is seen to succeed closes its handling,
a short to the supply that is gone clears its flag, and the outputs of the isolated groups follow PD13's rail.
When an event is taken is the model's reading (log entry 83).
-/
def Obligations.FaultCommandsComplete : Prop :=
  (∀ (s : State) (f : BitVec 16) (u : BitVec 32), s.found.mode ≠ .off → s.found.mode ≠ .banked →
    detOn f.toNat u.toNat = true →
    exec (.faultDetected f u) s = .next { s with chip := detect s.keeper s.found f.toNat u.toNat false }) ∧
  (∀ (k : Keeper) (c : Chip) (u : Nat), HandlerFree c 0x1202 u →
    Taken c (detect k c 0x1202 u false) 0x1202 u false ∧
      (detect k c 0x1202 u false).num Key.Flt.DRIVE_CRC_ERRORS = (c.num Key.Flt.DRIVE_CRC_ERRORS + 1) % 0x100000000 ∧
      KeepsObjects (Key.Flt.DRIVE_CRC_ERRORS :: eventKeys) c (detect k c 0x1202 u false)) ∧
  (∀ (s : State) (e : Event), s.found.flt.cur = some e → e.perm = false → detClass e.code = .B → s.found.flt.stack = [] →
    s.found.flt.queue = [] →
    ∃ t, exec .faultHandlerTake s = .next t ∧ t.chip.flt.cur = none ∧ t.chip.flt.opens = s.found.flt.opens ++ [e] ∧
      t.chip.num Key.Flt.HANDLING = 0 ∧
      KeepsObjects [Key.Flt.HANDLING, Key.Flt.QUEUE_DEPTH, Key.Flt.QUEUE_PEAK] s.found t.chip) ∧
  (∀ (s : State) (e : Event), s.found.flt.cur = some e → e.perm = true → 3 ≤ e.sev → s.found.mode ≠ .kindling →
    ∃ t, exec .faultHandlerTake s = .next t ∧
      (⟨openEdge s.keeper, 2, e.code, decide (e.sev = 4)⟩ : SafeDue) ∈ t.chip.modes.safeDue ∧
      (ashesUnit e.code e.unit = true → (⟨openEdge s.keeper, ashTarget e.code e.unit, e.code, e.injected⟩ : AshDue) ∈
        t.chip.flt.due) ∧
      KeepsObjects [Key.Flt.HANDLING, Key.Flt.QUEUE_DEPTH, Key.Flt.QUEUE_PEAK] s.found t.chip) ∧
  (∀ (s : State) (f : BitVec 16) (u : BitVec 32), f.toNat ≠ 0x1104 → f.toNat ≠ 0x0805 →
    exec (.retryOutcome f u) s = .next { s with chip := closeHandling s.found f.toNat u.toNat }) ∧
  (∀ (s : State) (u : BitVec 32), armedFor s.keeper s.found Key.InjLs.INJ_LS_SHORT_BAT (unitNum u.toNat) = false →
    exec (.retryOutcome 0x0805 u) s = .next { s with
      chip := closeHandling (s.found.putBits (Key.Ls.FLAGS (unitNum u.toNat)) 8 false) 0x0805 u.toNat }) ∧
  (∀ (s : State) (u : BitVec 32), armedFor s.keeper s.found Key.InjLs.INJ_LS_SHORT_BAT (unitNum u.toNat) = true →
    exec (.retryOutcome 0x0805 u) s = .next { s with chip := closeHandling s.found 0x0805 u.toNat }) ∧
  (∀ (s : State) (u : BitVec 32), unitNum u.toNat = 13 →
    exec (.retryOutcome 0x1104 u) s = .next { s with chip := dioRail s.keeper (pdHolds s.keeper s.found 13) }) ∧
  (∀ (s : State) (u : BitVec 32), s.found.num (Key.Pd.PD_STATE (unitNum u.toNat)) = 4 →
    unitAshed s.found (unitPd (unitNum u.toNat)) = false → unitNum u.toNat ≠ 13 →
    ∃ t, exec (.retryOutcome 0x1104 u) s = .next t ∧ t.chip.num (Key.Pd.PD_STATE (unitNum u.toNat)) = 2 ∧
      t.chip.num (Key.Pd.PD_EPOCH (unitNum u.toNat)) = wireEpoch s.keeper.epoch ∧
      KeepsObjects [Key.Pd.PD_STATE (unitNum u.toNat), Key.Pd.PD_EPOCH (unitNum u.toNat)] s.found t.chip)

/-- R444: when the handler is free and no pre-empted handling waits, it takes an event of the highest severity among
those queued; FAULT_QUEUE at the front of the queue goes ahead. The others stay queued. That FAULT_HANDLER_TAKE is the
instant is the model's reading (log entry 83). -/
def Obligations.HandlerTakesTheHighestSeverity : Prop :=
  ∀ (s : State) (e q : Event) (rest : List Event), s.found.flt.cur = some e → s.found.flt.stack = [] →
    s.found.flt.queue = q :: rest →
    ∃ t f, exec .faultHandlerTake s = .next t ∧ t.chip.flt.cur = some f ∧ f ∈ q :: rest ∧
      t.chip.flt.queue.length = rest.length ∧ (∀ x ∈ t.chip.flt.queue, x ∈ q :: rest) ∧
      t.chip.num Key.Flt.HANDLING = f.code ∧
      (q.code = 0x1209 → f = q) ∧ (q.code ≠ 0x1209 → ∀ x ∈ q :: rest, x.sev ≤ f.sev)

/-- R443: an event of an instance and a code whose handling is open, and that stays transient, raises nothing: no
event is counted, and the handler and its queue stay as they are. -/
def Obligations.RecurrencesFoldIntoTheOpenHandling : Prop :=
  ∀ (k : Keeper) (c : Chip) (code unit : Nat) (injected : Bool), handlingOf c code unit = true →
    permNow k c code unit false = false →
    KeepsObjects [] c (raise k c code unit injected) ∧ (raise k c code unit injected).flt.cur = c.flt.cur ∧
      (raise k c code unit injected).flt.queue = c.flt.queue ∧ (raise k c code unit injected).flt.stack = c.flt.stack ∧
      (raise k c code unit injected).recd = c.recd

/-- R45: sub-index 0x00 of every present index is a U8 of access RO that holds the highest sub-index present. -/
def Obligations.HighestSubIndexIsShown : Prop :=
  ∀ ix sub : Nat, sub < 256 → (objInfo (mkKey ix sub)).isSome = true →
    ∃ h, objDefault (mkKey ix 0) = .num h ∧ h < 256 ∧
      (∃ o, objInfo (mkKey ix 0) = some o ∧ o.ty = .u8 ∧ o.acc = .ro ∧ o.dflt = .num h) ∧
      (objInfo (mkKey ix h)).isSome = true ∧ ∀ j, j < 256 → (objInfo (mkKey ix j)).isSome = true → j ≤ h
end

