-- ==== Sys2Proof/Laws/Commands.lean ====
section
/-! SUPPORT. The shape of the meanings: every command but five is a change of the chip alone. -/

namespace Sys2Proof.Machine

/-- A meaning that changes the chip alone leaves the keeper and the queue. -/
theorem onChip_next {f : Keeper → Chip → Chip} {s t : State} (h : onChip f s = .next t) :
    t.keeper = s.keeper ∧ t.pending = s.pending := by
  unfold onChip at h; cases h; exact ⟨rfl, rfl⟩

theorem serve_keeps {f : Keeper → Chip → Nat × List Byte × Chip} {s t : State} (h : serve f s = .next t) :
    t.keeper = s.keeper ∧ t.pending = s.pending := onChip_next h

theorem serveRead_keeps {copy : Nat} {f : Keeper → Chip → Nat × List Byte × Chip} {s t : State}
    (h : serveRead copy f s = .next t) : t.keeper = s.keeper ∧ t.pending = s.pending := onChip_next h

theorem execOp_keeps {ch : Fin 48} {f : Keeper → Chip → Nat → Chip × Bool} {s t : State} (h : execOp ch f s = .next t) :
    t.keeper = s.keeper ∧ t.pending = s.pending := onChip_next h

/-! One lemma for each meaning. -/

theorem execEpochCounterSave_keeps {s t : State} (h : execEpochCounterSave s = .next t) : t.keeper = s.keeper ∧
    t.pending = s.pending := onChip_next h
theorem execDriveLinkFrame_keeps {link : Fin 18} {toDxc good : Bool} {dxa : List (Fin 16 × List Int)} {s t : State} (h
    : execDriveLinkFrame link toDxc good dxa s = .next t) : t.keeper = s.keeper ∧ t.pending = s.pending := onChip_next
    h
theorem execDriveLinkFail_keeps {link : Fin 18} {s t : State} (h : execDriveLinkFail link s = .next t) : t.keeper =
    s.keeper ∧ t.pending = s.pending := onChip_next h
theorem execLinkSilenceSafe_keeps {link : Fin 18} {s t : State} (h : execLinkSilenceSafe link s = .next t) : t.keeper
    = s.keeper ∧ t.pending = s.pending := onChip_next h
theorem execEdgeMarkerFrame_keeps {link : Fin 18} {lost : Fin 8} {s t : State} (h : execEdgeMarkerFrame link lost s =
    .next t) : t.keeper = s.keeper ∧ t.pending = s.pending := onChip_next h
theorem execJopDatagram_keeps {addr : BitVec 32} {port : BitVec 16} {ahead : Nat} {data : List Byte} {s t : State} (h
    : execJopDatagram addr port ahead data s = .next t) : t.keeper = s.keeper ∧ t.pending = s.pending := onChip_next h
theorem execRead_keeps {_h0 : Origin} {copy : Nat} {index : BitVec 16} {sub type : BitVec 8} {s t : State} (h :
    execRead _h0 copy index sub type s = .next t) : t.keeper = s.keeper ∧ t.pending = s.pending := serveRead_keeps h
theorem execWrite_keeps {org : Origin} {index : BitVec 16} {sub type : BitVec 8} {data : List Byte} {s t : State} (h :
    execWrite org index sub type data s = .next t) : t.keeper = s.keeper ∧ t.pending = s.pending := onChip_next h
theorem execSnapshot_keeps {org : Origin} {target : Nat} {entries : List (BitVec 16 × BitVec 8)} {s t : State} (h :
    execSnapshot org target entries s = .next t) : t.keeper = s.keeper ∧ t.pending = s.pending := serve_keeps h
theorem execSnapshotCapture_keeps {slot : Fin 8} {s t : State} (h : execSnapshotCapture slot s = .next t) : t.keeper =
    s.keeper ∧ t.pending = s.pending := onChip_next h
theorem execSnapRelease_keeps {org : Origin} {slot : Fin 8} {value : Byte} {s t : State} (h : execSnapRelease org slot
    value s = .next t) : t.keeper = s.keeper ∧ t.pending = s.pending := onChip_next h
theorem execSnapshotExpiry_keeps {slot : Fin 8} {s t : State} (h : execSnapshotExpiry slot s = .next t) : t.keeper =
    s.keeper ∧ t.pending = s.pending := onChip_next h
theorem execCordOpen_keeps {org : Origin} {s t : State} (h : execCordOpen org s = .next t) : t.keeper = s.keeper ∧
    t.pending = s.pending := serve_keeps h
theorem execCordAdd_keeps {_h0 : Origin} {handle index : BitVec 16} {sub type : BitVec 8} {data : List Byte} {s t :
    State} (h : execCordAdd _h0 handle index sub type data s = .next t) : t.keeper = s.keeper ∧ t.pending = s.pending
    := serve_keeps h
theorem execCordCommit_keeps {handle : BitVec 16} {epoch : Nat} {s t : State} (h : execCordCommit handle epoch s =
    .next t) : t.keeper = s.keeper ∧ t.pending = s.pending := serve_keeps h
theorem execCordAbort_keeps {handle : BitVec 16} {s t : State} (h : execCordAbort handle s = .next t) : t.keeper =
    s.keeper ∧ t.pending = s.pending := serve_keeps h
theorem execCordExpired_keeps {slot : Fin 32} {s t : State} (h : execCordExpired slot s = .next t) : t.keeper =
    s.keeper ∧ t.pending = s.pending := onChip_next h
theorem execDomainSegRead_keeps {org : Origin} {copy : Nat} {index : BitVec 16} {sub : BitVec 8} {offset maxLen : Nat}
    {s t : State} (h : execDomainSegRead org copy index sub offset maxLen s = .next t) : t.keeper = s.keeper ∧
    t.pending = s.pending := serveRead_keeps h
theorem execDomainSegWrite_keeps {org : Origin} {index : BitVec 16} {sub : BitVec 8} {offset : Nat} {data : List Byte}
    {last : Bool} {s t : State} (h : execDomainSegWrite org index sub offset data last s = .next t) : t.keeper =
    s.keeper ∧ t.pending = s.pending := serve_keeps h
theorem execFrozenReadExpiry_keeps {org : Origin} {index : BitVec 16} {sub : BitVec 8} {s t : State} (h :
    execFrozenReadExpiry org index sub s = .next t) : t.keeper = s.keeper ∧ t.pending = s.pending := onChip_next h
theorem execDomainTransferIdle_keeps {index : BitVec 16} {sub : BitVec 8} {s t : State} (h : execDomainTransferIdle
    index sub s = .next t) : t.keeper = s.keeper ∧ t.pending = s.pending := onChip_next h
theorem execSdoUploadInitiate_keeps {index : BitVec 16} {sub : BitVec 8} {s t : State} (h : execSdoUploadInitiate
    index sub s = .next t) : t.keeper = s.keeper ∧ t.pending = s.pending := onChip_next h
theorem execSdoUploadSegment_keeps {toggle : Bool} {s t : State} (h : execSdoUploadSegment toggle s = .next t) :
    t.keeper = s.keeper ∧ t.pending = s.pending := onChip_next h
theorem execSdoDownloadInitiate_keeps {index : BitVec 16} {sub : BitVec 8} {expedited : Option (List Byte)} {size :
    Option Nat} {s t : State} (h : execSdoDownloadInitiate index sub expedited size s = .next t) : t.keeper = s.keeper
    ∧ t.pending = s.pending := onChip_next h
theorem execSdoDownloadSegment_keeps {toggle : Bool} {data : List Byte} {last : Bool} {s t : State} (h :
    execSdoDownloadSegment toggle data last s = .next t) : t.keeper = s.keeper ∧ t.pending = s.pending := onChip_next
    h
theorem execSdoSegmentTimeout_keeps {s t : State} (h : execSdoSegmentTimeout s = .next t) : t.keeper = s.keeper ∧
    t.pending = s.pending := onChip_next h
theorem execHeartbeat_keeps {org : Origin} {value : BitVec 32} {s t : State} (h : execHeartbeat org value s = .next t)
    : t.keeper = s.keeper ∧ t.pending = s.pending := onChip_next h
theorem execHbTimeout_keeps {org : Origin} {value : BitVec 16} {s t : State} (h : execHbTimeout org value s = .next t)
    : t.keeper = s.keeper ∧ t.pending = s.pending := onChip_next h
theorem execLwQuery_keeps {org : Origin} {value : BitVec 32} {s t : State} (h : execLwQuery org value s = .next t) :
    t.keeper = s.keeper ∧ t.pending = s.pending := onChip_next h
theorem execModeRequest_keeps {org : Origin} {value : Byte} {s t : State} (h : execModeRequest org value s = .next t)
    : t.keeper = s.keeper ∧ t.pending = s.pending := onChip_next h
theorem execFeedLow_keeps {s t : State} (h : execFeedLow s = .next t) : t.keeper = s.keeper ∧ t.pending = s.pending :=
    onChip_next h
theorem execFeedLoss_keeps {s t : State} (h : execFeedLoss s = .next t) : t.keeper = s.keeper ∧ t.pending = s.pending
    := onChip_next h
theorem execFeedRestored_keeps {s t : State} (h : execFeedRestored s = .next t) : t.keeper = s.keeper ∧ t.pending =
    s.pending := onChip_next h
theorem execKindlingStepEnd_keeps {f : KindlingFinding} {s t : State} (h : execKindlingStepEnd f s = .next t) :
    t.keeper = s.keeper ∧ t.pending = s.pending := onChip_next h
theorem execHeartbeatMiss_keeps {s t : State} (h : execHeartbeatMiss s = .next t) : t.keeper = s.keeper ∧ t.pending =
    s.pending := onChip_next h
theorem execKeyInputChange_keeps {active : Bool} {s t : State} (h : execKeyInputChange active s = .next t) : t.keeper
    = s.keeper ∧ t.pending = s.pending := onChip_next h
theorem execKeyOffDelayExpiry_keeps {s t : State} (h : execKeyOffDelayExpiry s = .next t) : t.keeper = s.keeper ∧
    t.pending = s.pending := onChip_next h
theorem execCan0WakePattern_keeps {s t : State} (h : execCan0WakePattern s = .next t) : t.keeper = s.keeper ∧
    t.pending = s.pending := onChip_next h
theorem execWakeTimerExpiry_keeps {s t : State} (h : execWakeTimerExpiry s = .next t) : t.keeper = s.keeper ∧
    t.pending = s.pending := onChip_next h
theorem execThermalResume_keeps {s t : State} (h : execThermalResume s = .next t) : t.keeper = s.keeper ∧ t.pending =
    s.pending := onChip_next h
theorem execWheelSlot_keeps {slot : Fin 200} {faults : List (Fin 768 × LockFault)} {s t : State} (h : execWheelSlot
    slot faults s = .next t) : t.keeper = s.keeper ∧ t.pending = s.pending := onChip_next h
theorem execStructuralWrite_keeps {org : Origin} {writes : List (BitVec 16 × BitVec 8 × Nat)} {s t : State} (h :
    execStructuralWrite org writes s = .next t) : t.keeper = s.keeper ∧ t.pending = s.pending := onChip_next h
theorem execFaultInjection_keeps {org : Origin} {index : BitVec 16} {sub : BitVec 8} {value : Nat} {s t : State} (h :
    execFaultInjection org index sub value s = .next t) : t.keeper = s.keeper ∧ t.pending = s.pending := onChip_next h
theorem execAshClear_keeps {org : Origin} {unit : BitVec 32} {s t : State} (h : execAshClear org unit s = .next t) :
    t.keeper = s.keeper ∧ t.pending = s.pending := onChip_next h
theorem execModeReq_keeps {org : Origin} {slot : Fin 30} {value : Byte} {s t : State} (h : execModeReq org slot value
    s = .next t) : t.keeper = s.keeper ∧ t.pending = s.pending := onChip_next h
theorem execSlotBindingWrite_keeps {org : Origin} {writes : List (BitVec 16 × BitVec 8 × Nat)} {s t : State} (h :
    execSlotBindingWrite org writes s = .next t) : t.keeper = s.keeper ∧ t.pending = s.pending := onChip_next h
theorem execCanMapCompose_keeps {slot : Fin 30} {s t : State} (h : execCanMapCompose slot s = .next t) : t.keeper =
    s.keeper ∧ t.pending = s.pending := onChip_next h
theorem execSlopeCapCycle_keeps {s t : State} (h : execSlopeCapCycle s = .next t) : t.keeper = s.keeper ∧ t.pending =
    s.pending := onChip_next h
theorem execSlopeCapComplete_keeps {s t : State} (h : execSlopeCapComplete s = .next t) : t.keeper = s.keeper ∧
    t.pending = s.pending := onChip_next h
theorem execYieldRecordComplete_keeps {s t : State} (h : execYieldRecordComplete s = .next t) : t.keeper = s.keeper ∧
    t.pending = s.pending := onChip_next h
theorem execDeferredRecordFlush_keeps {s t : State} (h : execDeferredRecordFlush s = .next t) : t.keeper = s.keeper ∧
    t.pending = s.pending := onChip_next h
theorem execMapNumber_keeps {org : Origin} {value : BitVec 16} {s t : State} (h : execMapNumber org value s = .next t)
    : t.keeper = s.keeper ∧ t.pending = s.pending := onChip_next h
theorem execCrop_keeps {org : Origin} {value : Byte} {s t : State} (h : execCrop org value s = .next t) : t.keeper =
    s.keeper ∧ t.pending = s.pending := onChip_next h
theorem execMapDelete_keeps {org : Origin} {value : BitVec 16} {s t : State} (h : execMapDelete org value s = .next t)
    : t.keeper = s.keeper ∧ t.pending = s.pending := onChip_next h
theorem execGuidanceCycle_keeps {s t : State} (h : execGuidanceCycle s = .next t) : t.keeper = s.keeper ∧ t.pending =
    s.pending := onChip_next h
theorem execGuidanceCycleComplete_keeps {s t : State} (h : execGuidanceCycleComplete s = .next t) : t.keeper =
    s.keeper ∧ t.pending = s.pending := onChip_next h
theorem execGuidanceCycleLost_keeps {s t : State} (h : execGuidanceCycleLost s = .next t) : t.keeper = s.keeper ∧
    t.pending = s.pending := onChip_next h
theorem execEngageCmd_keeps {org : Origin} {value : Byte} {s t : State} (h : execEngageCmd org value s = .next t) :
    t.keeper = s.keeper ∧ t.pending = s.pending := onChip_next h
theorem execGuideEnable_keeps {org : Origin} {value : Byte} {s t : State} (h : execGuideEnable org value s = .next t)
    : t.keeper = s.keeper ∧ t.pending = s.pending := onChip_next h
theorem execLineData_keeps {org : Origin} {block : List Byte} {s t : State} (h : execLineData org block s = .next t) :
    t.keeper = s.keeper ∧ t.pending = s.pending := onChip_next h
theorem execLineDelete_keeps {org : Origin} {value : Byte} {s t : State} (h : execLineDelete org value s = .next t) :
    t.keeper = s.keeper ∧ t.pending = s.pending := onChip_next h
theorem execOpPresentChange_keeps {active : Bool} {s t : State} (h : execOpPresentChange active s = .next t) :
    t.keeper = s.keeper ∧ t.pending = s.pending := onChip_next h
theorem execSpeedOutOfRangeExpiry_keeps {s t : State} (h : execSpeedOutOfRangeExpiry s = .next t) : t.keeper =
    s.keeper ∧ t.pending = s.pending := onChip_next h
theorem execCoastExpiry_keeps {s t : State} (h : execCoastExpiry s = .next t) : t.keeper = s.keeper ∧ t.pending =
    s.pending := onChip_next h
theorem execValveCommand_keeps {ch : Fin 48} {value : F32} {s t : State} (h : execValveCommand ch value s = .next t) :
    t.keeper = s.keeper ∧ t.pending = s.pending := onChip_next h
theorem execShaperTick_keeps {currents : List (Fin 48 × F32)} {s t : State} (h : execShaperTick currents s = .next t)
    : t.keeper = s.keeper ∧ t.pending = s.pending := onChip_next h
theorem execSeti_keeps {ch : Fin 48} {operand : BitVec 12} {s t : State} (h : execSeti ch operand s = .next t) :
    t.keeper = s.keeper ∧ t.pending = s.pending := execOp_keeps h
theorem execRamp_keeps {ch : Fin 48} {operand : BitVec 12} {s t : State} (h : execRamp ch operand s = .next t) :
    t.keeper = s.keeper ∧ t.pending = s.pending := execOp_keeps h
theorem execWait_keeps {ch : Fin 48} {operand : BitVec 12} {s t : State} (h : execWait ch operand s = .next t) :
    t.keeper = s.keeper ∧ t.pending = s.pending := execOp_keeps h
theorem execDither_keeps {ch : Fin 48} {operand : BitVec 12} {s t : State} (h : execDither ch operand s = .next t) :
    t.keeper = s.keeper ∧ t.pending = s.pending := execOp_keeps h
theorem execLoop_keeps {ch : Fin 48} {operand : BitVec 12} {s t : State} (h : execLoop ch operand s = .next t) :
    t.keeper = s.keeper ∧ t.pending = s.pending := execOp_keeps h
theorem execMark_keeps {ch : Fin 48} {operand : BitVec 12} {s t : State} (h : execMark ch operand s = .next t) :
    t.keeper = s.keeper ∧ t.pending = s.pending := execOp_keeps h
theorem execPeakwin_keeps {ch : Fin 48} {operand : BitVec 12} {s t : State} (h : execPeakwin ch operand s = .next t) :
    t.keeper = s.keeper ∧ t.pending = s.pending := execOp_keeps h
theorem execQuench_keeps {ch : Fin 48} {operand : BitVec 12} {s t : State} (h : execQuench ch operand s = .next t) :
    t.keeper = s.keeper ∧ t.pending = s.pending := execOp_keeps h
theorem execEndProgram_keeps {ch : Fin 48} {s t : State} (h : execEndProgram ch s = .next t) : t.keeper = s.keeper ∧
    t.pending = s.pending := execOp_keeps h
theorem execPeakTimeExpiry_keeps {ch : Fin 48} {s t : State} (h : execPeakTimeExpiry ch s = .next t) : t.keeper =
    s.keeper ∧ t.pending = s.pending := onChip_next h
theorem execOverlapWinExpiry_keeps {ch : Fin 48} {s t : State} (h : execOverlapWinExpiry ch s = .next t) : t.keeper =
    s.keeper ∧ t.pending = s.pending := onChip_next h
theorem execQuenchComplete_keeps {bank : Fin 12} {clampJ : F32} {s t : State} (h : execQuenchComplete bank clampJ s =
    .next t) : t.keeper = s.keeper ∧ t.pending = s.pending := onChip_next h
theorem execCode_keeps {org : Origin} {program : Fin 128} {block : List Byte} {s t : State} (h : execCode org program
    block s = .next t) : t.keeper = s.keeper ∧ t.pending = s.pending := onChip_next h
theorem execLowSideHardCut_keeps {ch : Fin 48} {s t : State} (h : execLowSideHardCut ch s = .next t) : t.keeper =
    s.keeper ∧ t.pending = s.pending := onChip_next h
theorem execBankSwitchTrip_keeps {bank : Fin 12} {s t : State} (h : execBankSwitchTrip bank s = .next t) : t.keeper =
    s.keeper ∧ t.pending = s.pending := onChip_next h
theorem execBankReclose_keeps {bank : Fin 12} {s t : State} (h : execBankReclose bank s = .next t) : t.keeper =
    s.keeper ∧ t.pending = s.pending := onChip_next h
theorem execLoadSwitchCommand_keeps {ch : Fin 48} {value : F32} {s t : State} (h : execLoadSwitchCommand ch value s =
    .next t) : t.keeper = s.keeper ∧ t.pending = s.pending := onChip_next h
theorem execWireCurveUpdate_keeps {sec : Fin 6} {spacing : Fin 101} {samples : List (List F32)} {s t : State} (h :
    execWireCurveUpdate sec spacing samples s = .next t) : t.keeper = s.keeper ∧ t.pending = s.pending := onChip_next h
theorem execHardShortCutoff_keeps {ch : Fin 48} {s t : State} (h : execHardShortCutoff ch s = .next t) : t.keeper =
    s.keeper ∧ t.pending = s.pending := onChip_next h
theorem execInrushWindowEnd_keeps {ch : Fin 48} {s t : State} (h : execInrushWindowEnd ch s = .next t) : t.keeper =
    s.keeper ∧ t.pending = s.pending := onChip_next h
theorem execLsRetry_keeps {ch : Fin 48} {s t : State} (h : execLsRetry ch s = .next t) : t.keeper = s.keeper ∧
    t.pending = s.pending := onChip_next h
theorem execSectionRestore_keeps {sec : Fin 6} {s t : State} (h : execSectionRestore sec s = .next t) : t.keeper =
    s.keeper ∧ t.pending = s.pending := onChip_next h
theorem execJunctionLatchSet_keeps {ch : Fin 48} {s t : State} (h : execJunctionLatchSet ch s = .next t) : t.keeper =
    s.keeper ∧ t.pending = s.pending := onChip_next h
theorem execJunctionLatchClear_keeps {ch : Fin 48} {s t : State} (h : execJunctionLatchClear ch s = .next t) :
    t.keeper = s.keeper ∧ t.pending = s.pending := onChip_next h
theorem execLampPeriodStart_keeps {ch : Fin 48} {s t : State} (h : execLampPeriodStart ch s = .next t) : t.keeper =
    s.keeper ∧ t.pending = s.pending := onChip_next h
theorem execSectionVoltageFilter_keeps {sec : Fin 6} {vMs : F32} {s t : State} (h : execSectionVoltageFilter sec vMs s
    = .next t) : t.keeper = s.keeper ∧ t.pending = s.pending := onChip_next h
theorem execOpenLoadDetect_keeps {ch : Fin 48} {s t : State} (h : execOpenLoadDetect ch s = .next t) : t.keeper =
    s.keeper ∧ t.pending = s.pending := onChip_next h
theorem execDioInputEdge_keeps {ch : Fin 128} {pin : PinSample} {overrun : Bool} {s t : State} (h :
    execDioInputEdge ch pin overrun s = .next t) : t.keeper = s.keeper ∧ t.pending = s.pending := onChip_next h
theorem execDoCmd_keeps {ch : Fin 128} {value : Bool} {s t : State} (h : execDoCmd ch value s = .next t) : t.keeper =
    s.keeper ∧ t.pending = s.pending := onChip_next h
theorem execDioOutputOverload_keeps {ch : Fin 128} {s t : State} (h : execDioOutputOverload ch s = .next t) : t.keeper
    = s.keeper ∧ t.pending = s.pending := onChip_next h
theorem execDioOverloadRetry_keeps {target : Fin 128 ⊕ Fin 8} {s t : State} (h : execDioOverloadRetry target s = .next
    t) : t.keeper = s.keeper ∧ t.pending = s.pending := onChip_next h
theorem execDioGroupOvercurrent_keeps {grp : Fin 8} {s t : State} (h : execDioGroupOvercurrent grp s = .next t) :
    t.keeper = s.keeper ∧ t.pending = s.pending := onChip_next h
theorem execDioMismatchDetect_keeps {ch : Fin 128} {s t : State} (h : execDioMismatchDetect ch s = .next t) : t.keeper
    = s.keeper ∧ t.pending = s.pending := onChip_next h
theorem execBarrierFrame_keeps {grp : Fin 8} {good : Bool} {s t : State} (h : execBarrierFrame grp good s = .next t) :
    t.keeper = s.keeper ∧ t.pending = s.pending := onChip_next h
theorem execGroupSilence_keeps {grp : Fin 8} {s t : State} (h : execGroupSilence grp s = .next t) : t.keeper =
    s.keeper ∧ t.pending = s.pending := onChip_next h
theorem execMeasurementEdge_keeps {noiseRise : F32} {signals : List GnssSignal} {s t : State} (h : execMeasurementEdge noiseRise
    signals s = .next t) : t.keeper = s.keeper ∧ t.pending = s.pending := onChip_next h
theorem execRawSetComplete_keeps {records : List RawRec} {s t : State} (h : execRawSetComplete records s = .next t) :
    t.keeper = s.keeper ∧ t.pending = s.pending := onChip_next h
theorem execSolutionComplete_keeps {sol : Solution} {s t : State} (h : execSolutionComplete sol s = .next t) :
    t.keeper = s.keeper ∧ t.pending = s.pending := onChip_next h
theorem execNavWordDecoded_keeps {word : NavWord} {s t : State} (h : execNavWordDecoded word s = .next t) : t.keeper =
    s.keeper ∧ t.pending = s.pending := onChip_next h
theorem execRtcmFrame_keeps {udp : Bool} {frame : List Byte} {s t : State} (h : execRtcmFrame udp frame s = .next t) :
    t.keeper = s.keeper ∧ t.pending = s.pending := onChip_next h
theorem execRtcmIn_keeps {org : Origin} {block : List Byte} {s t : State} (h : execRtcmIn org block s = .next t) :
    t.keeper = s.keeper ∧ t.pending = s.pending := onChip_next h
theorem execRtcmDatagram_keeps {data : List Byte} {s t : State} (h : execRtcmDatagram data s = .next t) : t.keeper =
    s.keeper ∧ t.pending = s.pending := onChip_next h
theorem execCorrectionsLapse_keeps {s t : State} (h : execCorrectionsLapse s = .next t) : t.keeper = s.keeper ∧
    t.pending = s.pending := onChip_next h
theorem execClockCorrectionUpdate_keeps {ppt : Int} {s t : State} (h : execClockCorrectionUpdate ppt s = .next t) :
    t.keeper = s.keeper ∧ t.pending = s.pending := onChip_next h
theorem execTimeSolutionLoss_keeps {s t : State} (h : execTimeSolutionLoss s = .next t) : t.keeper = s.keeper ∧
    t.pending = s.pending := onChip_next h
theorem execPpsLeadingEdge_keeps {p : Fin 2} {s t : State} (h : execPpsLeadingEdge p s = .next t) : t.keeper =
    s.keeper ∧ t.pending = s.pending := onChip_next h
theorem execPpsTrailingEdge_keeps {p : Fin 2} {s t : State} (h : execPpsTrailingEdge p s = .next t) : t.keeper =
    s.keeper ∧ t.pending = s.pending := onChip_next h
theorem execAntennaBiasOpen_keeps {ant : Fin 2} {s t : State} (h : execAntennaBiasOpen ant s = .next t) : t.keeper =
    s.keeper ∧ t.pending = s.pending := onChip_next h
theorem execAntennaBiasShort_keeps {ant : Fin 2} {s t : State} (h : execAntennaBiasShort ant s = .next t) : t.keeper =
    s.keeper ∧ t.pending = s.pending := onChip_next h
theorem execAntennaBiasRetry_keeps {ant : Fin 2} {holds : Bool} {s t : State} (h : execAntennaBiasRetry ant holds s =
    .next t) : t.keeper = s.keeper ∧ t.pending = s.pending := onChip_next h
theorem execGnssBurst_keeps {burst : GnssBurst} {s t : State}
    (h : execGnssBurst burst s = .next t) : t.keeper = s.keeper ∧ t.pending = s.pending := onChip_next h
theorem execCam0FrameStart_keeps {vsyncNs : Nat} {s t : State} (h : execCam0FrameStart vsyncNs s = .next t) : t.keeper
    = s.keeper ∧ t.pending = s.pending := onChip_next h
theorem execCam0FrameEnd_keeps {format : FrameFormat} {rows : List (List Nat)} {s t : State} (h : execCam0FrameEnd
    format rows s = .next t) : t.keeper = s.keeper ∧ t.pending = s.pending := onChip_next h
theorem execRvfPacket_keeps {cam : Fin 7} {p : RvfPacket} {s t : State} (h : execRvfPacket cam p s = .next t) :
    t.keeper = s.keeper ∧ t.pending = s.pending := onChip_next h
theorem execMemoryPipeTake_keeps {s t : State} (h : execMemoryPipeTake s = .next t) : t.keeper = s.keeper ∧ t.pending
    = s.pending := onChip_next h
theorem execFrameProcessed_keeps {cam : Fin 8} {s t : State} (h : execFrameProcessed cam s = .next t) : t.keeper =
    s.keeper ∧ t.pending = s.pending := onChip_next h
theorem execCameraLost_keeps {cam : Fin 8} {s t : State} (h : execCameraLost cam s = .next t) : t.keeper = s.keeper ∧
    t.pending = s.pending := onChip_next h
theorem execPictureCoded_keeps {cam : Fin 8} {p : CodedPicture} {s t : State} (h : execPictureCoded cam p s = .next t)
    : t.keeper = s.keeper ∧ t.pending = s.pending := onChip_next h
theorem execCodedRecordFlush_keeps {s t : State} (h : execCodedRecordFlush s = .next t) : t.keeper = s.keeper ∧
    t.pending = s.pending := onChip_next h
theorem execFusionCycle_keeps {s t : State} (h : execFusionCycle s = .next t) : t.keeper = s.keeper ∧ t.pending =
    s.pending := onChip_next h
theorem execFusionCycleComplete_keeps {ego : Bool} {s t : State} (h : execFusionCycleComplete ego s = .next t) :
    t.keeper = s.keeper ∧ t.pending = s.pending := onChip_next h
theorem execFusionCycleLost_keeps {s t : State} (h : execFusionCycleLost s = .next t) : t.keeper = s.keeper ∧
    t.pending = s.pending := onChip_next h
theorem execLidarDatagram_keeps {n : Fin 4} {data : List Byte} {s t : State} (h : execLidarDatagram n data s = .next
    t) : t.keeper = s.keeper ∧ t.pending = s.pending := onChip_next h
theorem execEgoCoastExpiry_keeps {s t : State} (h : execEgoCoastExpiry s = .next t) : t.keeper = s.keeper ∧ t.pending
    = s.pending := onChip_next h
theorem execTileDetectionsComplete_keeps {src : Fin 16} {sourceEpoch : Nat} {found : List Detection} {s t : State} (h
    : execTileDetectionsComplete src sourceEpoch found s = .next t) : t.keeper = s.keeper ∧ t.pending = s.pending :=
    onChip_next h
theorem execCanFrameTransmitted_keeps {port : Fin 12} {outcome : TxEnd} {s t : State} (h : execCanFrameTransmitted
    port outcome s = .next t) : t.keeper = s.keeper ∧ t.pending = s.pending := onChip_next h
theorem execCanFrameLifetimeExpiry_keeps {port : Fin 12} {s t : State} (h : execCanFrameLifetimeExpiry port s = .next
    t) : t.keeper = s.keeper ∧ t.pending = s.pending := onChip_next h
theorem execTxSubmit_keeps {org : Origin} {port : Fin 12} {block : List Byte} {s t : State} (h : execTxSubmit org port
    block s = .next t) : t.keeper = s.keeper ∧ t.pending = s.pending := onChip_next h
theorem execAddressClaimReceived_keeps {port : Fin 12} {name : BitVec 64} {addr : Byte} {s t : State} (h :
    execAddressClaimReceived port name addr s = .next t) : t.keeper = s.keeper ∧ t.pending = s.pending := onChip_next
    h
theorem execClaimSettleExpiry_keeps {port : Fin 12} {s t : State} (h : execClaimSettleExpiry port s = .next t) :
    t.keeper = s.keeper ∧ t.pending = s.pending := onChip_next h
theorem execBusOff_keeps {port : Fin 12} {tec rec : Nat} {s t : State} (h : execBusOff port tec rec s = .next t) :
    t.keeper = s.keeper ∧ t.pending = s.pending := onChip_next h
theorem execRecover_keeps {org : Origin} {port : Fin 12} {value : Byte} {s t : State} (h : execRecover org port value
    s = .next t) : t.keeper = s.keeper ∧ t.pending = s.pending := onChip_next h
theorem execRecoveryComplete_keeps {port : Fin 12} {s t : State} (h : execRecoveryComplete port s = .next t) :
    t.keeper = s.keeper ∧ t.pending = s.pending := onChip_next h
theorem execTimeReferenceMessage_keeps {port : Fin 12} {s t : State} (h : execTimeReferenceMessage port s = .next t) :
    t.keeper = s.keeper ∧ t.pending = s.pending := onChip_next h
theorem execCanTimingWrite_keeps {org : Origin} {port : Fin 12} {writes : List (BitVec 8 × Nat)} {s t : State} (h :
    execCanTimingWrite org port writes s = .next t) : t.keeper = s.keeper ∧ t.pending = s.pending := onChip_next h
theorem execFilterList_keeps {org : Origin} {port : Fin 12} {block : List Byte} {s t : State} (h : execFilterList org
    port block s = .next t) : t.keeper = s.keeper ∧ t.pending = s.pending := onChip_next h
theorem execEthLinkChange_keeps {port : Fin 14} {up : Bool} {s t : State} (h : execEthLinkChange port up s = .next t)
    : t.keeper = s.keeper ∧ t.pending = s.pending := onChip_next h
theorem execUdpDatagram_keeps {d : UdpIn} {s t : State} (h : execUdpDatagram d s = .next t) : t.keeper = s.keeper ∧
    t.pending = s.pending := onChip_next h
theorem execArpRequest_keeps {port : Fin 12} {target : BitVec 32} {s t : State} (h : execArpRequest port target s =
    .next t) : t.keeper = s.keeper ∧ t.pending = s.pending := onChip_next h
theorem execIcmpEchoRequest_keeps {port : Fin 12} {src dst : BitVec 32} {data : List Byte} {s t : State} (h :
    execIcmpEchoRequest port src dst data s = .next t) : t.keeper = s.keeper ∧ t.pending = s.pending := onChip_next h
theorem execGptpSync_keeps {port : Fin 12} {s t : State} (h : execGptpSync port s = .next t) : t.keeper = s.keeper ∧
    t.pending = s.pending := onChip_next h
theorem execGptpPeerDelayRequest_keeps {port : Fin 12} {rxNs : Nat} {s t : State} (h : execGptpPeerDelayRequest port
    rxNs s = .next t) : t.keeper = s.keeper ∧ t.pending = s.pending := onChip_next h
theorem execForeignAnnounce_keeps {port : Fin 12} {s t : State} (h : execForeignAnnounce port s = .next t) : t.keeper
    = s.keeper ∧ t.pending = s.pending := onChip_next h
theorem execEthFrameDiscarded_keeps {port : Fin 12} {s t : State} (h : execEthFrameDiscarded port s = .next t) :
    t.keeper = s.keeper ∧ t.pending = s.pending := onChip_next h
theorem execHelloSend_keeps {s t : State} (h : execHelloSend s = .next t) : t.keeper = s.keeper ∧ t.pending =
    s.pending := onChip_next h
theorem execHelloReceived_keeps {f : Fin 2} {h : Hello} {s t : State} (h : execHelloReceived f h s = .next t) :
    t.keeper = s.keeper ∧ t.pending = s.pending := onChip_next h
theorem execFabricLinkTimeout_keeps {f : Fin 2} {s t : State} (h : execFabricLinkTimeout f s = .next t) : t.keeper =
    s.keeper ∧ t.pending = s.pending := onChip_next h
theorem execModuleRecordTimeout_keeps {identity : Nat} {s t : State} (h : execModuleRecordTimeout identity s = .next
    t) : t.keeper = s.keeper ∧ t.pending = s.pending := onChip_next h
theorem execSettlingEnd_keeps {s t : State} (h : execSettlingEnd s = .next t) : t.keeper = s.keeper ∧ t.pending =
    s.pending := onChip_next h
theorem execNumberHoldExpiry_keeps {m : Fin 16} {s t : State} (h : execNumberHoldExpiry m s = .next t) : t.keeper =
    s.keeper ∧ t.pending = s.pending := onChip_next h
theorem execJopRequestFrame_keeps {f : Fin 2} {frame : FabFrame} {s t : State} (h : execJopRequestFrame f frame s =
    .next t) : t.keeper = s.keeper ∧ t.pending = s.pending := onChip_next h
theorem execJopResponseFrame_keeps {f : Fin 2} {frame : FabFrame} {s t : State} (h : execJopResponseFrame f frame s =
    .next t) : t.keeper = s.keeper ∧ t.pending = s.pending := onChip_next h
theorem execOtherFabricPortFrame_keeps {f : Fin 2} {s t : State} (h : execOtherFabricPortFrame f s = .next t) :
    t.keeper = s.keeper ∧ t.pending = s.pending := onChip_next h
theorem execUpdPkg_keeps {org : Origin} {block : List Byte} {s t : State} (h : execUpdPkg org block s = .next t) :
    t.keeper = s.keeper ∧ t.pending = s.pending := onChip_next h
theorem execBuildComplete_keeps {b : Fin 4} {s t : State} (h : execBuildComplete b s = .next t) : t.keeper = s.keeper
    ∧ t.pending = s.pending := onChip_next h
theorem execBuildHeld_keeps {b : Fin 4} {s t : State} (h : execBuildHeld b s = .next t) : t.keeper = s.keeper ∧
    t.pending = s.pending := onChip_next h
theorem execBuildResume_keeps {b : Fin 4} {s t : State} (h : execBuildResume b s = .next t) : t.keeper = s.keeper ∧
    t.pending = s.pending := onChip_next h
theorem execAbort_keeps {org : Origin} {b : Fin 4} {value : Byte} {s t : State} (h : execAbort org b value s = .next
    t) : t.keeper = s.keeper ∧ t.pending = s.pending := onChip_next h
theorem execHealthConfirm_keeps {s t : State} (h : execHealthConfirm s = .next t) : t.keeper = s.keeper ∧ t.pending =
    s.pending := onChip_next h
theorem execTrialWindowEnd_keeps {s t : State} (h : execTrialWindowEnd s = .next t) : t.keeper = s.keeper ∧ t.pending
    = s.pending := onChip_next h
theorem execUpdAccept_keeps {org : Origin} {value : Byte} {s t : State} (h : execUpdAccept org value s = .next t) :
    t.keeper = s.keeper ∧ t.pending = s.pending := onChip_next h
theorem execProfileSelect_keeps {org : Origin} {value : Byte} {s t : State} (h : execProfileSelect org value s = .next
    t) : t.keeper = s.keeper ∧ t.pending = s.pending := onChip_next h
theorem execBuildWriteError_keeps {b : Fin 4} {s t : State} (h : execBuildWriteError b s = .next t) : t.keeper =
    s.keeper ∧ t.pending = s.pending := onChip_next h
theorem execMeasureSample_keeps {m : Fin 256} {s t : State} (h : execMeasureSample m s = .next t) : t.keeper =
    s.keeper ∧ t.pending = s.pending := onChip_next h
theorem execRecorderCommit_keeps {s t : State} (h : execRecorderCommit s = .next t) : t.keeper = s.keeper ∧ t.pending
    = s.pending := onChip_next h
theorem execCommitNow_keeps {org : Origin} {value : Byte} {s t : State} (h : execCommitNow org value s = .next t) :
    t.keeper = s.keeper ∧ t.pending = s.pending := onChip_next h
theorem execCommitComplete_keeps {rec : Nat} {s t : State} (h : execCommitComplete rec s = .next t) : t.keeper =
    s.keeper ∧ t.pending = s.pending := onChip_next h
theorem execRecClear_keeps {org : Origin} {value : BitVec 16} {s t : State} (h : execRecClear org value s = .next t) :
    t.keeper = s.keeper ∧ t.pending = s.pending := onChip_next h
theorem execMeasureConfigWrite_keeps {org : Origin} {writes : List (BitVec 8 × List Byte)} {s t : State} (h :
    execMeasureConfigWrite org writes s = .next t) : t.keeper = s.keeper ∧ t.pending = s.pending := onChip_next h
theorem execFaultBinH_keeps {org : Origin} {value : BitVec 16} {s t : State} (h : execFaultBinH org value s = .next t)
    : t.keeper = s.keeper ∧ t.pending = s.pending := onChip_next h
theorem execFaceUpdate_keeps {org : Origin} {block : List Byte} {s t : State} (h : execFaceUpdate org block s = .next
    t) : t.keeper = s.keeper ∧ t.pending = s.pending := onChip_next h
theorem execPanelRailsUp_keeps {panel : Fin 2} {s t : State} (h : execPanelRailsUp panel s = .next t) : t.keeper =
    s.keeper ∧ t.pending = s.pending := onChip_next h
theorem execPanelFrame_keeps {panel : Fin 2} {s t : State} (h : execPanelFrame panel s = .next t) : t.keeper =
    s.keeper ∧ t.pending = s.pending := onChip_next h
theorem execRailIdleExpiry_keeps {panel : Fin 2} {s t : State} (h : execRailIdleExpiry panel s = .next t) : t.keeper =
    s.keeper ∧ t.pending = s.pending := onChip_next h
theorem execDxp60Detected_keeps {vcomMv : BitVec 16} {s t : State} (h : execDxp60Detected vcomMv s = .next t) :
    t.keeper = s.keeper ∧ t.pending = s.pending := onChip_next h
theorem execDxp60Lost_keeps {s t : State} (h : execDxp60Lost s = .next t) : t.keeper = s.keeper ∧ t.pending =
    s.pending := onChip_next h
theorem execPllWindow_keeps {pll : Fin 4} {driftPs : Int} {s t : State} (h : execPllWindow pll driftPs s = .next t) :
    t.keeper = s.keeper ∧ t.pending = s.pending := onChip_next h
theorem execPllReturn_keeps {pll : Fin 4} {s t : State} (h : execPllReturn pll s = .next t) : t.keeper = s.keeper ∧
    t.pending = s.pending := onChip_next h
theorem execHearthPpbMeasurement_keeps {ppb : F32} {s t : State} (h : execHearthPpbMeasurement ppb s = .next t) :
    t.keeper = s.keeper ∧ t.pending = s.pending := onChip_next h
theorem execGateEnable_keeps {org : Origin} {node : Fin 21} {value : Byte} {s t : State} (h : execGateEnable org node
    value s = .next t) : t.keeper = s.keeper ∧ t.pending = s.pending := onChip_next h
theorem execGateClosed_keeps {node : Fin 21} {s t : State} (h : execGateClosed node s = .next t) : t.keeper = s.keeper
    ∧ t.pending = s.pending := onChip_next h
theorem execHousekeepingSlot_keeps {slot : Fin 128} {r : HkReading} {s t : State} (h : execHousekeepingSlot slot r s =
    .next t) : t.keeper = s.keeper ∧ t.pending = s.pending := onChip_next h
theorem execDerateStep_keeps {s t : State} (h : execDerateStep s = .next t) : t.keeper = s.keeper ∧ t.pending =
    s.pending := onChip_next h
theorem execEmberSensorRead_keeps {hearth mram : HkReading} {s t : State} (h : execEmberSensorRead hearth mram s =
    .next t) : t.keeper = s.keeper ∧ t.pending = s.pending := onChip_next h
theorem execFnDemandEvaluation_keeps {s t : State} (h : execFnDemandEvaluation s = .next t) : t.keeper = s.keeper ∧
    t.pending = s.pending := onChip_next h
theorem execFaultDetected_keeps {fcode : BitVec 16} {unit : BitVec 32} {s t : State} (h : execFaultDetected fcode unit
    s = .next t) : t.keeper = s.keeper ∧ t.pending = s.pending := onChip_next h
theorem execFaultHandlerTake_keeps {s t : State} (h : execFaultHandlerTake s = .next t) : t.keeper = s.keeper ∧
    t.pending = s.pending := onChip_next h
theorem execRetryOutcome_keeps {fcode : BitVec 16} {unit : BitVec 32} {s t : State} (h : execRetryOutcome fcode unit s
    = .next t) : t.keeper = s.keeper ∧ t.pending = s.pending := onChip_next h

end Sys2Proof.Machine
end

