-- ==== Sys2Proof/Laws/Od.lean ====
section
/-! SUPPORT. The object store: reading after writing, the other objects, and the canonical form. -/

namespace Sys2Proof.Machine

theorem odFind_insert (od : OD) (key : Nat) (v : Val) (k : Nat) :
    odFind (odInsert od key v) k = if k = key then some v else odFind od k := by
  induction od with
  | nil => simp only [odInsert, odFind, eq_comm]
  | cons e t ih =>
    obtain ⟨k', w⟩ := e
    unfold odInsert
    split
    · subst_vars; simp only [odFind]; by_cases h : k = k' <;> simp [h]
    · split
      · rfl
      · simp only [odFind, ih]; by_cases h : k = key
        · subst h; simp only [if_true]; rw [if_neg (by omega)]
        · simp [h]

theorem odFind_erase (od : OD) (key k : Nat) :
    odFind (odErase od key) k = if k = key then none else odFind od k := by
  induction od with
  | nil => simp [odErase, odFind]
  | cons e t ih =>
    obtain ⟨k', w⟩ := e
    unfold odErase at ih ⊢
    by_cases h : k' = key
    · subst h
      rw [List.filter_cons_of_neg (by simp), ih]
      by_cases hk : k = k'
      · simp [hk]
      · simp [hk, odFind]
    · rw [List.filter_cons_of_pos (by simpa using h)]
      simp only [odFind, ih]
      by_cases hk : k = key
      · subst hk; rw [if_neg (fun hh => h hh.symm)]
        simp
      · simp [hk]

/-- A read after a write: the written object has the value, every other object the value it had. -/
theorem odGet_odSet (od : OD) (key : Nat) (v : Val) (k : Nat) :
    odGet (odSet od key v) k = if k = key then v else odGet od k := by
  unfold odSet odGet
  by_cases h : v = objDefault key
  · simp only [h, if_true, odFind_erase]
    by_cases hk : k = key <;> simp [hk]
  · simp only [h, if_false, odFind_insert]
    by_cases hk : k = key <;> simp [hk]

@[simp] theorem odGet_odSet_same (od : OD) (key : Nat) (v : Val) : odGet (odSet od key v) key = v := by
  simp [odGet_odSet]

theorem odGet_odSet_ne (od : OD) {key k : Nat} (v : Val) (h : k ≠ key) :
    odGet (odSet od key v) k = odGet od k := by simp [odGet_odSet, h]

theorem odWfFrom_mono {lo lo' : Nat} (h : lo' ≤ lo) : ∀ {od : OD}, odWfFrom lo od = true → odWfFrom lo' od = true
  | [], _ => rfl
  | (k, v) :: t, w => by
    simp only [odWfFrom, Bool.and_eq_true, decide_eq_true_eq] at w ⊢
    exact ⟨⟨Nat.le_trans h w.1.1, w.1.2⟩, w.2⟩

theorem odWfFrom_insert {key : Nat} {v : Val} (hv : v ≠ objDefault key) :
    ∀ {od : OD} {lo : Nat}, lo ≤ key → odWfFrom lo od = true → odWfFrom lo (odInsert od key v) = true
  | [], lo, hl, _ => by simp [odInsert, odWfFrom, hl, hv]
  | (k, w) :: t, lo, hl, h => by
    simp only [odWfFrom, Bool.and_eq_true, decide_eq_true_eq] at h
    unfold odInsert
    split
    · subst_vars; simp [odWfFrom, hl, hv, h.2]
    · split
      · simp only [odWfFrom, Bool.and_eq_true, decide_eq_true_eq]
        exact ⟨⟨hl, hv⟩, ⟨by omega, h.1.2⟩, h.2⟩
      · simp only [odWfFrom, Bool.and_eq_true, decide_eq_true_eq]
        exact ⟨h.1, odWfFrom_insert hv (by omega) h.2⟩

theorem odWfFrom_filter (p : Nat × Val → Bool) :
    ∀ {od : OD} {lo : Nat}, odWfFrom lo od = true → odWfFrom lo (od.filter p) = true
  | [], _, _ => rfl
  | (k, w) :: t, lo, h => by
    simp only [odWfFrom, Bool.and_eq_true, decide_eq_true_eq] at h
    have ih := odWfFrom_filter p h.2
    simp only [List.filter]
    split
    · simp only [odWfFrom, Bool.and_eq_true, decide_eq_true_eq]; exact ⟨h.1, ih⟩
    · exact odWfFrom_mono (by omega) ih

/-- Setting an object keeps the canonical form. -/
theorem odWf_odSet {od : OD} (key : Nat) (v : Val) (h : odWf od = true) : odWf (odSet od key v) = true := by
  unfold odSet odWf at *
  split
  · exact odWfFrom_filter _ h
  · rename_i hv; exact odWfFrom_insert hv (Nat.zero_le _) h

/-- Two stores in canonical form that hold the same values are the same store. -/
theorem odFind_none_of_lt {k : Nat} : ∀ {od : OD} {lo : Nat}, odWfFrom lo od = true → k < lo → odFind od k = none
  | [], _, _, _ => rfl
  | (k', v) :: t, lo, h, hk => by
    simp only [odWfFrom, Bool.and_eq_true, decide_eq_true_eq] at h
    simp only [odFind]
    rw [if_neg (by omega)]
    exact odFind_none_of_lt h.2 (by omega)

/-! ## Objects of a chip: the written one, and the others -/

@[simp] theorem Chip.num_put_same (c : Chip) (key : Nat) (n : Nat) : (c.put key n).num key =
    n := by
  simp only [Chip.num, Chip.put, odGet_odSet_same, Val.toNum]
@[simp] theorem Chip.num_put_ne (c : Chip) {key k : Nat} (n : Nat) (h : k ≠ key) : (c.put key n).num k = c.num k := by
  simp only [Chip.num, Chip.put, odGet_odSet_ne _ _ h]
@[simp] theorem Chip.blob_put_same (c : Chip) (key : Nat) (n : Nat) : (c.put key n).blob key = [] := by
  simp only [Chip.blob, Chip.put, odGet_odSet_same, Val.toBlob]
@[simp] theorem Chip.blob_put_ne (c : Chip) {key k : Nat} (n : Nat) (h : k ≠ key) : (c.put key n).blob k = c.blob k := by
  simp only [Chip.blob, Chip.put, odGet_odSet_ne _ _ h]
@[simp] theorem odGet_put_ne (c : Chip) {key k : Nat} (n : Nat) (h : k ≠ key) : odGet (c.put key n).od k = odGet c.od k := by
  simp only [Chip.put, odGet_odSet_ne _ _ h]

@[simp] theorem Chip.num_putBlob_same (c : Chip) (key : Nat) (b : List Byte) : (c.putBlob key b).num key =
    0 := by
  simp only [Chip.num, Chip.putBlob, odGet_odSet_same, Val.toNum]
@[simp] theorem Chip.num_putBlob_ne (c : Chip) {key k : Nat} (b : List Byte) (h : k ≠ key) : (c.putBlob key b).num k = c.num k := by
  simp only [Chip.num, Chip.putBlob, odGet_odSet_ne _ _ h]
@[simp] theorem Chip.blob_putBlob_same (c : Chip) (key : Nat) (b : List Byte) : (c.putBlob key b).blob key = b := by
  simp only [Chip.blob, Chip.putBlob, odGet_odSet_same, Val.toBlob]
@[simp] theorem Chip.blob_putBlob_ne (c : Chip) {key k : Nat} (b : List Byte) (h : k ≠ key) : (c.putBlob key b).blob k = c.blob k := by
  simp only [Chip.blob, Chip.putBlob, odGet_odSet_ne _ _ h]
@[simp] theorem odGet_putBlob_ne (c : Chip) {key k : Nat} (b : List Byte) (h : k ≠ key) : odGet (c.putBlob key b).od k = odGet c.od k := by
  simp only [Chip.putBlob, odGet_odSet_ne _ _ h]

@[simp] theorem Chip.num_putFlag_same (c : Chip) (key : Nat) (b : Bool) : (c.putFlag key b).num key =
    (if b then 1 else 0) := by
  simp only [Chip.num, Chip.putFlag, Chip.put, odGet_odSet_same, Val.toNum]
@[simp] theorem Chip.num_putFlag_ne (c : Chip) {key k : Nat} (b : Bool) (h : k ≠ key) : (c.putFlag key b).num k = c.num k := by
  simp only [Chip.num, Chip.putFlag, Chip.put, odGet_odSet_ne _ _ h]
@[simp] theorem Chip.blob_putFlag_ne (c : Chip) {key k : Nat} (b : Bool) (h : k ≠ key) : (c.putFlag key b).blob k = c.blob k := by
  simp only [Chip.blob, Chip.putFlag, Chip.put, odGet_odSet_ne _ _ h]
@[simp] theorem odGet_putFlag_ne (c : Chip) {key k : Nat} (b : Bool) (h : k ≠ key) : odGet (c.putFlag key b).od k = odGet c.od k := by
  simp only [Chip.putFlag, Chip.put, odGet_odSet_ne _ _ h]

@[simp] theorem Chip.num_bump_same (c : Chip) (key : Nat) (n : Nat) : (c.bump key n).num key =
    (c.num key + n) % 0x100000000 := by
  simp only [Chip.num, Chip.bump, Chip.put, odGet_odSet_same, Val.toNum]
@[simp] theorem Chip.num_bump_ne (c : Chip) {key k : Nat} (n : Nat) (h : k ≠ key) : (c.bump key n).num k = c.num k := by
  simp only [Chip.num, Chip.bump, Chip.put, odGet_odSet_ne _ _ h]
@[simp] theorem Chip.blob_bump_ne (c : Chip) {key k : Nat} (n : Nat) (h : k ≠ key) : (c.bump key n).blob k = c.blob k := by
  simp only [Chip.blob, Chip.bump, Chip.put, odGet_odSet_ne _ _ h]
@[simp] theorem odGet_bump_ne (c : Chip) {key k : Nat} (n : Nat) (h : k ≠ key) : odGet (c.bump key n).od k = odGet c.od k := by
  simp only [Chip.bump, Chip.put, odGet_odSet_ne _ _ h]

@[simp] theorem Chip.num_putBits_same (c : Chip) (key : Nat) (mask : Nat) (on : Bool) : (c.putBits key mask on).num key =
    (if on then c.num key ||| mask else c.num key - (c.num key &&& mask)) := by
  simp only [Chip.num, Chip.putBits, Chip.put, odGet_odSet_same, Val.toNum]
@[simp] theorem Chip.num_putBits_ne (c : Chip) {key k : Nat} (mask : Nat) (on : Bool) (h : k ≠ key) : (c.putBits key mask on).num k = c.num k := by
  simp only [Chip.num, Chip.putBits, Chip.put, odGet_odSet_ne _ _ h]
@[simp] theorem Chip.blob_putBits_ne (c : Chip) {key k : Nat} (mask : Nat) (on : Bool) (h : k ≠ key) : (c.putBits key mask on).blob k = c.blob k := by
  simp only [Chip.blob, Chip.putBits, Chip.put, odGet_odSet_ne _ _ h]
@[simp] theorem odGet_putBits_ne (c : Chip) {key k : Nat} (mask : Nat) (on : Bool) (h : k ≠ key) : odGet (c.putBits key mask on).od k = odGet c.od k := by
  simp only [Chip.putBits, Chip.put, odGet_odSet_ne _ _ h]

@[simp] theorem Chip.num_emit (c : Chip) (o : Output) (k : Nat) : (c.emit o).num k = c.num k := rfl
@[simp] theorem Chip.blob_emit (c : Chip) (o : Output) (k : Nat) : (c.emit o).blob k = c.blob k := rfl

/-- A flag is a number that is not zero. -/
@[simp] theorem Chip.flag_eq (c : Chip) (key : Nat) : c.flag key = decide (c.num key ≠ 0) := rfl

end Sys2Proof.Machine
end

