-- ==== Sys2Proof/Laws/State.lean ====
section
/-! SUPPORT. What the elementary updates of a chip leave unchanged: one lemma per field and update. -/

namespace Sys2Proof.Machine

@[simp] theorem Chip.put_us (c : Chip) (key n : Nat) : (c.put key n).us = c.us := rfl
@[simp] theorem Chip.put_mode (c : Chip) (key n : Nat) : (c.put key n).mode = c.mode := rfl
@[simp] theorem Chip.put_out (c : Chip) (key n : Nat) : (c.put key n).out = c.out := rfl
@[simp] theorem Chip.put_free (c : Chip) (key n : Nat) : (c.put key n).free = c.free := rfl
@[simp] theorem Chip.put_dict (c : Chip) (key n : Nat) : (c.put key n).dict = c.dict := rfl
@[simp] theorem Chip.put_modes (c : Chip) (key n : Nat) : (c.put key n).modes = c.modes := rfl
@[simp] theorem Chip.put_eng (c : Chip) (key n : Nat) : (c.put key n).eng = c.eng := rfl
@[simp] theorem Chip.put_crop (c : Chip) (key n : Nat) : (c.put key n).crop = c.crop := rfl
@[simp] theorem Chip.put_flt (c : Chip) (key n : Nat) : (c.put key n).flt = c.flt := rfl
@[simp] theorem Chip.put_recd (c : Chip) (key n : Nat) : (c.put key n).recd = c.recd := rfl
@[simp] theorem Chip.put_link (c : Chip) (key n : Nat) : (c.put key n).link = c.link := rfl
@[simp] theorem Chip.put_valve (c : Chip) (key n : Nat) : (c.put key n).valve = c.valve := rfl
@[simp] theorem Chip.put_load (c : Chip) (key n : Nat) : (c.put key n).load = c.load := rfl
@[simp] theorem Chip.put_gnss (c : Chip) (key n : Nat) : (c.put key n).gnss = c.gnss := rfl
@[simp] theorem Chip.put_guide (c : Chip) (key n : Nat) : (c.put key n).guide = c.guide := rfl
@[simp] theorem Chip.put_vis (c : Chip) (key n : Nat) : (c.put key n).vis = c.vis := rfl
@[simp] theorem Chip.put_fus (c : Chip) (key n : Nat) : (c.put key n).fus = c.fus := rfl
@[simp] theorem Chip.put_cans (c : Chip) (key n : Nat) : (c.put key n).cans = c.cans := rfl
@[simp] theorem Chip.put_eth (c : Chip) (key n : Nat) : (c.put key n).eth = c.eth := rfl
@[simp] theorem Chip.put_fab (c : Chip) (key n : Nat) : (c.put key n).fab = c.fab := rfl
@[simp] theorem Chip.put_upd (c : Chip) (key n : Nat) : (c.put key n).upd = c.upd := rfl
@[simp] theorem Chip.put_pwr (c : Chip) (key n : Nat) : (c.put key n).pwr = c.pwr := rfl
@[simp] theorem Chip.put_face (c : Chip) (key n : Nat) : (c.put key n).face = c.face := rfl

@[simp] theorem Chip.putBlob_us (c : Chip) (key : Nat) (b : List Byte) : (c.putBlob key b).us = c.us := rfl
@[simp] theorem Chip.putBlob_mode (c : Chip) (key : Nat) (b : List Byte) : (c.putBlob key b).mode = c.mode := rfl
@[simp] theorem Chip.putBlob_out (c : Chip) (key : Nat) (b : List Byte) : (c.putBlob key b).out = c.out := rfl
@[simp] theorem Chip.putBlob_free (c : Chip) (key : Nat) (b : List Byte) : (c.putBlob key b).free = c.free := rfl
@[simp] theorem Chip.putBlob_dict (c : Chip) (key : Nat) (b : List Byte) : (c.putBlob key b).dict = c.dict := rfl
@[simp] theorem Chip.putBlob_modes (c : Chip) (key : Nat) (b : List Byte) : (c.putBlob key b).modes = c.modes := rfl
@[simp] theorem Chip.putBlob_eng (c : Chip) (key : Nat) (b : List Byte) : (c.putBlob key b).eng = c.eng := rfl
@[simp] theorem Chip.putBlob_crop (c : Chip) (key : Nat) (b : List Byte) : (c.putBlob key b).crop = c.crop := rfl
@[simp] theorem Chip.putBlob_flt (c : Chip) (key : Nat) (b : List Byte) : (c.putBlob key b).flt = c.flt := rfl
@[simp] theorem Chip.putBlob_recd (c : Chip) (key : Nat) (b : List Byte) : (c.putBlob key b).recd = c.recd := rfl
@[simp] theorem Chip.putBlob_link (c : Chip) (key : Nat) (b : List Byte) : (c.putBlob key b).link = c.link := rfl
@[simp] theorem Chip.putBlob_valve (c : Chip) (key : Nat) (b : List Byte) : (c.putBlob key b).valve = c.valve := rfl
@[simp] theorem Chip.putBlob_load (c : Chip) (key : Nat) (b : List Byte) : (c.putBlob key b).load = c.load := rfl
@[simp] theorem Chip.putBlob_gnss (c : Chip) (key : Nat) (b : List Byte) : (c.putBlob key b).gnss = c.gnss := rfl
@[simp] theorem Chip.putBlob_guide (c : Chip) (key : Nat) (b : List Byte) : (c.putBlob key b).guide = c.guide := rfl
@[simp] theorem Chip.putBlob_vis (c : Chip) (key : Nat) (b : List Byte) : (c.putBlob key b).vis = c.vis := rfl
@[simp] theorem Chip.putBlob_fus (c : Chip) (key : Nat) (b : List Byte) : (c.putBlob key b).fus = c.fus := rfl
@[simp] theorem Chip.putBlob_cans (c : Chip) (key : Nat) (b : List Byte) : (c.putBlob key b).cans = c.cans := rfl
@[simp] theorem Chip.putBlob_eth (c : Chip) (key : Nat) (b : List Byte) : (c.putBlob key b).eth = c.eth := rfl
@[simp] theorem Chip.putBlob_fab (c : Chip) (key : Nat) (b : List Byte) : (c.putBlob key b).fab = c.fab := rfl
@[simp] theorem Chip.putBlob_upd (c : Chip) (key : Nat) (b : List Byte) : (c.putBlob key b).upd = c.upd := rfl
@[simp] theorem Chip.putBlob_pwr (c : Chip) (key : Nat) (b : List Byte) : (c.putBlob key b).pwr = c.pwr := rfl
@[simp] theorem Chip.putBlob_face (c : Chip) (key : Nat) (b : List Byte) : (c.putBlob key b).face = c.face := rfl

@[simp] theorem Chip.putFlag_us (c : Chip) (key : Nat) (b : Bool) : (c.putFlag key b).us = c.us := rfl
@[simp] theorem Chip.putFlag_mode (c : Chip) (key : Nat) (b : Bool) : (c.putFlag key b).mode = c.mode := rfl
@[simp] theorem Chip.putFlag_out (c : Chip) (key : Nat) (b : Bool) : (c.putFlag key b).out = c.out := rfl
@[simp] theorem Chip.putFlag_free (c : Chip) (key : Nat) (b : Bool) : (c.putFlag key b).free = c.free := rfl
@[simp] theorem Chip.putFlag_dict (c : Chip) (key : Nat) (b : Bool) : (c.putFlag key b).dict = c.dict := rfl
@[simp] theorem Chip.putFlag_modes (c : Chip) (key : Nat) (b : Bool) : (c.putFlag key b).modes = c.modes := rfl
@[simp] theorem Chip.putFlag_eng (c : Chip) (key : Nat) (b : Bool) : (c.putFlag key b).eng = c.eng := rfl
@[simp] theorem Chip.putFlag_crop (c : Chip) (key : Nat) (b : Bool) : (c.putFlag key b).crop = c.crop := rfl
@[simp] theorem Chip.putFlag_flt (c : Chip) (key : Nat) (b : Bool) : (c.putFlag key b).flt = c.flt := rfl
@[simp] theorem Chip.putFlag_recd (c : Chip) (key : Nat) (b : Bool) : (c.putFlag key b).recd = c.recd := rfl
@[simp] theorem Chip.putFlag_link (c : Chip) (key : Nat) (b : Bool) : (c.putFlag key b).link = c.link := rfl
@[simp] theorem Chip.putFlag_valve (c : Chip) (key : Nat) (b : Bool) : (c.putFlag key b).valve = c.valve := rfl
@[simp] theorem Chip.putFlag_load (c : Chip) (key : Nat) (b : Bool) : (c.putFlag key b).load = c.load := rfl
@[simp] theorem Chip.putFlag_gnss (c : Chip) (key : Nat) (b : Bool) : (c.putFlag key b).gnss = c.gnss := rfl
@[simp] theorem Chip.putFlag_guide (c : Chip) (key : Nat) (b : Bool) : (c.putFlag key b).guide = c.guide := rfl
@[simp] theorem Chip.putFlag_vis (c : Chip) (key : Nat) (b : Bool) : (c.putFlag key b).vis = c.vis := rfl
@[simp] theorem Chip.putFlag_fus (c : Chip) (key : Nat) (b : Bool) : (c.putFlag key b).fus = c.fus := rfl
@[simp] theorem Chip.putFlag_cans (c : Chip) (key : Nat) (b : Bool) : (c.putFlag key b).cans = c.cans := rfl
@[simp] theorem Chip.putFlag_eth (c : Chip) (key : Nat) (b : Bool) : (c.putFlag key b).eth = c.eth := rfl
@[simp] theorem Chip.putFlag_fab (c : Chip) (key : Nat) (b : Bool) : (c.putFlag key b).fab = c.fab := rfl
@[simp] theorem Chip.putFlag_upd (c : Chip) (key : Nat) (b : Bool) : (c.putFlag key b).upd = c.upd := rfl
@[simp] theorem Chip.putFlag_pwr (c : Chip) (key : Nat) (b : Bool) : (c.putFlag key b).pwr = c.pwr := rfl
@[simp] theorem Chip.putFlag_face (c : Chip) (key : Nat) (b : Bool) : (c.putFlag key b).face = c.face := rfl

@[simp] theorem Chip.putBits_us (c : Chip) (key mask : Nat) (on : Bool) : (c.putBits key mask on).us = c.us := rfl
@[simp] theorem Chip.putBits_mode (c : Chip) (key mask : Nat) (on : Bool) : (c.putBits key mask on).mode = c.mode := rfl
@[simp] theorem Chip.putBits_out (c : Chip) (key mask : Nat) (on : Bool) : (c.putBits key mask on).out = c.out := rfl
@[simp] theorem Chip.putBits_free (c : Chip) (key mask : Nat) (on : Bool) : (c.putBits key mask on).free = c.free := rfl
@[simp] theorem Chip.putBits_dict (c : Chip) (key mask : Nat) (on : Bool) : (c.putBits key mask on).dict = c.dict := rfl
@[simp] theorem Chip.putBits_modes (c : Chip) (key mask : Nat) (on : Bool) : (c.putBits key mask on).modes = c.modes := rfl
@[simp] theorem Chip.putBits_eng (c : Chip) (key mask : Nat) (on : Bool) : (c.putBits key mask on).eng = c.eng := rfl
@[simp] theorem Chip.putBits_crop (c : Chip) (key mask : Nat) (on : Bool) : (c.putBits key mask on).crop = c.crop := rfl
@[simp] theorem Chip.putBits_flt (c : Chip) (key mask : Nat) (on : Bool) : (c.putBits key mask on).flt = c.flt := rfl
@[simp] theorem Chip.putBits_recd (c : Chip) (key mask : Nat) (on : Bool) : (c.putBits key mask on).recd = c.recd := rfl
@[simp] theorem Chip.putBits_link (c : Chip) (key mask : Nat) (on : Bool) : (c.putBits key mask on).link = c.link := rfl
@[simp] theorem Chip.putBits_valve (c : Chip) (key mask : Nat) (on : Bool) : (c.putBits key mask on).valve = c.valve := rfl
@[simp] theorem Chip.putBits_load (c : Chip) (key mask : Nat) (on : Bool) : (c.putBits key mask on).load = c.load := rfl
@[simp] theorem Chip.putBits_gnss (c : Chip) (key mask : Nat) (on : Bool) : (c.putBits key mask on).gnss = c.gnss := rfl
@[simp] theorem Chip.putBits_guide (c : Chip) (key mask : Nat) (on : Bool) : (c.putBits key mask on).guide = c.guide := rfl
@[simp] theorem Chip.putBits_vis (c : Chip) (key mask : Nat) (on : Bool) : (c.putBits key mask on).vis = c.vis := rfl
@[simp] theorem Chip.putBits_fus (c : Chip) (key mask : Nat) (on : Bool) : (c.putBits key mask on).fus = c.fus := rfl
@[simp] theorem Chip.putBits_cans (c : Chip) (key mask : Nat) (on : Bool) : (c.putBits key mask on).cans = c.cans := rfl
@[simp] theorem Chip.putBits_eth (c : Chip) (key mask : Nat) (on : Bool) : (c.putBits key mask on).eth = c.eth := rfl
@[simp] theorem Chip.putBits_fab (c : Chip) (key mask : Nat) (on : Bool) : (c.putBits key mask on).fab = c.fab := rfl
@[simp] theorem Chip.putBits_upd (c : Chip) (key mask : Nat) (on : Bool) : (c.putBits key mask on).upd = c.upd := rfl
@[simp] theorem Chip.putBits_pwr (c : Chip) (key mask : Nat) (on : Bool) : (c.putBits key mask on).pwr = c.pwr := rfl
@[simp] theorem Chip.putBits_face (c : Chip) (key mask : Nat) (on : Bool) : (c.putBits key mask on).face = c.face := rfl

@[simp] theorem Chip.bump_us (c : Chip) (key n : Nat) : (c.bump key n).us = c.us := rfl
@[simp] theorem Chip.bump_mode (c : Chip) (key n : Nat) : (c.bump key n).mode = c.mode := rfl
@[simp] theorem Chip.bump_out (c : Chip) (key n : Nat) : (c.bump key n).out = c.out := rfl
@[simp] theorem Chip.bump_free (c : Chip) (key n : Nat) : (c.bump key n).free = c.free := rfl
@[simp] theorem Chip.bump_dict (c : Chip) (key n : Nat) : (c.bump key n).dict = c.dict := rfl
@[simp] theorem Chip.bump_modes (c : Chip) (key n : Nat) : (c.bump key n).modes = c.modes := rfl
@[simp] theorem Chip.bump_eng (c : Chip) (key n : Nat) : (c.bump key n).eng = c.eng := rfl
@[simp] theorem Chip.bump_crop (c : Chip) (key n : Nat) : (c.bump key n).crop = c.crop := rfl
@[simp] theorem Chip.bump_flt (c : Chip) (key n : Nat) : (c.bump key n).flt = c.flt := rfl
@[simp] theorem Chip.bump_recd (c : Chip) (key n : Nat) : (c.bump key n).recd = c.recd := rfl
@[simp] theorem Chip.bump_link (c : Chip) (key n : Nat) : (c.bump key n).link = c.link := rfl
@[simp] theorem Chip.bump_valve (c : Chip) (key n : Nat) : (c.bump key n).valve = c.valve := rfl
@[simp] theorem Chip.bump_load (c : Chip) (key n : Nat) : (c.bump key n).load = c.load := rfl
@[simp] theorem Chip.bump_gnss (c : Chip) (key n : Nat) : (c.bump key n).gnss = c.gnss := rfl
@[simp] theorem Chip.bump_guide (c : Chip) (key n : Nat) : (c.bump key n).guide = c.guide := rfl
@[simp] theorem Chip.bump_vis (c : Chip) (key n : Nat) : (c.bump key n).vis = c.vis := rfl
@[simp] theorem Chip.bump_fus (c : Chip) (key n : Nat) : (c.bump key n).fus = c.fus := rfl
@[simp] theorem Chip.bump_cans (c : Chip) (key n : Nat) : (c.bump key n).cans = c.cans := rfl
@[simp] theorem Chip.bump_eth (c : Chip) (key n : Nat) : (c.bump key n).eth = c.eth := rfl
@[simp] theorem Chip.bump_fab (c : Chip) (key n : Nat) : (c.bump key n).fab = c.fab := rfl
@[simp] theorem Chip.bump_upd (c : Chip) (key n : Nat) : (c.bump key n).upd = c.upd := rfl
@[simp] theorem Chip.bump_pwr (c : Chip) (key n : Nat) : (c.bump key n).pwr = c.pwr := rfl
@[simp] theorem Chip.bump_face (c : Chip) (key n : Nat) : (c.bump key n).face = c.face := rfl

@[simp] theorem Chip.emit_us (c : Chip) (o : Output) : (c.emit o).us = c.us := rfl
@[simp] theorem Chip.emit_mode (c : Chip) (o : Output) : (c.emit o).mode = c.mode := rfl
@[simp] theorem Chip.emit_od (c : Chip) (o : Output) : (c.emit o).od = c.od := rfl
@[simp] theorem Chip.emit_free (c : Chip) (o : Output) : (c.emit o).free = c.free := rfl
@[simp] theorem Chip.emit_dict (c : Chip) (o : Output) : (c.emit o).dict = c.dict := rfl
@[simp] theorem Chip.emit_modes (c : Chip) (o : Output) : (c.emit o).modes = c.modes := rfl
@[simp] theorem Chip.emit_eng (c : Chip) (o : Output) : (c.emit o).eng = c.eng := rfl
@[simp] theorem Chip.emit_crop (c : Chip) (o : Output) : (c.emit o).crop = c.crop := rfl
@[simp] theorem Chip.emit_flt (c : Chip) (o : Output) : (c.emit o).flt = c.flt := rfl
@[simp] theorem Chip.emit_recd (c : Chip) (o : Output) : (c.emit o).recd = c.recd := rfl
@[simp] theorem Chip.emit_link (c : Chip) (o : Output) : (c.emit o).link = c.link := rfl
@[simp] theorem Chip.emit_valve (c : Chip) (o : Output) : (c.emit o).valve = c.valve := rfl
@[simp] theorem Chip.emit_load (c : Chip) (o : Output) : (c.emit o).load = c.load := rfl
@[simp] theorem Chip.emit_gnss (c : Chip) (o : Output) : (c.emit o).gnss = c.gnss := rfl
@[simp] theorem Chip.emit_guide (c : Chip) (o : Output) : (c.emit o).guide = c.guide := rfl
@[simp] theorem Chip.emit_vis (c : Chip) (o : Output) : (c.emit o).vis = c.vis := rfl
@[simp] theorem Chip.emit_fus (c : Chip) (o : Output) : (c.emit o).fus = c.fus := rfl
@[simp] theorem Chip.emit_cans (c : Chip) (o : Output) : (c.emit o).cans = c.cans := rfl
@[simp] theorem Chip.emit_eth (c : Chip) (o : Output) : (c.emit o).eth = c.eth := rfl
@[simp] theorem Chip.emit_fab (c : Chip) (o : Output) : (c.emit o).fab = c.fab := rfl
@[simp] theorem Chip.emit_upd (c : Chip) (o : Output) : (c.emit o).upd = c.upd := rfl
@[simp] theorem Chip.emit_pwr (c : Chip) (o : Output) : (c.emit o).pwr = c.pwr := rfl
@[simp] theorem Chip.emit_face (c : Chip) (o : Output) : (c.emit o).face = c.face := rfl
@[simp] theorem Chip.emit_out (c : Chip) (o : Output) : (c.emit o).out = c.out ++ [o] := rfl

/-! An object of a chip written out is read from its store, and a read of a chip's store is a read of the chip. -/

@[simp] theorem Chip.num_mk (us' : Nat) (mode' : Mode) (od' : OD) (out' : List Output) (free' : Nat) (dict' : DictS)
    (modes' : ModesS) (eng' : EngS) (crop' : CropS) (flt' : FltS) (recd' : RecS) (link' : LinkS) (valve' : ValveS)
    (load' : LoadS) (gnss' : GnssS) (guide' : GuideS) (vis' : VisS) (fus' : FusS) (cans' : List CanX) (eth' : EthS)
    (fab' : FabS) (upd' : UpdS) (pwr' : PwrS) (face' : FaceS) (k : Nat) : Chip.num ⟨us', mode', od', out', free',
    dict', modes', eng', crop', flt', recd', link', valve', load', gnss', guide', vis', fus', cans', eth', fab', upd',
    pwr', face'⟩ k = (odGet od' k).toNum := rfl

@[simp] theorem Chip.blob_mk (us' : Nat) (mode' : Mode) (od' : OD) (out' : List Output) (free' : Nat) (dict' : DictS)
    (modes' : ModesS) (eng' : EngS) (crop' : CropS) (flt' : FltS) (recd' : RecS) (link' : LinkS) (valve' : ValveS)
    (load' : LoadS) (gnss' : GnssS) (guide' : GuideS) (vis' : VisS) (fus' : FusS) (cans' : List CanX) (eth' : EthS)
    (fab' : FabS) (upd' : UpdS) (pwr' : PwrS) (face' : FaceS) (k : Nat) : Chip.blob ⟨us', mode', od', out', free',
    dict', modes', eng', crop', flt', recd', link', valve', load', gnss', guide', vis', fus', cans', eth', fab', upd',
    pwr', face'⟩ k = (odGet od' k).toBlob := rfl

@[simp] theorem Chip.num_fold (c : Chip) (k : Nat) : (odGet c.od k).toNum = c.num k := rfl
@[simp] theorem Chip.blob_fold (c : Chip) (k : Nat) : (odGet c.od k).toBlob = c.blob k := rfl
@[simp] theorem Val.toNum_num (n : Nat) : (Val.num n).toNum = n := rfl
@[simp] theorem Val.toBlob_blob (b : List Byte) : (Val.blob b).toBlob = b := rfl

end Sys2Proof.Machine
end

