-- ==== Sys2Proof/Laws/Events.lean ====
section
/-! SUPPORT. What raising an event can do, said once (R442–R444): it changes the handler, the recorder and the objects
that show them, and nothing else; from an idle handler it occupies the handler. -/

namespace Sys2Proof.Machine

/-! ## Objects left alone -/

theorem KeepsObjects.of_od {l : List Nat} {c d : Chip} (h : d.od = c.od) : KeepsObjects l c d := fun k _ => by rw [h]

theorem KeepsObjects.trans {l : List Nat} {c d e : Chip} (h : KeepsObjects l c d) (g : KeepsObjects l d e) :
    KeepsObjects l c e := fun k hk => (g k hk).trans (h k hk)

theorem KeepsObjects.mono {l m : List Nat} {c d : Chip} (h : KeepsObjects l c d) (hs : ∀ k ∈ l, k ∈ m) :
    KeepsObjects m c d := fun k hk => h k (fun hl => hk (hs k hl))

theorem KeepsObjects.put {l : List Nat} {c d : Chip} {key : Nat} (n : Nat) (h : KeepsObjects l c d) (hk : key ∈ l) :
    KeepsObjects l c (d.put key n) := fun k hn =>
  (odGet_put_ne d n (fun e => hn (by rw [e]; exact hk))).trans (h k hn)

theorem KeepsObjects.putBlob {l : List Nat} {c d : Chip} {key : Nat} (b : List Byte) (h : KeepsObjects l c d)
    (hk : key ∈ l) : KeepsObjects l c (d.putBlob key b) := fun k hn =>
  (odGet_putBlob_ne d b (fun e => hn (by rw [e]; exact hk))).trans (h k hn)

theorem KeepsObjects.bump {l : List Nat} {c d : Chip} {key : Nat} (n : Nat) (h : KeepsObjects l c d) (hk : key ∈ l) :
    KeepsObjects l c (d.bump key n) := h.put _ hk

theorem KeepsObjects.putFlag {l : List Nat} {c d : Chip} {key : Nat} (b : Bool) (h : KeepsObjects l c d) (hk : key ∈ l) :
    KeepsObjects l c (d.putFlag key b) := h.put _ hk

theorem KeepsObjects.putBits {l : List Nat} {c d : Chip} {key : Nat} (m : Nat) (b : Bool) (h : KeepsObjects l c d)
    (hk : key ∈ l) : KeepsObjects l c (d.putBits key m b) := h.put _ hk

/-! ## Events -/

/-- A chip differs from another at most in the handler, the recorder and the objects of `eventKeys`. -/
def EventOnly (c d : Chip) : Prop :=
  d = { c with od := d.od, flt := d.flt, recd := d.recd } ∧ ∀ k, k ∉ eventKeys → odGet d.od k = odGet c.od k

theorem EventOnly.refl (c : Chip) : EventOnly c c := ⟨rfl, fun _ _ => rfl⟩

theorem EventOnly.trans {c d e : Chip} (h : EventOnly c d) (g : EventOnly d e) : EventOnly c e := by
  refine ⟨?_, fun k hk => (g.2 k hk).trans (h.2 k hk)⟩
  have h1 := h.1; have g1 := g.1
  rw [h1] at g1
  exact g1

theorem EventOnly.put (c : Chip) {key : Nat} (n : Nat) (h : key ∈ eventKeys) : EventOnly c (c.put key n) :=
  ⟨rfl, fun _ hk => odGet_put_ne c n (fun e => hk (e ▸ h))⟩

theorem EventOnly.putBlob (c : Chip) {key : Nat} (b : List Byte) (h : key ∈ eventKeys) : EventOnly c (c.putBlob key b) :=
  ⟨rfl, fun _ hk => odGet_putBlob_ne c b (fun e => hk (e ▸ h))⟩

theorem EventOnly.flt (c : Chip) (f : FltS) : EventOnly c { c with flt := f } := ⟨rfl, fun _ _ => rfl⟩
theorem EventOnly.recd (c : Chip) (r : RecS) : EventOnly c { c with recd := r } := ⟨rfl, fun _ _ => rfl⟩

theorem fltShow_only (c : Chip) : EventOnly c (fltShow c) := by
  unfold fltShow
  exact ((EventOnly.put _ _ (by simp [eventKeys])).trans (EventOnly.put _ _ (by simp [eventKeys]))).trans
    (EventOnly.put _ _ (by simp [eventKeys]))

theorem recNote_only (k : Keeper) (c : Chip) (code : Nat) (inj : Bool) : EventOnly c (recNote k c code inj) := by
  unfold recNote
  dsimp only
  split
  · exact EventOnly.recd _ _
  · exact EventOnly.refl c

theorem logEvent_only (k : Keeper) (c : Chip) (e : Event) (q : Bool) (n : Nat) : EventOnly c (logEvent k c e q n) :=
  EventOnly.putBlob _ _ (by simp [eventKeys])

theorem budgetAdd_only (k : Keeper) (c : Chip) (code unit : Nat) : EventOnly c (budgetAdd k c code unit) :=
  EventOnly.flt _ _

theorem offer_only (c : Chip) (e : Event) (d : Chip) (h : offer c e = some d) : EventOnly c d := by
  unfold offer at h
  repeat' split at h
  all_goals first
    | (cases h; exact (EventOnly.flt _ _).trans (fltShow_only _))
    | cases h

theorem raiseQueueFull_only (k : Keeper) (c : Chip) : EventOnly c (raiseQueueFull k c) := by
  unfold raiseQueueFull
  dsimp only
  have h0 : EventOnly c (budgetAdd k (disarm c (mkKey 0x2380 8) 1) 0x1209 theModule) :=
    (EventOnly.flt c _).trans (budgetAdd_only _ _ _ _)
  split
  · exact h0
  have h : ∀ (e : Event) (n : Nat), EventOnly c (logEvent k (recNote k (((budgetAdd k (disarm c (mkKey 0x2380 8) 1) 0x1209
      theModule).bump Key.Flt.EVENTS).bump Key.Flt.PERMANENTS) 0x1209 (queueInjected c)) e false n) := fun _ _ =>
    ((h0.trans (EventOnly.put _ _ (by simp [eventKeys]))).trans (EventOnly.put _ _ (by simp [eventKeys]))).trans
      ((recNote_only _ _ _ _).trans (logEvent_only _ _ _ _ _))
  split
  · exact (h _ _).trans ((EventOnly.flt _ _).trans (fltShow_only _))
  · split
    · exact (h _ _).trans ((EventOnly.flt _ _).trans (fltShow_only _))
    · exact (h _ _).trans ((EventOnly.flt _ _).trans (fltShow_only _))

theorem makePermanent_only (k : Keeper) (c : Chip) (code unit : Nat) : EventOnly c (makePermanent k c code unit) := by
  unfold makePermanent
  dsimp only
  split
  · split
    · exact EventOnly.refl c
    · split
      · rename_i h; exact ((EventOnly.flt c _).trans (EventOnly.put _ _ (by simp [eventKeys]))).trans (offer_only _ _ _ h)
      · exact ((EventOnly.flt c _).trans (EventOnly.put _ _ (by simp [eventKeys]))).trans
          ((logEvent_only _ _ _ _ _).trans (raiseQueueFull_only _ _))
  · split
    · exact (EventOnly.flt c _).trans (EventOnly.put _ _ (by simp [eventKeys]))
    · exact EventOnly.flt c _

theorem raiseCore_only (k : Keeper) (c : Chip) (code unit : Nat) (inj force : Bool) :
    EventOnly c (raiseCore k c code unit inj force) := by
  unfold raiseCore
  dsimp only
  split
  · split
    · exact (budgetAdd_only _ _ _ _).trans (makePermanent_only _ _ _ _)
    · exact budgetAdd_only _ _ _ _
  · have h : ∀ b : Bool, EventOnly c (if b = true then (recNote k ((budgetAdd k c code unit).bump Key.Flt.EVENTS) code inj).bump
        Key.Flt.PERMANENTS else recNote k ((budgetAdd k c code unit).bump Key.Flt.EVENTS) code inj) := by
      intro b
      have h0 : EventOnly c (recNote k ((budgetAdd k c code unit).bump Key.Flt.EVENTS) code inj) :=
        ((budgetAdd_only _ _ _ _).trans (EventOnly.put _ _ (by simp [eventKeys]))).trans (recNote_only _ _ _ _)
      split
      · exact h0.trans (EventOnly.put _ _ (by simp [eventKeys]))
      · exact h0
    split
    · rename_i g; exact (h _).trans ((offer_only _ _ _ g).trans (logEvent_only _ _ _ _ _))
    · exact (h _).trans ((logEvent_only _ _ _ _ _).trans (raiseQueueFull_only _ _))

theorem healthBreak_only (k : Keeper) (c : Chip) (cause : Nat) (inj : Bool) : EventOnly c (healthBreak k c cause inj) := by
  unfold healthBreak
  split
  · exact ((EventOnly.put _ _ (by simp [eventKeys])).trans (EventOnly.put _ _ (by simp [eventKeys]))).trans
      (raiseCore_only _ _ _ _ _ _)
  · exact EventOnly.refl c

theorem raiseWith_only (k : Keeper) (c : Chip) (code unit : Nat) (inj force : Bool) :
    EventOnly c (raiseWith k c code unit inj force) := by
  unfold raiseWith
  dsimp only
  split
  · exact (raiseCore_only _ _ _ _ _ _).trans (healthBreak_only _ _ _ _)
  · exact raiseCore_only _ _ _ _ _ _

/-- An event changes no object but those of `eventKeys`. -/
theorem KeepsObjects.raise {l : List Nat} {c d : Chip} (k : Keeper) (code unit : Nat) (inj : Bool) (h : KeepsObjects l c d)
    (hk : ∀ x ∈ eventKeys, x ∈ l) : KeepsObjects l c (raise k d code unit inj) := fun key hn =>
  ((raiseWith_only k d code unit inj false).2 key (fun he => hn (hk key he))).trans (h key hn)

/-- An event changes nothing but the handler, the recorder and the objects of `eventKeys`. -/
theorem raise_only (k : Keeper) (c : Chip) (code unit : Nat) (inj : Bool) : EventOnly c (raise k c code unit inj) :=
  raiseWith_only _ _ _ _ _ _

/-! The fields an event leaves alone. -/

@[simp] theorem raiseWith_us (k : Keeper) (c : Chip) (code unit : Nat) (inj force : Bool) :
    (raiseWith k c code unit inj force).us = c.us := by
  have h := congrArg Chip.us (raiseWith_only k c code unit inj force).1; exact h
@[simp] theorem raiseWith_mode (k : Keeper) (c : Chip) (code unit : Nat) (inj force : Bool) :
    (raiseWith k c code unit inj force).mode = c.mode := by
  have h := congrArg Chip.mode (raiseWith_only k c code unit inj force).1; exact h
@[simp] theorem raiseWith_out (k : Keeper) (c : Chip) (code unit : Nat) (inj force : Bool) :
    (raiseWith k c code unit inj force).out = c.out := by
  have h := congrArg Chip.out (raiseWith_only k c code unit inj force).1; exact h
@[simp] theorem raiseWith_free (k : Keeper) (c : Chip) (code unit : Nat) (inj force : Bool) :
    (raiseWith k c code unit inj force).free = c.free := by
  have h := congrArg Chip.free (raiseWith_only k c code unit inj force).1; exact h
@[simp] theorem raiseWith_dict (k : Keeper) (c : Chip) (code unit : Nat) (inj force : Bool) :
    (raiseWith k c code unit inj force).dict = c.dict := by
  have h := congrArg Chip.dict (raiseWith_only k c code unit inj force).1; exact h
@[simp] theorem raiseWith_modes (k : Keeper) (c : Chip) (code unit : Nat) (inj force : Bool) :
    (raiseWith k c code unit inj force).modes = c.modes := by
  have h := congrArg Chip.modes (raiseWith_only k c code unit inj force).1; exact h
@[simp] theorem raiseWith_eng (k : Keeper) (c : Chip) (code unit : Nat) (inj force : Bool) :
    (raiseWith k c code unit inj force).eng = c.eng := by
  have h := congrArg Chip.eng (raiseWith_only k c code unit inj force).1; exact h
@[simp] theorem raiseWith_crop (k : Keeper) (c : Chip) (code unit : Nat) (inj force : Bool) :
    (raiseWith k c code unit inj force).crop = c.crop := by
  have h := congrArg Chip.crop (raiseWith_only k c code unit inj force).1; exact h
@[simp] theorem raiseWith_link (k : Keeper) (c : Chip) (code unit : Nat) (inj force : Bool) :
    (raiseWith k c code unit inj force).link = c.link := by
  have h := congrArg Chip.link (raiseWith_only k c code unit inj force).1; exact h
@[simp] theorem raiseWith_valve (k : Keeper) (c : Chip) (code unit : Nat) (inj force : Bool) :
    (raiseWith k c code unit inj force).valve = c.valve := by
  have h := congrArg Chip.valve (raiseWith_only k c code unit inj force).1; exact h
@[simp] theorem raiseWith_load (k : Keeper) (c : Chip) (code unit : Nat) (inj force : Bool) :
    (raiseWith k c code unit inj force).load = c.load := by
  have h := congrArg Chip.load (raiseWith_only k c code unit inj force).1; exact h
@[simp] theorem raiseWith_gnss (k : Keeper) (c : Chip) (code unit : Nat) (inj force : Bool) :
    (raiseWith k c code unit inj force).gnss = c.gnss := by
  have h := congrArg Chip.gnss (raiseWith_only k c code unit inj force).1; exact h
@[simp] theorem raiseWith_guide (k : Keeper) (c : Chip) (code unit : Nat) (inj force : Bool) :
    (raiseWith k c code unit inj force).guide = c.guide := by
  have h := congrArg Chip.guide (raiseWith_only k c code unit inj force).1; exact h
@[simp] theorem raiseWith_vis (k : Keeper) (c : Chip) (code unit : Nat) (inj force : Bool) :
    (raiseWith k c code unit inj force).vis = c.vis := by
  have h := congrArg Chip.vis (raiseWith_only k c code unit inj force).1; exact h
@[simp] theorem raiseWith_fus (k : Keeper) (c : Chip) (code unit : Nat) (inj force : Bool) :
    (raiseWith k c code unit inj force).fus = c.fus := by
  have h := congrArg Chip.fus (raiseWith_only k c code unit inj force).1; exact h
@[simp] theorem raiseWith_cans (k : Keeper) (c : Chip) (code unit : Nat) (inj force : Bool) :
    (raiseWith k c code unit inj force).cans = c.cans := by
  have h := congrArg Chip.cans (raiseWith_only k c code unit inj force).1; exact h
@[simp] theorem raiseWith_eth (k : Keeper) (c : Chip) (code unit : Nat) (inj force : Bool) :
    (raiseWith k c code unit inj force).eth = c.eth := by
  have h := congrArg Chip.eth (raiseWith_only k c code unit inj force).1; exact h
@[simp] theorem raiseWith_fab (k : Keeper) (c : Chip) (code unit : Nat) (inj force : Bool) :
    (raiseWith k c code unit inj force).fab = c.fab := by
  have h := congrArg Chip.fab (raiseWith_only k c code unit inj force).1; exact h
@[simp] theorem raiseWith_upd (k : Keeper) (c : Chip) (code unit : Nat) (inj force : Bool) :
    (raiseWith k c code unit inj force).upd = c.upd := by
  have h := congrArg Chip.upd (raiseWith_only k c code unit inj force).1; exact h
@[simp] theorem raiseWith_pwr (k : Keeper) (c : Chip) (code unit : Nat) (inj force : Bool) :
    (raiseWith k c code unit inj force).pwr = c.pwr := by
  have h := congrArg Chip.pwr (raiseWith_only k c code unit inj force).1; exact h
@[simp] theorem raiseWith_face (k : Keeper) (c : Chip) (code unit : Nat) (inj force : Bool) :
    (raiseWith k c code unit inj force).face = c.face := by
  have h := congrArg Chip.face (raiseWith_only k c code unit inj force).1; exact h

@[simp] theorem raise_us (k : Keeper) (c : Chip) (code unit : Nat) (inj : Bool) :
    (raise k c code unit inj).us = c.us := by
  have h := congrArg Chip.us (raise_only k c code unit inj).1; exact h
@[simp] theorem raise_mode (k : Keeper) (c : Chip) (code unit : Nat) (inj : Bool) :
    (raise k c code unit inj).mode = c.mode := by
  have h := congrArg Chip.mode (raise_only k c code unit inj).1; exact h
@[simp] theorem raise_out (k : Keeper) (c : Chip) (code unit : Nat) (inj : Bool) :
    (raise k c code unit inj).out = c.out := by
  have h := congrArg Chip.out (raise_only k c code unit inj).1; exact h
@[simp] theorem raise_free (k : Keeper) (c : Chip) (code unit : Nat) (inj : Bool) :
    (raise k c code unit inj).free = c.free := by
  have h := congrArg Chip.free (raise_only k c code unit inj).1; exact h
@[simp] theorem raise_dict (k : Keeper) (c : Chip) (code unit : Nat) (inj : Bool) :
    (raise k c code unit inj).dict = c.dict := by
  have h := congrArg Chip.dict (raise_only k c code unit inj).1; exact h
@[simp] theorem raise_modes (k : Keeper) (c : Chip) (code unit : Nat) (inj : Bool) :
    (raise k c code unit inj).modes = c.modes := by
  have h := congrArg Chip.modes (raise_only k c code unit inj).1; exact h
@[simp] theorem raise_eng (k : Keeper) (c : Chip) (code unit : Nat) (inj : Bool) :
    (raise k c code unit inj).eng = c.eng := by
  have h := congrArg Chip.eng (raise_only k c code unit inj).1; exact h
@[simp] theorem raise_crop (k : Keeper) (c : Chip) (code unit : Nat) (inj : Bool) :
    (raise k c code unit inj).crop = c.crop := by
  have h := congrArg Chip.crop (raise_only k c code unit inj).1; exact h
@[simp] theorem raise_link (k : Keeper) (c : Chip) (code unit : Nat) (inj : Bool) :
    (raise k c code unit inj).link = c.link := by
  have h := congrArg Chip.link (raise_only k c code unit inj).1; exact h
@[simp] theorem raise_valve (k : Keeper) (c : Chip) (code unit : Nat) (inj : Bool) :
    (raise k c code unit inj).valve = c.valve := by
  have h := congrArg Chip.valve (raise_only k c code unit inj).1; exact h
@[simp] theorem raise_load (k : Keeper) (c : Chip) (code unit : Nat) (inj : Bool) :
    (raise k c code unit inj).load = c.load := by
  have h := congrArg Chip.load (raise_only k c code unit inj).1; exact h
@[simp] theorem raise_gnss (k : Keeper) (c : Chip) (code unit : Nat) (inj : Bool) :
    (raise k c code unit inj).gnss = c.gnss := by
  have h := congrArg Chip.gnss (raise_only k c code unit inj).1; exact h
@[simp] theorem raise_guide (k : Keeper) (c : Chip) (code unit : Nat) (inj : Bool) :
    (raise k c code unit inj).guide = c.guide := by
  have h := congrArg Chip.guide (raise_only k c code unit inj).1; exact h
@[simp] theorem raise_vis (k : Keeper) (c : Chip) (code unit : Nat) (inj : Bool) :
    (raise k c code unit inj).vis = c.vis := by
  have h := congrArg Chip.vis (raise_only k c code unit inj).1; exact h
@[simp] theorem raise_fus (k : Keeper) (c : Chip) (code unit : Nat) (inj : Bool) :
    (raise k c code unit inj).fus = c.fus := by
  have h := congrArg Chip.fus (raise_only k c code unit inj).1; exact h
@[simp] theorem raise_cans (k : Keeper) (c : Chip) (code unit : Nat) (inj : Bool) :
    (raise k c code unit inj).cans = c.cans := by
  have h := congrArg Chip.cans (raise_only k c code unit inj).1; exact h
@[simp] theorem raise_eth (k : Keeper) (c : Chip) (code unit : Nat) (inj : Bool) :
    (raise k c code unit inj).eth = c.eth := by
  have h := congrArg Chip.eth (raise_only k c code unit inj).1; exact h
@[simp] theorem raise_fab (k : Keeper) (c : Chip) (code unit : Nat) (inj : Bool) :
    (raise k c code unit inj).fab = c.fab := by
  have h := congrArg Chip.fab (raise_only k c code unit inj).1; exact h
@[simp] theorem raise_upd (k : Keeper) (c : Chip) (code unit : Nat) (inj : Bool) :
    (raise k c code unit inj).upd = c.upd := by
  have h := congrArg Chip.upd (raise_only k c code unit inj).1; exact h
@[simp] theorem raise_pwr (k : Keeper) (c : Chip) (code unit : Nat) (inj : Bool) :
    (raise k c code unit inj).pwr = c.pwr := by
  have h := congrArg Chip.pwr (raise_only k c code unit inj).1; exact h
@[simp] theorem raise_face (k : Keeper) (c : Chip) (code unit : Nat) (inj : Bool) :
    (raise k c code unit inj).face = c.face := by
  have h := congrArg Chip.face (raise_only k c code unit inj).1; exact h

/-- An object that is not of the handler reads as before an event. -/
theorem raiseWith_get (k : Keeper) (c : Chip) (code unit : Nat) (inj force : Bool) {key : Nat} (h : key ∉ eventKeys) :
    odGet (raiseWith k c code unit inj force).od key = odGet c.od key := (raiseWith_only k c code unit inj force).2 key h

theorem raise_get (k : Keeper) (c : Chip) (code unit : Nat) (inj : Bool) {key : Nat} (h : key ∉ eventKeys) :
    odGet (raise k c code unit inj).od key = odGet c.od key := (raise_only k c code unit inj).2 key h

theorem raise_num (k : Keeper) (c : Chip) (code unit : Nat) (inj : Bool) {key : Nat} (h : key ∉ eventKeys) :
    (raise k c code unit inj).num key = c.num key := by simp only [Chip.num, raise_get k c code unit inj h]

theorem raise_blob (k : Keeper) (c : Chip) (code unit : Nat) (inj : Bool) {key : Nat} (h : key ∉ eventKeys) :
    (raise k c code unit inj).blob key = c.blob key := by simp only [Chip.blob, raise_get k c code unit inj h]

/-! ## An idle handler takes an event at once -/

@[simp] theorem recNote_num (k : Keeper) (c : Chip) (code : Nat) (inj : Bool) (key : Nat) :
    (recNote k c code inj).num key = c.num key := by
  unfold recNote; dsimp only; split
  · simp [recStore]
  · rfl

@[simp] theorem recNote_flt (k : Keeper) (c : Chip) (code : Nat) (inj : Bool) : (recNote k c code inj).flt = c.flt := by
  unfold recNote; dsimp only; split <;> rfl

theorem offer_idle (c : Chip) (e : Event) (h : c.flt.cur = none) :
    offer c e = some (fltShow { c with flt := { c.flt with cur := some e } }) := by unfold offer; rw [h]

/-- The chip once an event is noted, before the handler is asked. -/
def noted (k : Keeper) (c : Chip) (code unit : Nat) (inj force : Bool) : Chip :=
  if permNow k c code unit force = true then
    (recNote k ((budgetAdd k c code unit).bump Key.Flt.EVENTS) code inj).bump Key.Flt.PERMANENTS
  else recNote k ((budgetAdd k c code unit).bump Key.Flt.EVENTS) code inj

theorem noted_facts (k : Keeper) (c : Chip) (code unit : Nat) (inj force : Bool) :
    (noted k c code unit inj force).flt.cur = c.flt.cur ∧
      (noted k c code unit inj force).num Key.Flt.EVENTS = (c.num Key.Flt.EVENTS + 1) % 0x100000000 ∧
      (noted k c code unit inj force).num Key.Health.HEALTH = c.num Key.Health.HEALTH := by
  unfold noted
  split <;> simp (disch := decide) [budgetAdd]

theorem raiseCore_idle (k : Keeper) (c : Chip) (code unit : Nat) (inj force : Bool) (h : c.flt.cur = none)
    (g : handlingOf c code unit = false) :
    (raiseCore k c code unit inj force).flt.cur =
        some ⟨code, unit, severity code unit, inj, nowUs k c, permNow k c code unit force⟩ ∧
      (raiseCore k c code unit inj force).num Key.Flt.EVENTS = (c.num Key.Flt.EVENTS + 1) % 0x100000000 ∧
      (raiseCore k c code unit inj force).num Key.Flt.HANDLING = code ∧
      (raiseCore k c code unit inj force).num Key.Health.HEALTH = c.num Key.Health.HEALTH := by
  obtain ⟨h1, h2, h3⟩ := noted_facts k c code unit inj force
  have e : raiseCore k c code unit inj force =
      match offer (noted k c code unit inj force)
          ⟨code, unit, severity code unit, inj, nowUs k c, permNow k c code unit force⟩ with
      | some c' => logEvent k c' ⟨code, unit, severity code unit, inj, nowUs k c, permNow k c code unit force⟩ false
          (inWindow k c code unit + 1)
      | none => raiseQueueFull k (logEvent k (noted k c code unit inj force)
          ⟨code, unit, severity code unit, inj, nowUs k c, permNow k c code unit force⟩ true (inWindow k c code unit + 1)) := by
    have g' : handlingOf (budgetAdd k c code unit) code unit = false := g
    unfold raiseCore
    simp only [g', Bool.false_eq_true, if_false]
    rfl
  rw [e, offer_idle _ _ (h1.trans h)]
  refine ⟨rfl, ?_, ?_, ?_⟩
  · simp only [logEvent, fltShow]; simp (disch := decide) [h2]
  · simp only [logEvent, fltShow]; simp (disch := decide)
  · simp only [logEvent, fltShow]; simp (disch := decide) [h3]

theorem healthBreak_of_ne (k : Keeper) (c : Chip) (cause : Nat) (inj : Bool) (h : c.num Key.Health.HEALTH ≠ 1) :
    healthBreak k c cause inj = c := if_neg h

theorem raiseWith_idle (k : Keeper) (c : Chip) (code unit : Nat) (inj force : Bool) (h : HandlerFree c code unit) :
    (raiseWith k c code unit inj force).flt.cur =
        some ⟨code, unit, severity code unit, inj, nowUs k c, permNow k c code unit force⟩ ∧
      (raiseWith k c code unit inj force).num Key.Flt.EVENTS = (c.num Key.Flt.EVENTS + 1) % 0x100000000 ∧
      (raiseWith k c code unit inj force).num Key.Flt.HANDLING = code := by
  have r := raiseCore_idle k c code unit inj force h.1 h.2.1
  have e : raiseWith k c code unit inj force = raiseCore k c code unit inj force := by
    unfold raiseWith
    dsimp only
    split
    · exact healthBreak_of_ne _ _ _ _ (by rw [r.2.2.2]; exact h.2.2)
    · rfl
  rw [e]
  exact ⟨r.1, r.2.1, r.2.2.1⟩

/-- An event of an idle handler occupies it and is counted. -/
theorem raise_taken (k : Keeper) (c : Chip) (code unit : Nat) (inj : Bool) (h : HandlerFree c code unit) :
    Taken c (raise k c code unit inj) code unit inj := by
  have r := raiseWith_idle k c code unit inj false h
  exact ⟨⟨_, r.1, rfl, rfl, rfl, rfl⟩, r.2.1, r.2.2⟩

theorem raiseWith_taken (k : Keeper) (c : Chip) (code unit : Nat) (inj force : Bool) (h : HandlerFree c code unit) :
    Taken c (raiseWith k c code unit inj force) code unit inj := by
  have r := raiseWith_idle k c code unit inj force h
  exact ⟨⟨_, r.1, rfl, rfl, rfl, rfl⟩, r.2.1, r.2.2⟩

/-- What `Taken` says of the chip before an event asks for its EVENTS alone. -/
theorem Taken.of_eq {c c' d : Chip} {code unit : Nat} {inj : Bool} (h : Taken c d code unit inj)
    (e : c.num Key.Flt.EVENTS = c'.num Key.Flt.EVENTS) : Taken c' d code unit inj := ⟨h.1, e ▸ h.2.1, h.2.2⟩

/-- Nor does a later change of other parts. -/
theorem Taken.to_eq {c d d' : Chip} {code unit : Nat} {inj : Bool} (h : Taken c d code unit inj)
    (e : d'.flt.cur = d.flt.cur) (e1 : d'.num Key.Flt.EVENTS = d.num Key.Flt.EVENTS)
    (e2 : d'.num Key.Flt.HANDLING = d.num Key.Flt.HANDLING) : Taken c d' code unit inj :=
  ⟨e ▸ h.1, e1 ▸ h.2.1, e2 ▸ h.2.2⟩

end Sys2Proof.Machine
end

