-- ==== Sys2Proof/Laws/Restart.lean ====
section
/-! SUPPORT. A restart, the power-up of a KINDLING step and the last writes of OFF leave the mode and the mode state alone. -/

set_option linter.unusedSimpArgs false

namespace Sys2Proof.Machine

theorem foldl_mode {α : Type} (f : Chip → α → Chip) (h : ∀ c a, (f c a).mode = c.mode) (l : List α) (c : Chip) :
    (l.foldl f c).mode = c.mode := by
  induction l generalizing c with
  | nil => rfl
  | cons a t ih => rw [List.foldl_cons, ih, h]

@[simp] theorem recStore_mode (c : Chip) (x : RecX) : (recStore c x).mode = c.mode := by
  simp [recStore, apply_ite Chip.mode, foldl_mode]
@[simp] theorem closeHandling_mode (c : Chip) (code unit : Nat) : (closeHandling c code unit).mode = c.mode := by
  simp [closeHandling, apply_ite Chip.mode, foldl_mode]
@[simp] theorem present_mode (c : Chip) (tk v : Nat) : (present c tk v).mode = c.mode := by
  simp [present, apply_ite Chip.mode, foldl_mode]
@[simp] theorem timeTo_mode (c : Chip) (st : Nat) : (timeTo c st).mode = c.mode := by
  simp [timeTo, apply_ite Chip.mode, foldl_mode]
@[simp] theorem pulsesRest_mode (c : Chip) : (pulsesRest c).mode = c.mode := rfl
@[simp] theorem pulsesStop_mode (c : Chip) : (pulsesStop c).mode = c.mode := rfl
@[simp] theorem timeReset_mode (c : Chip) : (timeReset c).mode = c.mode := by
  simp [timeReset, apply_ite Chip.mode, foldl_mode]
@[simp] theorem visionDown_mode (c : Chip) : (visionDown c).mode = c.mode := by
  simp [visionDown, apply_ite Chip.mode, foldl_mode]
@[simp] theorem canShow_mode (c : Chip) (p : Nat) : (canShow c p).mode = c.mode := by
  simp [canShow, apply_ite Chip.mode, foldl_mode]
@[simp] theorem canDown_mode (c : Chip) : (canDown c).mode = c.mode := by
  simp [canDown, apply_ite Chip.mode, foldl_mode]
@[simp] theorem ethDown_mode (c : Chip) : (ethDown c).mode = c.mode := by
  simp [ethDown, apply_ite Chip.mode, foldl_mode]
@[simp] theorem pllSet_mode (c : Chip) (p : Nat) (x : PllX) : (pllSet c p x).mode = c.mode := by
  simp [pllSet, apply_ite Chip.mode, foldl_mode]
@[simp] theorem domPrimary_mode (c : Chip) (d : Nat) : (domPrimary c d).mode = c.mode := by
  simp [domPrimary, apply_ite Chip.mode, foldl_mode]
@[simp] theorem domAlternate_mode (c : Chip) (d : Nat) : (domAlternate c d).mode = c.mode := by
  simp [domAlternate, apply_ite Chip.mode, foldl_mode]
@[simp] theorem domStop_mode (k : Keeper) (c : Chip) (d : Nat) (injected : Bool) : (domStop k c d injected).mode =
    c.mode := by
  simp [domStop, apply_ite Chip.mode, foldl_mode]
@[simp] theorem domStart_mode (k : Keeper) (c : Chip) (d : Nat) : (domStart k c d).mode = c.mode := by
  simp [domStart, apply_ite Chip.mode, foldl_mode]
@[simp] theorem pdSet_mode (k : Keeper) (c : Chip) (d st : Nat) : (pdSet k c d st).mode = c.mode := by
  simp [pdSet, apply_ite Chip.mode]
@[simp] theorem pdUp_mode (k : Keeper) (c : Chip) (d : Nat) : (pdUp k c d).mode = c.mode := by
  simp [pdUp, apply_ite Chip.mode, foldl_mode]
@[simp] theorem pwrStep_mode (k : Keeper) (c : Chip) (step : Nat) : (pwrStep k c step).mode = c.mode := by
  simp [pwrStep, hearthShow, apply_ite Chip.mode, foldl_mode]
@[simp] theorem pwrKindling_mode (c : Chip) (fromOff : Bool) : (pwrKindling c fromOff).mode = c.mode := by
  simp [pwrKindling, apply_ite Chip.mode, foldl_mode]
@[simp] theorem regionShow_mode (c : Chip) (r : Nat) : (regionShow c r).mode = c.mode := by
  simp [regionShow, apply_ite Chip.mode, foldl_mode]
@[simp] theorem setInactive_mode (c : Chip) (r : Nat) (x : RegionCopy) : (setInactive c r x).mode = c.mode := by
  simp [setInactive, apply_ite Chip.mode, foldl_mode]
@[simp] theorem emptyInactive_mode (c : Chip) (r : Nat) : (emptyInactive c r).mode = c.mode := by
  simp [emptyInactive, apply_ite Chip.mode, foldl_mode]
@[simp] theorem buildSet_mode (c : Chip) (b : Nat) (x : BuildX) : (buildSet c b x).mode = c.mode := by
  simp [buildSet, apply_ite Chip.mode, foldl_mode]
@[simp] theorem stagingShow_mode (c : Chip) : (stagingShow c).mode = c.mode := by
  simp [stagingShow, apply_ite Chip.mode, foldl_mode]
@[simp] theorem buildEnd_mode (c : Chip) (b state : Nat) : (buildEnd c b state).mode = c.mode := by
  simp [buildEnd, apply_ite Chip.mode, foldl_mode]
@[simp] theorem updAbortAll_mode (c : Chip) : (updAbortAll c).mode = c.mode := by
  simp [updAbortAll, apply_ite Chip.mode, foldl_mode]
@[simp] theorem updOff_mode (c : Chip) : (updOff c).mode = c.mode := by
  simp [updOff, apply_ite Chip.mode, foldl_mode]
@[simp] theorem recMark_mode (k : Keeper) (c : Chip) (x : RecX) : (recMark k c x).mode = c.mode := by
  unfold recMark; (repeat' split) <;> simp [foldl_mode]
@[simp] theorem recOff_mode (k : Keeper) (c : Chip) : (recOff k c).mode = c.mode := by
  unfold recOff; dsimp only; (repeat' split) <;> simp [foldl_mode]
@[simp] theorem panelSet_mode (c : Chip) (p : Nat) (x : PanelX) : (panelSet c p x).mode = c.mode := by
  simp [panelSet, apply_ite Chip.mode, foldl_mode]
@[simp] theorem faceForget_mode (c : Chip) (p : Nat) : (faceForget c p).mode = c.mode := by
  simp [faceForget, apply_ite Chip.mode, foldl_mode]
@[simp] theorem faceOff_mode (c : Chip) : (faceOff c).mode = c.mode := by
  simp [faceOff, apply_ite Chip.mode, foldl_mode]
@[simp] theorem ashKindling_mode (c : Chip) : (ashKindling c).mode = c.mode := by
  simp [ashKindling, apply_ite Chip.mode, foldl_mode]
@[simp] theorem heldDrop_mode (c : Chip) : (heldDrop c).mode = c.mode := by
  simp [heldDrop, apply_ite Chip.mode, foldl_mode]
@[simp] theorem visionRestart_mode (c : Chip) (why : Restart) : (visionRestart c why).mode = c.mode := by
  simp [visionRestart, apply_ite Chip.mode, foldl_mode]
@[simp] theorem gnssRestart_mode (c : Chip) (why : Restart) : (gnssRestart c why).mode = c.mode := by
  simp [gnssRestart, apply_ite Chip.mode, foldl_mode]
@[simp] theorem coreRestart_mode (c : Chip) (why : Restart) : (coreRestart c why).mode = c.mode := by
  simp [coreRestart, apply_ite Chip.mode, foldl_mode]
theorem foldl_modes {α : Type} (f : Chip → α → Chip) (h : ∀ c a, (f c a).modes = c.modes) (l : List α) (c : Chip) :
    (l.foldl f c).modes = c.modes := by
  induction l generalizing c with
  | nil => rfl
  | cons a t ih => rw [List.foldl_cons, ih, h]

@[simp] theorem recStore_modes (c : Chip) (x : RecX) : (recStore c x).modes = c.modes := by
  simp [recStore, apply_ite Chip.modes, foldl_modes]
@[simp] theorem closeHandling_modes (c : Chip) (code unit : Nat) : (closeHandling c code unit).modes = c.modes := by
  simp [closeHandling, apply_ite Chip.modes, foldl_modes]
@[simp] theorem present_modes (c : Chip) (tk v : Nat) : (present c tk v).modes = c.modes := by
  simp [present, apply_ite Chip.modes, foldl_modes]
@[simp] theorem timeTo_modes (c : Chip) (st : Nat) : (timeTo c st).modes = c.modes := by
  simp [timeTo, apply_ite Chip.modes, foldl_modes]
@[simp] theorem pulsesRest_modes (c : Chip) : (pulsesRest c).modes = c.modes := rfl
@[simp] theorem pulsesStop_modes (c : Chip) : (pulsesStop c).modes = c.modes := rfl
@[simp] theorem timeReset_modes (c : Chip) : (timeReset c).modes = c.modes := by
  simp [timeReset, apply_ite Chip.modes, foldl_modes]
@[simp] theorem visionDown_modes (c : Chip) : (visionDown c).modes = c.modes := by
  simp [visionDown, apply_ite Chip.modes, foldl_modes]
@[simp] theorem canShow_modes (c : Chip) (p : Nat) : (canShow c p).modes = c.modes := by
  simp [canShow, apply_ite Chip.modes, foldl_modes]
@[simp] theorem canDown_modes (c : Chip) : (canDown c).modes = c.modes := by
  simp [canDown, apply_ite Chip.modes, foldl_modes]
@[simp] theorem ethDown_modes (c : Chip) : (ethDown c).modes = c.modes := by
  simp [ethDown, apply_ite Chip.modes, foldl_modes]
@[simp] theorem pllSet_modes (c : Chip) (p : Nat) (x : PllX) : (pllSet c p x).modes = c.modes := by
  simp [pllSet, apply_ite Chip.modes, foldl_modes]
@[simp] theorem domPrimary_modes (c : Chip) (d : Nat) : (domPrimary c d).modes = c.modes := by
  simp [domPrimary, apply_ite Chip.modes, foldl_modes]
@[simp] theorem domAlternate_modes (c : Chip) (d : Nat) : (domAlternate c d).modes = c.modes := by
  simp [domAlternate, apply_ite Chip.modes, foldl_modes]
@[simp] theorem domStop_modes (k : Keeper) (c : Chip) (d : Nat) (injected : Bool) : (domStop k c d injected).modes =
    c.modes := by
  simp [domStop, apply_ite Chip.modes, foldl_modes]
@[simp] theorem domStart_modes (k : Keeper) (c : Chip) (d : Nat) : (domStart k c d).modes = c.modes := by
  simp [domStart, apply_ite Chip.modes, foldl_modes]
@[simp] theorem pdSet_modes (k : Keeper) (c : Chip) (d st : Nat) : (pdSet k c d st).modes = c.modes := by
  simp [pdSet, apply_ite Chip.modes]
@[simp] theorem pdUp_modes (k : Keeper) (c : Chip) (d : Nat) : (pdUp k c d).modes = c.modes := by
  simp [pdUp, apply_ite Chip.modes, foldl_modes]
@[simp] theorem pwrStep_modes (k : Keeper) (c : Chip) (step : Nat) : (pwrStep k c step).modes = c.modes := by
  simp [pwrStep, hearthShow, apply_ite Chip.modes, foldl_modes]
@[simp] theorem pwrKindling_modes (c : Chip) (fromOff : Bool) : (pwrKindling c fromOff).modes = c.modes := by
  simp [pwrKindling, apply_ite Chip.modes, foldl_modes]
@[simp] theorem regionShow_modes (c : Chip) (r : Nat) : (regionShow c r).modes = c.modes := by
  simp [regionShow, apply_ite Chip.modes, foldl_modes]
@[simp] theorem setInactive_modes (c : Chip) (r : Nat) (x : RegionCopy) : (setInactive c r x).modes = c.modes := by
  simp [setInactive, apply_ite Chip.modes, foldl_modes]
@[simp] theorem emptyInactive_modes (c : Chip) (r : Nat) : (emptyInactive c r).modes = c.modes := by
  simp [emptyInactive, apply_ite Chip.modes, foldl_modes]
@[simp] theorem buildSet_modes (c : Chip) (b : Nat) (x : BuildX) : (buildSet c b x).modes = c.modes := by
  simp [buildSet, apply_ite Chip.modes, foldl_modes]
@[simp] theorem stagingShow_modes (c : Chip) : (stagingShow c).modes = c.modes := by
  simp [stagingShow, apply_ite Chip.modes, foldl_modes]
@[simp] theorem buildEnd_modes (c : Chip) (b state : Nat) : (buildEnd c b state).modes = c.modes := by
  simp [buildEnd, apply_ite Chip.modes, foldl_modes]
@[simp] theorem updAbortAll_modes (c : Chip) : (updAbortAll c).modes = c.modes := by
  simp [updAbortAll, apply_ite Chip.modes, foldl_modes]
@[simp] theorem updOff_modes (c : Chip) : (updOff c).modes = c.modes := by
  simp [updOff, apply_ite Chip.modes, foldl_modes]
@[simp] theorem recMark_modes (k : Keeper) (c : Chip) (x : RecX) : (recMark k c x).modes = c.modes := by
  unfold recMark; (repeat' split) <;> simp [foldl_modes]
@[simp] theorem recOff_modes (k : Keeper) (c : Chip) : (recOff k c).modes = c.modes := by
  unfold recOff; dsimp only; (repeat' split) <;> simp [foldl_modes]
@[simp] theorem panelSet_modes (c : Chip) (p : Nat) (x : PanelX) : (panelSet c p x).modes = c.modes := by
  simp [panelSet, apply_ite Chip.modes, foldl_modes]
@[simp] theorem faceForget_modes (c : Chip) (p : Nat) : (faceForget c p).modes = c.modes := by
  simp [faceForget, apply_ite Chip.modes, foldl_modes]
@[simp] theorem faceOff_modes (c : Chip) : (faceOff c).modes = c.modes := by
  simp [faceOff, apply_ite Chip.modes, foldl_modes]
@[simp] theorem ashKindling_modes (c : Chip) : (ashKindling c).modes = c.modes := by
  simp [ashKindling, apply_ite Chip.modes, foldl_modes]
@[simp] theorem heldDrop_modes (c : Chip) : (heldDrop c).modes = c.modes := by
  simp [heldDrop, apply_ite Chip.modes, foldl_modes]
@[simp] theorem visionRestart_modes (c : Chip) (why : Restart) : (visionRestart c why).modes = c.modes := by
  simp [visionRestart, apply_ite Chip.modes, foldl_modes]
@[simp] theorem gnssRestart_modes (c : Chip) (why : Restart) : (gnssRestart c why).modes = c.modes := by
  simp [gnssRestart, apply_ite Chip.modes, foldl_modes]
@[simp] theorem coreRestart_modes (c : Chip) (why : Restart) : (coreRestart c why).modes = c.modes := by
  simp [coreRestart, apply_ite Chip.modes, foldl_modes]

end Sys2Proof.Machine
end

