-- ==== Sys2Proof/Laws/Writes.lean ====
section
/-! SUPPORT. What a write can do before its edge, said once (R29, R53, R59, R125). -/

namespace Sys2Proof.Machine

/-- A chip differs at most in the record of the last admission. -/
def AdmitOnly (c d : Chip) : Prop :=
  d = c ∨ ∃ a b, d = (c.put Key.Eng.ADMIT_CODE a).put Key.Eng.ADMIT_OBJECT b

theorem jointPairs_chip : ∀ (n : Nat) (j : Joint), (jointPairs n j).chip = j.chip
  | 0, _ => rfl
  | n + 1, j => by
    unfold jointPairs
    dsimp only
    split
    · rw [jointPairs_chip n]; rfl
    · rfl

theorem jointEngine_chip (j : Joint) : AdmitOnly j.chip (jointEngine j).chip := by
  unfold jointEngine
  dsimp only
  split
  · exact .inl rfl
  · split <;> exact .inr ⟨_, _, rfl⟩

theorem jointSlots_chip (j : Joint) : (jointSlots j).chip = j.chip := by
  unfold jointSlots
  dsimp only
  split <;> rfl

theorem jointVision_chip (j : Joint) : (jointVision j).chip = j.chip := by
  unfold jointVision
  dsimp only
  split <;> rfl

theorem jointMeas_chip (j : Joint) : (jointMeas j).chip = j.chip := by
  unfold jointMeas
  dsimp only
  split
  · split <;> rfl
  · rfl

theorem jointDriven_chip (j : Joint) : (jointDriven j).chip = j.chip := rfl

/-- Judging writes together changes nothing but the record of the last admission. -/
theorem judgeJoint_chip (c : Chip) (live : List (Nat × Cand)) : AdmitOnly c (judgeJoint c live).chip := by
  unfold judgeJoint
  dsimp only
  rw [jointPairs_chip, jointDriven_chip, jointMeas_chip, jointVision_chip, jointSlots_chip]
  have h := jointEngine_chip (jointPairs live.length ⟨c, live, []⟩)
  rw [jointPairs_chip] at h
  exact h

theorem judgeOne_chip (k : Keeper) (c : Chip) (key : Nat) (way : Way) (data : List Byte) :
    AdmitOnly c (judgeOne k c key way data).2.2 := by
  unfold judgeOne
  split
  · exact .inl rfl
  · split
    · exact judgeJoint_chip _ _
    · exact .inl rfl

/-- What the record of an admission leaves alone. -/
theorem AdmitOnly.facts {c d : Chip} (h : AdmitOnly c d) :
    d.dict = c.dict ∧ d.out = c.out ∧ d.mode = c.mode ∧ d.num Key.Epoch.LATE_WRITES = c.num Key.Epoch.LATE_WRITES ∧
      KeepsObjects writeKeys c d := by
  rcases h with rfl | ⟨a, b, rfl⟩
  · exact ⟨rfl, rfl, rfl, rfl, fun _ _ => rfl⟩
  · refine ⟨rfl, rfl, rfl, by simp (disch := decide), fun key hk => ?_⟩
    simp only [writeKeys, List.mem_cons, not_or] at hk
    rw [odGet_put_ne _ _ hk.2.1, odGet_put_ne _ _ hk.1]

/-- Taking a write makes it due (R29). -/
theorem acceptWrite_facts (k : Keeper) (c : Chip) (org : Origin) (key : Nat) (v : Val) :
    (acceptWrite k c org key v).dict.pend = c.dict.pend ++ [⟨openEdge k, org, key, v⟩] ∧
      (acceptWrite k c org key v).out = c.out ∧ (acceptWrite k c org key v).mode = c.mode ∧
      (acceptWrite k c org key v).num Key.Epoch.LATE_WRITES =
        (if k.setClosed then (c.num Key.Epoch.LATE_WRITES + 1) % 0x100000000 else c.num Key.Epoch.LATE_WRITES) ∧
      KeepsObjects writeKeys c (acceptWrite k c org key v) := by
  unfold acceptWrite
  dsimp only
  split
  · refine ⟨rfl, rfl, rfl, by simp, fun key hk => ?_⟩
    simp only [writeKeys, List.mem_cons, not_or] at hk
    simp [hk.2.2.1]
  · exact ⟨rfl, rfl, rfl, rfl, fun _ _ => rfl⟩

/-- A write that does not act at once becomes due. -/
theorem takeWrite_due {k : Keeper} {c : Chip} {org : Origin} {key : Nat} {v : Val} (h : actsAtOnce key = false) :
    takeWrite k c org key v = acceptWrite k c org key v := by
  simp only [actsAtOnce, Bool.or_eq_false_iff, decide_eq_false_iff_not] at h
  simp [takeWrite, h.1, h.2]

/-- An accepted write that does not act at once is taken. -/
theorem writeOne_taken {s : State} {org : Origin} {key : Nat} {way : Way} {data : List Byte} {v : Val}
    (h : Accepts s key way data v) (hb : actsAtOnce key = false) :
    WriteTaken s { s with chip := writeOne s.keeper s.found org key way data } org key v := by
  obtain ⟨h1, c, h2⟩ := h
  have hs : served s.found = true := h1
  have a := judgeOne_chip s.keeper s.found key way data
  rw [h2] at a
  obtain ⟨a1, a2, a3, a4, a5⟩ := a.facts
  obtain ⟨b1, b2, b3, b4, b5⟩ := acceptWrite_facts s.keeper c org key v
  have e : writeOne s.keeper s.found org key way data = (acceptWrite s.keeper c org key v).emit (.result Rc.OK []) := by
    unfold writeOne
    simp only [hs, h2, Bool.not_true, Bool.false_eq_true, if_false, if_true, takeWrite_due hb]
  unfold WriteTaken
  simp only [e]
  refine ⟨?_, ?_, ?_, ?_, fun key' hk => ?_⟩
  · simp only [Chip.emit_dict, b1]; rw [a1]; rfl
  · simp only [Chip.emit_out, b2]; rw [a2]; rfl
  · simp only [Chip.num_emit, b4]; rw [a4]; rfl
  · simp only [Chip.emit_mode, b3]; exact a3
  · exact (b5 key' hk).trans (a5 key' hk)

/-- A refused write is answered with its code, and nothing but the record of the last admission changes. -/
theorem writeOne_refused {s : State} {org : Origin} {key : Nat} {way : Way} {data : List Byte} {code : Nat}
    (h : Refuses s key way data code) :
    ∃ d, writeOne s.keeper s.found org key way data = d ∧ d.out = [.result code []] ∧ d.dict = s.chip.dict ∧
      d.mode = s.chip.mode ∧ KeepsObjects writeKeys s.chip d := by
  obtain ⟨h1, h0, v, c, h2⟩ := h
  have hs : served s.found = true := h1
  have a := judgeOne_chip s.keeper s.found key way data
  rw [h2] at a
  obtain ⟨a1, a2, a3, a4, a5⟩ := a.facts
  refine ⟨c.emit (.result code []), ?_, ?_, a1, a3, fun key' hk => a5 key' hk⟩
  · unfold writeOne
    simp only [hs, h2, Bool.not_true, Bool.false_eq_true, if_false, h0]
  · simp only [Chip.emit_out]; rw [a2]; rfl

/-- Taking the judged writes of a datagram one after another. -/
def takeAll (k : Keeper) (org : Origin) (j : Joint) (c : Chip) (w : Nat × Nat × Except Nat Val) : Chip :=
  match w.2.2 with
  | .error e => c.emit (.result e [])
  | .ok v => (if (j.result w.1).getD Rc.OK = Rc.OK then takeWrite k c org w.2.1 v else c).emit
      (.result ((j.result w.1).getD Rc.OK) [])

theorem writeAll_eq (k : Keeper) (c : Chip) (org : Origin) (ws : List (Nat × List Byte)) (h : served c = true) :
    writeAll k c org ws = (ownChecks k c ws).foldl (takeAll k org (judgeJoint c (jointWrites (ownChecks k c ws))))
      (judgeJoint c (jointWrites (ownChecks k c ws))).chip := by
  unfold writeAll
  rw [h]
  rfl

theorem takeAll_fold (k : Keeper) (org : Origin) (j : Joint) :
    ∀ (own : List (Nat × Nat × Except Nat Val)) (c : Chip), (∀ w ∈ own, actsAtOnce w.2.1 = false) →
      (own.foldl (takeAll k org j) c).out = c.out ++ own.map (fun w => Output.result (match w.2.2 with
          | .error e => e
          | .ok _ => (j.result w.1).getD Rc.OK) []) ∧
        (own.foldl (takeAll k org j) c).dict.pend = c.dict.pend ++ own.filterMap (fun w => match w.2.2 with
          | .error _ => none
          | .ok v => if ((j.result w.1).getD Rc.OK = Rc.OK) then some ⟨openEdge k, org, w.2.1, v⟩ else none) ∧
        (own.foldl (takeAll k org j) c).mode = c.mode ∧ KeepsObjects writeKeys c (own.foldl (takeAll k org j) c)
  | [], c, _ => by simp [KeepsObjects]
  | w :: t, c, h => by
    obtain ⟨i, key, r⟩ := w
    have hk : actsAtOnce key = false := h _ (List.mem_cons_self ..)
    have ih := fun d => takeAll_fold k org j t d (fun x hx => h x (List.mem_cons_of_mem _ hx))
    simp only [List.foldl_cons]
    obtain ⟨i1, i2, i3, i4⟩ := ih (takeAll k org j c (i, key, r))
    rw [i1, i2, i3]
    have step : (takeAll k org j c (i, key, r)).out = c.out ++ [Output.result (match r with
          | .error e => e
          | .ok _ => (j.result i).getD Rc.OK) []] ∧
        (takeAll k org j c (i, key, r)).dict.pend = c.dict.pend ++ (match (match r with
          | .error _ => none
          | .ok v => if ((j.result i).getD Rc.OK = Rc.OK) then some (⟨openEdge k, org, key, v⟩ : Write) else none) with
          | some w => [w]
          | none => []) ∧
        (takeAll k org j c (i, key, r)).mode = c.mode ∧ KeepsObjects writeKeys c (takeAll k org j c (i, key, r)) := by
      cases r with
      | error e => exact ⟨rfl, by simp [takeAll], rfl, fun _ _ => rfl⟩
      | ok v =>
        by_cases hc : (j.result i).getD Rc.OK = Rc.OK
        · have b := acceptWrite_facts k c org key v
          have e : takeAll k org j c (i, key, .ok v) = (acceptWrite k c org key v).emit (.result Rc.OK []) := by
            simp only [takeAll, hc, if_true, takeWrite_due hk]
          rw [e]
          refine ⟨?_, ?_, ?_, fun k' hk' => b.2.2.2.2 k' hk'⟩
          · simp only [Chip.emit_out, b.2.1, hc]
          · simp only [Chip.emit_dict, b.1, hc, if_true]
          · simp only [Chip.emit_mode, b.2.2.1]
        · have e : takeAll k org j c (i, key, .ok v) = c.emit (.result ((j.result i).getD Rc.OK) []) := by
            simp only [takeAll, hc, if_false]
          rw [e]
          exact ⟨rfl, by simp [hc], rfl, fun _ _ => rfl⟩
    obtain ⟨s1, s2, s3, s4⟩ := step
    rw [s1, s2, s3]
    refine ⟨by cases r <;> simp, ?_, rfl, fun k' hk' => (i4 k' hk').trans (s4 k' hk')⟩
    cases r with
    | error e => simp
    | ok v =>
      by_cases hc : (j.result i).getD Rc.OK = Rc.OK <;> simp [hc]

/-- The writes of a datagram: each has its result, those accepted become due, and nothing else changes but the objects of
`writeKeys` (R29, R53). -/
theorem writeAll_facts (k : Keeper) (c : Chip) (org : Origin) (ws : List (Nat × List Byte)) (h : served c = true)
    (hb : ∀ w ∈ ws, actsAtOnce w.1 = false) :
    (writeAll k c org ws).out = c.out ++ (writeResults k c ws).map (fun r => Output.result r []) ∧
      (writeAll k c org ws).dict.pend = c.dict.pend ++ writesDue k c org ws ∧ (writeAll k c org ws).mode = c.mode ∧
      KeepsObjects writeKeys c (writeAll k c org ws) := by
  rw [writeAll_eq k c org ws h]
  have hb' : ∀ w ∈ ownChecks k c ws, actsAtOnce w.2.1 = false := by
    intro w hw
    simp only [ownChecks, List.mem_map] at hw
    obtain ⟨⟨x, n⟩, hx, rfl⟩ := hw
    exact hb x (List.of_mem_zip hx).1
  obtain ⟨f1, f2, f3, f4⟩ := takeAll_fold k org (judgeJoint c (jointWrites (ownChecks k c ws))) (ownChecks k c ws)
    (judgeJoint c (jointWrites (ownChecks k c ws))).chip hb'
  obtain ⟨g1, g2, g3, _, g5⟩ := (judgeJoint_chip c (jointWrites (ownChecks k c ws))).facts
  rw [f1, f2, f3, g1, g2, g3]
  refine ⟨?_, rfl, rfl, fun k' hk' => (f4 k' hk').trans (g5 k' hk')⟩
  simp only [writeResults, List.map_map]
  rfl

end Sys2Proof.Machine
end

