-- ==== Sys2Proof/Laws/Ops.lean ====
section
/-! SUPPORT. Shared operations: what executing on the chip answers, what an event from an idle handler does beside other
changes, which event the handler takes next (R444), and what showing the recorder leaves alone. -/

namespace Sys2Proof.Machine

/-- Equal chips give equal next states. -/
theorem next_chip_congr {s : State} {a b : Chip} (h : a = b) :
    (Host.Outcome.next { s with chip := a } : Host.Outcome State Fault Refusal) = .next { s with chip := b } := by rw [h]

/-- A command that acts on the chip answers a next state, of the chip found. -/
theorem onChip_answers (f : Keeper → Chip → Chip) (s : State) : onChip f s = .next { s with chip := f s.keeper s.found } := rfl

theorem onChip_eq_next {f : Keeper → Chip → Chip} {s : State} {d : Chip} (h : f s.keeper s.found = d) :
    onChip f s = .next { s with chip := d } := by subst h; rfl

theorem onChip_exists {f : Keeper → Chip → Chip} {s : State} {P : State → Prop} (h : P { s with chip := f s.keeper s.found }) :
    ∃ t, onChip f s = .next t ∧ P t := ⟨_, rfl, h⟩

/-- What each pass of a loop preserves, the loop preserves. -/
theorem foldl_chip_preserves {α : Type} (P : Chip → Prop) (f : Chip → α → Chip) (h : ∀ c a, P c → P (f c a)) : ∀ (l : List α) (c : Chip), P c → P (l.foldl f c)
  | [], _, hc => hc
  | a :: l, c, hc => foldl_chip_preserves P f h l (f c a) (h c a hc)


theorem raise_taken_put (k : Keeper) (c d : Chip) (code unit : Nat) (inj : Bool) (key v : Nat) (hc : HandlerFree c code unit)
    (hf : d.flt = c.flt) (ho : d.od = (c.put key v).od) (hk : key ∉ eventKeys) :
    Taken c (raise k d code unit inj) code unit inj ∧ (raise k d code unit inj).num key = v ∧
      KeepsObjects (key :: eventKeys) c (raise k d code unit inj) := by
  have hn : ∀ x, x ≠ key → d.num x = c.num x := by
    intro x hx
    show (odGet d.od x).toNum = _
    rw [ho]; exact Chip.num_put_ne c v hx
  have hs : d.num key = v := by
    show (odGet d.od key).toNum = _
    rw [ho]; exact Chip.num_put_same c key v
  have hH : Key.Health.HEALTH ≠ key := by rintro rfl; exact hk (by decide)
  have hE : Key.Flt.EVENTS ≠ key := by rintro rfl; exact hk (by decide)
  refine ⟨Taken.of_eq (raise_taken k d code unit inj ⟨?_, ?_, ?_⟩) (hn _ hE), ?_, ?_⟩
  · rw [hf]; exact hc.1
  · unfold handlingOf; rw [hf]; exact hc.2.1
  · rw [hn _ hH]; exact hc.2.2
  · rw [raise_num _ _ _ _ _ hk]; exact hs
  · refine KeepsObjects.raise _ _ _ _ (fun x hx => ?_) (fun x hx => List.mem_cons_of_mem _ hx)
    simp only [List.mem_cons, not_or] at hx
    rw [ho]; exact odGet_put_ne c v hx.1

/-- An event raised with no object written. -/
theorem raise_taken_same (k : Keeper) (c d : Chip) (code unit : Nat) (inj : Bool) (hc : HandlerFree c code unit)
    (hf : d.flt = c.flt) (ho : d.od = c.od) :
    Taken c (raise k d code unit inj) code unit inj ∧ KeepsObjects eventKeys c (raise k d code unit inj) := by
  have hn : ∀ x, d.num x = c.num x := by
    intro x
    show (odGet d.od x).toNum = _
    rw [ho]; rfl
  refine ⟨Taken.of_eq (raise_taken k d code unit inj ⟨?_, ?_, ?_⟩) (hn _), ?_⟩
  · rw [hf]; exact hc.1
  · unfold handlingOf; rw [hf]; exact hc.2.1
  · rw [hn]; exact hc.2.2
  · exact KeepsObjects.raise _ _ _ _ (KeepsObjects.of_od ho) (fun x hx => hx)

/-- An event raised beside the writes of some objects. -/
theorem raise_taken_keep (k : Keeper) (c d : Chip) (code unit : Nat) (inj : Bool) (l : List Nat) (hc : HandlerFree c code unit)
    (hf : d.flt.cur = c.flt.cur ∧ handlingOf d code unit = handlingOf c code unit) (ho : KeepsObjects l c d) (hk : ∀ x ∈ eventKeys, x ∉ l) :
    Taken c (raise k d code unit inj) code unit inj ∧ (∀ key, key ∉ eventKeys → odGet (raise k d code unit inj).od key = odGet d.od key) ∧
      KeepsObjects (l ++ eventKeys) c (raise k d code unit inj) := by
  have hn : ∀ x ∈ eventKeys, d.num x = c.num x := by
    intro x hx
    show (odGet d.od x).toNum = _
    rw [ho x (hk x hx)]; rfl
  refine ⟨Taken.of_eq (raise_taken k d code unit inj ⟨?_, ?_, ?_⟩) (hn _ (by simp [eventKeys])), fun key h => raise_get k d code unit inj h, ?_⟩
  · rw [hf.1]; exact hc.1
  · rw [hf.2]; exact hc.2.1
  · rw [hn _ (by simp [eventKeys])]; exact hc.2.2
  · exact KeepsObjects.raise _ _ _ _ (KeepsObjects.mono ho (fun x hx => List.mem_append_left _ hx)) (fun x hx => List.mem_append_right _ hx)

theorem disarm_crop (c : Chip) (a n : Nat) : (disarm c a n).crop = c.crop := rfl

theorem disarm_guide (c : Chip) (a n : Nat) : (disarm c a n).guide = c.guide := rfl

theorem fltShow_keeps (c : Chip) : KeepsObjects [Key.Flt.HANDLING, Key.Flt.QUEUE_DEPTH, Key.Flt.QUEUE_PEAK] c (fltShow c) :=
  KeepsObjects.put _ (KeepsObjects.put _ (KeepsObjects.put _ (KeepsObjects.of_od rfl) (by simp)) (by simp)) (by simp)

theorem fltShow_handling (c : Chip) : (fltShow c).num Key.Flt.HANDLING = (c.flt.cur.map (·.code)).getD 0 := Chip.num_put_same ..

theorem handlerNext_keeps (c : Chip) : KeepsObjects [Key.Flt.HANDLING, Key.Flt.QUEUE_DEPTH, Key.Flt.QUEUE_PEAK] c (handlerNext c) := by
  unfold handlerNext
  split
  · exact fun key h => fltShow_keeps _ key h
  · split
    · exact fun key h => fltShow_keeps _ key h
    · split
      · exact fun key h => fltShow_keeps _ key h
      · split
        · exact fun key h => fltShow_keeps _ key h
        · exact fun key h => rfl

theorem handlerNext_frame (c : Chip) : (handlerNext c).modes = c.modes ∧ (handlerNext c).flt.due = c.flt.due ∧ (handlerNext c).flt.opens = c.flt.opens := by
  unfold handlerNext
  split
  · exact ⟨rfl, rfl, rfl⟩
  · split
    · exact ⟨rfl, rfl, rfl⟩
    · split
      · exact ⟨rfl, rfl, rfl⟩
      · split
        · exact ⟨rfl, rfl, rfl⟩
        · exact ⟨rfl, rfl, rfl⟩

/-- takeNext takes an event of the highest severity and keeps the others. -/
theorem takeNext_spec : ∀ (l : List Event), (takeNext l = none ↔ l = []) ∧ ∀ e r, takeNext l = some (e, r) → e ∈ l ∧ r.length + 1 = l.length ∧ (∀ x ∈ r, x ∈ l) ∧ ∀ x ∈ l, x.sev ≤ e.sev
  | [] => ⟨by simp [takeNext], by simp [takeNext]⟩
  | a :: t => by
    obtain ⟨h0, h⟩ := takeNext_spec t
    unfold takeNext
    split
    · rename_i hn
      have := h0.1 hn; subst this
      refine ⟨by simp, fun e r hh => ?_⟩
      simp at hh; obtain ⟨rfl, rfl⟩ := hh
      simp
    · rename_i f r hf
      obtain ⟨m1, m2, m3, m4⟩ := h f r hf
      refine ⟨by split <;> simp, fun e r' hh => ?_⟩
      split at hh
      · simp at hh; obtain ⟨rfl, rfl⟩ := hh
        refine ⟨List.mem_cons_of_mem _ m1, by simp [m2], ?_, ?_⟩
        · intro x hx; rcases List.mem_cons.1 hx with rfl | hx
          · exact List.mem_cons_self ..
          · exact List.mem_cons_of_mem _ (m3 x hx)
        · intro x hx; rcases List.mem_cons.1 hx with rfl | hx
          · omega
          · exact m4 x hx
      · simp at hh; obtain ⟨rfl, rfl⟩ := hh
        refine ⟨List.mem_cons_self .., by simp, fun x hx => List.mem_cons_of_mem _ hx, ?_⟩
        intro x hx; rcases List.mem_cons.1 hx with rfl | hx
        · omega
        · have := m4 x hx; omega

theorem handlerNext_idle (c : Chip) (h : c.flt.stack = []) (h' : c.flt.queue = []) :
    handlerNext c = fltShow { c with flt := { c.flt with cur := none } } := by
  unfold handlerNext; rw [h, h']

/-- A free handler takes a waiting event (R444). -/
theorem handlerNext_takes (c : Chip) (q : Event) (rest : List Event) (h : c.flt.stack = []) (h' : c.flt.queue = q :: rest) :
    ∃ f r, handlerNext c = fltShow { c with flt := { c.flt with cur := some f, queue := r } } ∧ f ∈ q :: rest ∧ r.length = rest.length ∧
      (∀ x ∈ r, x ∈ q :: rest) ∧ (q.code = 0x1209 → f = q) ∧ (q.code ≠ 0x1209 → ∀ x ∈ q :: rest, x.sev ≤ f.sev) := by
  unfold handlerNext; rw [h, h']; dsimp only
  by_cases hq : q.code = 0x1209
  · rw [if_pos hq]
    exact ⟨q, rest, rfl, List.mem_cons_self .., rfl, fun x hx => List.mem_cons_of_mem _ hx, fun _ => rfl, fun h => absurd hq h⟩
  · rw [if_neg hq]
    cases ht : takeNext (q :: rest) with
    | none => exact absurd ((takeNext_spec _).1.1 ht) (by simp)
    | some p =>
      obtain ⟨e, r⟩ := p
      obtain ⟨m1, m2, m3, m4⟩ := (takeNext_spec _).2 e r ht
      exact ⟨e, r, rfl, m1, by simpa using m2, m3, fun h => absurd h hq, fun _ => m4⟩

theorem classify_queues (k : Keeper) (c : Chip) (e : Event) : (classify k c e).flt.stack = c.flt.stack ∧ (classify k c e).flt.queue = c.flt.queue := by
  unfold classify; dsimp only
  split
  · split
    · split <;> exact ⟨rfl, rfl⟩
    · split <;> exact ⟨rfl, rfl⟩
  · split <;> exact ⟨rfl, rfl⟩

theorem recWordsShow_preserves (P : Chip → Prop) (c : Chip) (w : Nat → Nat) (h : P c) (hp : ∀ c j v, P c → P (c.put (Key.RecV.WORD j) v)) : P (recWordsShow c w) :=
  foldl_chip_preserves P _ (fun _ _ h => hp _ _ _ h) _ _ h

theorem recShow_recd (c : Chip) : (recShow c).recd = c.recd := by
  unfold recShow recViewShow
  split <;> exact recWordsShow_preserves (fun d => d.recd = c.recd) _ _ (by simp [measShow]) (fun _ _ _ h => h)

theorem recShow_flt (c : Chip) : (recShow c).flt = c.flt := by
  unfold recShow recViewShow
  split <;> exact recWordsShow_preserves (fun d => d.flt = c.flt) _ _ (by simp [measShow]) (fun _ _ _ h => h)

theorem recInsert_find : ∀ (l : List RecX) (x : RecX), (recInsert l x).find? (fun y => decide (y.id = x.id)) = some x
  | [], x => by simp [recInsert]
  | y :: t, x => by
    unfold recInsert
    split
    · simp
    · split
      · simp
      · rename_i h1 h2
        rw [List.find?_cons_of_neg (by simpa using fun h => h1 h.symm)]
        exact recInsert_find t x

end Sys2Proof.Machine
end

