-- ==== Sys2Proof/Laws/Outputs.lean ====
section
/-! SUPPORT. The operations that put an output at its safe value leave the mode alone (R80, R92). -/

namespace Sys2Proof.Machine

@[simp] theorem lsSet_mode (c : Chip) (n : Nat) (x : LsX) :
    (lsSet c n x).mode = c.mode := rfl
@[simp] theorem lsShow_mode (c : Chip) (n : Nat) :
    (lsShow c n).mode = c.mode := by
  unfold lsShow; dsimp only; (repeat' split) <;> simp
@[simp] theorem lsSwitchOff_mode (c : Chip) (n : Nat) :
    (lsSwitchOff c n).mode = c.mode := by
  unfold lsSwitchOff; dsimp only; (repeat' split) <;> simp
@[simp] theorem lsSwitchOn_mode (k : Keeper) (c : Chip) (n : Nat) :
    (lsSwitchOn k c n).mode = c.mode := by
  unfold lsSwitchOn; dsimp only; (repeat' split) <;> simp
@[simp] theorem lsTurnOn_mode (k : Keeper) (c : Chip) (n : Nat) (written : Bool) :
    (lsTurnOn k c n written).mode = c.mode := by
  unfold lsTurnOn; dsimp only; (repeat' split) <;> simp
@[simp] theorem lsRest_mode (c : Chip) (n : Nat) :
    (lsRest c n).mode = c.mode := by
  unfold lsRest; dsimp only; (repeat' split) <;> simp
@[simp] theorem lsModeOn_mode (k : Keeper) (c : Chip) (n : Nat) :
    (lsModeOn k c n).mode = c.mode := by
  unfold lsModeOn; dsimp only; (repeat' split) <;> simp
@[simp] theorem lsHeldDuty_mode (c : Chip) (n : Nat) :
    (lsHeldDuty c n).mode = c.mode := by
  unfold lsHeldDuty; (repeat' split) <;> simp
@[simp] theorem lsSafe_mode (k : Keeper) (c : Chip) (n : Nat) :
    (lsSafe k c n).mode = c.mode := by
  unfold lsSafe; dsimp only; (repeat' split) <;> simp
@[simp] theorem lsRelease_mode (k : Keeper) (c : Chip) (n : Nat) :
    (lsRelease k c n).mode = c.mode := by
  unfold lsRelease; dsimp only; (repeat' split) <;> simp
@[simp] theorem lsOverrides_mode (k : Keeper) (c : Chip) :
    (lsOverrides k c).mode = c.mode := by
  unfold lsOverrides; dsimp only; (repeat' split) <;> simp [foldl_mode]
@[simp] theorem dioSet_mode (c : Chip) (n : Nat) (x : DioX) :
    (dioSet c n x).mode = c.mode := rfl
@[simp] theorem dioLevel_mode (k : Keeper) (c : Chip) (n : Nat) (level : Bool) (at_ : Nat) :
    (dioLevel k c n level at_).mode = c.mode := by
  unfold dioLevel; dsimp only; (repeat' split) <;> simp
@[simp] theorem dioDrive_mode (k : Keeper) (c : Chip) (n : Nat) (on : Bool) :
    (dioDrive k c n on).mode = c.mode := by
  unfold dioDrive; dsimp only; (repeat' split) <;> simp
@[simp] theorem dioSafe_mode (k : Keeper) (c : Chip) (n : Nat) (held : Bool) :
    (dioSafe k c n held).mode = c.mode := by
  unfold dioSafe; dsimp only; (repeat' split) <;> simp
@[simp] theorem vcSet_mode (c : Chip) (n : Nat) (x : VcX) :
    (vcSet c n x).mode = c.mode := rfl
@[simp] theorem usersShow_mode (c : Chip) (l : List Nat) :
    (usersShow c l).mode = c.mode := by
  unfold usersShow; exact foldl_mode _ (fun _ _ => by simp) _ _
@[simp] theorem quenchStart_mode (c : Chip) (b : Nat) :
    (quenchStart c b).mode = c.mode := by
  unfold quenchStart; (repeat' split) <;> simp
@[simp] theorem bankShow_mode (c : Chip) (b : Nat) :
    (bankShow c b).mode = c.mode := by
  unfold bankShow; dsimp only; (repeat' split) <;> simp
@[simp] theorem vcSettle_mode (k : Keeper) (c : Chip) (n : Nat) :
    (vcSettle k c n).mode = c.mode := by
  unfold vcSettle; dsimp only; (repeat' split) <;> simp
@[simp] theorem vcAsk_mode (k : Keeper) (c : Chip) (n req : Nat) (follow : Bool) :
    (vcAsk k c n req follow).mode = c.mode := by
  unfold vcAsk; dsimp only; (repeat' split) <;> simp
@[simp] theorem vcAbandon_mode (c : Chip) (n : Nat) :
    (vcAbandon c n).mode = c.mode := by
  simp only [vcAbandon, Chip.put_mode, vcSet_mode]
@[simp] theorem vcZero_mode (k : Keeper) (c : Chip) (n : Nat) :
    (vcZero k c n).mode = c.mode := by
  simp only [vcZero, vcSet_mode, vcAsk_mode, vcAbandon_mode]
@[simp] theorem quenchDefer_mode (k : Keeper) (c : Chip) (n : Nat) (injected : Bool) :
    (quenchDefer k c n injected).mode = c.mode := by
  unfold quenchDefer; (repeat' split) <;> simp
@[simp] theorem vcStarted_mode (c : Chip) (n : Nat) :
    (vcStarted c n).mode = c.mode := by
  simp only [vcStarted, Chip.putBits_mode, vcSet_mode]
@[simp] theorem vcBegin_mode (c : Chip) (n p : Nat) :
    (vcBegin c n p).mode = c.mode := by
  simp only [vcBegin, Chip.put_mode, vcSet_mode, vcAbandon_mode, vcStarted_mode]
@[simp] theorem vcOn_mode (k : Keeper) (c : Chip) (n : Nat) :
    (vcOn k c n).mode = c.mode := by
  unfold vcOn; generalize c.num (Key.Valve.PROGRAM_ON n) = p; dsimp only
  by_cases h : p = 0xFF
  · rw [if_pos h]; simp
  · rw [if_neg h]; split <;> simp
@[simp] theorem vcOff_mode (k : Keeper) (c : Chip) (n : Nat) :
    (vcOff k c n).mode = c.mode := by
  unfold vcOff; generalize c.num (Key.Valve.PROGRAM_OFF n) = p
  dsimp only; split
  · rw [Chip.put_mode, vcBegin_mode]
  · rw [Chip.put_mode, vcZero_mode]
@[simp] theorem valveAct_mode (k : Keeper) (c : Chip) (n v : Nat) :
    (valveAct k c n v).mode = c.mode := by
  simp only [valveAct, apply_ite Chip.mode, Chip.put_mode, vcSet_mode, vcAsk_mode, vcOn_mode, vcOff_mode, ite_self]
@[simp] theorem vcSafe_mode (k : Keeper) (c : Chip) (n : Nat) :
    (vcSafe k c n).mode = c.mode := by
  simp only [vcSafe, apply_ite Chip.mode, Chip.put_mode, vcSet_mode, vcAsk_mode, closeHandling_mode, vcZero_mode, ite_self]
@[simp] theorem bankSafeQuench_mode (k : Keeper) (c : Chip) (b : Nat) (l : List Nat) :
    (bankSafeQuench k c b l).mode = c.mode := by
  unfold bankSafeQuench; dsimp only; (repeat' split) <;> simp [foldl_mode]
@[simp] theorem valvesSafe_mode (k : Keeper) (c : Chip) (l : List Nat) :
    (valvesSafe k c l).mode = c.mode := by
  unfold valvesSafe; dsimp only; (repeat' split) <;> simp [foldl_mode]
@[simp] theorem vcResafe_mode (k : Keeper) (c : Chip) (n : Nat) :
    (vcResafe k c n).mode = c.mode := by
  simp only [vcResafe, apply_ite Chip.mode, valvesSafe_mode, ite_self]
@[simp] theorem vcRelease_mode (k : Keeper) (c : Chip) (n : Nat) :
    (vcRelease k c n).mode = c.mode := by
  simp only [vcRelease, Chip.put_mode, vcSet_mode, valveAct_mode, vcZero_mode]
@[simp] theorem valveOverrides_mode (k : Keeper) (c : Chip) :
    (valveOverrides k c).mode = c.mode := by
  unfold valveOverrides; dsimp only; (repeat' split) <;> simp [foldl_mode]
@[simp] theorem outputsSafe_mode (k : Keeper) (c : Chip) :
    (outputsSafe k c).mode = c.mode := by
  unfold outputsSafe; dsimp only
  rw [foldl_mode _ (fun c n => by split <;> simp), foldl_mode _ (fun c n => by split <;> simp),
    lsOverrides_mode, foldl_mode _ (fun c n => by simp), valveOverrides_mode]

end Sys2Proof.Machine
end

