-- ==== Sys2Proof/Laws/Valve.lean ====
section
/-! SUPPORT. The valve drive's own operations: a channel read after it is written, what settling a target changes, and
what passing to the next step changes (R199, R202, R208). -/

namespace Sys2Proof.Machine

@[simp] theorem vcOf_vcSet (c : Chip) {n : Nat} (x : VcX) (h : n < c.valve.chans.length) : vcOf (vcSet c n x) n = x := by
  simp [vcOf, vcSet, nth, h]
@[simp] theorem vcOf_put (c : Chip) (n key v : Nat) : vcOf (c.put key v) n = vcOf c n := rfl
@[simp] theorem vcSet_num (c : Chip) (n : Nat) (x : VcX) (key : Nat) : (vcSet c n x).num key = c.num key := rfl
@[simp] theorem vcSet_od (c : Chip) (n : Nat) (x : VcX) : (vcSet c n x).od = c.od := rfl
@[simp] theorem vcSet_us (c : Chip) (n : Nat) (x : VcX) : (vcSet c n x).us = c.us := rfl
@[simp] theorem vcSet_flt (c : Chip) (n : Nat) (x : VcX) : (vcSet c n x).flt = c.flt := rfl
@[simp] theorem vcSet_length (c : Chip) (n : Nat) (x : VcX) : (vcSet c n x).valve.chans.length = c.valve.chans.length := by
  simp [vcSet]

@[simp] theorem bankShow_valve (c : Chip) (b : Nat) : (bankShow c b).valve = c.valve := by
  unfold bankShow; dsimp only; split <;> rfl
@[simp] theorem bankShow_flt (c : Chip) (b : Nat) : (bankShow c b).flt = c.flt := by
  unfold bankShow; dsimp only; split <;> rfl

theorem bankShow_keeps (c : Chip) (b : Nat) :
    KeepsObjects [Key.Bank.BANK_STATE b, Key.Bank.BANK_DEMAND b, Key.VGroup.GROUP_DEMAND (b / 4)] c (bankShow c b) := by
  intro key h
  simp only [List.mem_cons, List.not_mem_nil, or_false, not_or] at h
  unfold bankShow; dsimp only
  rw [odGet_put_ne _ _ h.2.2, odGet_put_ne _ _ h.2.1]
  split
  · exact odGet_put_ne _ _ h.1
  · rfl

/-- Settling a target changes of a channel its peak time and its flags of the epoch, and no object but its target and its
bank's and group's. -/
theorem vcSettle_keeps (k : Keeper) (c : Chip) (n : Nat) :
    KeepsObjects [Key.Valve.TARGET n, Key.Bank.BANK_STATE (n / 4), Key.Bank.BANK_DEMAND (n / 4),
      Key.VGroup.GROUP_DEMAND (n / 4 / 4)] c (vcSettle k c n) := by
  intro key h
  simp only [List.mem_cons, List.not_mem_nil, or_false, not_or] at h
  unfold vcSettle; dsimp only
  rw [bankShow_keeps _ _ key (by simp only [List.mem_cons, List.not_mem_nil, or_false, not_or]; exact h.2),
    odGet_put_ne _ _ h.1]
  rfl

theorem vcSettle_of (k : Keeper) (c : Chip) {n : Nat} (h : n < c.valve.chans.length) :
    ∃ p o f, vcOf (vcSettle k c n) n = { vcOf c n with peakAt := p, peakOver := o, epFlags := f } := by
  unfold vcSettle; dsimp only
  simp only [vcOf, bankShow_valve, vcSet, Chip.put_valve, nth]
  split <;> simp [h]
@[simp] theorem vcSettle_flt (k : Keeper) (c : Chip) (n : Nat) : (vcSettle k c n).flt = c.flt := by
  unfold vcSettle; dsimp only; simp
@[simp] theorem vcSettle_length (k : Keeper) (c : Chip) (n : Nat) :
    (vcSettle k c n).valve.chans.length = c.valve.chans.length := by
  unfold vcSettle; dsimp only; simp

/-- A channel that asks for a target has it, and no ramp; of its own state only the peak time follows. -/
theorem vcAsk_of (k : Keeper) (c : Chip) {n : Nat} (req : Nat) (follow : Bool) (h : n < c.valve.chans.length) :
    ∃ p o f, vcOf (vcAsk k c n req follow) n =
      { vcOf c n with req, follow, ramp := none, peakAt := p, peakOver := o, epFlags := f } := by
  unfold vcAsk
  obtain ⟨p, o, f, e⟩ := vcSettle_of k (vcSet c n { vcOf c n with req, follow, ramp := none }) (n := n) (by simpa using h)
  exact ⟨p, o, f, by rw [e, vcOf_vcSet _ _ h]⟩
theorem vcAsk_keeps (k : Keeper) (c : Chip) (n req : Nat) (follow : Bool) :
    KeepsObjects [Key.Valve.TARGET n, Key.Bank.BANK_STATE (n / 4), Key.Bank.BANK_DEMAND (n / 4),
      Key.VGroup.GROUP_DEMAND (n / 4 / 4)] c (vcAsk k c n req follow) := fun key h => vcSettle_keeps k _ n key h
@[simp] theorem vcAsk_flt (k : Keeper) (c : Chip) (n req : Nat) (follow : Bool) : (vcAsk k c n req follow).flt = c.flt := by
  unfold vcAsk; simp
@[simp] theorem vcAsk_length (k : Keeper) (c : Chip) (n req : Nat) (follow : Bool) :
    (vcAsk k c n req follow).valve.chans.length = c.valve.chans.length := by
  unfold vcAsk; simp

/-- Passing to the next step changes the step and its object, and nothing else. -/
theorem vcNext_num (c : Chip) (n key : Nat) :
    (vcNext c n).num key = if key = Key.Valve.STEP n then (vcOf c n).step + 1 else c.num key := by
  unfold vcNext; dsimp only
  split
  · rename_i h; subst h; simp
  · rename_i h; rw [Chip.num_put_ne _ _ h]; rfl
theorem vcNext_of (c : Chip) {n : Nat} (h : n < c.valve.chans.length) :
    vcOf (vcNext c n) n = { vcOf c n with step := (vcOf c n).step + 1 } := by
  unfold vcNext; dsimp only; rw [vcOf_put, vcOf_vcSet _ _ h]
theorem vcNext_keeps (c : Chip) (n : Nat) : KeepsObjects [Key.Valve.STEP n] c (vcNext c n) := by
  unfold vcNext; exact KeepsObjects.put _ (KeepsObjects.of_od rfl) (List.mem_singleton.2 rfl)
@[simp] theorem vcNext_flt (c : Chip) (n : Nat) : (vcNext c n).flt = c.flt := rfl

/-- An abandoned program leaves the channel's target. -/
theorem vcAbandon_of (c : Chip) {n : Nat} (h : n < c.valve.chans.length) :
    (vcOf (vcAbandon c n) n).prog = none ∧ (vcOf (vcAbandon c n) n).req = (vcOf c n).req := by
  unfold vcAbandon; rw [vcOf_put, vcOf_vcSet _ _ h]; exact ⟨rfl, rfl⟩
theorem vcAbandon_keeps (c : Chip) (n : Nat) : KeepsObjects [Key.Valve.STEP n] c (vcAbandon c n) := by
  unfold vcAbandon; exact KeepsObjects.put _ (KeepsObjects.of_od rfl) (List.mem_singleton.2 rfl)

end Sys2Proof.Machine
end

