-- ==== Sys2Proof/WellFormed.lean ====
section
/-! DEFINITION. Which commands are well formed: the operands are such as a wire, a datagram or a die can carry. -/

namespace Sys2Proof

open Sys2Proof.Machine

/-- A UDP payload within the MTU of 1,500 bytes (R348). -/
def udpFits (b : List Byte) : Bool := b.length ≤ 1472

/-- The header fields of a fabric frame (Table 13.1): modules 1–16, or 0 where unnumbered, and at most 15 hops left. -/
def fabFrameOk (f : FabFrame) : Bool := f.src ≤ 16 && f.dst ≤ 16 && f.hops ≤ 15

/-- A command is well formed. -/
def Instr.wf : Instr → Bool
  | .epochEdge _ => true
  | .applicationSetClose => true
  | .copyServable => true
  | .epochCounterSave => true
  | .driveLinkFrame _ _ _ dxa => dxa.all fun x => x.2.length = 10 && x.2.all fun v => -8192 ≤ v && v ≤ 8191
  | .driveLinkFail _ => true
  | .linkSilenceSafe _ => true
  | .edgeMarkerFrame _ _ => true
  | .jopDatagram _ _ _ data => udpFits data
  | .read _ copy _ _ _ => copy < 2 ^ 48
  | .write _ _ _ _ data => data.length < 65536
  | .snapshot _ target _ => target < 2 ^ 48
  | .snapshotCapture _ => true
  | .snapRelease _ _ _ => true
  | .snapshotExpiry _ => true
  | .cordOpen _ => true
  | .cordAdd _ _ _ _ _ data => data.length < 65536
  | .cordCommit _ epoch => epoch < 2 ^ 48
  | .cordAbort _ => true
  | .cordExpired _ => true
  | .domainSegRead _ copy _ _ offset maxLen => copy < 2 ^ 48 && offset < 2 ^ 32 && maxLen < 65536
  | .domainSegWrite _ _ _ offset data _ => offset < 2 ^ 32 && data.length < 65536
  | .frozenReadExpiry _ _ _ => true
  | .domainTransferIdle _ _ => true
  | .sdoUploadInitiate _ _ => true
  | .sdoUploadSegment _ => true
  | .sdoDownloadInitiate _ _ expedited size => (expedited.all fun b => 1 ≤ b.length && b.length ≤ 4) && size.all fun n => n < 2 ^ 32
  | .sdoDownloadSegment _ data _ => 1 ≤ data.length && data.length ≤ 7
  | .sdoSegmentTimeout => true
  | .heartbeat _ _ => true
  | .hbTimeout _ _ => true
  | .lwQuery _ _ => true
  | .modeRequest _ _ => true
  | .feedOn _ _ => true
  | .feedLow => true
  | .feedLoss => true
  | .feedRestored => true
  | .kindlingStepEnd _ => true
  | .heartbeatMiss => true
  | .keyInputChange _ => true
  | .keyOffDelayExpiry => true
  | .can0WakePattern => true
  | .wakeTimerExpiry => true
  | .thermalResume => true
  | .wheelSlot _ _ => true
  | .structuralWrite _ writes => writes ≠ [] && writes.all fun w => isStructural (mkKey w.1.toNat w.2.1.toNat)
  | .faultInjection _ index sub _ => isInjection (mkKey index.toNat sub.toNat)
  | .ashClear _ _ => true
  | .modeReq _ _ _ => true
  | .slotBindingWrite _ writes => writes ≠ [] && writes.all fun w => isSlotConfig (mkKey w.1.toNat w.2.1.toNat)
  | .canMapCompose _ => true
  | .slopeCapCycle => true
  | .slopeCapComplete => true
  | .yieldRecordComplete => true
  | .deferredRecordFlush => true
  | .mapNumber _ _ => true
  | .crop _ _ => true
  | .mapDelete _ _ => true
  | .guidanceCycle => true
  | .guidanceCycleComplete => true
  | .guidanceCycleLost => true
  | .engageCmd _ _ => true
  | .guideEnable _ _ => true
  | .lineData _ _ => true
  | .lineDelete _ _ => true
  | .opPresentChange _ => true
  | .speedOutOfRangeExpiry => true
  | .coastExpiry => true
  | .valveCommand _ _ => true
  | .shaperTick _ => true
  | .seti _ _ => true
  | .ramp _ _ => true
  | .wait _ _ => true
  | .dither _ _ => true
  | .loop _ _ => true
  | .mark _ _ => true
  | .peakwin _ _ => true
  | .quench _ _ => true
  | .endProgram _ => true
  | .peakTimeExpiry _ => true
  | .overlapWinExpiry _ => true
  | .quenchComplete _ _ => true
  | .code _ _ _ => true
  | .lowSideHardCut _ => true
  | .bankSwitchTrip _ => true
  | .bankReclose _ => true
  | .loadSwitchCommand _ _ => true
  | .wireCurveUpdate _ spacing samples =>
    samples.length = 8 && spacing.val ≠ 0 && samples.all fun l => decide (l.length * spacing.val ≤ 100)
  | .hardShortCutoff _ => true
  | .inrushWindowEnd _ => true
  | .lsRetry _ => true
  | .sectionRestore _ => true
  | .junctionLatchSet _ => true
  | .junctionLatchClear _ => true
  | .lampPeriodStart _ => true
  | .sectionVoltageFilter _ _ => true
  | .openLoadDetect _ => true
  | .dioInputEdge _ _ _ => true
  | .doCmd _ _ => true
  | .dioOutputOverload _ => true
  | .dioOverloadRetry _ => true
  | .dioGroupOvercurrent _ => true
  | .dioMismatchDetect _ => true
  | .barrierFrame _ _ => true
  | .groupSilence _ => true
  | .measurementEdge _ _ => true
  | .rawSetComplete _ => true
  | .solutionComplete _ => true
  | .navWordDecoded word => word.sv < 256 && word.bits < 65536 && word.data.length = (word.bits + 7) / 8
  | .rtcmFrame _ _ => true
  | .rtcmIn _ _ => true
  | .rtcmDatagram data => udpFits data
  | .correctionsLapse => true
  | .clockCorrectionUpdate _ => true
  | .timeSolutionLoss => true
  | .ppsLeadingEdge _ => true
  | .ppsTrailingEdge _ => true
  | .antennaBiasOpen _ => true
  | .antennaBiasShort _ => true
  | .antennaBiasRetry _ _ => true
  | .gnssBurst _ => true
  | .cam0FrameStart _ => true
  | .cam0FrameEnd format rows => rows.all fun r => r.all fun x => x < 2 ^ format.bits
  | .rvfPacket _ p => p.rows.all fun r => r.all fun x => x < 2 ^ p.format.bits
  | .memoryPipeTake => true
  | .frameProcessed _ => true
  | .cameraLost _ => true
  | .pictureCoded _ _ => true
  | .codedRecordFlush => true
  | .fusionCycle => true
  | .fusionCycleComplete _ => true
  | .fusionCycleLost => true
  | .lidarDatagram _ data => udpFits data
  | .egoCoastExpiry => true
  | .tileDetectionsComplete _ _ _ => true
  | .canFrameReceived _ frame _ => canFrameOk frame
  | .canFrameTransmitted _ _ => true
  | .canFrameLifetimeExpiry _ => true
  | .txSubmit _ _ _ => true
  | .addressClaimReceived _ _ _ => true
  | .claimSettleExpiry _ => true
  | .busOff _ tec rec => tec ≤ 256 && rec ≤ 255
  | .recover _ _ _ => true
  | .recoveryComplete _ => true
  | .timeReferenceMessage _ => true
  | .canTimingWrite _ _ writes => writes ≠ [] && writes.all fun w => 2 ≤ w.1.toNat && w.1.toNat ≤ 0x0E
  | .filterList _ _ _ => true
  | .ethLinkChange _ _ => true
  | .udpDatagram d => udpFits d.data
  | .arpRequest _ _ => true
  | .icmpEchoRequest _ _ _ _ => true
  | .gptpSync _ => true
  | .gptpPeerDelayRequest _ _ => true
  | .foreignAnnounce _ => true
  | .ethFrameDiscarded _ => true
  | .helloSend => true
  | .helloReceived _ h => h.records.length ≤ 16 && h.records.all fun r => r.number ≤ 16
  | .fabricLinkTimeout _ => true
  | .moduleRecordTimeout _ => true
  | .settlingEnd => true
  | .numberHoldExpiry _ => true
  | .jopRequestFrame _ frame => fabFrameOk frame
  | .jopResponseFrame _ frame => fabFrameOk frame
  | .otherFabricPortFrame _ => true
  | .updPkg _ _ => true
  | .buildComplete _ => true
  | .buildHeld _ => true
  | .buildResume _ => true
  | .abort _ _ _ => true
  | .healthConfirm => true
  | .trialWindowEnd => true
  | .updAccept _ _ => true
  | .profileSelect _ _ => true
  | .buildWriteError _ => true
  | .measureSample _ => true
  | .recorderCommit => true
  | .commitNow _ _ => true
  | .commitComplete rec => rec < 256 || (0x10000 ≤ rec && (detector? (rec - 0x10000)).isSome)
  | .recClear _ _ => true
  | .measureConfigWrite _ writes => writes ≠ [] && writes.all fun w => 1 ≤ w.1.toNat && w.1.toNat ≤ 0x0A
  | .faultBinH _ _ => true
  | .faceUpdate _ _ => true
  | .panelRailsUp _ => true
  | .panelFrame _ => true
  | .railIdleExpiry _ => true
  | .dxp60Detected _ => true
  | .dxp60Lost => true
  | .pllWindow _ _ => true
  | .pllReturn _ => true
  | .hearthPpbMeasurement _ => true
  | .gateEnable _ _ _ => true
  | .gateClosed _ => true
  | .housekeepingSlot _ _ => true
  | .derateStep => true
  | .emberSensorRead _ _ => true
  | .fnDemandEvaluation => true
  | .faultDetected fcode unit => detOn fcode.toNat unit.toNat
  | .faultHandlerTake => true
  | .retryOutcome _ _ => true

end Sys2Proof
end

