-- ==== Sys2Proof/Tests/Slice0.lean ====
section
/-! SUPPORT. Tests: the well-formedness check refuses an ill-formed term of each kind, a witness for the hypotheses of each
statement, and a few words of the spec worked by hand. -/

set_option linter.unusedVariables false
set_option Elab.async false

namespace Sys2Proof.Tests

open Sys2Proof.Machine

/-- A state of a small helper: the module runs in a mode at epoch 100,000, 100 µs into it, with some objects written. -/
def run (m : Mode := .harvest) (puts : List (Nat × Nat) := []) (f : Chip → Chip := id) : State :=
  { keeper := { epoch := 100000, copies := [⟨100000, []⟩], servable := some 100000 }
    chip := f (puts.foldl (fun c p => c.put p.1 p.2) { mode := m, us := 100, modes := { reached := 9, drives := true } }) }

theorem ok_of {ε α : Type} {e : Except ε α} (h : (match e with | .ok _ => true | .error _ => false) = true) :
    ∃ x, e = .ok x := by
  cases e with
  | ok x => exact ⟨x, rfl⟩
  | error _ => cases h

theorem ok_with {ε α : Type} {e : Except ε α} (p : α → Bool)
    (h : (match e with | .ok x => p x | .error _ => false) = true) : ∃ x, e = .ok x ∧ p x = true := by
  cases e with
  | ok x => exact ⟨x, rfl, h⟩
  | error _ => cases h

theorem error_of {ε α : Type} {e : Except ε α} (h : (match e with | .ok _ => true | .error _ => false) = false) :
    ∃ x, e = .error x := by
  cases e with
  | ok _ => cases h
  | error x => exact ⟨x, rfl⟩

theorem some_with {α : Type} {o : Option α} (p : α → Bool) (h : o.any p = true) : ∃ x, o = some x ∧ p x = true := by
  cases o with
  | none => cases h
  | some x => exact ⟨x, rfl, h⟩

/-- A write's judgement, by its result. -/
theorem judged {k : Keeper} {c : Chip} {key : Nat} {way : Way} {data : List Byte} {code : Nat}
    (h : (judgeOne k c key way data).1 = code) :
    judgeOne k c key way data = (code, (judgeOne k c key way data).2.1, (judgeOne k c key way data).2.2) := by rw [← h]

/-- A frame format that agrees with the defaults of a camera. -/
def testFormat : FrameFormat := ⟨1920, 1080, 12, 0, true, true⟩

/-- A write is accepted where its judgement says so. -/
theorem accepts_of {s : State} {key : Nat} {way : Way} {data : List Byte}
    (h : served s.chip = true ∧ (judgeOne s.keeper s.found key way data).1 = Rc.OK) :
    Accepts s key way data (judgeOne s.keeper s.found key way data).2.1 :=
  ⟨h.1, (judgeOne s.keeper s.found key way data).2.2, by rw [← h.2]⟩

/-! ## Witnesses: states and operands that meet the hypotheses of each clause of each statement -/

theorem witness_StepRunsTheFrontCommand :
    ∃ (s : State) (c : Instr) (rest : List Instr),
    s.pending = c :: rest :=
  ⟨{ run with pending := [.feedLow] }, .feedLow, [], by decide +kernel⟩

theorem witness_StepIdlesOnAnEmptyQueue :
    ∃ (s : State),
    s.pending = [] :=
  ⟨run, by decide +kernel⟩

theorem witness_CommandsLeaveTheQueue :
    ∃ (i : Instr) (s : State) (t : State),
    exec i s = .next t := by
  exact ⟨.feedLow, run, _, rfl⟩

theorem witness_KeeperFrame :
    ∃ (i : Instr) (s : State) (t : State),
    movesKeeper i = false ∧ exec i s = .next t := by
  exact ⟨.feedLow, run, _, rfl, rfl⟩

theorem witness_KeeperInvariantKept :
    ∃ (s : State) (t : State),
    s.keeper.wf = true ∧ step s = .next t := by
  exact ⟨run, run, by decide +kernel, rfl⟩

theorem witness_EpochCountsEdges_1 :
    ∃ (s : State) (m : EdgeMeas),
    s.chip.mode ≠ .off :=
  ⟨run, {}, by decide +kernel⟩

theorem witness_EpochCountsEdges_2 :
    ∃ (s : State) (m : EdgeMeas),
    s.chip.mode = .off :=
  ⟨(run .off []), {}, by decide +kernel⟩

theorem witness_EpochCountsEdges_3 :
    ∃ (i : Instr) (s : State) (t : State),
    (∀ m, i ≠ .epochEdge m) ∧ (∀ a b, i ≠ .feedOn a b) ∧ exec i s = .next t := by
  exact ⟨.feedLow, run, _, fun _ h => Instr.noConfusion h, fun _ _ h => Instr.noConfusion h, rfl⟩

theorem witness_FeedLossNeverReusesAnEpoch :
    ∃ (s : State) (key : Bool) (ten : Bool),
    s.chip.mode ≠ .off ∧ s.chip.modes.born = true ∧ s.chip.num Key.WrHold.MRAM_WRITE = 0 :=
  ⟨(run .harvest [] fun c => { c with modes := { c.modes with born := true } }), false, false, by decide +kernel⟩

theorem witness_KeeperCommandsComplete_1 :
    ∃ (s : State),
    s.chip.mode ≠ .off ∧ s.chip.mode ≠ .banked ∧ s.keeper.setClosed = false :=
  ⟨run, by decide +kernel⟩

theorem witness_KeeperCommandsComplete_2 :
    ∃ (s : State) (x : Copy) (l : List Copy),
    s.keeper.copies = x :: l ∧ x.epoch = s.keeper.epoch :=
  ⟨run, ⟨100000, []⟩, [], by decide +kernel⟩

theorem witness_KeeperCommandsComplete_3 :
    ∃ (s : State),
    s.chip.mode ≠ .off ∧ s.keeper.epoch % 65536 = 0 ∧ s.chip.num Key.WrHold.MRAM_WRITE = 0 :=
  ⟨{ run with keeper := { epoch := 65536 } }, by decide +kernel⟩

theorem witness_KeeperCommandsComplete_4 :
    ∃ (s : State),
    s.chip.mode ≠ .off ∧ s.keeper.epoch % 65536 = 0 ∧ s.chip.num Key.WrHold.MRAM_WRITE ≠ 0 :=
  ⟨{ run .harvest [(Key.WrHold.MRAM_WRITE, 1)] with keeper := { epoch := 65536 } }, by decide +kernel⟩

theorem witness_DriveLinkCommandsComplete_1 :
    ∃ (s : State) (n : Fin 18) (toDxc : Bool) (l : List (Fin 16 × List Int)),
    linkUp s.chip n = true ∧ s.chip.link.links.length = 18 :=
  ⟨run, 0, false, [], by decide +kernel⟩

theorem witness_DriveLinkCommandsComplete_2 :
    ∃ (s : State) (n : Fin 18) (l : List (Fin 16 × List Int)),
    linkUp s.chip n = true ∧ n ≠ 17 ∧ armedAt s.chip Key.Inj.DRIVE_CRC n = false :=
  ⟨run, 0, [], by decide +kernel⟩

theorem witness_DriveLinkCommandsComplete_3 :
    ∃ (s : State) (n : Fin 18) (l : List (Fin 16 × List Int)),
    linkUp s.chip n = true ∧ armedAt s.chip Key.Inj.DRIVE_CRC n = false ∧ s.chip.link.links.length = 18 ∧
      (s.chip.link.now.filter fun m => decide (linkOfKey m.1 = n)) = [] :=
  ⟨run, 0, [], by decide +kernel⟩

theorem witness_DriveLinkCommandsComplete_4 :
    ∃ (s : State) (n : Fin 18),
    linkUp s.chip n = true ∧ (8 ≤ (linkOf s.chip n).failIn ∨ 8 ≤ (linkOf s.chip n).failOut) ∧
      ashOwn s.chip (unitDie (n + 1)) = false ∧ HandlerFree s.chip 0x1201 (unitDie (n + 1)) := by
  refine ⟨(run .harvest [] fun c => linkSet c 0 { failIn := 8 }), 0, ?_⟩
  unfold HandlerFree
  decide +kernel

theorem witness_DriveLinkCommandsComplete_5 :
    ∃ (s : State) (n : Fin 18),
    linkUp s.chip n = true ∧ n.val < 9 ∧ 20 ≤ (linkOf s.chip n).silent ∧ (linkOf s.chip n).safe = false :=
  ⟨(run .harvest [] fun c => linkSet c 0 { silent := 20 }), 0, by decide +kernel⟩

theorem witness_DriveLinkCommandsComplete_6 :
    ∃ (s : State) (n : Fin 18) (lost : Fin 8),
    linkUp s.chip n = true ∧ (linkOf s.chip n).acted = false ∧ ashOwn s.chip (unitDie (n + 1)) = false :=
  ⟨run, 0, 0, by decide +kernel⟩

theorem witness_ReadsAreServedFromACopy_1 :
    ∃ (s : State) (org : Origin) (copy : Nat) (ix : BitVec 16) (sub : BitVec 8) (ty : BitVec 8) (x : Copy) (o : ObjInfo),
    served s.chip = true ∧ serveCopy s.keeper copy = .ok x ∧ readCheck (mkKey ix.toNat sub.toNat) ty.toNat = .ok o := by
  obtain ⟨o, ho⟩ := ok_of (e := readCheck (mkKey 0x2040 7) 0x04) (by decide +kernel)
  obtain ⟨x, hx⟩ := ok_of (e := serveCopy run.keeper 0) (by decide +kernel)
  exact ⟨run, .sdo, 0, 0x2040, 7, 0x04, x, o, by decide +kernel, hx, ho⟩

theorem witness_ReadsAreServedFromACopy_2 :
    ∃ (s : State) (org : Origin) (copy : Nat) (ix : BitVec 16) (sub : BitVec 8) (ty : BitVec 8) (e : Nat),
    served s.chip = true ∧ opRead (serveCopy s.keeper copy) (mkKey ix.toNat sub.toNat) ty.toNat = .error e := by
  obtain ⟨e, he⟩ := error_of (e := opRead (serveCopy run.keeper 0) (mkKey 0x0FFF 1) 0x06) (by decide +kernel)
  exact ⟨run, .sdo, 0, 0x0FFF, 1, 0x06, e, by decide +kernel, he⟩

theorem witness_ReadsAreServedFromACopy_3 :
    ∃ (s : State) (org : Origin) (copy : Nat) (ix : BitVec 16) (sub : BitVec 8) (most : Nat) (x : Copy) (o : ObjInfo),
    served s.chip = true ∧ serveCopy s.keeper copy = .ok x ∧ segReadCheck (mkKey ix.toNat sub.toNat) 0x0C = .ok o ∧
      s.chip.dict.frozen.length < 8 ∧ most ≤ 1440 := by
  obtain ⟨o, ho⟩ := ok_of (e := segReadCheck (mkKey 0x3480 1) 0x0C) (by decide +kernel)
  obtain ⟨x, hx⟩ := ok_of (e := serveCopy run.keeper 0) (by decide +kernel)
  exact ⟨run, .sdo, 0, 0x3480, 1, 100, x, o, by decide +kernel, hx, ho, by decide +kernel, by decide⟩

theorem witness_SnapshotsComplete_1 :
    ∃ (s : State) (org : Origin) (target : Nat) (n : Nat) (entries : List (BitVec 16 × BitVec 8)),
    served s.chip = true ∧ snapCheck entries = Rc.OK ∧ target ≠ 0 ∧
      target ≤ wireEpoch (s.keeper.servable.getD 0) + 60000 ∧
      serveCopy s.keeper target = .error Rc.EPOCH_FUTURE ∧
      (List.range 8).find? (fun n => s.chip.num (Key.Snap.SNAP_STATE n) = 0) = some n := by
  exact ⟨run, .sdo, 100001, 0, [(0x2040, 1)], by decide +kernel, by decide +kernel, by decide, by decide +kernel, rfl, by decide +kernel⟩

theorem witness_SnapshotsComplete_2 :
    ∃ (s : State) (n : Fin 8) (x : Copy),
    s.chip.num (Key.Snap.SNAP_STATE n) = 1 ∧ serveCopy s.keeper (s.chip.num (Key.Snap.SNAP_EPOCH n)) = .ok x := by
  exact ⟨run .harvest [(Key.Snap.SNAP_STATE 0, 1), (Key.Snap.SNAP_EPOCH 0, 100000)], 0, _, by decide +kernel, rfl⟩

theorem witness_SnapshotsComplete_3 :
    ∃ (s : State) (n : Fin 8),
    s.chip.num (Key.Snap.SNAP_STATE n) = 2 ∧ (nth s.chip.dict.snaps n {}).taken + 60000 ≤ s.keeper.epoch :=
  ⟨(run .harvest [(Key.Snap.SNAP_STATE 0, 2)]), 0, by decide +kernel⟩

theorem witness_CordsComplete_1 :
    ∃ (s : State) (org : Origin) (n : Nat),
    served s.chip = true ∧ modeRuns s.chip.mode = true ∧ cordPick s.found = some n :=
  ⟨run, .sdo, 0, by decide +kernel⟩

theorem witness_CordsComplete_2 :
    ∃ (s : State) (org : Origin) (h : BitVec 16) (ix : BitVec 16) (sub : BitVec 8) (ty : BitVec 8) (data : List Byte) (n : Nat) (v : Val),
    served s.chip = true ∧ cordOf s.found h.toNat = some n ∧ n < s.chip.dict.cords.length ∧
      s.chip.num (Key.Cord.CORD_STATE n) = 1 ∧ (cordX s.chip n).next < 64 ∧
      checkOwn s.keeper s.found (prospect s.found) (mkKey ix.toNat sub.toNat) (.typed ty.toNat) true data = .ok v := by
  obtain ⟨v, hv⟩ := ok_of (e := checkOwn (run .harvest [(Key.Cord.CORD_STATE 0, 1)]).keeper
    (run .harvest [(Key.Cord.CORD_STATE 0, 1)]).found (prospect (run .harvest [(Key.Cord.CORD_STATE 0, 1)]).found)
    (mkKey 0x3400 1) (.typed 0x0A) true [0, 0, 0, 0]) (by decide +kernel)
  exact ⟨run .harvest [(Key.Cord.CORD_STATE 0, 1)], .sdo, 0, 0x3400, 1, 0x0A, [0, 0, 0, 0], 0, v, by decide +kernel,
    by decide +kernel, by decide, by decide +kernel, by decide, hv⟩

theorem witness_CordsComplete_3 :
    ∃ (s : State) (h : BitVec 16) (e : Nat) (n : Nat),
    served s.chip = true ∧ modeRuns s.chip.mode = true ∧ cordOf s.found h.toNat = some n ∧
      s.chip.num (Key.Cord.CORD_STATE n) = 1 ∧ (cordX s.chip n).poison = none ∧ openEdge s.keeper ≤ e ∧
      e ≤ s.keeper.servable.getD 0 + 60000 :=
  ⟨(run .harvest [(Key.Cord.CORD_STATE 0, 1)]), 0, 100001, 0, by decide +kernel⟩

theorem witness_CordsComplete_4 :
    ∃ (s : State) (h : BitVec 16) (n : Nat),
    served s.chip = true ∧ cordOf s.found h.toNat = some n ∧
      (s.chip.num (Key.Cord.CORD_STATE n) = 1 ∨ s.chip.num (Key.Cord.CORD_STATE n) = 2) :=
  ⟨(run .harvest [(Key.Cord.CORD_STATE 0, 1)]), 0, 0, by decide +kernel⟩

theorem witness_CordsComplete_5 :
    ∃ (s : State) (n : Fin 32),
    s.chip.num (Key.Cord.CORD_STATE n) = 1 ∧ (cordX s.chip n).opened + 10000 ≤ s.keeper.epoch :=
  ⟨(run .harvest [(Key.Cord.CORD_STATE 0, 1)]), 0, by decide +kernel⟩

theorem witness_DomainTransfersComplete_1 :
    ∃ (s : State) (org : Origin) (ix : BitVec 16) (sub : BitVec 8) (data : List Byte) (o : ObjInfo),
    served s.chip = true ∧ checkAccess s.found (mkKey ix.toNat sub.toNat) false = .ok o ∧ o.ty = .domain ∧
      s.chip.dict.transfers.find? (·.key = mkKey ix.toNat sub.toNat) = none ∧
      mkKey ix.toNat sub.toNat ≠ Key.Upd.UPD_PKG := by
  obtain ⟨o, ho, ht⟩ := ok_with (e := checkAccess (run .service).found (mkKey 0x3480 1) false) (fun o => o.ty == .domain)
    (by decide +kernel)
  exact ⟨(run .service), .sdo, 0x3480, 1, [], o, by decide +kernel, ho, by simpa using ht, by decide +kernel, by decide⟩

theorem witness_DomainTransfersComplete_2 :
    ∃ (s : State) (ix : BitVec 16) (sub : BitVec 8) (x : Transfer),
    s.chip.dict.transfers.find? (·.key = mkKey ix.toNat sub.toNat) = some x ∧ x.last + 10000 ≤ s.keeper.epoch :=
  ⟨(run .harvest [] fun c => { c with dict := { c.dict with transfers := [⟨.sdo, mkKey 0x3480 2, [], 0⟩] } }), 0x3480, 2, ⟨.sdo, mkKey 0x3480 2, [], 0⟩, by decide +kernel⟩

theorem witness_DomainTransfersComplete_3 :
    ∃ (s : State) (org : Origin) (ix : BitVec 16) (sub : BitVec 8) (x : Frozen),
    s.chip.dict.frozen.find? (fun f => decide (f.org = org ∧ f.key = mkKey ix.toNat sub.toNat)) = some x ∧
      x.last + 10000 ≤ s.keeper.epoch :=
  ⟨(run .harvest [] fun c => { c with dict := { c.dict with frozen := [⟨.sdo, mkKey 0x3480 2, [], 0⟩] } }), .sdo, 0x3480, 2, ⟨.sdo, mkKey 0x3480 2, [], 0⟩, by decide +kernel⟩

theorem witness_SdoServerCompletes_1 :
    ∃ (s : State) (ix : BitVec 16) (sub : BitVec 8) (o : ObjInfo) (x : Copy),
    sdoServed s.found = true ∧
    objInfo (mkKey ix.toNat sub.toNat) = some o ∧
    o.acc ≠ .wo ∧
    o.ty ≠ .domain ∧
    serveCopy s.keeper 0 = .ok x ∧
    mkKey ix.toNat sub.toNat ≠ Key.Epoch.SDO_READ_EPOCH ∧
    let b := valBytes o.ty (odGet x.od (mkKey ix.toNat sub.toNat))
    1 ≤ b.length ∧ b.length ≤ 4 := by
  obtain ⟨x, hx, h⟩ := ok_with (e := serveCopy (run .harvest [(Key.Can.PORT_ENABLE 0, 1), (Key.Can.CAN_STATE 0, 2)]).keeper 0)
    (fun x => (objInfo (mkKey 0x2040 7)).any fun o => o.acc != .wo && o.ty != .domain
      && 1 ≤ (valBytes o.ty (odGet x.od (mkKey 0x2040 7))).length
      && (valBytes o.ty (odGet x.od (mkKey 0x2040 7))).length ≤ 4) (by decide +kernel)
  obtain ⟨o, ho, h⟩ := some_with _ h
  simp only [Bool.and_eq_true, bne_iff_ne, ne_eq, decide_eq_true_eq] at h
  exact ⟨(run .harvest [(Key.Can.PORT_ENABLE 0, 1), (Key.Can.CAN_STATE 0, 2)]), 0x2040, 7, o, x, by decide +kernel, ho, h.1.1.1, h.1.1.2, hx, by decide,
    h.1.2, h.2⟩

theorem witness_SdoServerCompletes_2 :
    ∃ (s : State) (ix : BitVec 16) (sub : BitVec 8) (o : ObjInfo) (x : Copy),
    sdoServed s.found = true ∧ objInfo (mkKey ix.toNat sub.toNat) = some o ∧ o.acc ≠ .wo ∧ o.ty = .domain ∧
      serveCopy s.keeper 0 = .ok x := by
  obtain ⟨x, hx⟩ := ok_of (e := serveCopy (run .harvest [(Key.Can.PORT_ENABLE 0, 1), (Key.Can.CAN_STATE 0, 2)]).keeper 0) (by decide +kernel)
  obtain ⟨o, ho, h⟩ := some_with (o := objInfo (mkKey 0x3480 1)) (fun o => o.acc != .wo && o.ty == .domain) (by decide +kernel)
  simp only [Bool.and_eq_true, bne_iff_ne, ne_eq, beq_iff_eq] at h
  exact ⟨(run .harvest [(Key.Can.PORT_ENABLE 0, 1), (Key.Can.CAN_STATE 0, 2)]), 0x3480, 1, o, x, by decide +kernel, ho, h.1, h.2, hx⟩

theorem witness_SdoServerCompletes_3 :
    ∃ (s : State) (tog : Bool) (key : Nat) (copy : Nat) (last : Nat) (rest : List Byte),
    sdoServed s.found = true ∧ s.chip.dict.sdo = .up key rest tog copy last ∧ 7 < rest.length :=
  ⟨(run .harvest [(Key.Can.PORT_ENABLE 0, 1), (Key.Can.CAN_STATE 0, 2)] fun c => { c with dict := { c.dict with sdo := .up 0 [0, 0, 0, 0, 0, 0, 0, 0] false 0 0 } }), false, 0, 0, 0, [0, 0, 0, 0, 0, 0, 0, 0], by decide +kernel⟩

theorem witness_SdoServerCompletes_4 :
    ∃ (s : State) (ix : BitVec 16) (sub : BitVec 8) (o : ObjInfo) (size : Option Nat),
    sdoServed s.found = true ∧ checkAccess (sdoSet s.found .idle) (mkKey ix.toNat sub.toNat) false = .ok o ∧
      o.ty ≠ .domain := by
  obtain ⟨o, ho, h⟩ := ok_with (e := checkAccess (sdoSet (run .harvest [(Key.Can.PORT_ENABLE 0, 1), (Key.Can.CAN_STATE 0, 2)]).found .idle) (mkKey 0x2400 1) false)
    (fun o => o.ty != .domain) (by decide +kernel)
  exact ⟨(run .harvest [(Key.Can.PORT_ENABLE 0, 1), (Key.Can.CAN_STATE 0, 2)]), 0x2400, 1, o, none, by decide +kernel, ho, by simpa using h⟩

theorem witness_SdoServerCompletes_5 :
    ∃ (s : State) (ix : BitVec 16) (sub : BitVec 8) (o : ObjInfo) (b : List Byte) (v : Val) (c : Chip),
    sdoServed s.found = true ∧ checkAccess (sdoSet s.found .idle) (mkKey ix.toNat sub.toNat) false = .ok o ∧
      o.ty ≠ .domain ∧ judgeOne s.keeper (sdoSet s.found .idle) (mkKey ix.toNat sub.toNat) .sdo b = (Rc.OK, v, c) := by
  obtain ⟨o, ho, h⟩ := ok_with (e := checkAccess (sdoSet (run .harvest [(Key.Can.PORT_ENABLE 0, 1), (Key.Can.CAN_STATE 0, 2)]).found .idle) (mkKey 0x2020 1) false)
    (fun o => o.ty != .domain) (by decide +kernel)
  refine ⟨(run .harvest [(Key.Can.PORT_ENABLE 0, 1), (Key.Can.CAN_STATE 0, 2)]), 0x2020, 1, o, [0, 0, 0, 0], _, _, by decide +kernel, ho, by simpa using h, judged ?_⟩
  decide +kernel

theorem witness_SdoServerCompletes_6 :
    ∃ (s : State) (tog : Bool) (key : Nat) (last : Nat) (got : List Byte) (data : List Byte) (size : Option Nat),
    sdoServed s.found = true ∧ s.chip.dict.sdo = .down key got size tog last :=
  ⟨(run .harvest [(Key.Can.PORT_ENABLE 0, 1), (Key.Can.CAN_STATE 0, 2)] fun c => { c with dict := { c.dict with sdo := .down 0 [] none false 0 } }), false, 0, 0, [], [], none, by decide +kernel⟩

theorem witness_SdoServerCompletes_7 :
    ∃ (s : State) (key : Nat) (copy : Nat) (last : Nat) (rest : List Byte) (tog : Bool),
    s.chip.dict.sdo = .up key rest tog copy last ∧ last + 1000 < s.keeper.epoch :=
  ⟨(run .harvest [] fun c => { c with dict := { c.dict with sdo := .up 0 [] false 0 0 } }), 0, 0, 0, [], false, by decide +kernel⟩

theorem witness_JopDatagramsAreAnswered_1 :
    ∃ (s : State) (addr : BitVec 32) (port : BitVec 16) (ahead : Nat) (data : List Byte) (h : JopHead) (ops : List JopOp),
    served s.chip = true ∧ jopHead data = some h ∧ ahead + h.count ≤ 2000 ∧
      parseOps h.count (data.drop 16) = some ops ∧ jopRefused h (some ops) false = false ∧ h.target = 0 ∧
      bitOf h.flags 6 = false ∧ s.chip.dict.kept.find? (fun q => decide (q.addr = addr ∧ q.port = port ∧
      q.seq = h.seq)) = none :=
  ⟨run, 0, 47600, 0, [74, 75, 1, 0, 0, 7, 0, 0, 0, 0, 0, 0, 0, 0, 0, 1, 1, 0, 64, 32, 7, 4, 0, 0], ⟨1, 0, 0, 7, 0, 1⟩, [⟨1, 0, 0x2040, 7, 4, []⟩], by decide +kernel⟩

theorem witness_JopDatagramsAreAnswered_2 :
    ∃ (s : State) (addr : BitVec 32) (port : BitVec 16) (ahead : Nat) (data : List Byte) (resp : List Byte) (h : JopHead) (ops : List JopOp) (e : Kept),
    served s.chip = true ∧ jopHead data = some h ∧ ahead + h.count ≤ 2000 ∧
      parseOps h.count (data.drop 16) = some ops ∧ jopRefused h (some ops) false = false ∧ h.target = 0 ∧
      s.chip.dict.kept.find? (fun q => decide (q.addr = addr ∧ q.port = port ∧ q.seq = h.seq)) = some e ∧
      e.resp = some resp :=
  ⟨(run .harvest [] fun c => { c with dict := { c.dict with kept := [⟨0, 47600, 7, some [0]⟩] } }), 0, 47600, 0, [74, 75, 1, 0, 0, 7, 0, 0, 0, 0, 0, 0, 0, 0, 0, 1, 1, 0, 64, 32, 7, 4, 0, 0], [0], ⟨1, 0, 0, 7, 0, 1⟩, [⟨1, 0, 0x2040, 7, 4, []⟩], ⟨0, 47600, 7, some [0]⟩, by decide +kernel⟩

theorem witness_JopOperationsRoundTrip :
    ∃ (ops : List JopOp),
    (∀ o ∈ ops, o.data.length < 65536) :=
  ⟨[], by decide +kernel⟩

theorem witness_LittleEndianRoundTrip_1 :
    ∃ (k : Nat) (n : Nat),
    n < 256 ^ k :=
  ⟨0, 0, by decide +kernel⟩

theorem witness_FeedCommandsComplete_1 :
    ∃ (s : State) (key : Bool) (ten : Bool),
    s.chip.mode = .off :=
  ⟨(run .off []), false, false, by decide +kernel⟩

theorem witness_FeedCommandsComplete_2 :
    ∃ (s : State),
    (modeRuns s.chip.mode = true ∨ s.chip.mode = .safe) :=
  ⟨run, by decide +kernel⟩

theorem witness_FeedCommandsComplete_3 :
    ∃ (s : State),
    s.chip.mode ≠ .off :=
  ⟨run, by decide +kernel⟩

theorem witness_FeedCommandsComplete_4 :
    ∃ (s : State),
    s.chip.mode ≠ .off :=
  ⟨run, by decide +kernel⟩

theorem witness_KindlingStepsAdvance_1 :
    ∃ (s : State) (f : KindlingFinding) (n : Nat),
    s.chip.mode = .kindling ∧ s.chip.modes.exitDue = false ∧ s.chip.modes.bankDue = none ∧
      kindlingFailing s.found = false ∧ s.chip.num Key.Kindling.KINDLING_STEP = n ∧ n ≠ 0 ∧ n ≠ 9 ∧
      kindlingFailing (stepFault s.keeper (stepWork s.keeper s.found f n) f) = false :=
  ⟨(run .kindling [(Key.Kindling.KINDLING_STEP, 1)]), {}, 1, by decide +kernel⟩

theorem witness_KindlingStepsAdvance_2 :
    ∃ (s : State) (f : KindlingFinding),
    s.chip.mode = .kindling ∧ s.chip.modes.exitDue = false ∧ s.chip.modes.bankDue = none ∧
      kindlingFailing s.found = false ∧ s.chip.num Key.Kindling.KINDLING_STEP = 9 ∧ f.fault = none :=
  ⟨(run .kindling [(Key.Kindling.KINDLING_STEP, 9)]), {}, by decide +kernel⟩

theorem witness_HeartbeatMissDecidesSafe :
    ∃ (s : State) (d : Nat),
    modeRuns s.chip.mode = true ∧ s.chip.modes.deadline = some d ∧ d ≤ s.keeper.epoch :=
  ⟨(run .harvest [] fun c => { c with modes := { c.modes with deadline := some 0 } }), 0, by decide +kernel⟩

theorem witness_WakeCommandsComplete_1 :
    ∃ (s : State),
    s.chip.mode ≠ .off ∧ s.chip.modes.key = false :=
  ⟨run, by decide +kernel⟩

theorem witness_WakeCommandsComplete_2 :
    ∃ (s : State),
    s.chip.mode ≠ .off ∧ s.chip.modes.key = true :=
  ⟨(run .harvest [] fun c => { c with modes := { c.modes with key := true } }), by decide +kernel⟩

theorem witness_WakeCommandsComplete_3 :
    ∃ (s : State),
    (modeRuns s.chip.mode = true ∨ s.chip.mode = .safe) ∧ s.chip.modes.key = false ∧
      keyDelayFrom s.chip + s.chip.num Key.Wake.KEY_OFF_DELAY ≤ s.keeper.epoch :=
  ⟨run, by decide +kernel⟩

theorem witness_WakeCommandsComplete_4 :
    ∃ (s : State),
    s.chip.mode = .banked ∧ bitOf (s.chip.num Key.Wake.WAKE_ENABLE) 1 = true :=
  ⟨(run .banked [(Key.Wake.WAKE_ENABLE, 2)]), by decide +kernel⟩

theorem witness_WakeCommandsComplete_5 :
    ∃ (s : State),
    s.chip.mode = .banked ∧ bitOf (s.chip.num Key.Wake.WAKE_ENABLE) 2 = true ∧ s.chip.num Key.Wake.WAKE_TIMER ≠ 0 ∧
      s.keeper.epoch % 1000 = 0 ∧
      s.chip.num Key.Wake.BANKED_EPOCH + 1000 * s.chip.num Key.Wake.WAKE_TIMER ≤ s.keeper.epoch :=
  ⟨(run .banked [(Key.Wake.WAKE_ENABLE, 4), (Key.Wake.WAKE_TIMER, 1)]), by decide +kernel⟩

theorem witness_WakeCommandsComplete_6 :
    ∃ (s : State) (a : Nat),
    s.chip.pwr.coolAt = some a ∧ s.chip.num Key.Therm.THERMAL_STAGE = 3 ∧ thermalSafe s.chip = true ∧
      a + 30000 ≤ s.keeper.epoch + 1 :=
  ⟨(run .safe [(Key.Therm.THERMAL_STAGE, 3), (Key.Safe.SAFE_CAUSES, 4)] fun c => { c with pwr := { c.pwr with coolAt := some 0 } }), 0, by decide +kernel⟩

theorem witness_ModePriorityAtAnEdge_1 :
    ∃ (k : Keeper) (c : Chip) (req : Option Nat),
    bankDueAt k c = true :=
  ⟨run.keeper, (run .harvest [] fun c => { c with modes := { c.modes with bankDue := some 100000 } }).chip, none, by decide +kernel⟩

theorem witness_ModePriorityAtAnEdge_2 :
    ∃ (k : Keeper) (c : Chip) (req : Option Nat),
    bankDueAt k c = false ∧ safeDueAt k c ≠ [] ∧ c.mode ≠ .safe :=
  ⟨run.keeper, (run .harvest [] fun c => { c with modes := { c.modes with safeDue := [⟨100000, 1, 0, false⟩] } }).chip, none, by decide +kernel⟩

theorem witness_ServiceWritesComplete_1 :
    ∃ (s : State) (org : Origin) (ix : BitVec 16) (sub : BitVec 8) (ty : BitVec 8) (data : List Byte) (v : Val),
    actsAtOnce (mkKey ix.toNat sub.toNat) = false ∧ Accepts s (mkKey ix.toNat sub.toNat) (.typed ty.toNat) data v := by
  refine ⟨run, .sdo, 0x2003, 2, 4, [0, 0, 0, 0], _, by decide, accepts_of ?_⟩
  decide +kernel

theorem witness_ServiceWritesComplete_2 :
    ∃ (s : State) (org : Origin) (slot : Fin 8) (value : Byte) (v : Val),
    Accepts s (Key.Snap.SNAP_RELEASE slot) .sdo (numBytes (Key.Snap.SNAP_RELEASE slot) value.toNat) v := by
  refine ⟨run, .sdo, 0, 0, _, accepts_of ?_⟩
  decide +kernel

theorem witness_ServiceWritesComplete_3 :
    ∃ (s : State) (org : Origin) (value : BitVec 16) (v : Val),
    Accepts s Key.Hb.HB_TIMEOUT .sdo (numBytes Key.Hb.HB_TIMEOUT value.toNat) v := by
  refine ⟨run, .sdo, 100, _, accepts_of ?_⟩
  decide +kernel

theorem witness_ServiceWritesComplete_4 :
    ∃ (s : State) (org : Origin) (value : BitVec 32) (v : Val),
    Accepts s Key.Lw.LW_QUERY .sdo (numBytes Key.Lw.LW_QUERY value.toNat) v := by
  refine ⟨run, .sdo, 0, _, accepts_of ?_⟩
  decide +kernel

theorem witness_ServiceWritesComplete_5 :
    ∃ (s : State) (org : Origin) (value : Byte) (v : Val),
    Accepts s Key.Mode.MODE_REQUEST .sdo (numBytes Key.Mode.MODE_REQUEST value.toNat) v := by
  refine ⟨run, .sdo, 0, _, accepts_of ?_⟩
  decide +kernel

theorem witness_ServiceWritesComplete_6 :
    ∃ (s : State) (org : Origin) (unit : BitVec 32) (v : Val),
    Accepts s Key.Flt.ASH_CLEAR .sdo (numBytes Key.Flt.ASH_CLEAR unit.toNat) v := by
  refine ⟨(run .service [] fun c => { c with flt := { c.flt with ashes := [⟨unitCam 0, 0x0A01, false, 0, true⟩] } }), .sdo, BitVec.ofNat 32 (unitCam 0), _, accepts_of ?_⟩
  decide +kernel

theorem witness_FieldWritesComplete_1 :
    ∃ (s : State) (org : Origin) (slot : Fin 30) (value : Byte) (v : Val),
    Accepts s (Key.Slot.MODE_REQ slot) .sdo (numBytes (Key.Slot.MODE_REQ slot) value.toNat) v := by
  refine ⟨run, .sdo, 0, 0, _, accepts_of ?_⟩
  decide +kernel

theorem witness_FieldWritesComplete_2 :
    ∃ (s : State) (org : Origin) (value : BitVec 16) (v : Val),
    Accepts s Key.Map.MAP_NUMBER .sdo (numBytes Key.Map.MAP_NUMBER value.toNat) v := by
  refine ⟨(run .service [] fun c => { c with crop := { c.crop with maps := [{ number := 1, crop := 0, records := [] }] } }), .sdo, 1, _, accepts_of ?_⟩
  decide +kernel

theorem witness_FieldWritesComplete_3 :
    ∃ (s : State) (org : Origin) (value : Byte) (v : Val),
    Accepts s Key.Map.CROP .sdo (numBytes Key.Map.CROP value.toNat) v := by
  refine ⟨run, .sdo, 0, _, accepts_of ?_⟩
  decide +kernel

theorem witness_FieldWritesComplete_4 :
    ∃ (s : State) (org : Origin) (value : BitVec 16) (v : Val),
    Accepts s Key.Map.MAP_DELETE .sdo (numBytes Key.Map.MAP_DELETE value.toNat) v := by
  refine ⟨(run .service [(Key.Map.MAP_NUMBER, 5)]), .sdo, 1, _, accepts_of ?_⟩
  decide +kernel

theorem witness_FieldWritesComplete_5 :
    ∃ (s : State) (org : Origin) (value : Byte) (v : Val),
    Accepts s Key.Guide.ENGAGE_CMD .sdo (numBytes Key.Guide.ENGAGE_CMD value.toNat) v := by
  refine ⟨run, .sdo, 0, _, accepts_of ?_⟩
  decide +kernel

theorem witness_FieldWritesComplete_6 :
    ∃ (s : State) (org : Origin) (value : Byte) (v : Val),
    Accepts s Key.Guide.GUIDE_ENABLE .sdo (numBytes Key.Guide.GUIDE_ENABLE value.toNat) v := by
  refine ⟨(run .service), .sdo, 1, _, accepts_of ?_⟩
  decide +kernel

theorem witness_FieldWritesComplete_7 :
    ∃ (s : State) (org : Origin) (value : Byte) (v : Val),
    Accepts s Key.Line.LINE_DELETE .sdo (numBytes Key.Line.LINE_DELETE value.toNat) v := by
  refine ⟨run, .sdo, 0, _, accepts_of ?_⟩
  decide +kernel

theorem witness_FieldWritesComplete_8 :
    ∃ (s : State) (org : Origin) (block : List Byte) (v : Val),
    Accepts s Key.Line.LINE_DATA .seg block v := by
  refine ⟨run, .sdo, [2, 1, 1, 0, 0, 0, 0, 0, 0, 0, 0, 0, 0, 0, 0, 0, 0, 0, 0, 0, 16, 39, 0, 0, 0, 0, 0, 0, 79, 191, 105, 35, 0, 0, 0, 0, 0, 0, 0, 0], _, accepts_of ?_⟩
  decide +kernel

theorem witness_BlockWritesComplete_1 :
    ∃ (s : State) (org : Origin) (program : Fin 128) (block : List Byte) (v : Val),
    Accepts s (Key.Prog.CODE program) .seg block v := by
  refine ⟨(run .service), .sdo, 0, [0, 0], _, accepts_of ?_⟩
  decide +kernel

theorem witness_BlockWritesComplete_2 :
    ∃ (s : State) (org : Origin) (block : List Byte) (v : Val),
    Accepts s Key.Rtcm.RTCM_IN .seg block v := by
  refine ⟨run, .sdo, [], _, accepts_of ?_⟩
  decide +kernel

theorem witness_BlockWritesComplete_3 :
    ∃ (s : State) (org : Origin) (port : Fin 12) (block : List Byte) (v : Val),
    Accepts s (Key.CanX.TX_SUBMIT port) .seg block v := by
  refine ⟨run, .sdo, 0, [], _, accepts_of ?_⟩
  decide +kernel

theorem witness_BlockWritesComplete_4 :
    ∃ (s : State) (org : Origin) (port : Fin 12) (block : List Byte) (v : Val),
    Accepts s (Key.CanX.FILTER_LIST port) .seg block v := by
  refine ⟨(run .service), .sdo, 0, [], _, accepts_of ?_⟩
  decide +kernel

theorem witness_BlockWritesComplete_5 :
    ∃ (s : State) (org : Origin) (block : List Byte) (v : Val),
    Accepts s Key.Upd.UPD_PKG .seg block v := by
  refine ⟨run .service [] fun c => c.putBlob Key.Upd.OEM_KEY (leBytes 32 1), .sdo,
    [74, 85, 1, 1, 0, 132, 0, 0, 0, 0, 0, 0, 156, 0, 0, 0, 1, 0, 0, 0, 1, 0, 0, 0, 0, 0, 0, 0, 0, 0, 0, 0, 0, 0, 0, 0, 0, 0, 0, 0, 0, 0, 0, 0, 0, 0, 0, 0, 0, 0, 0, 0, 0, 0, 0, 0, 0, 0, 0, 0, 0, 0, 0, 0, 0, 0, 0, 0, 0, 0, 0, 0, 0, 0, 0, 0, 0, 0, 0, 0, 0, 0, 0, 0]
      ++ [9, 0, 0, 0, 1, 0, 0, 0, 0, 0, 0, 0, 140, 0, 0, 0, 16, 0, 0, 0, 16, 0, 0, 0, 186, 103, 8, 81, 235, 185, 36, 79, 127, 6, 130, 87, 159, 82, 97, 49, 242, 23, 134, 239, 218, 96, 208, 36, 169, 164, 94, 14, 194, 42, 41, 162, 5, 0, 0, 132, 0, 0, 0, 0, 0, 0, 0, 0, 0, 0, 0, 0], _, accepts_of ?_⟩
  decide +kernel

theorem witness_BlockWritesComplete_6 :
    ∃ (s : State) (org : Origin) (block : List Byte) (v : Val),
    Accepts s Key.Face.FACE_UPDATE .seg block v := by
  refine ⟨(run .harvest [] fun c => { c with face := { c.face with panels := [{ present := true }, {}] } }), .sdo, [0, 0, 0, 0, 0, 0, 2, 0, 1, 0, 0, 0, 0, 0, 0, 0, 0], _, accepts_of ?_⟩
  decide +kernel

theorem witness_BlockWritesComplete_7 :
    ∃ (s : State) (org : Origin) (port : Fin 12) (value : Byte) (v : Val),
    Accepts s (Key.Can.RECOVER port) .sdo (numBytes (Key.Can.RECOVER port) value.toNat) v := by
  refine ⟨run, .sdo, 0, 1, _, accepts_of ?_⟩
  decide +kernel

theorem witness_UpkeepWritesComplete_1 :
    ∃ (s : State) (org : Origin) (b : Fin 4) (value : Byte) (v : Val),
    Accepts s (Key.Build.ABORT b) .sdo (numBytes (Key.Build.ABORT b) value.toNat) v := by
  refine ⟨run, .sdo, 0, 1, _, accepts_of ?_⟩
  decide +kernel

theorem witness_UpkeepWritesComplete_2 :
    ∃ (s : State) (org : Origin) (value : Byte) (v : Val),
    Accepts s Key.Health.UPD_ACCEPT .sdo (numBytes Key.Health.UPD_ACCEPT value.toNat) v := by
  refine ⟨run, .sdo, 0, _, accepts_of ?_⟩
  decide +kernel

theorem witness_UpkeepWritesComplete_3 :
    ∃ (s : State) (org : Origin) (value : Byte) (v : Val),
    Accepts s Key.Prof.PROFILE_SELECT .sdo (numBytes Key.Prof.PROFILE_SELECT value.toNat) v := by
  refine ⟨(run .service [(Key.Prof.PROFILES, 1)]), .sdo, 1, _, accepts_of ?_⟩
  decide +kernel

theorem witness_UpkeepWritesComplete_4 :
    ∃ (s : State) (org : Origin) (value : Byte) (v : Val),
    Accepts s Key.Rec.COMMIT_NOW .sdo (numBytes Key.Rec.COMMIT_NOW value.toNat) v := by
  refine ⟨run, .sdo, 1, _, accepts_of ?_⟩
  decide +kernel

theorem witness_UpkeepWritesComplete_5 :
    ∃ (s : State) (org : Origin) (value : BitVec 16) (v : Val),
    Accepts s Key.Rec.REC_CLEAR .sdo (numBytes Key.Rec.REC_CLEAR value.toNat) v := by
  refine ⟨run, .sdo, 0, _, accepts_of ?_⟩
  decide +kernel

theorem witness_UpkeepWritesComplete_6 :
    ∃ (s : State) (org : Origin) (value : BitVec 16) (v : Val),
    Accepts s Key.Rec.FAULT_BIN_H .sdo (numBytes Key.Rec.FAULT_BIN_H value.toNat) v := by
  refine ⟨(run .service), .sdo, 1, _, accepts_of ?_⟩
  decide +kernel

theorem witness_UpkeepWritesComplete_7 :
    ∃ (s : State) (org : Origin) (node : Fin 21) (value : Byte) (v : Val),
    Accepts s (Key.Gate.GATE_ENABLE node) .sdo (numBytes (Key.Gate.GATE_ENABLE node) value.toNat) v := by
  refine ⟨(run .service), .sdo, 0, 1, _, accepts_of ?_⟩
  decide +kernel

theorem witness_HeartbeatRestartsSupervision :
    ∃ (s : State) (org : Origin) (value : BitVec 32) (v : Val),
    modeRuns s.chip.mode = true ∧ Accepts s Key.Hb.HEARTBEAT .sdo (numBytes Key.Hb.HEARTBEAT value.toNat) v := by
  refine ⟨run, .sdo, 0, _, ?_, accepts_of ?_⟩ <;> decide +kernel

theorem witness_RefusedWritesAreAnswered :
    ∃ (s : State) (org : Origin) (ix : BitVec 16) (sub : BitVec 8) (ty : BitVec 8) (data : List Byte) (code : Nat),
    Refuses s (mkKey ix.toNat sub.toNat) (.typed ty.toNat) data code := by
  exact ⟨run, .sdo, 0x0FFF, 1, 5, [], Rc.NO_OBJECT, by decide +kernel, by decide,
    (judgeOne run.keeper run.found (mkKey 0x0FFF 1) (.typed 5) []).2.1, (judgeOne run.keeper run.found (mkKey 0x0FFF 1) (.typed 5) []).2.2,
    Prod.ext (by decide +kernel) rfl⟩

theorem witness_JointWritesComplete_1 :
    ∃ (s : State) (org : Origin) (l : List (BitVec 16 × BitVec 8 × Nat)),
    served s.chip = true ∧ ((namedWrites l).all fun w => isStructural w.1) = true :=
  ⟨run, .sdo, [], by decide +kernel⟩

theorem witness_JointWritesComplete_2 :
    ∃ (s : State) (org : Origin) (l : List (BitVec 16 × BitVec 8 × Nat)),
    served s.chip = true ∧ ((namedWrites l).all fun w => isSlotConfig w.1) = true :=
  ⟨run, .sdo, [], by decide +kernel⟩

theorem witness_JointWritesComplete_3 :
    ∃ (s : State) (org : Origin) (port : Fin 12) (l : List (BitVec 8 × Nat)),
    served s.chip = true ∧ (∀ w ∈ l, 2 ≤ w.1.toNat ∧ w.1.toNat ≤ 0x0E) :=
  ⟨run, .sdo, 0, [], by decide +kernel⟩

theorem witness_JointWritesComplete_4 :
    ∃ (s : State) (org : Origin) (l : List (BitVec 8 × List Byte)),
    served s.chip = true ∧ (l.all fun w => measKey (mkKey 0x4801 w.1.toNat)) = true :=
  ⟨run, .sdo, [], by decide +kernel⟩

theorem witness_JointWritesComplete_5 :
    ∃ (s : State) (org : Origin) (ix : BitVec 16) (sub : BitVec 8) (value : Nat),
    served s.chip = true ∧ isInjection (mkKey ix.toNat sub.toNat) = true :=
  ⟨(run .service), .sdo, 0x2380, 1, 0, by decide +kernel⟩

theorem witness_WheelSlotsComplete_1 :
    ∃ (s : State) (slot : Fin 200) (faults : List (Fin 768 × LockFault)),
    s.found.mode ≠ .off ∧ s.found.mode ≠ .banked ∧ s.found.num Key.Eng.ENGINE_STATE ≠ 3 :=
  ⟨run, 0, [], by decide +kernel⟩

theorem witness_WheelSlotsComplete_2 :
    ∃ (s : State) (slot : Fin 200) (faults : List (Fin 768 × LockFault)),
    (s.found.mode = .off ∨ s.found.mode = .banked ∨ s.found.num Key.Eng.ENGINE_STATE = 3) :=
  ⟨(run .off []), 0, [], by decide +kernel⟩

theorem witness_RelayCellsFollowTheirLaw :
    ∃ (s : CellSample) (base : Nat) (i : Nat),
    fIsNan fmt32 s.sp = false ∧
    fIsNan fmt32 s.pv = false ∧
    fIsNan fmt32 s.ff = false ∧
    let e := if s.dir then clSub s.sp s.pv else fOpp fmt32 (clSub s.sp s.pv)
    fFinite fmt32 e = true := by
  refine ⟨⟨3, true, true, 0, 0, 0, 0, 0, 0, 0, 0, 0, 0, 0, 0, 0⟩, 0, 0, ?_⟩
  dsimp only
  decide +kernel

theorem witness_CropCommandsComplete_1 :
    ∃ (s : State),
    s.keeper.epoch % 50 = 0 ∧ tilesRun s.found = true ∧ s.found.mode ≠ .off ∧ s.found.mode ≠ .banked ∧
      (s.found.mode = .kindling → 5 ≤ s.found.num Key.Kindling.KINDLING_STEP) :=
  ⟨run, by decide +kernel⟩

theorem witness_CropCommandsComplete_2 :
    ∃ (s : State) (e : Nat) (cap : Nat) (ep : Nat),
    s.found.crop.slope = some (e, cap, ep) :=
  ⟨(run .harvest [] fun c => { c with crop := { c.crop with slope := some (0, 0, 0) } }), 0, 0, 0, by decide +kernel⟩

theorem witness_CropCommandsComplete_3 :
    ∃ (s : State) (x : Transit) (rest : List Transit),
    s.found.crop.transit = x :: rest ∧ x.stop + transportDelay s.found ≤ s.keeper.epoch ∧
      s.found.num Key.WrHold.UFS_WRITE = 0 ∧ armedAt s.found Key.InjFs.INJ_MAP_DEFERRED 1 = false ∧
      s.found.crop.mram = [] ∧ s.found.crop.held = [] :=
  ⟨(run .harvest [] fun c => { c with crop := { c.crop with transit := [{ start := 0, stop := 0, gnssMs := 0, lat := 0, lon := 0, speed := 0, width := 0, header := 0, flags := 0 }] } }), { start := 0, stop := 0, gnssMs := 0, lat := 0, lon := 0, speed := 0, width := 0, header := 0, flags := 0 }, [], by decide +kernel⟩

theorem witness_CropCommandsComplete_4 :
    ∃ (s : State) (x : Transit) (rest : List Transit),
    s.found.crop.transit = x :: rest ∧ x.stop + transportDelay s.found ≤ s.keeper.epoch ∧
      s.found.num Key.WrHold.UFS_WRITE ≠ 0 ∧ s.found.num Key.WrHold.MRAM_WRITE = 0 ∧
      armedAt s.found Key.InjFs.INJ_MAP_DEFERRED 1 = false ∧ s.found.crop.held = [] ∧
      s.found.crop.mram.length < 32768 :=
  ⟨(run .harvest [(Key.WrHold.UFS_WRITE, 1)] fun c => { c with crop := { c.crop with transit := [{ start := 0, stop := 0, gnssMs := 0, lat := 0, lon := 0, speed := 0, width := 0, header := 0, flags := 0 }] } }), { start := 0, stop := 0, gnssMs := 0, lat := 0, lon := 0, speed := 0, width := 0, header := 0, flags := 0 }, [], by decide +kernel⟩

theorem witness_CropCommandsComplete_5 :
    ∃ (s : State),
    s.found.mode ≠ .off ∧ s.found.mode ≠ .banked ∧ s.found.num Key.WrHold.UFS_WRITE = 0 :=
  ⟨run, by decide +kernel⟩

theorem witness_CropCommandsComplete_6 :
    ∃ (s : State) (slot : Fin 30),
    up s.found 8 = true ∧
    let n := slot.val
    let g := s.found.num
    isComposite n = false ∧ g (Key.Slot.CAN_PORT n) < 12 ∧
      s.keeper.epoch % max (g (Key.Slot.CAN_PERIOD n)) 1 = 0 ∧
      s.found.crop.composed.find? (fun q => decide (q.1 = n)) = none ∧
      safeApplied s.found (Key.Slot.CAN_CMD n) = false ∧ armedAt s.found Key.InjFs.INJ_CANMAP_DROP (n + 1) = false := by
  refine ⟨(run .harvest [(Key.Slot.CAN_PORT 0, 0)]), 0, ?_⟩
  dsimp only
  decide +kernel

theorem witness_GuidanceCommandsComplete_1 :
    ∃ (s : State),
    s.keeper.epoch % 20 = 0 ∧ up s.found 5 = true ∧ tilesRun s.found = true ∧
      s.found.flag Key.Guide.GUIDE_ENABLE = true ∧ unitAshed s.found unitGuide = false ∧
      lineValid s.found (s.found.num Key.GLine.ACTIVE_LINE) = true ∧ s.found.gnss.fix.isSome = true ∧
      armedAt s.found Key.Inj.GUIDE_CYCLE_LOST 2 = false ∧ armedAt s.found Key.Inj.GUIDE_CYCLE_LOST 1 = false :=
  ⟨(run .harvest [(Key.Guide.GUIDE_ENABLE, 1), (Key.GLine.ACTIVE_LINE, 1)] fun c => { c with guide := { c.guide with lines := [(1, [2, 1, 1, 0, 0, 0, 0, 0, 0, 0, 0, 0, 0, 0, 0, 0, 0, 0, 0, 0, 16, 39, 0, 0, 0, 0, 0, 0, 79, 191, 105, 35, 0, 0, 0, 0, 0, 0, 0, 0])] }, gnss := { c.gnss with fix := some ⟨100000, 1, 0, 0, 0, 0, 0⟩ } }), by decide +kernel⟩

theorem witness_GuidanceCommandsComplete_2 :
    ∃ (s : State) (g : Nat) (r : GuideRes),
    s.found.guide.cycle = some (g, some r) ∧ nowUs s.keeper s.found ≤ 1000 * g + 5000 :=
  ⟨(run .harvest [] fun c => { c with guide := { c.guide with cycle := some (100000, some ⟨100000, 0, 0, 0, 0, 0, 0, 0, 0, 0, 0, false, true, false, true⟩) } }), 100000, ⟨100000, 0, 0, 0, 0, 0, 0, 0, 0, 0, 0, false, true, false, true⟩, by decide +kernel⟩

theorem witness_GuidanceCommandsComplete_3 :
    ∃ (s : State) (e : Nat) (r : Option GuideRes),
    s.found.guide.cycle = some (e, r) ∧ 1000 * e + 5000 ≤ nowUs s.keeper s.found ∧ HandlerFree s.found 0x0603 unitGuide := by
  refine ⟨(run .harvest [] fun c => { c with guide := { c.guide with cycle := some (0, none) } }), 0, none, ?_⟩
  unfold HandlerFree
  decide +kernel

theorem witness_GuidanceCommandsComplete_4 :
    ∃ (s : State) (active : Bool),
    s.found.mode ≠ .off ∧ s.found.mode ≠ .banked :=
  ⟨run, false, by decide +kernel⟩

theorem witness_GuidanceCommandsComplete_5 :
    ∃ (s : State) (a : Nat),
    s.found.guide.speedOut = some a ∧ guideHolds s.found = true ∧ a + 500 ≤ s.keeper.epoch :=
  ⟨(run .harvest [(Key.Guide.STATE, 3)] fun c => { c with guide := { c.guide with speedOut := some 0 } }), 0, by decide +kernel⟩

theorem witness_GuidanceCommandsComplete_6 :
    ∃ (s : State) (a : Nat),
    s.found.guide.coastAt = some a ∧ s.found.num Key.Guide.STATE = 4 ∧
      a + s.found.num Key.Guide.RTK_COAST ≤ s.keeper.epoch :=
  ⟨(run .harvest [(Key.Guide.STATE, 4)] fun c => { c with guide := { c.guide with coastAt := some 0 } }), 0, by decide +kernel⟩

theorem witness_ShaperInstructionsComplete_1 :
    ∃ (s : State) (ch : Fin 48) (v : BitVec 12),
    progRuns s.found ch = true ∧
    (vcOf s.found ch).ramp = none ∧
    armedAt s.found Key.InjValve.INJ_OVERLAP ch = false ∧
    let a := setiTarget s.found ch v.toNat
    (a.2 = true ∨ fLt fmt32 (s.found.num (Key.Valve.TARGET ch)) a.1 = false ∨ targetFits s.found ch a.1 = true) := by
  refine ⟨(run .harvest [(Key.Valve.STATE 0, 1)] fun c => vcSet c 0 { prog := some 0 }), 0, 0, ?_⟩
  dsimp only
  decide +kernel

theorem witness_ShaperInstructionsComplete_2 :
    ∃ (s : State) (ch : Fin 48) (v : BitVec 12),
    progRuns s.found ch = true :=
  ⟨(run .harvest [(Key.Valve.STATE 0, 1)] fun c => vcSet c 0 { prog := some 0 }), 0, 0, by decide +kernel⟩

theorem witness_ShaperInstructionsComplete_3 :
    ∃ (s : State) (ch : Fin 48) (v : BitVec 12),
    progRuns s.found ch = true ∧ (vcOf s.found ch).waitEnd = none :=
  ⟨(run .harvest [(Key.Valve.STATE 0, 1)] fun c => vcSet c 0 { prog := some 0 }), 0, 0, by decide +kernel⟩

theorem witness_ShaperInstructionsComplete_4 :
    ∃ (s : State) (ch : Fin 48) (v : BitVec 12) (e : Nat),
    progRuns s.found ch = true ∧ (vcOf s.found ch).waitEnd = some e ∧ e ≤ nowUs s.keeper s.found :=
  ⟨(run .harvest [(Key.Valve.STATE 0, 1)] fun c => vcSet c 0 { prog := some 0, waitEnd := some 0 }), 0, 0, 0, by decide +kernel⟩

theorem witness_ShaperInstructionsComplete_5 :
    ∃ (s : State) (ch : Fin 48) (v : BitVec 12),
    progRuns s.found ch = true :=
  ⟨(run .harvest [(Key.Valve.STATE 0, 1)] fun c => vcSet c 0 { prog := some 0 }), 0, 0, by decide +kernel⟩

theorem witness_ShaperInstructionsComplete_6 :
    ∃ (s : State) (ch : Fin 48) (v : BitVec 12),
    progRuns s.found ch = true ∧ v.toNat % 64 = 0 :=
  ⟨(run .harvest [(Key.Valve.STATE 0, 1)] fun c => vcSet c 0 { prog := some 0 }), 0, 0, by decide +kernel⟩

theorem witness_ShaperInstructionsComplete_7 :
    ∃ (s : State) (ch : Fin 48) (v : BitVec 12),
    progRuns s.found ch = true ∧ v.toNat % 64 ≠ 0 :=
  ⟨(run .harvest [(Key.Valve.STATE 0, 1)] fun c => vcSet c 0 { prog := some 0 }), 0, 1, by decide +kernel⟩

theorem witness_ShaperInstructionsComplete_8 :
    ∃ (s : State) (ch : Fin 48) (v : BitVec 12),
    progRuns s.found ch = true :=
  ⟨(run .harvest [(Key.Valve.STATE 0, 1)] fun c => vcSet c 0 { prog := some 0 }), 0, 0, by decide +kernel⟩

theorem witness_ShaperInstructionsComplete_9 :
    ∃ (s : State) (ch : Fin 48) (v : BitVec 12) (peak : Nat),
    progRuns s.found ch = true ∧ armedAt s.found Key.InjValve.INJ_TTP ch = false ∧
      peakTime s.keeper s.found ch = some peak ∧ 250 * (v.toNat / 64) ≤ peak ∧ peak ≤ 250 * (v.toNat % 64) :=
  ⟨(run .harvest [(Key.Valve.STATE 0, 1)] fun c => vcSet c 0 { prog := some 0, peakHit := some 0 }), 0, 0, 0, by decide +kernel⟩

theorem witness_ShaperInstructionsComplete_10 :
    ∃ (s : State) (ch : Fin 48) (v : BitVec 12),
    progRuns s.found ch = true ∧
    (vcOf s.found ch).quenchEnd = none ∧
    armedAt s.found Key.InjValve.INJ_QUENCH_DEFER ch = false ∧
    ((bankChans (ch / 4)).any fun m => decide (m ≠ ch.val) && energised s.found m) = false ∧
    let c := vcAsk s.keeper (vcSet s.found ch { vcOf s.found ch with quenchEnd := some (nowUs s.keeper s.found + 100 * v.toNat) }) ch 0 false
    bankCanQuench c (ch / 4) = true := by
  refine ⟨(run .harvest [(Key.Valve.STATE 0, 1)] fun c => vcSet c 0 { prog := some 0 }), 0, 0, ?_⟩
  dsimp only
  decide +kernel

theorem witness_ShaperInstructionsComplete_11 :
    ∃ (s : State) (ch : Fin 48),
    progRuns s.found ch = true :=
  ⟨(run .harvest [(Key.Valve.STATE 0, 1)] fun c => vcSet c 0 { prog := some 0 }), 0, by decide +kernel⟩

theorem witness_ShaperTargetInstructionsComplete :
    ∃ (s : State) (ch : Fin 48) (v : BitVec 12),
    progRuns s.found ch = true ∧ s.found.valve.chans.length = 48 :=
  ⟨(run .harvest [(Key.Valve.STATE 0, 1)] fun c => vcSet c 0 { prog := some 0 }), 0, 0, by decide +kernel⟩

theorem witness_ShaperTimedInstructionsComplete :
    ∃ (s : State) (ch : Fin 48) (v : BitVec 12),
    progRuns s.found ch = true ∧ s.found.valve.chans.length = 48 :=
  ⟨(run .harvest [(Key.Valve.STATE 0, 1)] fun c => vcSet c 0 { prog := some 0 }), 0, 0, by decide +kernel⟩

theorem witness_ShaperControlInstructionsComplete :
    ∃ (s : State) (ch : Fin 48) (v : BitVec 12),
    progRuns s.found ch = true ∧ s.found.valve.chans.length = 48 :=
  ⟨(run .harvest [(Key.Valve.STATE 0, 1)] fun c => vcSet c 0 { prog := some 0 }), 0, 0, by decide +kernel⟩

theorem witness_ValveCommandsComplete_1 :
    ∃ (s : State) (ch : Fin 48) (value : F32) (v : Val) (c : Chip),
    served s.found = true ∧ judgeOne s.keeper s.found (Key.Valve.COMMAND ch) .sdo (numBytes (Key.Valve.COMMAND ch) value.toNat) = (Rc.OK, v, c) := by
  refine ⟨run, 0, 0, _, _, ?_, judged ?_⟩ <;> decide +kernel

theorem witness_ValveCommandsComplete_2 :
    ∃ (s : State) (ch : Fin 48) (value : F32) (code : Nat) (v : Val) (c : Chip),
    served s.found = true ∧ code ≠ Rc.OK ∧
      judgeOne s.keeper s.found (Key.Valve.COMMAND ch) .sdo (numBytes (Key.Valve.COMMAND ch) value.toNat) = (code, v, c) := by
  refine ⟨run, 0, 0x41A00000, _, _, _, ?_, ?_, judged rfl⟩ <;> decide +kernel

theorem witness_ValveCommandsComplete_3 :
    ∃ (s : State) (currents : List (Fin 48 × F32)),
    s.found.modes.drives = true :=
  ⟨run, [], by decide +kernel⟩

theorem witness_ValveCommandsComplete_4 :
    ∃ (s : State) (ch : Fin 48) (a : Nat),
    (vcOf s.found ch).peakAt = some a ∧ a + 1000 * s.found.num (Key.Valve.PEAK_TIME_MAX ch) ≤ nowUs s.keeper s.found :=
  ⟨(run .harvest [] fun c => vcSet c 0 { peakAt := some 0 }), 0, 0, by decide +kernel⟩

theorem witness_ValveCommandsComplete_5 :
    ∃ (s : State) (ch : Fin 48) (a : Nat),
    (vcOf s.found ch).tryAt = some a ∧ a + 1000 * s.found.num (Key.Bank.OVERLAP_WIN (ch / 4)) ≤ nowUs s.keeper s.found :=
  ⟨(run .harvest [] fun c => vcSet c 0 { tryAt := some 0 }), 0, 0, by decide +kernel⟩

theorem witness_ValveCommandsComplete_6 :
    ∃ (s : State) (b : Fin 12) (clampJ : F32),
    s.found.num (Key.Bank.BANK_STATE b) = 2 :=
  ⟨(run .harvest [(Key.Bank.BANK_STATE 0, 2)]), 0, 0, by decide +kernel⟩

theorem witness_ValveCommandsComplete_7 :
    ∃ (s : State) (ch : Fin 48),
    s.found.modes.drives = true ∧ HandlerFree s.found 0x0702 (unitValve ch) := by
  refine ⟨run, 0, ?_⟩
  unfold HandlerFree
  decide +kernel

theorem witness_ValveCommandsComplete_8 :
    ∃ (s : State) (b : Fin 12),
    s.found.modes.drives = true ∧ s.found.num (Key.Bank.BANK_STATE b) ≠ 4 ∧ HandlerFree s.found 0x0707 (unitBank b) := by
  refine ⟨run, 0, ?_⟩
  unfold HandlerFree
  decide +kernel

theorem witness_ValveCommandsComplete_9 :
    ∃ (s : State) (b : Fin 12) (a : Nat) (code : Nat),
    nth s.found.valve.trips b none = some (a, code) ∧ s.found.num (Key.Bank.BANK_STATE b) = 3 ∧
      a + 10000 ≤ nowUs s.keeper s.found :=
  ⟨(run .harvest [(Key.Bank.BANK_STATE 0, 3)] fun c => { c with valve := { c.valve with trips := [some (0, 0)] } }), 0, 0, 0, by decide +kernel⟩

theorem witness_LoadSwitchCommandsComplete_1 :
    ∃ (s : State) (ch : Fin 48) (value : F32) (v : Val) (c : Chip),
    served s.found = true ∧ judgeOne s.keeper s.found (Key.Ls.COMMAND ch) .sdo (numBytes (Key.Ls.COMMAND ch) value.toNat) = (Rc.OK, v, c) := by
  refine ⟨run, 0, 0, _, _, ?_, judged ?_⟩ <;> decide +kernel

theorem witness_LoadSwitchCommandsComplete_2 :
    ∃ (s : State) (ch : Fin 48) (value : F32) (code : Nat) (v : Val) (c : Chip),
    served s.found = true ∧ code ≠ Rc.OK ∧
      judgeOne s.keeper s.found (Key.Ls.COMMAND ch) .sdo (numBytes (Key.Ls.COMMAND ch) value.toNat) = (code, v, c) := by
  refine ⟨run, 0, 0x41A00000, _, _, _, ?_, ?_, judged rfl⟩ <;> decide +kernel

theorem witness_LoadSwitchCommandsComplete_3 :
    ∃ (s : State) (ch : Fin 48),
    (lsOf s.found ch).on = true :=
  ⟨(run .harvest [] fun c => lsSet c 0 { on := true }), 0, by decide +kernel⟩

theorem witness_LoadSwitchCommandsComplete_4 :
    ∃ (s : State) (ch : Fin 48),
    (lsOf s.found ch).on = false :=
  ⟨run, 0, by decide +kernel⟩

theorem witness_LoadSwitchCommandsComplete_5 :
    ∃ (s : State) (ch : Fin 48),
    s.found.num (Key.Ls.STATE ch) = 1 ∧
      (lsOf s.found ch).onAt + 1000 * s.found.num (Key.Ls.INRUSH_MS ch) ≤ nowUs s.keeper s.found :=
  ⟨(run .harvest [(Key.Ls.STATE 0, 1)]), 0, by decide +kernel⟩

theorem witness_LoadSwitchCommandsComplete_6 :
    ∃ (s : State) (ch : Fin 48),
    retryReady s.keeper s.found ch = true :=
  ⟨(run .harvest [(Key.Ls.STATE 0, 4), (Key.Ls.SAFE_KIND 0, 1)] fun c => lsSet c 0 { pending := true }), 0, by decide +kernel⟩

theorem witness_LoadSwitchCommandsComplete_7 :
    ∃ (s : State) (ch : Fin 48),
    s.found.modes.drives = true :=
  ⟨run, 0, by decide +kernel⟩

theorem witness_LoadSwitchCommandsComplete_8 :
    ∃ (s : State) (ch : Fin 48),
    armedFor s.keeper s.found Key.InjLs.INJ_LS_THERMAL ch = false :=
  ⟨run, 0, by decide +kernel⟩

theorem witness_LoadSwitchCommandsComplete_9 :
    ∃ (s : State) (sec : Fin 6) (spacing : Fin 101) (samples : List (List F32)),
    s.found.modes.drives = true ∧
    let n := sec.val
    let now := fun i => (nth samples i []).map BitVec.toNat
    let sum := (List.range 8).foldl (fun a i => fAdd fmt64 a (meanSquare (now i))) 0
    let c := (List.range 8).foldl (fun c i => wireStep s.keeper c (8 * n + i) spacing (now i)) s.found
    let theta := thetaStep (secOf c n).theta sum 400 10
    armedAt c Key.InjLs.INJ_SECTION_TRIP n = false ∧ fLe fmt64 one64 theta = false := by
  refine ⟨run, 0, 0, [], ?_⟩
  dsimp only
  decide +kernel

theorem witness_LoadSwitchCommandsComplete_10 :
    ∃ (s : State) (sec : Fin 6) (m : Nat),
    s.found.num (Key.Sec.SEC_STATE sec) = 2 ∧
    (secOf s.found sec).nextAt ≤ nowUs s.keeper s.found ∧
    let c := s.found.putBits (Key.Sec.SEC_FLAGS sec) 2 false
    restoreNext c sec (secOf c sec).next = some m := by
  refine ⟨(run .harvest [(Key.Ls.STATE 0, 4), (Key.Ls.SAFE_KIND 0, 1), (Key.Sec.SEC_STATE 0, 2)] fun c => lsSet c 0 { pending := true }), 0, 0, ?_⟩
  dsimp only
  decide +kernel

theorem witness_LoadSwitchCommandsComplete_11 :
    ∃ (s : State) (ch : Fin 48),
    s.found.modes.drives = true ∧ s.found.num (Key.Ls.OUT_KIND ch) = 1 ∧ s.found.num (Key.Ls.STATE ch) < 4 :=
  ⟨(run .harvest [(Key.Ls.OUT_KIND 0, 1)]), 0, by decide +kernel⟩

theorem witness_LoadSwitchCommandsComplete_12 :
    ∃ (s : State) (sec : Fin 6) (v : F32),
    s.found.modes.drives = true ∧ armedAt s.found Key.InjLs.INJ_SECTION_SUPPLY sec = false ∧
      fLt fmt32 v.toNat (fNat fmt32 9) = false ∧ fLt fmt32 (fNat fmt32 36) v.toNat = false ∧
      (secOf s.found sec).loaded = true :=
  ⟨(run .harvest [] fun c => secSet c 0 { loaded := true }), 0, 0x41C00000, by decide +kernel⟩

theorem witness_LoadSwitchCommandsComplete_13 :
    ∃ (s : State) (ch : Fin 48),
    (lsOf s.found ch).on = true ∧ s.found.num (Key.Ls.OPEN_MA ch) ≠ 0 :=
  ⟨(run .harvest [(Key.Ls.OPEN_MA 0, 10)] fun c => lsSet c 0 { on := true }), 0, by decide +kernel⟩

theorem witness_IsolatedIoCommandsComplete_1 :
    ∃ (s : State) (ch : Fin 128) (mV : Int) (t : Fin 1000),
    dioPowered s.found = true :=
  ⟨run, 0, 0, 0, by decide +kernel⟩

theorem witness_IsolatedIoCommandsComplete_2 :
    ∃ (s : State) (ch : Fin 128) (value : Bool) (v : Val) (c : Chip),
    served s.found = true ∧ judgeOne s.keeper s.found (Key.Dio.DO_CMD ch) .sdo (numBytes (Key.Dio.DO_CMD ch) (if value then 1 else 0)) = (Rc.OK, v, c) := by
  refine ⟨(run .harvest [(Key.Dio.DIR 0, 1)]), 0, true, _, _, ?_, judged ?_⟩ <;> decide +kernel

theorem witness_IsolatedIoCommandsComplete_3 :
    ∃ (s : State) (ch : Fin 128) (value : Bool) (code : Nat) (v : Val) (c : Chip),
    served s.found = true ∧ code ≠ Rc.OK ∧
      judgeOne s.keeper s.found (Key.Dio.DO_CMD ch) .sdo (numBytes (Key.Dio.DO_CMD ch) (if value then 1 else 0)) = (code, v, c) := by
  refine ⟨run, 0, true, _, _, _, ?_, ?_, judged rfl⟩ <;> decide +kernel

theorem witness_IsolatedIoCommandsComplete_4 :
    ∃ (s : State) (ch : Fin 128),
    isOutput s.found ch = true ∧ (dioOf s.found ch).on = true :=
  ⟨(run .harvest [(Key.Dio.DIR 0, 1)] fun c => dioSet c 0 { on := true }), 0, by decide +kernel⟩

theorem witness_IsolatedIoCommandsComplete_5 :
    ∃ (s : State) (g : Fin 8),
    dioPowered s.found = true ∧ keyAshed s.found (Key.Grp.GROUP_STATE g) = false :=
  ⟨run, 0, by decide +kernel⟩

theorem witness_IsolatedIoCommandsComplete_6 :
    ∃ (s : State) (ch : Fin 128) (a : Nat),
    (dioOf s.found ch).retryAt = some a ∧ a ≤ nowUs s.keeper s.found :=
  ⟨(run .harvest [] fun c => dioSet c 0 { retryAt := some 0 }), 0, 0, by decide +kernel⟩

theorem witness_IsolatedIoCommandsComplete_7 :
    ∃ (s : State) (g : Fin 8) (a : Nat),
    (grpOf s.found g).retryAt = some a ∧ a ≤ nowUs s.keeper s.found :=
  ⟨(run .harvest [] fun c => grpSet c 0 { retryAt := some 0 }), 0, 0, by decide +kernel⟩

theorem witness_IsolatedIoCommandsComplete_8 :
    ∃ (s : State) (ch : Fin 128),
    isOutput s.found ch = true ∧ s.found.num (Key.Dio.FLAGS ch) &&& 3 = 0 ∧ HandlerFree s.found 0x080C (unitDio ch) := by
  refine ⟨(run .harvest [(Key.Dio.DIR 0, 1)]), 0, ?_⟩
  unfold HandlerFree
  decide +kernel

theorem witness_IsolatedIoCommandsComplete_9 :
    ∃ (s : State) (g : Fin 8),
    s.found.modes.drives = true :=
  ⟨run, 0, by decide +kernel⟩

theorem witness_IsolatedIoCommandsComplete_10 :
    ∃ (s : State) (g : Fin 8),
    s.found.modes.drives = true ∧ (grpOf s.found g).marker ≠ (grpOf s.found g).seen ∧
      armedFor s.keeper s.found Key.InjLs.INJ_DIO_SILENCE g = false ∧ grpSilent s.found g = false :=
  ⟨(run .harvest [] fun c => grpSet c 0 { marker := 1 }), 0, by decide +kernel⟩

theorem witness_IsolatedIoCommandsComplete_11 :
    ∃ (s : State) (g : Fin 8),
    s.found.modes.drives = true ∧ s.found.num (Key.Grp.GROUP_STATE g) = 0 ∧
      (grpOf s.found g).advance + 1000 * s.found.num (Key.Grp.SILENCE_TIMEOUT g) ≤ nowUs s.keeper s.found + s.found.gnss.stretch / 1000000 :=
  ⟨run, 0, by decide +kernel⟩

theorem witness_ReceiverCommandsComplete_1 :
    ∃ (s : State) (a : Fin 2),
    up s.found 8 = true ∧ biasOn s.found a = true :=
  ⟨run, 0, by decide +kernel⟩

theorem witness_ReceiverCommandsComplete_2 :
    ∃ (s : State) (a : Fin 2),
    antStatus s.found a = 1 :=
  ⟨(run .harvest [(Key.Gnss.ANT_STATUS, 1)]), 0, by decide +kernel⟩

theorem witness_ReceiverCommandsComplete_3 :
    ∃ (s : State) (rise : F32) (signals : List GnssSignal),
    up s.found 8 = true :=
  ⟨run, 0, [], by decide +kernel⟩

theorem witness_ReceiverCommandsComplete_4 :
    ∃ (s : State) (records : List RawRec) (edge : Nat) (ms : Nat),
    s.found.gnss.raw = some (edge, ms) :=
  ⟨(run .harvest [] fun c => { c with gnss := { c.gnss with raw := some (0, 0) } }), [], 0, 0, by decide +kernel⟩

theorem witness_ReceiverCommandsComplete_5 :
    ∃ (s : State) (w : NavWord),
    up s.found 8 = true ∧ bitOf (s.found.num Key.Gnss.SIG_ENABLE) w.signal.val = true ∧
      armedAt s.found Key.Inj.NAV_CHECK w.signal.val = false ∧
      navCheck w.signal.val w.before (wordBits w.data w.bits) = 1 ∧ s.found.gnss.navs < 4096 ∧
      HandlerFree s.found 0x0904 theModule := by
  refine ⟨(run .harvest [(Key.Gnss.SIG_ENABLE, 1)]), ⟨0, 1, 0, some (false, false), 30, [0x80, 0, 0, 0], none⟩, ?_⟩
  unfold HandlerFree
  decide +kernel

theorem witness_ReceiverCommandsComplete_6 :
    ∃ (s : State) (sol : Solution),
    s.found.gnss.sol = some sol.edge ∧ tilesRun s.found = true :=
  ⟨(run .harvest [] fun c => { c with gnss := { c.gnss with sol := some 100000 } }), ⟨1, 100000, 0, 0, 0, 0, 0, 0, 0, 0, 0, 0, true, 10, 0, 0, none, none⟩, by decide +kernel⟩

theorem witness_ReceiverCommandsComplete_7 :
    ∃ (s : State) (signals : List GnssSignal) (sol : Solution),
    s.found.mode = .banked :=
  ⟨(run .banked), [], ⟨1, 100000, 0, 0, 0, 0, 0, 0, 0, 0, 0, 0, true, 10, 0, 0, none, none⟩, by decide +kernel⟩

theorem witness_ReceiverCommandsComplete_8 :
    ∃ (s : State) (udp : Bool) (frame : List Byte),
    up s.found 8 = true :=
  ⟨run, false, [], by decide +kernel⟩

theorem witness_ReceiverCommandsComplete_9 :
    ∃ (s : State) (a : Nat),
    s.found.gnss.corrAt = some a ∧ a + 1000 * s.found.num Key.Rtcm.CORR_MAX_AGE < s.keeper.epoch :=
  ⟨(run .harvest [] fun c => { c with gnss := { c.gnss with corrAt := some 0 } }), 0, by decide +kernel⟩

theorem witness_TimeCommandsComplete_1 :
    ∃ (s : State) (ppt : Int) (a : Nat),
    s.found.gnss.lastValid = some a ∧ s.keeper.epoch < a + s.found.num Key.Time.LOSS_MS ∧ s.found.mode ≠ .off :=
  ⟨(run .harvest [] fun c => { c with gnss := { c.gnss with lastValid := some 100000 } }), 0, 100000, by decide +kernel⟩

theorem witness_TimeCommandsComplete_2 :
    ∃ (s : State),
    s.found.mode ≠ .off :=
  ⟨run, by decide +kernel⟩

theorem witness_TimeCommandsComplete_3 :
    ∃ (s : State) (p : Fin 2) (e : Nat),
    let x := nth s.found.gnss.pps p {}
    x.high = false ∧ x.next ≤ nowUs s.keeper s.found ∧ s.found.mode ≠ .off ∧ s.found.mode ≠ .banked ∧
      s.found.gnss.pulses = true ∧ s.found.flag (Key.Pps.PPS_ENABLE p) = true ∧
      pulseEdge s.keeper s.found = some e ∧ x.edge + 500 ≤ e := by
  refine ⟨(run .harvest [(Key.Pps.PPS_ENABLE 0, 1)] fun c => { c with gnss := { c.gnss with pulses := true, label := some 999 } }), 0, 100001, ?_⟩
  dsimp only
  decide +kernel

theorem witness_TimeCommandsComplete_4 :
    ∃ (s : State) (p : Fin 2),
    let x := nth s.found.gnss.pps p {}
    x.high = true ∧ x.lead + 1000 * s.found.num (Key.Pps.PPS_WIDTH p) ≤ nowUs s.keeper s.found := by
  refine ⟨(run .harvest [] fun c => { c with gnss := { c.gnss with pps := [{ high := true }] } }), 0, ?_⟩
  dsimp only
  decide +kernel

theorem witness_VisionCommandsComplete_1 :
    ∃ (s : State) (ns : Nat),
    camRuns s.keeper s.found 0 = true :=
  ⟨(run .harvest [(Key.CamCfg.CAM_ENABLE 0, 1)]), 0, by decide +kernel⟩

theorem witness_VisionCommandsComplete_2 :
    ∃ (s : State) (format : FrameFormat) (rows : List (List Nat)) (f : FrameX),
    (camOf s.found 0).recv = some f :=
  ⟨(run .harvest [] fun c => camSet c 0 { recv := some ⟨0, 0, [], [], false⟩ }), ⟨0, 0, 0, 0, true, true⟩, [], ⟨0, 0, [], [], false⟩, by decide +kernel⟩

theorem witness_VisionCommandsComplete_3 :
    ∃ (s : State) (cam : Fin 7) (p : RvfPacket) (f : FrameX),
    let n := cam.val + 1
    camRuns s.keeper s.found n = true ∧ p.streamId.toNat = s.found.num (Key.CamCfg.STREAM_ID n) ∧
      s.found.num (Key.Eth.LINK (n + 3)) = 1 ∧ p.first = none ∧ (camOf s.found n).recv = some f ∧ p.last = false := by
  refine ⟨(run .harvest [(Key.CamCfg.CAM_ENABLE 1, 1), (Key.Eth.LINK 4, 1)] fun c => camSet c 1 { recv := some ⟨1, 0, [], [], false⟩ }), 0, ⟨0, ⟨0, 0, 0, 0, true, true⟩, none, false, false, []⟩, ⟨1, 0, [], [], false⟩, ?_⟩
  dsimp only
  decide +kernel

theorem witness_VisionCommandsComplete_4 :
    ∃ (s : State) (cam : Fin 7) (p : RvfPacket) (stamp : BitVec 32) (f : FrameX),
    let n := cam.val + 1
    camRuns s.keeper s.found n = true ∧
    p.streamId.toNat = s.found.num (Key.CamCfg.STREAM_ID n) ∧
    s.found.num (Key.Eth.LINK (n + 3)) = 1 ∧
    p.first = some stamp ∧
    p.last = false ∧
    let c := s.found.bump (Key.Eth.RX_FRAMES (n + 3))
    let c := streamStart s.keeper c n (avtpRef s.keeper c stamp.toNat) p.format
    (camOf c n).recv = some f := by
  obtain ⟨f, hf, _⟩ := some_with (o := (camOf (streamStart (run .harvest [(Key.CamCfg.CAM_ENABLE 1, 1), (Key.Eth.LINK 4, 1)]).keeper
    ((run .harvest [(Key.CamCfg.CAM_ENABLE 1, 1), (Key.Eth.LINK 4, 1)]).found.bump (Key.Eth.RX_FRAMES 4)) 1
    (avtpRef (run .harvest [(Key.CamCfg.CAM_ENABLE 1, 1), (Key.Eth.LINK 4, 1)]).keeper ((run .harvest [(Key.CamCfg.CAM_ENABLE 1, 1), (Key.Eth.LINK 4, 1)]).found.bump (Key.Eth.RX_FRAMES 4)) 0) testFormat) 1).recv)
    (fun _ => true) (by decide +kernel)
  exact ⟨(run .harvest [(Key.CamCfg.CAM_ENABLE 1, 1), (Key.Eth.LINK 4, 1)]), 0, ⟨0, testFormat, some 0, false, false, []⟩, 0, f,
    by decide +kernel, by decide +kernel, by decide +kernel, rfl, rfl, hf⟩

theorem witness_VisionCommandsComplete_5 :
    ∃ (s : State) (f : FrameX) (q : List FrameX),
    up s.found 9 = true ∧ unitAshed s.found (unitPipe 1) = false ∧ s.found.vis.proc = none ∧ s.found.vis.queue = f :: q :=
  ⟨(run .harvest [] fun c => { c with vis := { c.vis with queue := [⟨0, 0, [], [], false⟩] } }), ⟨0, 0, [], [], false⟩, [], by decide +kernel⟩

theorem witness_VisionCommandsComplete_6 :
    ∃ (s : State) (f : FrameX),
    s.found.vis.line = some f :=
  ⟨(run .harvest [] fun c => { c with vis := { c.vis with line := some ⟨0, 0, [], [], false⟩ } }), ⟨0, 0, [], [], false⟩, by decide +kernel⟩

theorem witness_VisionCommandsComplete_7 :
    ∃ (s : State) (cam : Fin 8) (f : FrameX),
    cam ≠ 0 ∧ s.found.vis.proc = some f ∧ f.cam = cam.val :=
  ⟨(run .harvest [] fun c => { c with vis := { c.vis with proc := some ⟨1, 0, [], [], false⟩ } }), 1, ⟨1, 0, [], [], false⟩, by decide +kernel⟩

theorem witness_VisionCommandsComplete_8 :
    ∃ (s : State) (cam : Fin 8),
    up s.found 9 = true ∧ s.found.flag (Key.CamCfg.CAM_ENABLE cam) = true ∧
      (s.found.num (Key.CamSt.CAM_STATE cam) = 1 ∨ s.found.num (Key.CamSt.CAM_STATE cam) = 2) ∧
      s.found.num (Key.CamSt.FORMAT_RESULT cam) = 0 ∧
      10 * 1000000 * ((odRat s.found.od (Key.CamCfg.FPS cam)).2 : Int) ≤ ((nowUs s.keeper s.found : Int) - (camOf s.found cam).since) * (odRat s.found.od (Key.CamCfg.FPS cam)).1 ∧ HandlerFree s.found 0x0A01 (unitCam cam) := by
  refine ⟨(run .harvest [(Key.CamCfg.CAM_ENABLE 0, 1), (Key.CamSt.CAM_STATE 0, 1)]), 0, ?_⟩
  unfold HandlerFree
  decide +kernel

theorem witness_VisionCommandsComplete_9 :
    ∃ (s : State) (cam : Fin 8) (p : CodedPicture) (e : EncX) (rest : List EncX),
    s.found.vis.enc = e :: rest ∧ e.cam = cam.val ∧ odNum e.cfg (Key.CamCfg.CODE_DEST cam) = 0 ∧
      odNum e.cfg (Key.CamCfg.CODE_RECORD cam) = 0 ∧ p.inTime = true ∧ armedAt s.found Key.Inj.ENC_FAULT 1 = false :=
  ⟨(run .harvest [] fun c => { c with vis := { c.vis with enc := [⟨0, 0, [], []⟩] } }), 0, ⟨[], [], true⟩, ⟨0, 0, [], []⟩, [], by decide +kernel⟩

theorem witness_VisionCommandsComplete_10 :
    ∃ (s : State),
    s.found.mode ≠ .off ∧ s.found.mode ≠ .banked ∧ s.found.num Key.WrHold.UFS_WRITE = 0 :=
  ⟨run, by decide +kernel⟩

theorem witness_FusionCommandsComplete_1 :
    ∃ (s : State),
    s.keeper.epoch % 50 = 0 ∧ up s.found 9 = true ∧ tilesRun s.found = true ∧ gateOpen s.found 4 = true ∧
      unitAshed s.found unitFusion = false ∧ s.found.fus.cycles = [] :=
  ⟨run, by decide +kernel⟩

theorem witness_FusionCommandsComplete_2 :
    ∃ (s : State) (src : Fin 16) (e : Nat) (found : List Detection),
    s.found.num (Key.Src.KIND src) = 1 ∧ up s.found 9 = true ∧ tilesRun s.found = true ∧
      unitAshed s.found unitFusion = false ∧ s.found.flag (Key.Src.SRC_ENABLE src) = true ∧
      nth s.found.fus.samples src none = none ∧ s.found.fus.published = none :=
  ⟨(run .harvest [(Key.Src.KIND 0, 1), (Key.Src.SRC_ENABLE 0, 1)]), 0, 0, [], by decide +kernel⟩

theorem witness_FusionCommandsComplete_4 :
    ∃ (s : State) (ego : Bool) (y : FusCycle) (rest : List FusCycle),
    s.found.fus.cycles = y :: rest ∧ y.doomed = false ∧ nowUs s.keeper s.found ≤ 1000 * y.edge + 100000 :=
  ⟨(run .harvest [] fun c => { c with fus := { c.fus with cycles := [⟨100000, [], [], [], [], none, false⟩] } }), false, ⟨100000, [], [], [], [], none, false⟩, [], by decide +kernel⟩

theorem witness_FusionCommandsComplete_5 :
    ∃ (s : State) (y : FusCycle) (rest : List FusCycle),
    s.found.fus.cycles = y :: rest ∧ 1000 * y.edge + 100000 ≤ nowUs s.keeper s.found ∧
      HandlerFree s.found 0x0B02 unitFusion := by
  refine ⟨(run .harvest [] fun c => { c with fus := { c.fus with cycles := [⟨0, [], [], [], [], none, false⟩] } }), ⟨0, [], [], [], [], none, false⟩, [], ?_⟩
  unfold HandlerFree
  decide +kernel

theorem witness_FusionCommandsComplete_6 :
    ∃ (s : State),
    up s.found 9 = true ∧ unitAshed s.found unitFusion = false ∧ s.found.fus.egoLost = false ∧
      s.found.fus.egoAt + s.found.num Key.Fus.EGO_COAST ≤ s.keeper.epoch :=
  ⟨run, by decide +kernel⟩

theorem witness_CanCommandsComplete_1 :
    ∃ (s : State) (p : Fin 12) (f : CanFrame) (sof : Nat),
    canFrameOk f = false :=
  ⟨run, 0, ⟨0, false, true, false, false, true, []⟩, 0, by decide +kernel⟩

theorem witness_CanCommandsComplete_2 :
    ∃ (s : State) (p : Fin 12) (f : CanFrame) (sof : Nat),
    canFrameOk f = true ∧ canOnBus s.found p = true ∧ (f.fdf = true → s.found.flag (Key.Can.FD_ENABLE p) = true) ∧
      canKnown s.found p f = .other :=
  ⟨(run .harvest [(Key.Can.PORT_ENABLE 0, 1), (Key.Can.CAN_STATE 0, 2)]), 0, ⟨1, false, false, false, false, false, []⟩, 0, by decide +kernel⟩

theorem witness_CanCommandsComplete_3 :
    ∃ (s : State) (p : Fin 12) (f : TxFrame) (sof : Nat),
    (canOf s.found p).submits = [] ∧ txOffered s.keeper s.found p = some f :=
  ⟨(run .harvest [(Key.Can.PORT_ENABLE 0, 1), (Key.Can.CAN_STATE 0, 2)] fun c => canSet c 0 { queue := [⟨1, false, false, false, [], 100000000, 1000, .submit⟩] }), 0, ⟨1, false, false, false, [], 100000000, 1000, .submit⟩, 0, by decide +kernel⟩

theorem witness_CanCommandsComplete_4 :
    ∃ (s : State) (p : Fin 12) (f : TxFrame),
    (canOf s.found p).submits = [] ∧ txOffered s.keeper s.found p = some f ∧ s.found.num (Key.Can.TEC p) + 8 ≤ 255 :=
  ⟨(run .harvest [(Key.Can.PORT_ENABLE 0, 1), (Key.Can.CAN_STATE 0, 2)] fun c => canSet c 0 { queue := [⟨1, false, false, false, [], 100000000, 1000, .submit⟩] }), 0, ⟨1, false, false, false, [], 100000000, 1000, .submit⟩, by decide +kernel⟩

theorem witness_CanCommandsComplete_5 :
    ∃ (s : State) (p : Fin 12),
    (canOf s.found p).submits = [] :=
  ⟨run, 0, by decide +kernel⟩

theorem witness_CanCommandsComplete_6 :
    ∃ (s : State) (p : Fin 12) (name : BitVec 64) (a : Byte),
    canOnBus s.found p = true :=
  ⟨(run .harvest [(Key.Can.PORT_ENABLE 0, 1), (Key.Can.CAN_STATE 0, 2)]), 0, 0, 0, by decide +kernel⟩

theorem witness_CanCommandsComplete_7 :
    ∃ (s : State) (p : Fin 12) (a : Nat),
    s.found.num (Key.Can.CLAIM_STATE p) = 1 ∧ (canOf s.found p).claimAt = some a ∧ canOnBus s.found p = true ∧
      a + 250000 ≤ nowUs s.keeper s.found :=
  ⟨(run .harvest [(Key.Can.PORT_ENABLE 0, 1), (Key.Can.CAN_STATE 0, 2), (Key.Can.CLAIM_STATE 0, 1)] fun c => canSet c 0 { claimAt := some 0 }), 0, 0, by decide +kernel⟩

theorem witness_CanCommandsComplete_8 :
    ∃ (s : State) (p : Fin 12) (tec : Nat) (rec_ : Nat),
    canOnBus s.found p = true ∧ HandlerFree s.found 0x0C01 (unitCan p) := by
  refine ⟨(run .harvest [(Key.Can.PORT_ENABLE 0, 1), (Key.Can.CAN_STATE 0, 2)]), 0, 0, 0, ?_⟩
  unfold HandlerFree
  decide +kernel

theorem witness_CanCommandsComplete_9 :
    ∃ (s : State) (p : Fin 12),
    s.found.num (Key.Can.CAN_STATE p) = 5 ∧ canActive s.found p = true ∧ s.found.flag (Key.Can.CLAIM_ENABLE p) = false :=
  ⟨(run .harvest [(Key.Can.PORT_ENABLE 0, 1), (Key.Can.CAN_STATE 0, 5)]), 0, by decide +kernel⟩

theorem witness_CanCommandsComplete_10 :
    ∃ (s : State) (p : Fin 12),
    canActive s.found p = true ∧ s.found.flag (Key.CanX.TIME_ENABLE p) = true ∧
      s.keeper.epoch % max (s.found.num (Key.CanX.TIME_PERIOD p)) 1 = 0 ∧ (canOf s.found p).time = [] :=
  ⟨(run .harvest [(Key.Can.PORT_ENABLE 0, 1), (Key.CanX.TIME_ENABLE 0, 1)]), 0, by decide +kernel⟩

theorem witness_EthernetCommandsComplete_1 :
    ∃ (s : State) (p : Fin 12),
    ethUp s.found p = true :=
  ⟨(run .harvest [(Key.Eth.LINK 0, 1), (Key.Gate.GATE_STATE 5, 1)]), 0, by decide +kernel⟩

theorem witness_EthernetCommandsComplete_2 :
    ∃ (s : State) (p : Fin 12) (a : BitVec 32),
    ethUp s.found p = true ∧ hasIp p = true ∧ s.found.num (Key.Eth.IP_ADDR p) = a.toNat :=
  ⟨(run .harvest [(Key.Eth.LINK 0, 1), (Key.Gate.GATE_STATE 5, 1), (Key.Eth.IP_ADDR 0, 0)]), 0, 0, by decide +kernel⟩

theorem witness_EthernetCommandsComplete_3 :
    ∃ (s : State) (p : Fin 12) (src : BitVec 32) (dst : BitVec 32) (data : List Byte),
    ethUp s.found p = true ∧ hasIp p = true ∧
      (s.found.num (Key.Eth.IP_ADDR p) = dst.toNat ∨ dst.toNat = 0xFFFFFFFF) ∧ s.found.flag Key.Jop.ICMP_ECHO = true :=
  ⟨(run .harvest [(Key.Eth.LINK 0, 1), (Key.Gate.GATE_STATE 5, 1), (Key.Eth.IP_ADDR 0, 0), (Key.Jop.ICMP_ECHO, 1)]), 0, 0, 0, [], by decide +kernel⟩

theorem witness_EthernetCommandsComplete_4 :
    ∃ (s : State) (p : Fin 12),
    ethUp s.found p = true ∧ s.found.flag (Key.Eth.GPTP_ENABLE p) = true ∧
      intervalOver (nowUs s.keeper s.found) (nth s.found.eth.ann p none) (logInterval s.found Key.Gptp.LOG_ANNOUNCE) = false ∧ intervalOver (nowUs s.keeper s.found) (nth s.found.eth.sync p none) (logInterval s.found Key.Gptp.LOG_SYNC) = true :=
  ⟨(run .harvest [(Key.Eth.LINK 0, 1), (Key.Gate.GATE_STATE 5, 1), (Key.Eth.GPTP_ENABLE 0, 1)] fun c => { c with eth := { c.eth with ann := [some 100000100] } }), 0, by decide +kernel⟩

theorem witness_EthernetCommandsComplete_5 :
    ∃ (s : State) (p : Fin 12) (rxNs : Nat),
    ethUp s.found p = true ∧ s.found.flag (Key.Eth.GPTP_ENABLE p) = true :=
  ⟨(run .harvest [(Key.Eth.LINK 0, 1), (Key.Gate.GATE_STATE 5, 1), (Key.Eth.GPTP_ENABLE 0, 1)]), 0, 0, by decide +kernel⟩

theorem witness_EthernetCommandsComplete_6 :
    ∃ (s : State) (p : Fin 12),
    ethUp s.found p = true :=
  ⟨(run .harvest [(Key.Eth.LINK 0, 1), (Key.Gate.GATE_STATE 5, 1)]), 0, by decide +kernel⟩

theorem witness_EthernetCommandsComplete_7 :
    ∃ (s : State) (p : Fin 14) (b : Bool),
    p.val < 12 :=
  ⟨run, 0, false, by decide +kernel⟩

theorem witness_EthernetCommandsComplete_8 :
    ∃ (s : State) (d : UdpIn),
    ethUp s.found d.port = true ∧ d.irregular = false ∧ hasIp d.port = true ∧
      d.dst.toNat = s.found.num (Key.Eth.IP_ADDR d.port) ∧ d.dstPort.toNat < 47600 :=
  ⟨(run .harvest [(Key.Eth.LINK 0, 1), (Key.Gate.GATE_STATE 5, 1), (Key.Eth.IP_ADDR 0, 0)]), ⟨0, 0, 0, 0, 0, false, []⟩, by decide +kernel⟩

theorem witness_EthernetCommandsComplete_9 :
    ∃ (s : State) (d : UdpIn),
    ethUp s.found 11 = true ∧ d.port = 11 ∧ d.irregular = false ∧ d.dst.toNat = s.found.num (Key.Eth.IP_ADDR 11) ∧
      d.dstPort.toNat = 47601 :=
  ⟨(run .harvest [(Key.Eth.LINK 11, 1), (Key.Eth.IP_ADDR 11, 0)]), ⟨11, 0, 0, 0, 47601, false, []⟩, by decide +kernel⟩

theorem witness_FabricCommandsComplete_1 :
    ∃ (s : State),
    fabOn s.found = true ∧ intervalOver (nowUs s.keeper s.found) s.found.fab.helloAt 10000 = true ∧
      unitAshed s.found (unitFab 0) = false ∧ unitAshed s.found (unitFab 1) = false :=
  ⟨(run .harvest [(Key.Fab.FAB_ENABLE, 1)]), by decide +kernel⟩

theorem witness_FabricCommandsComplete_2 :
    ∃ (s : State) (f : Fin 2) (h : Hello),
    fabOn s.found = true ∧ unitAshed s.found (unitFab f) = false ∧
      armedFor s.keeper s.found Key.Inj.FAB_LINK f = false ∧ s.found.num (Key.FLink.FLINK_STATE f) ≠ 1 ∧
      (fabLink s.found f).peer ≠ h.identity ∧ f.val < s.found.fab.links.length :=
  ⟨(run .harvest [(Key.Fab.FAB_ENABLE, 1)]), 0, ⟨1, 0, 0, 0, 0, 0, 0, 0, []⟩, by decide +kernel⟩

theorem witness_FabricCommandsComplete_3 :
    ∃ (s : State) (f : Fin 2) (a : Nat),
    (fabLink s.found f).last = some a ∧ a + 30000 ≤ nowUs s.keeper s.found :=
  ⟨(run .harvest [] fun c => fabLinkSet c 0 { last := some 0 }), 0, 0, by decide +kernel⟩

theorem witness_FabricCommandsComplete_4 :
    ∃ (s : State) (identity : Nat) (r : FabRec),
    fabRec s.found identity = some r ∧ r.fresh + 100000 ≤ nowUs s.keeper s.found :=
  ⟨(run .harvest [] fun c => { c with fab := { c.fab with recs := [{ identity := 0, number := 0 }] } }), 0, { identity := 0, number := 0 }, by decide +kernel⟩

theorem witness_FabricCommandsComplete_5 :
    ∃ (s : State) (m : Fin 16) (n : Nat) (e : Nat),
    s.found.fab.held.find? (fun h => decide (h.1 = m.val + 1)) = some (n, e) ∧
      e + 1000 * s.found.num Key.Fab.NUMBER_HOLD ≤ s.keeper.epoch :=
  ⟨(run .harvest [(Key.Fab.NUMBER_HOLD, 1)] fun c => { c with fab := { c.fab with held := [(1, 0)] } }), 0, 1, 0, by decide +kernel⟩

theorem witness_FabricCommandsComplete_6 :
    ∃ (s : State),
    fabOn s.found = true ∧ s.found.num Key.Fab.FAB_STATE = 1 ∧
      s.found.fab.settleAt + 1000 * s.found.num Key.Fab.FAB_SETTLE ≤ nowUs s.keeper s.found :=
  ⟨(run .harvest [(Key.Fab.FAB_ENABLE, 1), (Key.Fab.FAB_STATE, 1)]), by decide +kernel⟩

theorem witness_FabricCommandsComplete_7 :
    ∃ (s : State) (f : Fin 2),
    up s.found 8 = true :=
  ⟨run, 0, by decide +kernel⟩

theorem witness_FabricCommandsComplete_8 :
    ∃ (s : State) (f : Fin 2) (fr : FabFrame),
    fabOn s.found = true ∧ fabUpLink s.found f = true ∧ fabForMe s.found fr = false :=
  ⟨(run .harvest [(Key.Fab.FAB_ENABLE, 1), (Key.FLink.FLINK_STATE 0, 1), (Key.Fab.MODULE_NUMBER, 2)]), 0, ⟨1, 3, 15, 0, 0, []⟩, by decide +kernel⟩

theorem witness_FabricCommandsComplete_9 :
    ∃ (s : State) (f : Fin 2) (fr : FabFrame),
    fabOn s.found = true ∧ fabUpLink s.found f = true ∧ fabForMe s.found fr = true :=
  ⟨(run .harvest [(Key.Fab.FAB_ENABLE, 1), (Key.FLink.FLINK_STATE 0, 1), (Key.Fab.MODULE_NUMBER, 2)]), 0, ⟨1, 2, 15, 0, 0, []⟩, by decide +kernel⟩

theorem witness_FabricCommandsComplete_10 :
    ∃ (s : State) (f : Fin 2) (fr : FabFrame) (b : List Byte) (c : Chip),
    fabOn s.found = true ∧ fabUpLink s.found f = true ∧ fabForMe s.found fr = true ∧
      jopTake s.keeper s.found fr.origAddr fr.origPort 0 true fr.payload = (.answer b, c) := by
  obtain ⟨r, hr⟩ : ∃ r, jopTake (run .harvest [(Key.Fab.FAB_ENABLE, 1), (Key.FLink.FLINK_STATE 0, 1), (Key.Fab.MODULE_NUMBER, 2)]).keeper (run .harvest [(Key.Fab.FAB_ENABLE, 1), (Key.FLink.FLINK_STATE 0, 1), (Key.Fab.MODULE_NUMBER, 2)]).found 0 0 0 true
    [74, 75, 1, 0, 0, 7, 0, 0, 0, 0, 0, 0, 0, 0, 0, 1, 1, 0, 64, 32, 7, 4, 0, 0] = r := ⟨_, rfl⟩
  have h : (match r.1 with | .answer _ => true | _ => false) = true := by rw [← hr]; decide +kernel
  obtain ⟨f, c⟩ := r
  cases f with
  | answer b => exact ⟨(run .harvest [(Key.Fab.FAB_ENABLE, 1), (Key.FLink.FLINK_STATE 0, 1), (Key.Fab.MODULE_NUMBER, 2)]), 0, ⟨1, 2, 15, 0, 0, [74, 75, 1, 0, 0, 7, 0, 0, 0, 0, 0, 0, 0, 0, 0, 1, 1, 0, 64, 32, 7, 4, 0, 0]⟩, b, c, by decide +kernel, by decide +kernel, by decide +kernel, hr⟩
  | _ => cases h

theorem witness_UpdateCommandsComplete_1 :
    ∃ (s : State) (b : Fin 4),
    buildState s.found b = 1 ∧ buildHold s.found b = 0 ∧ armedAt s.found Key.Inj.UPD_BUILD_FAIL b = false ∧
      (buildOf s.found b).parts.all (partGood s.found) = true :=
  ⟨(run .service [(Key.Build.BUILD_STATE 0, 1)]), 0, by decide +kernel⟩

theorem witness_UpdateCommandsComplete_2 :
    ∃ (s : State) (b : Fin 4),
    buildState s.found b = 1 ∧ buildHold s.found b = 3 :=
  ⟨(run .harvest [(Key.Build.BUILD_STATE 0, 1)]), 0, by decide +kernel⟩

theorem witness_UpdateCommandsComplete_3 :
    ∃ (s : State) (b : Fin 4),
    buildState s.found b = 1 ∧ buildHold s.found b ≠ 0 ∧ buildHold s.found b ≠ 3 ∧
      HandlerFree s.found 0x0E02 (unitBuild b) := by
  refine ⟨(run .harvest [(Key.Build.BUILD_STATE 0, 1), (Key.WrHold.UFS_WRITE, 1)] fun c => buildSet c 0 { parts := [⟨0, false, 0, 1, 0, [], 0, []⟩] }), 0, ?_⟩
  unfold HandlerFree
  decide +kernel

theorem witness_UpdateCommandsComplete_4 :
    ∃ (s : State) (b : Fin 4),
    buildState s.found b = 2 ∧ buildHold s.found b = 0 ∧ (buildOf s.found b).heldTo ≤ s.keeper.epoch :=
  ⟨(run .service [(Key.Build.BUILD_STATE 0, 2)]), 0, by decide +kernel⟩

theorem witness_UpdateCommandsComplete_5 :
    ∃ (s : State) (b : Fin 4),
    buildState s.found b = 1 ∧ HandlerFree s.found 0x0E01 (unitBuild b) := by
  refine ⟨(run .service [(Key.Build.BUILD_STATE 0, 1)]), 0, ?_⟩
  unfold HandlerFree
  decide +kernel

theorem witness_UpdateCommandsComplete_6 :
    ∃ (s : State),
    s.found.num Key.Health.HEALTH = 1 ∧ confirmDone s.found = true ∧ acceptOk s.found = true ∧
      s.found.upd.dsHeld = none ∧ s.found.upd.trialMs ≤ s.found.num Key.Health.TRIAL_S * 1000 :=
  ⟨(run .harvest [(Key.Health.HEALTH, 1)] fun c => { c with upd := { c.upd with confirmMs := 100000000 } }), by decide +kernel⟩

theorem witness_UpdateCommandsComplete_7 :
    ∃ (s : State),
    s.found.num Key.Health.HEALTH = 1 ∧ s.found.num Key.Health.TRIAL_S * 1000 ≤ s.found.upd.trialMs ∧
      confirmDone s.found = false :=
  ⟨(run .harvest [(Key.Health.HEALTH, 1)] fun c => { c with upd := { c.upd with trialMs := 10000000000 } }), by decide +kernel⟩

theorem witness_RecorderCommandsComplete_1 :
    ∃ (s : State) (m : Fin 256) (flags : Nat) (first : Nat) (last : Nat) (samples : Nat) (nans : Nat) (b : Nat) (ext : List Extreme) (bins : List (Nat × Nat)),
    let x := measOf s.found.recd.cfg m
    let r := recFind s.found.recd m
    let now := wireEpoch s.keeper.epoch
    let v := refValue (copyAt s.keeper s.found) x.srcX
    x.dims = 1 ∧ s.keeper.epoch % x.sampleMs = 0 ∧ measMode x s.found.mode = true ∧
      r.live = .meas flags first last samples nans ext bins ∧ bodyLast r.live ≠ now ∧ fIsNan fmt32 v = false ∧
      binOf v x.loX x.hiX = some b ∧ binAt (binInc bins b) b ≠ 0xFFFFFFFF := by
  refine ⟨(run .harvest [] fun c => { c with recd := { c.recd with cfg := [{ id := 0, dims := 1, srcX := 0x03204007 }] } }), 0, 0, 0, 0, 0, 0, 0, (List.replicate 4 ⟨fmt32.nan, 0, 0⟩), [], ?_⟩
  dsimp only
  decide +kernel

theorem witness_RecorderCommandsComplete_2 :
    ∃ (s : State) (m : Fin 256) (flags : Nat) (first : Nat) (last : Nat) (samples : Nat) (nans : Nat) (ext : List Extreme) (bins : List (Nat × Nat)),
    let x := measOf s.found.recd.cfg m
    let r := recFind s.found.recd m
    let now := wireEpoch s.keeper.epoch
    x.dims = 1 ∧ s.keeper.epoch % x.sampleMs = 0 ∧ measMode x s.found.mode = true ∧
      r.live = .meas flags first last samples nans ext bins ∧ bodyLast r.live ≠ now ∧
      fIsNan fmt32 (refValue (copyAt s.keeper s.found) x.srcX) = true := by
  refine ⟨(run .harvest [] fun c => { c with recd := { c.recd with cfg := [{ id := 0, dims := 1 }] } }), 0, 0, 0, 0, 0, 0, (List.replicate 4 ⟨fmt32.nan, 0, 0⟩), [], ?_⟩
  dsimp only
  decide +kernel

theorem witness_RecorderCommandsComplete_3 :
    ∃ (s : State),
    up s.found 2 = true ∧ s.found.recd.lastCycle + s.found.num Key.Rec.COMMIT_S * 1000 ≤ s.keeper.epoch ∧
      commitHeld s.keeper s.found = false :=
  ⟨run, by decide +kernel⟩

theorem witness_RecorderCommandsComplete_4 :
    ∃ (s : State),
    up s.found 2 = true ∧ s.found.recd.lastCycle + s.found.num Key.Rec.COMMIT_S * 1000 ≤ s.keeper.epoch ∧
      commitHeld s.keeper s.found = true ∧ s.found.flag Key.Rec.COMMIT_HELD = false ∧
      HandlerFree s.found 0x0F02 theModule := by
  refine ⟨(run .harvest [(Key.WrHold.MRAM_WRITE, 1)]), ?_⟩
  unfold HandlerFree
  decide +kernel

theorem witness_RecorderCommandsComplete_5 :
    ∃ (s : State) (n : Nat) (x : RecX) (b : RecBody),
    s.found.recd.recs.find? (fun y => decide (y.id = n)) = some x ∧ x.busy = some b :=
  ⟨(run .harvest [] fun c => { c with recd := { c.recd with recs := [{ id := 0, live := .meas 0 0 0 0 0 [] [], stored := .meas 0 0 0 0 0 [] [], busy := some (.meas 0 0 0 0 0 [] []) }] } }), 0, { id := 0, live := .meas 0 0 0 0 0 [] [], stored := .meas 0 0 0 0 0 [] [], busy := some (.meas 0 0 0 0 0 [] []) }, (.meas 0 0 0 0 0 [] []), by decide +kernel⟩

theorem witness_PanelCommandsComplete_1 :
    ∃ (s : State) (p : Fin 2),
    panelLive s.found p = true ∧ (panelOf s.found p).rails = 1 :=
  ⟨(run .harvest [] fun c => { c with face := { c.face with panels := [{ present := true, rails := 1 }, {}] } }), 0, by decide +kernel⟩

theorem witness_PanelCommandsComplete_2 :
    ∃ (s : State) (p : Fin 2),
    panelLive s.found p = true ∧ (panelOf s.found p).rails = 2 ∧ (panelOf s.found p).pend = [] ∧
      (panelOf s.found p).regs = [] ∧ (∀ d ∈ (panelOf s.found p).drive, 2 ≤ d.codes.length) ∧
      p.val < s.found.face.panels.length :=
  ⟨(run .harvest [] fun c => { c with face := { c.face with panels := [{ present := true, rails := 2, drive := [⟨0, 3, none, 0, [1, 2], 0⟩] }, {}] } }), 0, by decide +kernel⟩

theorem witness_PanelCommandsComplete_3 :
    ∃ (s : State) (p : Fin 2) (a : Nat),
    (panelOf s.found p).idleAt = some a ∧ (panelOf s.found p).rails = 2 ∧ (panelOf s.found p).pend = [] ∧
      (panelOf s.found p).drive = [] ∧ a + s.found.num Key.Face.FACE_IDLE_MS * 1000 ≤ nowUs s.keeper s.found :=
  ⟨(run .harvest [] fun c => { c with face := { c.face with panels := [{ present := true, rails := 2, idleAt := some 0 }, {}] } }), 0, 0, by decide +kernel⟩

theorem witness_PanelCommandsComplete_4 :
    ∃ (s : State) (v : BitVec 16),
    up s.found 9 = true ∧ (panelOf s.found 1).present = false ∧ 1 < s.found.face.panels.length :=
  ⟨run, 0, by decide +kernel⟩

theorem witness_PanelCommandsComplete_5 :
    ∃ (s : State),
    (panelOf s.found 1).present = true ∧ 1 < s.found.face.panels.length ∧ HandlerFree s.found 0x1004 (unitPanel 1) := by
  refine ⟨(run .harvest [] fun c => { c with face := { c.face with panels := [{}, { present := true }] } }), ?_⟩
  unfold HandlerFree
  decide +kernel

theorem witness_PowerCommandsComplete_1 :
    ∃ (s : State) (p : Fin 4) (x : Int),
    s.found.num (Key.Pll.PLL_STATE p) = 1 ∧ armedAt s.found Key.Inj.PLL_LOCK p = false ∧ x.natAbs ≤ 500 ∧
      p.val < s.found.pwr.plls.length :=
  ⟨(run .harvest [(Key.Pll.PLL_STATE 0, 1)]), 0, 0, by decide +kernel⟩

theorem witness_PowerCommandsComplete_2 :
    ∃ (s : State) (p : Fin 4) (a : Nat),
    (pllOf s.found p).returnAt = some a ∧ a ≤ nowUs s.keeper s.found ∧ pllLocked s.found p = true :=
  ⟨(run .harvest [(Key.Pll.PLL_STATE 0, 2)] fun c => pllSet c 0 { returnAt := some 0 }), 0, 0, by decide +kernel⟩

theorem witness_PowerCommandsComplete_3 :
    ∃ (s : State) (ppb : F32),
    up s.found 8 = true ∧ s.found.num Key.Time.TIME_STATE = timeLocked ∧
      armedFor s.keeper s.found Key.Inj.HEARTH_DRIFT 1 = false ∧
      fLt fmt32 (fNat fmt32 (s.found.num Key.Hearth.DRIFT_LIMIT)) (fAbs fmt32 ppb.toNat) = true ∧
      9 ≤ s.found.pwr.beyond ∧ s.found.num Key.Hearth.HEARTH_STATE = 1 ∧ HandlerFree s.found 0x1101 theModule := by
  refine ⟨(run .harvest [(Key.Time.TIME_STATE, timeLocked), (Key.Hearth.HEARTH_STATE, 1)] fun c => { c with pwr := { c.pwr with beyond := 9 } }), 0x461C4000, ?_⟩
  unfold HandlerFree
  decide +kernel

theorem witness_PowerCommandsComplete_4 :
    ∃ (s : State) (n : Fin 21),
    s.found.num (Key.Gate.GATE_STATE n) = 2 :=
  ⟨(run .harvest [(Key.Gate.GATE_STATE 0, 2)]), 0, by decide +kernel⟩

theorem witness_PowerCommandsComplete_5 :
    ∃ (s : State) (slot : Fin 128) (r : HkReading),
    up s.found 3 = true ∧ unitAshed s.found (unitDie 18) = false :=
  ⟨run, 0, .invalid 0, by decide +kernel⟩

theorem witness_PowerCommandsComplete_6 :
    ∃ (s : State),
    2 ≤ s.found.num Key.Therm.THERMAL_STAGE ∧ up s.found 2 = true ∧
      s.found.pwr.stepAt + s.found.num Key.Therm.DERATE_STEP_S * 1000 ≤ s.keeper.epoch ∧
      (thermals s.found).any (fun i => atLeast s.found i (Key.Sensor.WARN i)) = true :=
  ⟨(run .harvest [(Key.Therm.THERMAL_STAGE, 2), (Key.Sensor.TEMP 40, 0x43480000)] fun c => { c with pwr := { c.pwr with hist := List.replicate 43 [] |>.set 40 [(0, 0x42F00000)] } }), by decide +kernel⟩

theorem witness_PowerCommandsComplete_7 :
    ∃ (s : State) (h : HkReading) (m : HkReading) (v : Nat),
    s.found.mode = .banked ∧ unitAshed s.found (unitSensor 40) = false ∧ hkTemp s.found 40 h = some (0, v) :=
  ⟨(run .banked), .temp 0x41A00000, .temp 0x41A00000, 0x41A00000, by decide +kernel⟩

theorem witness_PowerCommandsComplete_10 :
    ∃ (k : Keeper) (c : Chip),
    up c 3 = true ∧ k.epoch % 1000 = 0 ∧ c.pwr.fnAt = none ∧ c.num Key.Diss.FN_DEMAND < 6 ∧
      fLt fmt32 (fnLimit c) (c.num Key.Diss.DISS_W) = true :=
  ⟨run.keeper, (run .harvest [(Key.Diss.DISS_W, 0x43480000)]).chip, by decide +kernel⟩

theorem witness_FaultCommandsComplete_1 :
    ∃ (s : State) (f : BitVec 16) (u : BitVec 32),
    s.found.mode ≠ .off ∧ s.found.mode ≠ .banked ∧ detOn f.toNat u.toNat = true :=
  ⟨run, 0x0A01, BitVec.ofNat 32 (unitCam 0), by decide +kernel⟩

theorem witness_FaultCommandsComplete_2 :
    ∃ (k : Keeper) (c : Chip) (u : Nat),
    HandlerFree c 0x1202 u := by
  refine ⟨run.keeper, run.chip, 0, ?_⟩
  unfold HandlerFree
  decide +kernel

theorem witness_FaultCommandsComplete_3 :
    ∃ (s : State) (e : Event),
    s.found.flt.cur = some e ∧ e.perm = false ∧ detClass e.code = .B ∧ s.found.flt.stack = [] ∧ s.found.flt.queue = [] :=
  ⟨(run .harvest [] fun c => { c with flt := { c.flt with cur := some ⟨0x1104, 0, 2, false, 0, false⟩ } }), ⟨0x1104, 0, 2, false, 0, false⟩, by decide +kernel⟩

theorem witness_FaultCommandsComplete_4 :
    ∃ (s : State) (e : Event),
    s.found.flt.cur = some e ∧ e.perm = true ∧ 3 ≤ e.sev ∧ s.found.mode ≠ .kindling :=
  ⟨(run .harvest [] fun c => { c with flt := { c.flt with cur := some ⟨0x1104, 0, 3, false, 0, true⟩ } }), ⟨0x1104, 0, 3, false, 0, true⟩, by decide +kernel⟩

theorem witness_FaultCommandsComplete_5 :
    ∃ (s : State) (f : BitVec 16) (u : BitVec 32),
    f.toNat ≠ 0x1104 ∧ f.toNat ≠ 0x0805 :=
  ⟨run, 0, 0, by decide +kernel⟩

theorem witness_FaultCommandsComplete_6 :
    ∃ (s : State) (u : BitVec 32),
    armedFor s.keeper s.found Key.InjLs.INJ_LS_SHORT_BAT (unitNum u.toNat) = false :=
  ⟨(run .harvest [(Key.Pd.PD_STATE 0, 4)]), 0, by decide +kernel⟩

theorem witness_FaultCommandsComplete_7 :
    ∃ (s : State) (u : BitVec 32),
    armedFor s.keeper s.found Key.InjLs.INJ_LS_SHORT_BAT (unitNum u.toNat) = true :=
  ⟨(run .harvest [] fun c => { c with flt := { c.flt with armed := [⟨Key.InjLs.INJ_LS_SHORT_BAT, 0, 200000⟩] } }), 0, by decide +kernel⟩

theorem witness_FaultCommandsComplete_8 :
    ∃ (s : State) (u : BitVec 32),
    unitNum u.toNat = 13 :=
  ⟨run, BitVec.ofNat 32 (unitPd 13), by decide +kernel⟩

theorem witness_FaultCommandsComplete_9 :
    ∃ (s : State) (u : BitVec 32),
    s.found.num (Key.Pd.PD_STATE (unitNum u.toNat)) = 4 ∧ unitAshed s.found (unitPd (unitNum u.toNat)) = false ∧
      unitNum u.toNat ≠ 13 :=
  ⟨(run .harvest [(Key.Pd.PD_STATE 0, 4)]), 0, by decide +kernel⟩

theorem witness_HandlerTakesTheHighestSeverity :
    ∃ (s : State) (e : Event) (q : Event) (rest : List Event),
    s.found.flt.cur = some e ∧ s.found.flt.stack = [] ∧ s.found.flt.queue = q :: rest :=
  ⟨(run .harvest [] fun c => { c with flt := { c.flt with cur := some ⟨0x1104, 0, 2, false, 0, false⟩, queue := [⟨0x1104, 0, 2, false, 0, false⟩] } }), ⟨0x1104, 0, 2, false, 0, false⟩, ⟨0x1104, 0, 2, false, 0, false⟩, [], by decide +kernel⟩

theorem witness_RecurrencesFoldIntoTheOpenHandling :
    ∃ (k : Keeper) (c : Chip) (code : Nat) (unit : Nat) (injected : Bool),
    handlingOf c code unit = true ∧ permNow k c code unit false = false :=
  ⟨run.keeper, (run .harvest [] fun c => { c with flt := { c.flt with cur := some ⟨0x0A01, 0, 2, false, 0, false⟩ } }).chip, 0x0A01, 0, false, by decide +kernel⟩

theorem witness_HighestSubIndexIsShown :
    ∃ (ix : Nat) (sub : Nat),
    sub < 256 ∧ (objInfo (mkKey ix sub)).isSome = true :=
  ⟨0x2040, 1, by decide +kernel⟩

/-- The public key and the signature of RFC 8032's first test vector. -/
def edTestKey : List Byte :=
  [0xD7, 0x5A, 0x98, 0x01, 0x82, 0xB1, 0x0A, 0xB7, 0xD5, 0x4B, 0xFE, 0xD3, 0xC9, 0x64, 0x07, 0x3A,
   0x0E, 0xE1, 0x72, 0xF3, 0xDA, 0xA6, 0x23, 0x25, 0xAF, 0x02, 0x1A, 0x68, 0xF7, 0x07, 0x51, 0x1A]
def edTestSig : List Byte :=
  [0xE5, 0x56, 0x43, 0x00, 0xC3, 0x60, 0xAC, 0x72, 0x90, 0x86, 0xE2, 0xCC, 0x80, 0x6E, 0x82, 0x8A,
   0x84, 0x87, 0x7F, 0x1E, 0xB8, 0xE5, 0xD9, 0x74, 0xD8, 0x73, 0xE0, 0x65, 0x22, 0x49, 0x01, 0x55,
   0x5F, 0xB8, 0x82, 0x15, 0x90, 0xA3, 0x3B, 0xAC, 0xC6, 0x1E, 0x39, 0x70, 0x1C, 0xF9, 0xB4, 0x6B,
   0xD2, 0x5B, 0xF5, 0xF0, 0x59, 0x5B, 0xBE, 0x24, 0x65, 0x51, 0x41, 0x43, 0x8E, 0x7A, 0x10, 0x0B]

/-! ## Ill-formed commands are refused, one for each check -/

theorem illformed_dxa_too_few_samples : Instr.wf (.driveLinkFrame 17 true true [(0, [1])]) = false := by decide +kernel
theorem illformed_dxa_sample_too_big : Instr.wf (.driveLinkFrame 17 true true [(0, List.replicate 10 8192)]) = false := by
  decide +kernel
theorem illformed_jop_beyond_the_mtu : Instr.wf (.jopDatagram 0 0 0 (List.replicate 1473 0)) = false := by decide +kernel
theorem illformed_read_of_a_wide_epoch : Instr.wf (.read .sdo (2 ^ 48) 0 0 0) = false := by decide +kernel
theorem illformed_write_too_long (b : List Byte) (h : 65536 ≤ b.length) : Instr.wf (.write .sdo 0 0 0 b) = false := by
  simpa [Instr.wf] using h
theorem illformed_snapshot_of_a_wide_epoch : Instr.wf (.snapshot .sdo (2 ^ 48) []) = false := by decide +kernel
theorem illformed_cord_add_too_long (b : List Byte) (h : 65536 ≤ b.length) : Instr.wf (.cordAdd .sdo 0 0 0 0 b) = false := by
  simpa [Instr.wf] using h
theorem illformed_cord_commit_of_a_wide_epoch : Instr.wf (.cordCommit 0 (2 ^ 48)) = false := by decide +kernel
theorem illformed_segment_offset : Instr.wf (.domainSegRead .sdo 0 0 0 (2 ^ 32) 0) = false := by decide +kernel
theorem illformed_segment_length : Instr.wf (.domainSegRead .sdo 0 0 0 0 65536) = false := by decide +kernel
theorem illformed_segment_write_offset : Instr.wf (.domainSegWrite .sdo 0 0 (2 ^ 32) [] true) = false := by decide +kernel
theorem illformed_sdo_expedited_five_bytes : Instr.wf (.sdoDownloadInitiate 0 0 (some [0, 0, 0, 0, 0]) none) = false := by
  decide +kernel
theorem illformed_sdo_expedited_no_byte : Instr.wf (.sdoDownloadInitiate 0 0 (some []) none) = false := by decide +kernel
theorem illformed_sdo_size : Instr.wf (.sdoDownloadInitiate 0 0 none (some (2 ^ 32))) = false := by decide +kernel
theorem illformed_sdo_segment_of_eight : Instr.wf (.sdoDownloadSegment false (List.replicate 8 0) true) = false := by
  decide +kernel
theorem illformed_structural_write_of_nothing : Instr.wf (.structuralWrite .sdo []) = false := by decide +kernel
theorem illformed_structural_write_of_heartbeat : Instr.wf (.structuralWrite .sdo [(0x2020, 1, 0)]) = false := by
  decide +kernel
theorem illformed_injection_of_heartbeat : Instr.wf (.faultInjection .sdo 0x2020 1 0) = false := by decide +kernel
theorem illformed_slot_write_of_heartbeat : Instr.wf (.slotBindingWrite .sdo [(0x2020, 1, 0)]) = false := by
  decide +kernel
theorem illformed_wire_curve_of_seven : Instr.wf (.wireCurveUpdate 0 10 (List.replicate 7 [0])) = false := by
  decide +kernel
theorem illformed_nav_word_length : Instr.wf (.navWordDecoded ⟨0, 1, 0, none, 9, [0], none⟩) = false := by decide +kernel
theorem illformed_rtcm_beyond_the_mtu : Instr.wf (.rtcmDatagram (List.replicate 1473 0)) = false := by decide +kernel
theorem illformed_pixel_too_wide : Instr.wf (.cam0FrameEnd ⟨2, 2, 8, 0, true, true⟩ [[256]]) = false := by decide +kernel
theorem illformed_stream_pixel_too_wide :
    Instr.wf (.rvfPacket 0 ⟨0, ⟨2, 2, 8, 0, true, true⟩, none, true, false, [[256]]⟩) = false := by
  decide +kernel
theorem illformed_lidar_beyond_the_mtu : Instr.wf (.lidarDatagram 0 (List.replicate 1473 0)) = false := by decide +kernel
theorem illformed_remote_fd_frame : Instr.wf (.canFrameReceived 0 ⟨0, false, true, false, false, true, []⟩ 0) = false := by
  decide +kernel
theorem illformed_transmit_error_count : Instr.wf (.busOff 0 257 0) = false := by decide +kernel
theorem illformed_timing_write_of_a_count : Instr.wf (.canTimingWrite .sdo 0 [(1, 0)]) = false := by decide +kernel
theorem illformed_udp_beyond_the_mtu : Instr.wf (.udpDatagram ⟨0, 0, 0, 0, 0, false, List.replicate 1473 0⟩) = false := by
  decide +kernel
theorem illformed_hello_number : Instr.wf (.helloReceived 0 ⟨0, 0, 0, 0, 0, 0, 0, 0, [⟨0, 17, 0, 0, 0, 0⟩]⟩) = false := by
  decide +kernel
theorem illformed_fabric_hops : Instr.wf (.jopRequestFrame 0 ⟨1, 2, 16, 0, 0, []⟩) = false := by decide +kernel
theorem illformed_fabric_module : Instr.wf (.jopResponseFrame 0 ⟨17, 2, 15, 0, 0, []⟩) = false := by decide +kernel
theorem illformed_commit_of_no_record : Instr.wf (.commitComplete 256) = false := by decide +kernel
theorem illformed_measure_write : Instr.wf (.measureConfigWrite .sdo [(0x0B, [0])]) = false := by decide +kernel
theorem illformed_detector : Instr.wf (.faultDetected 0xFFFF 0) = false := by decide +kernel
theorem wellformed_detector : Instr.wf (.faultDetected 0x0A01 (BitVec.ofNat 32 (unitCam 0))) = true := by decide +kernel

/-! ## Clauses inside statements -/

/-- NodesPickTheLowestInput: an input that is no number, and inputs of which one is not withdrawn. -/
theorem witness_node_freezes : ([(0x7FC00000, false), (0, false)].any fun v => fIsNan fmt32 v.1) = true := by decide +kernel
theorem witness_node_computes :
    ([(0x3F800000, true), (0, false)].any fun v => fIsNan fmt32 v.1) = false ∧
      ([(0x3F800000, true), (0, false)].any fun v => !v.2) = true := by decide +kernel
/-- VisionValuesAreWithinTheirError: a value that does not saturate under a shift. -/
theorem witness_vision_value : visValue 4 1000 < 65535 := by decide +kernel

/-- A channel whose program runs. -/
def prog (x : VcX) (puts : List (Nat × Nat) := []) : State :=
  run .harvest ((Key.Valve.STATE 0, 1) :: puts) fun c => vcSet c 0 { x with prog := some 0 }
/-- An operand's target, whether it raises the target, and whether it fits. -/
def setiCase (s : State) (v : Nat) : Bool × Bool × Bool :=
  let a := setiTarget s.found 0 v
  (a.2, fLt fmt32 (s.found.num (Key.Valve.TARGET 0)) a.1, targetFits s.found 0 a.1)

/-- ShaperTargetInstructionsComplete, clause by clause: SETI of 1 A fits; of 0 lowers nothing; of 6 A over the bank's
budget waits, or is refused with no OVERLAP_WIN; behind a RAMP; within a ramp, and at its end. -/
theorem witness_seti_fits :
    setiCase (prog {}) 500 = (false, true, true) ∧ rampOf (prog {}).found 0 = none ∧
      thermalCeiling (prog {}).found 0 = none ∧
      fClamp fmt32 0 ((prog {}).found.num (Key.Valve.PEAK_MAX 0)) (setiTarget (prog {}).found 0 500).1 =
        (setiTarget (prog {}).found 0 500).1 ∧
      fLt fmt32 ((prog {}).found.num (Key.Valve.HOLD_MAX 0)) (setiTarget (prog {}).found 0 500).1 = false := by
  decide +kernel
theorem witness_seti_lowers : (setiCase (prog {}) 0).2.1 = false := by decide +kernel
theorem witness_seti_waits :
    setiCase (prog {} [(Key.Bank.BANK_BUDGET 0, 0)]) 500 = (false, true, false) ∧
      (prog {} [(Key.Bank.BANK_BUDGET 0, 0)]).found.num (Key.Bank.OVERLAP_WIN 0) ≠ 0 := by decide +kernel
theorem witness_seti_refused :
    setiCase (prog {} [(Key.Bank.BANK_BUDGET 0, 0), (Key.Bank.OVERLAP_WIN 0, 0)]) 500 = (false, true, false) ∧
      (prog {} [(Key.Bank.BANK_BUDGET 0, 0), (Key.Bank.OVERLAP_WIN 0, 0)]).found.num (Key.Bank.OVERLAP_WIN 0) = 0 := by
  decide +kernel
theorem witness_seti_ramps : rampOf (prog { rampUs := some 1000 }).found 0 = some 1000 := by decide +kernel
theorem witness_seti_in_ramp :
    nowUs run.keeper (prog { ramp := some ⟨0, 0, 100000000, 200, false⟩ }).found < 100000000 + 200 := by decide +kernel
theorem witness_seti_ramp_ends :
    100000000 + 100 ≤ nowUs run.keeper (prog { ramp := some ⟨0, 0, 100000000, 100, false⟩ }).found := by decide +kernel

/-- ShaperTimedInstructionsComplete: the instants at which a WAIT and a QUENCH end, and one later; a peak within its
window at either bound, early, late, missing and awaited; a bank with no other channel energised, and with one. -/
theorem witness_wait_and_quench_times :
    (100000100 ≤ nowUs run.keeper (prog {}).found) ∧ (nowUs run.keeper (prog {}).found < 100000101) := by decide +kernel
theorem witness_peak_at_the_bounds :
    peakTime run.keeper (prog { raisedAt := 99999000, peakHit := some 100000000 }).found 0 = some 1000 ∧
      250 * 4 ≤ 1000 ∧ 1000 ≤ 250 * 4 := by decide +kernel
theorem witness_peak_early : (1000 < 250 * 5 ∧ 1000 ≤ 250 * 6) ∧ HandlerFree run.found 0x0704 (unitValve 0) := by
  unfold HandlerFree; decide +kernel
theorem witness_peak_late : 250 * 3 < 1000 := by decide
theorem witness_peak_missing :
    peakTime run.keeper (prog { raisedAt := 99999000, raisedTo := 0x3F800000 }).found 0 = none ∧
      250 * 4 ≤ nowUs run.keeper (prog {}).found - 99999000 ∧ nowUs run.keeper (prog {}).found - 99999000 < 250 * 5 := by
  decide +kernel
theorem witness_quench_alone :
    ((bankChans 0).any fun m => decide (m ≠ 0) && energised (prog {}).found m) = false ∧
      (prog {}).found.num (Key.Bank.BANK_STATE 0) ≤ 2 := by decide +kernel
theorem witness_quench_deferred :
    ((bankChans 0).any fun m => decide (m ≠ 0) && energised (prog {} [(Key.Valve.TARGET 1, 0x3F800000)]).found m) = true ∧
      HandlerFree (prog {} [(Key.Valve.TARGET 1, 0x3F800000)]).found 0x070A (unitValve 0) := by
  unfold HandlerFree; decide +kernel
theorem witness_quench_current :
    fLt fmt32 (vcOf (prog { quenchEnd := some 200000000 }).found 0).current (ratio 1 20) = true ∧
      fLt fmt32 (vcOf (prog { current := 0x3F800000, quenchEnd := some 200000000 }).found 0).current (ratio 1 20) = false := by
  decide +kernel

/-- ShaperControlInstructionsComplete: a LOOP met first, met again, and used up; a program in ON and in OFF_RUN. -/
theorem witness_loop_counts :
    let mine := fun s : State =>
      ((vcOf s.found 0).loops.find? fun l => decide (l.1 = (vcOf s.found 0).step)).map (·.2)
    (mine (prog {})).getD (3 : Nat) = 2 + 1 ∧ (mine (prog { loops := [(0, 1)] })).getD 3 = 0 + 1 ∧
      mine (prog { loops := [(0, 0)] }) = some 0 := by decide +kernel
theorem witness_program_states :
    progRuns (prog {}).found 0 = true ∧ (prog {}).found.num (Key.Valve.STATE 0) ≠ 5 ∧
      progRuns (prog {} [(Key.Valve.STATE 0, 5)]).found 0 = true ∧
      (prog {} [(Key.Valve.STATE 0, 5)]).found.num (Key.Valve.STATE 0) = 5 := by decide +kernel

/-- LoadSwitchCommandsComplete: a lamp that its command leaves off, and one that it turns on. -/
def lamp (cmd : Nat) : State := run .harvest [(Key.Ls.OUT_KIND 0, 1)] fun c => lsSet c 0 { cmd, written := true }
theorem witness_lamp_off_and_on :
    (lsOf (lsTake run.keeper (lamp 0).found 0) 0).on = false ∧
      (lsOf (lsTake run.keeper (lamp 0x3F000000).found 0) 0).on = true := by decide +kernel
/-- IsolatedIoCommandsComplete: the thresholds of Table 8.4 at their values. -/
theorem witness_input_thresholds :
    (if run.found.num (Key.Dio.IN_TYPE 0) = 3 then 11000 else 15000) ≤ (15000 : Int) ∧
      (if (run .harvest [(Key.Dio.IN_TYPE 0, 3)]).found.num (Key.Dio.IN_TYPE 0) = 3 then 11000 else 15000) ≤ (11000 : Int) ∧
      (5000 : Int) ≤ 5000 := by decide +kernel
/-- VisionCommandsComplete: a picture that a quantiser fits, and one that none fits. -/
theorem witness_rate_choice :
    (rateChoice [] 0 0 ⟨[(30, [1, 2])], [], true⟩).isSome = true ∧ rateChoice [] 0 0 ⟨[], [], true⟩ = none := by
  decide +kernel

/-! ## Small tests, with results worked from the spec or the standards it names -/

/-- R116: 1.0 twice and 2.0; the tie goes to input 0 (worked by hand). -/
theorem test_node_tie :
    computeNode [(0x3F800000, false), (0x3F800000, false), (0x40000000, false)] 0 0x41200000 =
      some ⟨0x3F800000, 0, false⟩ := by decide +kernel
/-- R116: 5.0 clamped to 2.0 is saturated (worked by hand). -/
theorem test_node_saturates : computeNode [(0x40A00000, false)] 0 0x40000000 = some ⟨0x40000000, 0, true⟩ := by
  decide +kernel
/-- R114: e = 2 > BAND_OUT = 1 with DIR direct enters ACT_UP with OUT_MAX = 7 (worked by hand). -/
theorem test_relay_enters_act_up :
    ((computeRelay ⟨2, true, true, 0x40000000, 0, 0, 0, 0, 0, 0, 0x3F800000, 0, 0, 0, 0x40E00000, 0⟩ 1 0).map
      fun r => (r.state, r.out)) = some (4, 0x40E00000) := by decide +kernel
/-- R387: 10 on an axis of 0 to 64 falls into bin 10, 64 into the open bin 63, −1 into bin 0 (worked by hand). -/
theorem test_recorder_bins :
    (binOf 0x41200000 0 0x42800000, binOf 0x42800000 0 0x42800000, binOf 0xBF800000 0 0x42800000) =
      (some 10, some 63, some 0) := by decide +kernel
/-- R386 (SHA-256, Table 14.3): the standard's "abc" digest begins BA 78 16 BF. -/
theorem test_sha256_abc : (sha256 [0x61, 0x62, 0x63]).take 4 = [0xBA, 0x78, 0x16, 0xBF] := by decide +kernel
/-- Table 6.2 (CRC-32, IEEE 802.3): the check value of "123456789" is CBF43926. -/
theorem test_crc32_check : crc32 [0x31, 0x32, 0x33, 0x34, 0x35, 0x36, 0x37, 0x38, 0x39] = 0xCBF43926 := by decide +kernel
/-- R370 (Ed25519, RFC 8032): the RFC's first test vector verifies, and not over another message. -/
theorem test_ed25519_vector :
    (ed25519 edTestKey [] edTestSig, ed25519 edTestKey [0] edTestSig) = (true, false) := by decide +kernel
/-- R24, R82: the first feed after manufacture begins KINDLING at K0 with epoch 0. -/
theorem test_first_feed :
    (match exec (.feedOn true false) State.reset with
      | .next t => decide (t.chip.mode = .kindling ∧ t.keeper.epoch = 0)
      | _ => false) = true := by decide +kernel
/-- R73, R90: HEARTBEAT sets the deadline HB_TIMEOUT on; its default is 100 ms (Table 2.13). -/
theorem test_heartbeat :
    (match exec (.heartbeat .sdo 5) run with | .next t => t.chip.modes.deadline | _ => none) =
      some (100000 + (objDefault Key.Hb.HB_TIMEOUT).toNum) := by decide +kernel
/-- R49, Table 2.4: a datagram without the magic is dropped and counted. -/
theorem test_jop_bad_magic :
    (match exec (.jopDatagram 0 0 0 [1, 2, 3]) run with
      | .next t => (t.chip.num Key.Jop.JOP_BAD_MAGIC, t.chip.out.length)
      | _ => (0, 1)) = (1, 0) := by decide +kernel
/-- R344, R339: an error adds 8 to TEC. -/
theorem test_can_error_adds_eight :
    (match exec (.canFrameTransmitted 0 .error)
        (run .harvest [(Key.Can.PORT_ENABLE 0, 1), (Key.Can.CAN_STATE 0, 2)] fun c =>
          canSet c 0 { queue := [⟨1, false, false, false, [], 100000000, 1000, .submit⟩] }) with
      | .next t => t.chip.num (Key.Can.TEC 0)
      | _ => 0) = 8 := by decide +kernel
/-- A step takes the front command and leaves the rest. -/
theorem test_step_takes_the_front :
    (match step { run with pending := [.copyServable, .applicationSetClose] } with
      | .next t => decide (t.pending = [.applicationSetClose] ∧ t.keeper.servable = some 100000)
      | _ => false) = true := by decide +kernel

end Sys2Proof.Tests
end

section
/-! PROOFS. The statements of the scope chapter: what a step does with the queue of commands (R18), numbers in
little-endian order (R8), and the module after manufacture (R14, R24). -/

namespace Sys2Proof.Machine

/-! ## The queue of commands

Every command but EPOCH_EDGE, APPLICATION_SET_CLOSE, COPY_SERVABLE and FEED_ON is a change of the chip alone, so one
argument covers them; those four also build a new keeper, and each of their branches keeps the queue. -/

theorem execEpochEdge_pending {m : EdgeMeas} {s t : State} (h : execEpochEdge m s = .next t) :
    t.pending = s.pending := by
  unfold execEpochEdge at h
  dsimp only at h
  split at h <;> (cases h; rfl)

theorem execApplicationSetClose_pending {s t : State} (h : execApplicationSetClose s = .next t) :
    t.pending = s.pending := by
  unfold execApplicationSetClose at h
  dsimp only at h
  split at h <;> (cases h; rfl)

theorem execCopyServable_pending {s t : State} (h : execCopyServable s = .next t) : t.pending = s.pending := by
  unfold execCopyServable at h
  dsimp only at h
  split at h
  · split at h <;> (cases h; rfl)
  · cases h; rfl

theorem execFeedOn_pending {keyActive tenVolts : Bool} {s t : State} (h : execFeedOn keyActive tenVolts s = .next t) :
    t.pending = s.pending := by
  unfold execFeedOn at h
  dsimp only at h
  split at h <;> (cases h; rfl)

/-- A received frame of a length no wire carries stops the step; any other changes the chip alone (R328). -/
theorem execCanFrameReceived_keeps {port : Fin 12} {frame : CanFrame} {sofNs : Nat} {s t : State}
    (h : execCanFrameReceived port frame sofNs s = .next t) : t.keeper = s.keeper ∧ t.pending = s.pending := by
  unfold execCanFrameReceived at h
  split at h
  · exact onChip_next h
  · cases h

/-- A command that does not act on the epoch keeper leaves it and the queue as they were. -/
theorem exec_keeps {i : Instr} {s t : State} (hi : movesKeeper i = false) (h : exec i s = .next t) :
    t.keeper = s.keeper ∧ t.pending = s.pending := by
  cases i
  case epochEdge | applicationSetClose | copyServable | feedOn => cases hi
  all_goals dsimp only [exec] at h
  case canFrameReceived => exact execCanFrameReceived_keeps h
  case read | domainSegRead => exact serveRead_keeps h
  case snapshot | cordOpen | cordAdd | cordCommit | cordAbort | domainSegWrite => exact serve_keeps h
  case seti | ramp | wait | dither | loop | mark | peakwin | quench | endProgram => exact execOp_keeps h
  all_goals exact onChip_next h

/-- The commands that act on the keeper, one by one. -/
theorem movesKeeper_cases {i : Instr} (hi : movesKeeper i = true) :
    (∃ m, i = .epochEdge m) ∨ i = .applicationSetClose ∨ i = .copyServable ∨ ∃ key ten, i = .feedOn key ten := by
  unfold movesKeeper at hi
  split at hi
  · exact .inl ⟨_, rfl⟩
  · exact .inr (.inl rfl)
  · exact .inr (.inr (.inl rfl))
  · exact .inr (.inr (.inr ⟨_, _, rfl⟩))
  · cases hi

theorem exec_pending {i : Instr} {s t : State} (h : exec i s = .next t) : t.pending = s.pending := by
  cases hi : movesKeeper i with
  | false => exact (exec_keeps hi h).2
  | true =>
    obtain ⟨m, rfl⟩ | rfl | rfl | ⟨key, ten, rfl⟩ := movesKeeper_cases hi
    · exact execEpochEdge_pending h
    · exact execApplicationSetClose_pending h
    · exact execCopyServable_pending h
    · exact execFeedOn_pending h

theorem step_of_pending_nil {s : State} (h : s.pending = []) : step s = .next s := by
  rw [step, h]

theorem step_of_pending_cons {s : State} {c : Instr} {rest : List Instr} (h : s.pending = c :: rest) :
    step s = exec c { s with pending := rest } := by
  rw [step, h]

/-! ## The object store after manufacture -/

/-- A store without entries holds every default (R14). -/
@[simp] theorem odGet_nil (key : Nat) : odGet [] key = objDefault key := rfl

@[simp] theorem reset_od : State.reset.chip.od = [] := rfl

end Sys2Proof.Machine

/-! ## Little-endian numbers (R8) -/

namespace Sys2Proof

/-- The low `k` bytes of a number hold its remainder modulo 256 to the `k`. -/
theorem ofLeBytes_leBytes (k n : Nat) : ofLeBytes (leBytes k n) = n % 256 ^ k := by
  induction k generalizing n with
  | zero => simp [leBytes, ofLeBytes, Nat.mod_one]
  | succ k ih =>
    calc ofLeBytes (leBytes (k + 1) n)
      _ = n % 256 + 256 * (n / 256 % 256 ^ k) := by simp [leBytes, ofLeBytes, ih]
      _ = n % 256 ^ (k + 1) := by rw [Nat.pow_succ', Nat.mod_mul]

theorem leBytes_ofLeBytes (b : List Byte) : leBytes b.length (ofLeBytes b) = b := by
  induction b with
  | nil => rfl
  | cons x xs ih =>
    have hx : x.toNat < 256 := x.isLt
    have low : BitVec.ofNat 8 (x.toNat + 256 * ofLeBytes xs) = x :=
      BitVec.eq_of_toNat_eq (by simp only [BitVec.toNat_ofNat]; omega)
    have high : (x.toNat + 256 * ofLeBytes xs) / 256 = ofLeBytes xs := by omega
    simp only [List.length_cons, ofLeBytes, leBytes, low, high, ih]

end Sys2Proof

/-! ## The statements -/

namespace Sys2Proof.Proofs.Scope

open Sys2Proof Sys2Proof.Machine

/-- Settles O3: four commands act on the keeper, every other changes the chip alone. -/
theorem commandsLeaveTheQueue : Obligations.CommandsLeaveTheQueue := by
  intro i s t h
  exact exec_pending h

/-- Settles O19, each direction by induction on the number of bytes. -/
theorem littleEndianRoundTrip : Obligations.LittleEndianRoundTrip := by
  refine ⟨fun k n h => ?_, leBytes_ofLeBytes⟩
  rw [ofLeBytes_leBytes, Nat.mod_eq_of_lt h]

/-- Settles O1: `step` at a queue with a front. -/
theorem stepRunsTheFrontCommand : Obligations.StepRunsTheFrontCommand := by
  intro s c rest h
  exact step_of_pending_cons h

/-- Settles O2: `step` at an empty queue. -/
theorem stepIdlesOnAnEmptyQueue : Obligations.StepIdlesOnAnEmptyQueue := by
  intro s h
  exact step_of_pending_nil h

/-- Settles O6: the store has no entry and the keeper no copy, so both are well formed and every object reads as its
default. -/
theorem resetState : Obligations.ResetState := by
  have hwf : odWf State.reset.chip.od = true := by rw [reset_od]; rfl
  have hget : ∀ key, odGet State.reset.chip.od key = objDefault key := fun key => by rw [reset_od, odGet_nil]
  exact ⟨rfl, rfl, by decide, hwf, hget, rfl⟩

end Sys2Proof.Proofs.Scope
end

section
/-! PROOFS. The statements of the module overview: the epoch keeper and its copies (R24–R35), the loss of feed (R25,
R102), drive links (R21–R23, R32), reads (R34), writes that wait for their edge (R29), and guidance's part in it
(R41). -/

namespace Sys2Proof.Machine

/-! ## The keeper's invariant (R24, R34, R35) -/

theorem newestFirst_iff_pairwise (l : List Copy) :
    newestFirst l = true ↔ l.Pairwise (fun a b => b.epoch < a.epoch) := by
  induction l with
  | nil => exact ⟨fun _ => .nil, fun _ => rfl⟩
  | cons a t ih =>
    cases t with
    | nil => exact ⟨fun _ => List.pairwise_singleton _ _, fun _ => rfl⟩
    | cons b t =>
      rw [newestFirst, Bool.and_eq_true, decide_eq_true_eq, ih, List.pairwise_cons (a := a)]
      refine and_congr_left fun hsort => ⟨fun hab x hx => ?_, fun hall => hall b (List.mem_cons_self ..)⟩
      rcases List.mem_cons.1 hx with rfl | hx
      · exact hab
      · exact Nat.lt_trans ((List.pairwise_cons.1 hsort).1 x hx) hab

theorem Keeper.wf_iff (k : Keeper) :
    k.wf = true ↔ k.copies.Pairwise (fun a b => b.epoch < a.epoch) ∧ k.copies.length ≤ 64 ∧
      (∀ x ∈ k.copies, x.epoch ≤ k.epoch) ∧ ∀ e, k.servable = some e → ∃ x ∈ k.copies, x.epoch = e := by
  unfold Keeper.wf
  cases k.servable <;> simp [newestFirst_iff_pairwise, and_assoc]

/-- A keeper that holds no copy and serves none meets its invariant. -/
theorem Keeper.wf_fresh (e : Nat) : ({ epoch := e } : Keeper).wf = true := rfl

/-- The keeper as an edge finds it: the counter has risen, the set of the next edge is open (R24, R31). -/
def Keeper.counted (k : Keeper) : Keeper := { k with epoch := k.epoch + 1, setClosed := false }

@[simp] theorem latch_epoch (k : Keeper) (c : Chip) : (latch k c).epoch = k.epoch := by
  unfold latch; split <;> rfl

@[simp] theorem latch_setClosed (k : Keeper) (c : Chip) : (latch k c).setClosed = false := by
  unfold latch; split <;> rfl

theorem latch_of_powered (k : Keeper) {c : Chip} (hoff : c.mode ≠ .off) (hbank : c.mode ≠ .banked) :
    latch k c = { epoch := k.epoch, copies := (⟨k.epoch, c.od⟩ :: k.copies).take 64
                  servable := k.servable.filter fun e =>
                    ((⟨k.epoch, c.od⟩ :: k.copies).take 64).any fun x => x.epoch = e } := by
  simp [latch, hoff, hbank]

theorem latch_wf {k : Keeper} (c : Chip) (hsort : k.copies.Pairwise (fun a b => b.epoch < a.epoch))
    (hpast : ∀ x ∈ k.copies, x.epoch < k.epoch) : (latch k c).wf = true := by
  by_cases hm : c.mode = .off ∨ c.mode = .banked
  · have h : latch k c = { epoch := k.epoch } := by simp [latch, hm]
    rw [h]; exact Keeper.wf_fresh _
  · obtain ⟨hoff, hbank⟩ := not_or.1 hm
    rw [latch_of_powered k hoff hbank, Keeper.wf_iff]
    have hnew : (⟨k.epoch, c.od⟩ :: k.copies).Pairwise (fun a b : Copy => b.epoch < a.epoch) :=
      List.pairwise_cons.2 ⟨hpast, hsort⟩
    refine ⟨hnew.sublist (List.take_sublist _ _), List.length_take_le _ _, fun x hx => ?_, fun e he => ?_⟩
    · rcases List.mem_cons.1 (List.mem_of_mem_take hx) with rfl | hx
      · exact Nat.le_refl _
      · exact Nat.le_of_lt (hpast x hx)
    · simpa using (Option.filter_eq_some_iff.1 he).2

/-! ## What the four commands do to the keeper -/

theorem execEpochEdge_of_off (m : EdgeMeas) {s : State} (h : s.chip.mode = .off) :
    execEpochEdge m s = .next { s with chip := s.found } := if_pos h

theorem execEpochEdge_of_fed (m : EdgeMeas) {s : State} (h : s.chip.mode ≠ .off) :
    execEpochEdge m s = .next { s with
      keeper := latch s.keeper.counted (edgeChip s.keeper.counted s.found m)
      chip := edgeChip s.keeper.counted s.found m } := if_neg h

/-- The set of the next edge closes once (R29). -/
theorem execApplicationSetClose_of_open {s : State} (hoff : s.chip.mode ≠ .off) (hbank : s.chip.mode ≠ .banked)
    (hopen : s.keeper.setClosed = false) :
    execApplicationSetClose s = .next { s with
      keeper := { s.keeper with setClosed := true }
      chip := cordsClose { s.keeper with setClosed := true } { s.found with us := 900 } (s.keeper.epoch + 1) } := by
  have hif : ¬(s.chip.mode = .off || s.chip.mode = .banked || s.keeper.setClosed) = true := by simp [hoff, hbank, hopen]
  exact if_neg hif

theorem execApplicationSetClose_keeper {s t : State} (h : execApplicationSetClose s = .next t) :
    t.keeper = s.keeper ∨ t.keeper = { s.keeper with setClosed := true } := by
  unfold execApplicationSetClose at h
  dsimp only at h
  split at h
  · cases h; exact .inl rfl
  · cases h; exact .inr rfl

theorem execCopyServable_of_newest {s : State} {x : Copy} {l : List Copy} (hx : s.keeper.copies = x :: l)
    (he : x.epoch = s.keeper.epoch) :
    execCopyServable s = .next { s with
      keeper := { s.keeper with servable := some x.epoch }
      chip := { s.found with us := max 40 s.chip.us } } := by
  unfold execCopyServable
  simp only [hx, he, if_true]
  rfl

theorem execCopyServable_keeper {s t : State} (h : execCopyServable s = .next t) :
    t.keeper = s.keeper ∨ ∃ x ∈ s.keeper.copies, t.keeper = { s.keeper with servable := some x.epoch } := by
  unfold execCopyServable at h
  dsimp only at h
  split at h
  next x l hx =>
    split at h
    · cases h; exact .inr ⟨x, by simp [hx], rfl⟩
    · cases h; exact .inl rfl
  next => cases h; exact .inl rfl

/-- The keeper that FEED_ON starts (R24, R25). -/
def Keeper.started (c : Chip) : Keeper := { epoch := if c.modes.born then c.modes.saved + 65536 else 0 }

theorem execFeedOn_keeper {key ten : Bool} {s t : State} (h : execFeedOn key ten s = .next t) :
    t.keeper = s.keeper ∨ t.keeper = Keeper.started s.chip := by
  unfold execFeedOn at h
  dsimp only at h
  split at h
  · cases h; exact .inl rfl
  · cases h; exact .inr rfl

/-! ## Every step keeps the invariant -/

theorem execEpochEdge_wf {m : EdgeMeas} {s t : State} (hwf : s.keeper.wf = true) (h : execEpochEdge m s = .next t) :
    t.keeper.wf = true := by
  by_cases hoff : s.chip.mode = .off
  · rw [execEpochEdge_of_off m hoff] at h
    cases h; exact hwf
  · rw [execEpochEdge_of_fed m hoff] at h
    cases h
    obtain ⟨hsort, -, hpast, -⟩ := (Keeper.wf_iff _).1 hwf
    exact latch_wf _ hsort fun x hx => Nat.lt_succ_of_le (hpast x hx)

theorem exec_wf {i : Instr} {s t : State} (hwf : s.keeper.wf = true) (h : exec i s = .next t) : t.keeper.wf = true := by
  cases hi : movesKeeper i with
  | false => rw [(exec_keeps hi h).1]; exact hwf
  | true =>
    obtain ⟨m, rfl⟩ | rfl | rfl | ⟨key, ten, rfl⟩ := movesKeeper_cases hi
    · exact execEpochEdge_wf hwf h
    · rcases execApplicationSetClose_keeper h with e | e <;> (rw [e]; exact hwf)
    · rcases execCopyServable_keeper h with e | ⟨x, hx, e⟩
      · rw [e]; exact hwf
      · obtain ⟨hsort, hlen, hpast, -⟩ := (Keeper.wf_iff _).1 hwf
        rw [e, Keeper.wf_iff]
        exact ⟨hsort, hlen, hpast, fun n hn => ⟨x, hx, Option.some.inj hn⟩⟩
    · rcases execFeedOn_keeper h with e | e
      · rw [e]; exact hwf
      · rw [e]; exact Keeper.wf_fresh _

theorem step_wf {s t : State} (hwf : s.keeper.wf = true) (h : step s = .next t) : t.keeper.wf = true := by
  cases hp : s.pending with
  | nil => rw [step_of_pending_nil hp] at h; cases h; exact hwf
  | cons c rest =>
    rw [step_of_pending_cons hp] at h
    exact exec_wf (s := { s with pending := rest }) hwf h

/-! ## The counter -/

theorem edgeChip_epochNow (k : Keeper) (c : Chip) (m : EdgeMeas) :
    (edgeChip k c m).num Key.Epoch.EPOCH_NOW = k.epoch := by
  unfold edgeChip; exact Chip.num_put_same ..

/-- Beside EPOCH_EDGE and FEED_ON no command counts. -/
theorem exec_epoch {i : Instr} {s t : State} (hedge : ∀ m, i ≠ .epochEdge m) (hfeed : ∀ a b, i ≠ .feedOn a b)
    (h : exec i s = .next t) : t.keeper.epoch = s.keeper.epoch := by
  cases hi : movesKeeper i with
  | false => rw [(exec_keeps hi h).1]
  | true =>
    obtain ⟨m, rfl⟩ | rfl | rfl | ⟨key, ten, rfl⟩ := movesKeeper_cases hi
    · exact absurd rfl (hedge m)
    · rcases execApplicationSetClose_keeper h with e | e <;> rw [e]
    · rcases execCopyServable_keeper h with e | ⟨x, -, e⟩ <;> rw [e]
    · exact absurd rfl (hfeed key ten)

/-! ## The counter's save, and the feed (R25, R82, R102, R434) -/

theorem saveEpoch_of_permitted (k : Keeper) {c : Chip} (h : c.num Key.WrHold.MRAM_WRITE = 0) :
    saveEpoch k c = { c with modes := { c.modes with
      saveDue := false, saved := k.epoch + if (c.flag Key.WrHold.EPOCH_RESERVE) then 2 ^ 32 else 0 } } :=
  if_neg (not_not_intro h)

theorem saveEpoch_of_held (k : Keeper) {c : Chip} (h : c.num Key.WrHold.MRAM_WRITE ≠ 0) :
    saveEpoch k c = { c with modes := { c.modes with saveDue := true } } := if_pos h

theorem saveEpoch_modes (k : Keeper) (c : Chip) :
    (saveEpoch k c).modes.tiles = c.modes.tiles ∧ (saveEpoch k c).modes.born = c.modes.born := by
  unfold saveEpoch; split <;> exact ⟨rfl, rfl⟩

theorem execFeedLoss_answers (s : State) : execFeedLoss s = .next { s with chip := feedLoss s.keeper s.found } := rfl

theorem execFeedRestored_of_fed {s : State} (h : s.chip.mode ≠ .off) :
    execFeedRestored s = .next { s with chip := { s.found with modes := { s.chip.modes with feedGood := true } } } :=
  onChip_eq_next (if_neg h)

theorem execEpochCounterSave_of_due {s : State} (hoff : s.chip.mode ≠ .off) (hdue : s.keeper.epoch % 65536 = 0) :
    execEpochCounterSave s = .next { s with chip := saveEpoch s.keeper s.found } :=
  onChip_eq_next (if_pos (by simp [State.found, hoff, hdue]))

@[simp] theorem setMode_mode (k : Keeper) (c : Chip) (m : Mode) : (setMode k c m).mode = m := by
  unfold setMode; split
  · assumption
  · rfl

@[simp] theorem setMode_modes (k : Keeper) (c : Chip) (m : Mode) : (setMode k c m).modes = c.modes := by
  unfold setMode; split <;> rfl

theorem kindlingStart_mode (k : Keeper) (c : Chip) (why : Restart) (wake first : Nat) :
    (kindlingStart k c why wake first).mode = .kindling := by
  simp [kindlingStart, apply_ite Chip.mode]

/-- KINDLING with its drive dies unpowered starts at its first step, and keeps what the mode state knows of the feed and
the key. -/
theorem kindlingStart_modes (k : Keeper) (c : Chip) (why : Restart) (wake first : Nat) (h : c.modes.drives = false) :
    (kindlingStart k c why wake first).modes.reached = first ∧
      (kindlingStart k c why wake first).modes.key = c.modes.key ∧
      (kindlingStart k c why wake first).modes.feedGood = c.modes.feedGood ∧
      (kindlingStart k c why wake first).modes.born = true := by
  unfold kindlingStart
  simp [h]

/-- The chip that FEED_ON finds, once the mode state knows the feed and the key, and the resume is counted (R25). -/
def fedChip (key ten : Bool) (c : Chip) : Chip :=
  let d : Chip := { c with us := 0, modes := { c.modes with
    feedGood := ten, key := key, keyOff := (Keeper.started c).epoch, can0 := false, drives := false } }
  if d.modes.born then
    (d.bump Key.Epoch.EPOCH_RESUMES).put Key.Epoch.EPOCH_RESUME_FROM (Keeper.started c).epoch else d

theorem fedChip_modes (key ten : Bool) (c : Chip) :
    (fedChip key ten c).modes.key = key ∧ (fedChip key ten c).modes.feedGood = ten ∧
      (fedChip key ten c).modes.drives = false := by
  unfold fedChip
  dsimp only
  split <;> exact ⟨rfl, rfl, rfl⟩

/-- FEED_ON at a module that is OFF starts KINDLING at K0, and the mode state knows the feed and the key (R24). -/
theorem execFeedOn_of_off (key ten : Bool) {s : State} (h : s.chip.mode = .off) :
    ∃ c : Chip, execFeedOn key ten s = .next { s with keeper := Keeper.started s.chip, chip := c } ∧
      c.mode = .kindling ∧ c.modes.reached = 0 ∧ c.modes.key = key ∧ c.modes.feedGood = ten ∧ c.modes.born = true := by
  obtain ⟨hkey, hten, hdrives⟩ := fedChip_modes key ten s.found
  obtain ⟨hreached, hkey', hten', hborn⟩ :=
    kindlingStart_modes (Keeper.started s.chip) (fedChip key ten s.found) .off 0 0 hdrives
  exact ⟨kindlingStart (Keeper.started s.chip) (fedChip key ten s.found) .off 0 0, if_neg (not_not_intro h),
    kindlingStart_mode .., hreached, hkey'.trans hkey, hten'.trans hten, hborn⟩

/-- FEED_LOSS turns the module OFF; of the mode state the tiles' arrangement and the saved counter stay (R102). -/
theorem feedLoss_modes (k : Keeper) {c : Chip} (h : c.mode ≠ .off) :
    (feedLoss k c).mode = .off ∧ (feedLoss k c).modes =
      { tiles := c.modes.tiles, born := c.modes.born, saved := (saveEpoch k c).modes.saved } := by
  obtain ⟨htiles, hborn⟩ := saveEpoch_modes k c
  unfold feedLoss
  simp [h, htiles, hborn]

/-- FEED_LOW outside KINDLING decides BANKED and is counted (R82). -/
theorem execFeedLow_of_fed {s : State} (h : modeRuns s.chip.mode = true ∨ s.chip.mode = .safe) :
    execFeedLow s = .next { s with
      chip := (bankDecide s.keeper { s.found with modes := { s.chip.modes with feedGood := false } }).bump
        Key.Wake.LOW_FEED_COUNT } := by
  have hm : s.found.mode ≠ .off ∧ s.found.mode ≠ .banked ∧ s.found.mode ≠ .kindling := by
    simp only [State.found]
    refine ⟨?_, ?_, ?_⟩ <;> (intro e; rw [e] at h; exact absurd h (by decide))
  obtain ⟨hoff, hbank, hkindling⟩ := hm
  refine onChip_eq_next ?_
  simp only [feedLow, hoff, hbank, if_false]
  exact if_neg hkindling

/-! ## Drive links (R21, R22, R32) -/

@[simp] theorem linkUp_found (s : State) (n : Nat) : linkUp s.found n = linkUp s.chip n := rfl
@[simp] theorem linkOf_found (s : State) (n : Nat) : linkOf s.found n = linkOf s.chip n := rfl
@[simp] theorem armedAt_found (s : State) (key n : Nat) : armedAt s.found key n = armedAt s.chip key n := rfl
@[simp] theorem ashOwn_found (s : State) (u : Nat) : ashOwn s.found u = ashOwn s.chip u := rfl

@[simp] theorem impGap_link (c : Chip) : (impGap c).link = c.link := rfl
@[simp] theorem impGap_num (c : Chip) (key : Nat) : (impGap c).num key = c.num key := rfl

@[simp] theorem linkSet_num (c : Chip) (n : Nat) (x : LinkX) (key : Nat) : (linkSet c n x).num key = c.num key := rfl

@[simp] theorem linkOf_linkSet (c : Chip) {n : Nat} (x : LinkX) (h : n < c.link.links.length) :
    linkOf (linkSet c n x) n = x := by
  simp [linkOf, linkSet, nth, h]

theorem linkOf_congr {c d : Chip} (h : d.link = c.link) (n : Nat) : linkOf d n = linkOf c n := by
  unfold linkOf; rw [h]

theorem frameBad_num (k : Keeper) (c : Chip) (n : Nat) (toDxc injected : Bool) :
    (frameBad k c n toDxc injected).num Key.Flt.DRIVE_CRC_ERRORS =
      (c.num Key.Flt.DRIVE_CRC_ERRORS + 1) % 0x100000000 := by
  unfold frameBad
  dsimp only
  rw [raise_num _ _ _ _ _ (by decide), Chip.num_bump_same]
  by_cases hdxa : (toDxc && decide (n = 17)) = true
  · rw [if_pos hdxa, impGap_num, linkSet_num]
  · rw [if_neg hdxa, linkSet_num]

theorem frameBad_linkOf (k : Keeper) (c : Chip) {n : Nat} (toDxc injected : Bool) (h : n < c.link.links.length) :
    linkOf (frameBad k c n toDxc injected) n =
      if toDxc then { linkOf c n with failIn := (linkOf c n).failIn + 1 }
      else { linkOf c n with failOut := (linkOf c n).failOut + 1, silent := (linkOf c n).silent + 1 } := by
  unfold frameBad
  dsimp only
  rw [linkOf_congr (raise_link ..), linkOf_congr (Chip.bump_link ..)]
  by_cases hdxa : (toDxc && decide (n = 17)) = true
  · rw [if_pos hdxa, linkOf_congr (impGap_link _), linkOf_linkSet c _ h]
  · rw [if_neg hdxa, linkOf_linkSet c _ h]

/-- A good frame to a device for which no command waits (R22). -/
theorem frameOut_of_none_waiting (k : Keeper) (c : Chip) (n : Nat)
    (h : (c.link.now.filter fun m => decide (linkOfKey m.1 = n)) = []) (hn : n < c.link.links.length) :
    linkOf (frameOut k c n) n = { linkOf c n with
      failOut := 0, silent := 0, safe := (linkOf c n).safe && dieFailing c (unitDie (n + 1)) } ∧
      (frameOut k c n).od = c.od := by
  unfold frameOut
  dsimp only
  rw [h]
  exact ⟨linkOf_linkSet c _ hn, rfl⟩

/-- A bad frame counts in DRIVE_CRC_ERRORS and in its direction (R21). -/
theorem execDriveLinkFrame_of_bad {s : State} {n : Fin 18} (toDxc : Bool) (l : List (Fin 16 × List Int))
    (hup : linkUp s.chip n = true) (hlen : s.chip.link.links.length = 18) :
    ∃ t, execDriveLinkFrame n toDxc false l s = .next t ∧
      t.chip.num Key.Flt.DRIVE_CRC_ERRORS = (s.chip.num Key.Flt.DRIVE_CRC_ERRORS + 1) % 0x100000000 ∧
      (linkOf t.chip n).failIn = (linkOf s.chip n).failIn + (if toDxc then 1 else 0) ∧
      (linkOf t.chip n).failOut = (linkOf s.chip n).failOut + (if toDxc then 0 else 1) := by
  refine ⟨{ s with chip := frameBad s.keeper s.found n toDxc false }, onChip_eq_next (by simp [driveFrame, hup]),
    frameBad_num .., ?_⟩
  dsimp only
  rw [frameBad_linkOf s.keeper s.found toDxc false (Nat.lt_of_lt_of_eq n.isLt hlen.symm)]
  cases toDxc <;> exact ⟨rfl, rfl⟩

/-- A good frame from a companion device other than the DXA ends its count (R21). -/
theorem execDriveLinkFrame_of_good_in {s : State} {n : Fin 18} (l : List (Fin 16 × List Int))
    (hup : linkUp s.chip n = true) (hdxa : n ≠ 17) (harmed : armedAt s.chip Key.Inj.DRIVE_CRC n = false) :
    execDriveLinkFrame n true true l s =
      .next { s with chip := linkSet s.found n { linkOf s.chip n with failIn := 0 } } := by
  have hdxa : n.val ≠ 17 := fun e => hdxa (Fin.ext e)
  exact onChip_eq_next (by simp [driveFrame, hup, harmed, hdxa])

theorem execDriveLinkFrame_of_good_out {s : State} {n : Fin 18} (l : List (Fin 16 × List Int))
    (hup : linkUp s.chip n = true) (harmed : armedAt s.chip Key.Inj.DRIVE_CRC n = false) :
    execDriveLinkFrame n false true l s = .next { s with chip := frameOut s.keeper s.found n } :=
  onChip_eq_next (by simp [driveFrame, hup, harmed])

/-- Eight bad frames in a row report the device (R21). -/
theorem execDriveLinkFail_of_failed {s : State} {n : Fin 18} (hup : linkUp s.chip n = true)
    (hfail : 8 ≤ (linkOf s.chip n).failIn ∨ 8 ≤ (linkOf s.chip n).failOut)
    (hash : ashOwn s.chip (unitDie (n + 1)) = false) :
    execDriveLinkFail n s = .next { s with chip := raise s.keeper s.found 0x1201 (unitDie (n + 1)) } := by
  refine onChip_eq_next (if_pos ?_)
  rcases hfail with hfail | hfail <;> simp [hup, hash, hfail]

/-- Twenty silent frames bring a device's safe values (R22). -/
theorem execLinkSilenceSafe_of_silent {s : State} {n : Fin 18} (hup : linkUp s.chip n = true) (hn : n.val < 9)
    (hsilent : 20 ≤ (linkOf s.chip n).silent) (hsafe : (linkOf s.chip n).safe = false) :
    execLinkSilenceSafe n s = .next { s with chip :=
      if (n.val < 3) then (valveOverrides s.keeper (linkSet s.found n { linkOf s.chip n with safe := true }))
      else (lsOverrides s.keeper (linkSet s.found n { linkOf s.chip n with safe := true })) } :=
  onChip_eq_next (if_pos (by simp [hup, hn, hsilent, hsafe]))

/-- The first good marker frame of an edge hands a device all of its commands for it (R32). -/
theorem execEdgeMarkerFrame_of_up {s : State} {n : Fin 18} (lost : Fin 8) (hup : linkUp s.chip n = true)
    (hacted : (linkOf s.chip n).acted = false) (hash : ashOwn s.chip (unitDie (n + 1)) = false) :
    let mine := s.chip.link.edge.filter fun m => decide (linkOfKey m.1 = n)
    let c1 : Chip := { s.found with link := { s.chip.link with
      links := s.chip.link.links.set n { linkOf s.chip n with acted := true }
      edge := s.chip.link.edge.filter fun m => decide (linkOfKey m.1 ≠ n) } }
    let c2 := if 9 ≤ n.val ∧ n.val < 17 then
      grpSet c1 (n - 9) { grpOf c1 (n - 9) with marker := s.keeper.epoch % 65536 } else c1
    let c3 := if mine ≠ [] ∧ lost.val ≠ 0 then c2.bump Key.Epoch.TAKE_DELAYED else c2
    execEdgeMarkerFrame n lost s =
      .next { s with chip := linkLatch (mine.foldl (deviceTake s.keeper true) c3) n } := by
  intro mine c1 c2 c3
  have hacts : ¬(!linkUp s.found n || (linkOf s.found n).acted || ashOwn s.found (unitDie (n + 1))) = true := by
    simp [hup, hacted, hash]
  refine onChip_eq_next ((if_neg hacts).trans ?_)
  simp only [Bool.and_eq_true, decide_eq_true_eq]
  rfl

/-! ## Reads (R34, R56, R61) -/

/-- A read where services run gives the result of its operation, with the epoch of the copy that served it. -/
theorem serveRead_of_served {copy : Nat} {f : Keeper → Chip → Nat × List Byte × Chip} {s : State} {code : Nat}
    {b : List Byte} {c : Chip} (hs : served s.chip = true) (hf : f s.keeper s.found = (code, b, c)) :
    serveRead copy f s = .next { s with chip := c.emit (.readResult code (serviceEpoch s.keeper copy) b) } := by
  have hs : served s.found = true := hs
  exact onChip_eq_next (by simp only [hs, hf, if_true])

theorem opRead_of_checked {key type : Nat} {o : ObjInfo} (x : Copy) (h : readCheck key type = .ok o) :
    opRead (.ok x) key type = .ok (tyCode o.ty, valBytes o.ty (odGet x.od key)) := by
  simp only [opRead, h]

theorem execRead_of_ok {s : State} (org : Origin) {copy : Nat} {ix : BitVec 16} {sub ty : BitVec 8}
    {r : Nat × List Byte} (hs : served s.chip = true)
    (hread : opRead (serveCopy s.keeper copy) (mkKey ix.toNat sub.toNat) ty.toNat = .ok r) :
    execRead org copy ix sub ty s =
      .next { s with chip := s.found.emit (.readResult Rc.OK (serviceEpoch s.keeper copy) r.2) } :=
  serveRead_of_served hs (by rw [hread])

theorem execRead_of_error {s : State} (org : Origin) {copy : Nat} {ix : BitVec 16} {sub ty : BitVec 8} {e : Nat}
    (hs : served s.chip = true)
    (hread : opRead (serveCopy s.keeper copy) (mkKey ix.toNat sub.toNat) ty.toNat = .error e) :
    execRead org copy ix sub ty s =
      .next { s with chip := s.found.emit (.readResult e (serviceEpoch s.keeper copy) []) } :=
  serveRead_of_served hs (by rw [hread])

/-- The first segment of a block that fits the response answers the block's length and first bytes, and changes no
object (R61). -/
theorem segServe_start (k : Keeper) (c : Chip) (org : Origin) (key : Nat) (x : Copy) {most : Nat}
    (hroom : c.dict.frozen.length < 8) (hmost : most ≤ 1440) :
    ∃ d : Chip, d.od = c.od ∧ d.out = c.out ∧ segServe k c (.ok x) org key 0 most 1448 =
      (Rc.OK, leBytes 4 0 ++ leBytes 4 (odGet x.od key).toBlob.length ++ (odGet x.od key).toBlob.take most, d) := by
  have hfit : ¬1448 < 8 + ((odGet x.od key).toBlob.take most).length := by
    have := List.length_take_le most (odGet x.od key).toBlob
    omega
  unfold segServe
  simp only [if_true, Nat.not_le.2 hroom, decide_false, Bool.and_false, Bool.false_eq_true, if_false, Nat.not_lt_zero,
    List.drop_zero, hfit]
  refine ⟨_, ?_, ?_, rfl⟩ <;> split <;> rfl

theorem execDomainSegRead_start {s : State} (org : Origin) {copy : Nat} {ix : BitVec 16} {sub : BitVec 8} {most : Nat}
    {x : Copy} {o : ObjInfo} (hs : served s.chip = true) (hcopy : serveCopy s.keeper copy = .ok x)
    (hcheck : segReadCheck (mkKey ix.toNat sub.toNat) 0x0C = .ok o) (hroom : s.chip.dict.frozen.length < 8)
    (hmost : most ≤ 1440) :
    ∃ t, execDomainSegRead org copy ix sub 0 most s = .next t ∧
      t.chip.out = [.readResult Rc.OK (serviceEpoch s.keeper copy)
        (leBytes 4 0 ++ leBytes 4 (odGet x.od (mkKey ix.toNat sub.toNat)).toBlob.length ++
          (odGet x.od (mkKey ix.toNat sub.toNat)).toBlob.take most)] ∧ t.chip.od = s.chip.od := by
  obtain ⟨d, hod, hout, hseg⟩ := segServe_start s.keeper s.found org (mkKey ix.toNat sub.toNat) x hroom hmost
  refine ⟨_, serveRead_of_served hs (by rw [hcopy, opSegRead, hcheck]; exact hseg), ?_, hod⟩
  rw [Chip.emit_out, hout]
  rfl

/-! ## Writes taken (R29, R53) -/

theorem actsAtOnce_of_ne {key : Nat} (h : key ≠ Key.Hb.HEARTBEAT ∧ key ≠ Key.Rtcm.RTCM_IN) :
    actsAtOnce key = false := by
  simp [actsAtOnce, h]

/-- No object outside the pages of HEARTBEAT and RTCM_IN acts at once. -/
theorem actsAtOnce_of_page {ix sub : Nat} (hsub : sub < 256) (hix : ix ≠ 0x2020 ∧ ix ≠ 0x4003) :
    actsAtOnce (ix * 256 + sub) = false :=
  actsAtOnce_of_ne (show ix * 256 + sub ≠ 0x202001 ∧ ix * 256 + sub ≠ 0x400301 by omega)

/-- The writes of a row that takes neither HEARTBEAT nor RTCM_IN are judged together and taken. -/
theorem writeKind_taken {s : State} {kind : Nat → Bool} {ws : List (Nat × List Byte)} (org : Origin)
    (hs : served s.chip = true) (hall : (ws.all fun w => kind w.1) = true)
    (hkind : kind Key.Hb.HEARTBEAT = false ∧ kind Key.Rtcm.RTCM_IN = false) :
    JointTaken s { s with chip := writeKind s.keeper s.found org kind ws } org ws := by
  have hlate : ∀ w ∈ ws, actsAtOnce w.1 = false := by
    intro w hw
    have hk : kind w.1 = true := List.all_eq_true.1 hall w hw
    refine actsAtOnce_of_ne ⟨fun e => ?_, fun e => ?_⟩
    · rw [e, hkind.1] at hk; cases hk
    · rw [e, hkind.2] at hk; cases hk
  obtain ⟨hout, hpend, hmode, hkeep⟩ := writeAll_facts s.keeper s.found org ws hs hlate
  have e : writeKind s.keeper s.found org kind ws = writeAll s.keeper s.found org ws := if_pos hall
  unfold JointTaken
  rw [e]
  exact ⟨hout, hpend, hmode, hkeep⟩

/-- A write that is not judged over its datagram leaves the record of the last admission. -/
theorem judgeOne_chip_of_single (k : Keeper) (c : Chip) {key : Nat} (way : Way) (data : List Byte)
    (h : isJoint key = false) : (judgeOne k c key way data).2.2 = c := by
  unfold judgeOne
  split
  · rfl
  · simp [h]

/-- A block for RTCM_IN that its checks accept is parsed as it is taken (R266). -/
theorem writeOne_rtcm {s : State} {org : Origin} {way : Way} {data : List Byte} {v : Val}
    (h : Accepts s Key.Rtcm.RTCM_IN way data v) :
    writeOne s.keeper s.found org Key.Rtcm.RTCM_IN way data =
      (rtcmBytes s.keeper s.found false v.toBlob).emit (.result Rc.OK []) := by
  obtain ⟨hs, c, hj⟩ := h
  have hs : served s.found = true := hs
  have hc : s.found = c := by
    rw [← judgeOne_chip_of_single s.keeper s.found way data (by decide : isJoint Key.Rtcm.RTCM_IN = false), hj]
  have hbeat : Key.Rtcm.RTCM_IN ≠ Key.Hb.HEARTBEAT := by decide
  simp [writeOne, hs, hj, takeWrite, hbeat, ← hc]

theorem execRtcmIn_of_accepted {s : State} {org : Origin} {block : List Byte} {v : Val}
    (h : Accepts s Key.Rtcm.RTCM_IN .seg block v) :
    execRtcmIn org block s =
      .next { s with chip := (rtcmBytes s.keeper s.found false v.toBlob).emit (.result Rc.OK []) } :=
  onChip_eq_next (writeOne_rtcm h)

/-! ## Guidance cycles (R184–R186) -/

@[simp] theorem tileWrite_guide (k : Keeper) (c : Chip) (key : Nat) (v : Val) :
    (tileWrite k c key v).guide = c.guide := rfl
@[simp] theorem tileWrite_od (k : Keeper) (c : Chip) (key : Nat) (v : Val) : (tileWrite k c key v).od = c.od := rfl
@[simp] theorem closeHandling_od (c : Chip) (code unit : Nat) : (closeHandling c code unit).od = c.od := rfl

/-- The results of a cycle, as they become due (R185). -/
theorem execGuidanceCycleComplete_of_timely {s : State} {g : Nat} {r : GuideRes}
    (hc : s.found.guide.cycle = some (g, some r)) (ht : nowUs s.keeper s.found ≤ 1000 * g + 5000) :
    ∃ t, execGuidanceCycleComplete s = .next t ∧ t.chip.guide = { s.found.guide with
        cycle := none, due := s.found.guide.due ++ [(openEdge s.keeper, r)]
        dPrev := if r.held then r.delta else s.found.guide.dPrev
        lost := 0, compute := false } ∧
      t.chip.od = s.found.od ∧ (∃ l : List Write, t.chip.dict.tile = s.found.dict.tile ++ l ∧
        l.map (·.key) = [Key.GErr.XTE, Key.GErr.HE, Key.GErr.CURVATURE, Key.GErr.WHEEL_SP, Key.GErr.ALONG,
          Key.GErr.TO_END, Key.GErr.SOURCE_EPOCH, Key.GErr.FLAGS, Key.GErr.SOLUTION_AGE]) := by
  refine ⟨_, onChip_answers .., ?_⟩
  simp only [hc, Nat.not_lt.2 ht, if_false]
  refine ⟨?_, ?_, ?_⟩
  · simp [closeHandling]
  · simp
  · simp only [closeHandling, tileWrite, List.append_assoc, List.cons_append, List.nil_append]
    exact ⟨_, rfl, rfl⟩

/-- A cycle that is not complete 5 ms after its edge is lost: its event is taken, and it is the second in a row where
one was lost before (R186). -/
theorem execGuidanceCycleLost_of_late {s : State} {e : Nat} {r : Option GuideRes}
    (hc : s.found.guide.cycle = some (e, r)) (ht : 1000 * e + 5000 ≤ nowUs s.keeper s.found)
    (hfree : HandlerFree s.found 0x0603 unitGuide) :
    ∃ t, execGuidanceCycleLost s = .next t ∧ Taken s.found t.chip 0x0603 unitGuide r.isNone ∧
      t.chip.num Key.GErr.CYCLES_LOST = (s.found.num Key.GErr.CYCLES_LOST + 1) % 0x100000000 ∧
      t.chip.guide = { s.found.guide with
        cycle := none, lost := s.found.guide.lost + 1,
          compute := guideHolds s.found && decide (1 ≤ s.found.guide.lost) } ∧
      KeepsObjects (Key.GErr.CYCLES_LOST :: eventKeys) s.found t.chip := by
  refine ⟨_, onChip_answers .., ?_⟩
  simp only [hc, Nat.not_lt.2 ht, if_false]
  obtain ⟨htaken, hnum, hkeep⟩ := raise_taken_put s.keeper s.found
    (Chip.bump { s.found with guide := { s.found.guide with
      cycle := none, lost := s.found.guide.lost + 1
      compute := guideHolds s.found && decide (1 ≤ s.found.guide.lost) } } Key.GErr.CYCLES_LOST)
    0x0603 unitGuide r.isNone Key.GErr.CYCLES_LOST ((s.found.num Key.GErr.CYCLES_LOST + 1) % 0x100000000) hfree rfl rfl
    (by decide)
  exact ⟨htaken, hnum, raise_guide .., hkeep⟩

/-- A cycle begins with a solution and a line, where no injection loses it (R184). -/
theorem execGuidanceCycle_of_ready {s : State} (hedge : s.keeper.epoch % 20 = 0) (hup : up s.found 5 = true)
    (htiles : tilesRun s.found = true) (hen : s.found.flag Key.Guide.GUIDE_ENABLE = true)
    (hash : unitAshed s.found unitGuide = false)
    (hline : lineValid s.found (s.found.num Key.GLine.ACTIVE_LINE) = true) (hfix : s.found.gnss.fix.isSome = true)
    (htwo : armedAt s.found Key.Inj.GUIDE_CYCLE_LOST 2 = false)
    (hone : armedAt s.found Key.Inj.GUIDE_CYCLE_LOST 1 = false) :
    ∃ t, execGuidanceCycle s = .next t ∧ t.chip.guide = { s.found.guide with cycle := some (s.keeper.epoch,
      guideCompute s.keeper (disarm (disarm s.found Key.Inj.GUIDE_CYCLE_LOST 2) Key.Inj.GUIDE_CYCLE_LOST 1)) } := by
  have hnone : s.found.gnss.fix.isNone = false := by rw [← Option.not_isSome, hfix]; rfl
  refine ⟨_, onChip_answers .., ?_⟩
  simp only [hedge, hup, htiles, hen, hash, hline, hnone, htwo, hone]
  rfl

/-! ## The operator, and the ends of guidance (R188, R190) -/

theorem execOpPresentChange_of_powered {s : State} (active : Bool) (hoff : s.found.mode ≠ .off)
    (hbank : s.found.mode ≠ .banked) :
    execOpPresentChange active s = .next { s with chip := s.found.putFlag Key.Guide.OP_PRESENT active } :=
  onChip_eq_next (if_neg (by simp [hoff, hbank]))

theorem execSpeedOutOfRangeExpiry_of_due {s : State} {a : Nat} (hout : s.found.guide.speedOut = some a)
    (hholds : guideHolds s.found = true) (ht : a + 500 ≤ s.keeper.epoch) :
    execSpeedOutOfRangeExpiry s = .next { s with chip := disengage s.keeper s.found 4 } := by
  refine onChip_eq_next ?_
  simp only [hout, hholds, ht, decide_true, Bool.and_self, if_true]

theorem execCoastExpiry_of_due {s : State} {a : Nat} (hcoast : s.found.guide.coastAt = some a)
    (hst : s.found.num Key.Guide.STATE = 4) (ht : a + s.found.num Key.Guide.RTK_COAST ≤ s.keeper.epoch) :
    execCoastExpiry s = .next { s with chip := disengage s.keeper s.found 13 } := by
  refine onChip_eq_next ?_
  simp only [hcoast, hst, ht, decide_true, Bool.and_self, if_true]

end Sys2Proof.Machine

/-! ## The statements -/

namespace Sys2Proof.Proofs.ModuleOverview

open Sys2Proof Sys2Proof.Machine

/-- Settles O7: an edge latches a copy newer than all it holds, the three other commands of the keeper keep its copies
or drop them all, and no other command acts on it. -/
theorem keeperInvariantKept : Obligations.KeeperInvariantKept := by
  intro s t hwf h
  exact step_wf hwf h

/-- Settles O4: every command but those four changes the chip alone. -/
theorem keeperFrame : Obligations.KeeperFrame := by
  intro i s t hi h
  exact (exec_keeps hi h).1

/-- Settles O8: the edge counts, and of the other commands of the keeper FEED_ON alone writes the counter. -/
theorem epochCountsEdges : Obligations.EpochCountsEdges := by
  refine ⟨fun s m hfed => ?_, fun s m hoff => execEpochEdge_of_off m hoff, fun i s t => exec_epoch⟩
  exact ⟨_, execEpochEdge_of_fed m hfed, latch_epoch .., latch_setClosed .., edgeChip_epochNow ..,
    fun hoff hbank => congrArg Keeper.copies (latch_of_powered _ hoff hbank)⟩

/-- Settles O9: the hold-up write saves the counter, and FEED_ON starts 65,536 above what was saved. -/
theorem feedLossNeverReusesAnEpoch : Obligations.FeedLossNeverReusesAnEpoch := by
  intro s key ten hfed hborn hperm
  obtain ⟨hoff, hmodes⟩ := feedLoss_modes s.keeper (c := s.found) hfed
  obtain ⟨c, hon, hmode, -⟩ := execFeedOn_of_off key ten (s := { s with chip := feedLoss s.keeper s.found }) hoff
  refine ⟨_, _, execFeedLoss_answers s, hoff, hon, ?_, hmode⟩
  have hsaved : s.keeper.epoch ≤ (saveEpoch s.keeper s.found).modes.saved := by
    rw [saveEpoch_of_permitted s.keeper (c := s.found) hperm]
    exact Nat.le_add_right _ _
  have hb : s.found.modes.born = true := hborn
  simp only [Keeper.started, hmodes, hb, if_true]
  omega

/-- Settles O10: each command, once its conditions hold, is the one branch that acts. -/
theorem keeperCommandsComplete : Obligations.KeeperCommandsComplete := by
  refine ⟨fun s hoff hbank hopen => ?_, fun s x l hx he => execCopyServable_of_newest hx he,
    fun s hoff hdue hperm => ?_, fun s hoff hdue hheld => ?_⟩
  · exact ⟨_, execApplicationSetClose_of_open hoff hbank hopen, rfl, by simp [openEdge, hopen], rfl⟩
  · exact (execEpochCounterSave_of_due hoff hdue).trans (next_chip_congr (saveEpoch_of_permitted s.keeper hperm))
  · exact (execEpochCounterSave_of_due hoff hdue).trans (next_chip_congr (saveEpoch_of_held s.keeper hheld))

/-- Settles O20: FEED_ON is the start of KINDLING on an OFF chip, FEED_LOW decides BANKED, FEED_LOSS leaves a mode state
of three fields. -/
theorem feedCommandsComplete : Obligations.FeedCommandsComplete := by
  refine ⟨fun s key ten hoff => ?_, fun s hruns => ?_, fun s hfed => ?_, fun s hfed => execFeedRestored_of_fed hfed⟩
  · obtain ⟨c, hon, hmode, hreached, hkey, hten, hborn⟩ := execFeedOn_of_off key ten hoff
    exact ⟨_, hon, hmode, hreached, hkey, hten, hborn, rfl⟩
  · refine ⟨_, execFeedLow_of_fed hruns, rfl, rfl, Chip.num_bump_same .., rfl, ?_⟩
    exact KeepsObjects.bump 1 (KeepsObjects.of_od rfl) (List.mem_singleton.2 rfl)
  · obtain ⟨hoff, hmodes⟩ := feedLoss_modes s.keeper (c := s.found) hfed
    refine ⟨_, execFeedLoss_answers s, hoff, ?_⟩
    rw [hmodes]
    exact ⟨rfl, rfl, rfl, rfl⟩

/-- Settles O11: the judgement of each frame on a link that is up, one lemma for each command and direction. -/
theorem driveLinkCommandsComplete : Obligations.DriveLinkCommandsComplete := by
  refine ⟨fun s n toDxc l hup hlen => ?_, fun s n l hup hdxa harmed => ?_, fun s n l hup harmed hlen hnone => ?_,
    fun s n hup hfail hash hfree => ?_, fun s n hup hn hsilent hsafe => ?_, fun s n lost hup hacted hash => ?_⟩
  · exact execDriveLinkFrame_of_bad toDxc l hup hlen
  · exact execDriveLinkFrame_of_good_in l hup hdxa harmed
  · exact ⟨_, execDriveLinkFrame_of_good_out l hup harmed,
      frameOut_of_none_waiting s.keeper s.found n hnone (Nat.lt_of_lt_of_eq n.isLt hlen.symm)⟩
  · exact ⟨_, execDriveLinkFail_of_failed hup hfail hash,
      raise_taken_same s.keeper s.chip s.found 0x1201 (unitDie (n + 1)) false hfree rfl rfl⟩
  · exact execLinkSilenceSafe_of_silent hup hn hsilent hsafe
  · exact execEdgeMarkerFrame_of_up lost hup hacted hash

/-- Settles O12: a read is the result of its operation on the copy, and the operation changes no object. -/
theorem readsAreServedFromACopy : Obligations.ReadsAreServedFromACopy := by
  refine ⟨fun s org copy ix sub ty x o hs hcopy hcheck => ?_, fun s org copy ix sub ty e hs hread => ?_,
    fun s org copy ix sub most x o hs hcopy hcheck hroom hmost => ?_⟩
  · exact execRead_of_ok org hs (hcopy ▸ opRead_of_checked x hcheck)
  · exact execRead_of_error org hs hread
  · exact execDomainSegRead_start org hs hcopy hcheck hroom hmost

/-- Settles O25: none of these objects acts at once, so an accepted write becomes due. -/
theorem serviceWritesComplete : Obligations.ServiceWritesComplete := by
  refine ⟨fun s org ix sub ty data v hb h => ⟨_, rfl, writeOne_taken h hb⟩,
    fun s org slot value v h => ⟨_, rfl, writeOne_taken h (actsAtOnce_of_page (by omega) (by omega))⟩,
    fun s org value v h => ⟨_, rfl, writeOne_taken h (by decide)⟩,
    fun s org value v h => ⟨_, rfl, writeOne_taken h (by decide)⟩,
    fun s org value v h => ⟨_, rfl, writeOne_taken h (by decide)⟩,
    fun s org unit v h => ⟨_, rfl, writeOne_taken h (by decide)⟩⟩

/-- Settles O26: none of these objects acts at once, so an accepted write becomes due. -/
theorem fieldWritesComplete : Obligations.FieldWritesComplete := by
  refine ⟨fun s org slot value v h => ⟨_, rfl, writeOne_taken h (actsAtOnce_of_page (by omega) (by omega))⟩,
    fun s org value v h => ⟨_, rfl, writeOne_taken h (by decide)⟩,
    fun s org value v h => ⟨_, rfl, writeOne_taken h (by decide)⟩,
    fun s org value v h => ⟨_, rfl, writeOne_taken h (by decide)⟩,
    fun s org value v h => ⟨_, rfl, writeOne_taken h (by decide)⟩,
    fun s org value v h => ⟨_, rfl, writeOne_taken h (by decide)⟩,
    fun s org value v h => ⟨_, rfl, writeOne_taken h (by decide)⟩,
    fun s org block v h => ⟨_, rfl, writeOne_taken h (by decide)⟩⟩

/-- Settles O27: RTCM_IN alone acts at once, and the blocks of the others become due. -/
theorem blockWritesComplete : Obligations.BlockWritesComplete := by
  refine ⟨fun s org program block v h => ⟨_, rfl, writeOne_taken h (actsAtOnce_of_page (by omega) (by omega))⟩,
    fun s org block v h => execRtcmIn_of_accepted h,
    fun s org port block v h => ⟨_, rfl, writeOne_taken h (actsAtOnce_of_page (by omega) (by omega))⟩,
    fun s org port block v h => ⟨_, rfl, writeOne_taken h (actsAtOnce_of_page (by omega) (by omega))⟩,
    fun s org block v h => ⟨_, rfl, writeOne_taken h (by decide)⟩,
    fun s org block v h => ⟨_, rfl, writeOne_taken h (by decide)⟩,
    fun s org port value v h => ⟨_, rfl, writeOne_taken h (actsAtOnce_of_page (by omega) (by omega))⟩⟩

/-- Settles O28: none of these objects acts at once, so an accepted write becomes due. -/
theorem upkeepWritesComplete : Obligations.UpkeepWritesComplete := by
  refine ⟨fun s org b value v h => ⟨_, rfl, writeOne_taken h (actsAtOnce_of_page (by omega) (by omega))⟩,
    fun s org value v h => ⟨_, rfl, writeOne_taken h (by decide)⟩,
    fun s org value v h => ⟨_, rfl, writeOne_taken h (by decide)⟩,
    fun s org value v h => ⟨_, rfl, writeOne_taken h (by decide)⟩,
    fun s org value v h => ⟨_, rfl, writeOne_taken h (by decide)⟩,
    fun s org value v h => ⟨_, rfl, writeOne_taken h (by decide)⟩,
    fun s org node value v h => ⟨_, rfl, writeOne_taken h (actsAtOnce_of_page (by omega) (by omega))⟩⟩

/-- Settles O31: no row of joint writes takes an object whose write acts at once. -/
theorem jointWritesComplete : Obligations.JointWritesComplete := by
  refine ⟨fun s org l hs hall => ⟨_, rfl, writeKind_taken org hs hall (by decide)⟩,
    fun s org l hs hall => ⟨_, rfl, writeKind_taken org hs hall (by decide)⟩,
    fun s org port l hs hsubs => ⟨_, rfl, writeKind_taken org hs ?_ (by decide)⟩,
    fun s org l hs hall => ⟨_, rfl, writeKind_taken org hs ?_ (by decide)⟩,
    fun s org ix sub value hs hinj => ⟨_, rfl, writeKind_taken org hs ?_ (by decide)⟩⟩
  · simp only [List.all_map, List.all_eq_true, Function.comp_apply, Bool.and_eq_true, decide_eq_true_eq]
    intro w hw
    have hsub := hsubs w hw
    unfold mkKey
    omega
  · simpa [List.all_map] using hall
  · simpa using hinj

/-- Settles O36: one lemma for each guidance command, under the conditions that let it act. -/
theorem guidanceCommandsComplete : Obligations.GuidanceCommandsComplete := by
  refine ⟨fun s hedge hup htiles hen hash hline hfix htwo hone => ?_, fun s g r hc ht =>
    execGuidanceCycleComplete_of_timely hc ht, fun s e r hc ht hfree => ?_, fun s active hoff hbank => ?_,
    fun s a hout hholds ht => ?_, fun s a hcoast hst ht => ?_⟩
  · exact execGuidanceCycle_of_ready hedge hup htiles hen hash hline hfix htwo hone
  · exact execGuidanceCycleLost_of_late hc ht hfree
  · refine ⟨_, execOpPresentChange_of_powered active hoff hbank, ?_, ?_⟩
    · cases active <;> simp
    · exact KeepsObjects.putFlag active (KeepsObjects.of_od rfl) (List.mem_singleton.2 rfl)
  · exact execSpeedOutOfRangeExpiry_of_due hout hholds ht
  · exact execCoastExpiry_of_due hcoast hst ht

end Sys2Proof.Proofs.ModuleOverview
end

section
/-! PROOFS. The statements of the object dictionary: the object table (R45), JOP datagrams and their operations (R49–R55),
snapshots (R57, R58), writes (R59), the SDO server (R64, R65), cords (R66–R71), heartbeats (R73), and the commands of
the valve drive, the load switches and the isolated I/O. -/

namespace Sys2Proof.Machine

/-! ## The object table (R44, R45) -/

/-- A row's sub-indices lie within 1 to 255: sub-index 0 is no row's. -/
def ObjRow.subsFit (r : ObjRow) : Bool := 1 ≤ r.sub && 1 ≤ r.subs && r.sub + r.subs ≤ 256

theorem pageRows_subsFit (page : Nat) : (pageRows page).all ObjRow.subsFit = true := by
  unfold pageRows
  split <;> decide +kernel

/-- The rows that hold an index. -/
def indexRows (rx : Nat) : List ObjRow :=
  (pageRows (rx / 256)).filter fun r => r.base ≤ rx && rx < r.base + r.count

theorem highestSub_eq_foldl (ix : Nat) : highestSub ix =
    (indexRows (rowIndex ix).1).foldl (fun m r => some (max (m.getD 0) (r.sub + r.subs - 1))) none := rfl

theorem foldl_max_some (f : ObjRow → Nat) (l : List ObjRow) (a : Nat) :
    ∃ h, l.foldl (fun m r => some (max (m.getD 0) (f r))) (some a) = some h ∧ a ≤ h ∧ (∀ r ∈ l, f r ≤ h) ∧
      (h = a ∨ ∃ r ∈ l, f r = h) := by
  induction l generalizing a with
  | nil => exact ⟨a, rfl, Nat.le_refl a, by simp, .inl rfl⟩
  | cons r t ih =>
    obtain ⟨h, hfold, hle, hall, hmem⟩ := ih (max a (f r))
    refine ⟨h, hfold, by omega, fun x hx => ?_, ?_⟩
    · rcases List.mem_cons.1 hx with rfl | hx
      · omega
      · exact hall x hx
    · rcases hmem with rfl | ⟨x, hx, he⟩
      · rcases Nat.le_total (f r) a with hr | hr
        · exact .inl (by omega)
        · exact .inr ⟨r, List.mem_cons_self .., by omega⟩
      · exact .inr ⟨x, List.mem_cons_of_mem _ hx, he⟩

/-- At an index that a row holds, the highest sub-index is the last of some row, and no row goes beyond it. -/
theorem highestSub_of_row {ix : Nat} {r : ObjRow} (hr : r ∈ indexRows (rowIndex ix).1) :
    ∃ h, highestSub ix = some h ∧ (∃ r ∈ indexRows (rowIndex ix).1, r.sub + r.subs - 1 = h) ∧
      ∀ r ∈ indexRows (rowIndex ix).1, r.sub + r.subs - 1 ≤ h := by
  cases hl : indexRows (rowIndex ix).1 with
  | nil => rw [hl] at hr; cases hr
  | cons x t =>
    obtain ⟨h, hsome, hx, hall, hmem⟩ := foldl_max_some (fun r => r.sub + r.subs - 1) t (x.sub + x.subs - 1)
    refine ⟨h, ?_, ?_, fun y hy => ?_⟩
    · rw [highestSub_eq_foldl, hl, List.foldl_cons, Option.getD_none, Nat.zero_max]
      exact hsome
    · rcases hmem with rfl | ⟨y, hy, he⟩
      · exact ⟨x, List.mem_cons_self .., rfl⟩
      · exact ⟨y, List.mem_cons_of_mem _ hy, he⟩
    · rcases List.mem_cons.1 hy with rfl | hy
      · exact hx
      · exact hall y hy

theorem subsFit_of_mem_indexRows {rx : Nat} {r : ObjRow} (hr : r ∈ indexRows rx) :
    1 ≤ r.sub ∧ 1 ≤ r.subs ∧ r.sub + r.subs ≤ 256 := by
  have h := List.all_eq_true.1 (pageRows_subsFit _) r (List.mem_filter.1 hr).1
  simpa [ObjRow.subsFit, and_assoc] using h

theorem mkKey_index {ix sub : Nat} (h : sub < 256) : mkKey ix sub / 256 = ix ∧ mkKey ix sub % 256 = sub := by
  unfold mkKey; omega

theorem objInfo_zero (ix : Nat) :
    objInfo (mkKey ix 0) = (highestSub ix).map fun h => ⟨.u8, .ro, .num h, .any⟩ := by
  obtain ⟨hix, hsub⟩ := mkKey_index (ix := ix) (sub := 0) (by decide)
  simp only [objInfo, hix, hsub, if_true]

/-- A sub-index other than 0 is present where a row of its index lists it. -/
theorem objInfo_isSome_iff {ix sub : Nat} (hsub : sub < 256) (hne : sub ≠ 0) :
    (objInfo (mkKey ix sub)).isSome = true ↔
      ∃ r ∈ indexRows (rowIndex ix).1, r.sub ≤ sub ∧ sub < r.sub + r.subs := by
  obtain ⟨hi, hs⟩ := mkKey_index (ix := ix) hsub
  have hfind : (objInfo (mkKey ix sub)).isSome =
      ((pageRows ((rowIndex ix).1 / 256)).find? (fun r => r.lists (rowIndex ix).1 sub)).isSome := by
    simp only [objInfo, hi, hs, hne, if_false]
    split <;> simp [*]
  rw [hfind, List.find?_isSome]
  simp [indexRows, ObjRow.lists, and_assoc]

/-- A present index has a row. -/
theorem indexRow_of_present {ix sub : Nat} (hsub : sub < 256) (h : (objInfo (mkKey ix sub)).isSome = true) :
    ∃ r, r ∈ indexRows (rowIndex ix).1 := by
  by_cases hne : sub = 0
  · subst hne
    rw [objInfo_zero, Option.isSome_map] at h
    cases hl : indexRows (rowIndex ix).1 with
    | nil => rw [highestSub_eq_foldl, hl] at h; cases h
    | cons r t => exact ⟨r, List.mem_cons_self ..⟩
  · obtain ⟨r, hr, -⟩ := (objInfo_isSome_iff hsub hne).1 h
    exact ⟨r, hr⟩

/-! ## JOP operations (R52) -/

/-- The first operation of a request reads back from its bytes, whatever follows it. -/
theorem parseOps_opBytes_append (n : Nat) {o : JopOp} (rest : List Byte) (h : o.data.length < 65536) :
    parseOps (n + 1) (opBytes o ++ rest) = (parseOps n rest).map (o :: ·) := by
  have hlen : ofLeBytes (leBytes 2 o.data.length) = o.data.length := by
    rw [ofLeBytes_leBytes, Nat.mod_eq_of_lt (show _ < 256 ^ 2 from h)]
  have hindex : BitVec.ofNat 16 (ofLeBytes (leBytes 2 o.index.toNat)) = o.index := by
    rw [ofLeBytes_leBytes, Nat.mod_eq_of_lt (show _ < 256 ^ 2 from o.index.isLt), BitVec.ofNat_toNat, BitVec.setWidth_eq]
  simp only [leBytes] at hlen hindex
  have hfits : ¬(o.data ++ rest).length < o.data.length := by rw [List.length_append]; omega
  simp only [opBytes, leBytes, List.cons_append, List.nil_append, parseOps, hlen, hindex, hfits, if_false,
    List.take_left, List.drop_left]

/-! ## Objects of one index, and the store -/

/-- Sub-indices of one index name different objects. -/
theorem key_ne_of_sub {ix a b : Nat} (h : a ≠ b) : ix * 256 + a ≠ ix * 256 + b := by omega

/-- A chip whose store is another's reads as that one. -/
theorem Chip.num_of_od {c d : Chip} (h : d.od = c.od) (key : Nat) : d.num key = c.num key := by
  simp only [Chip.num, h]

@[simp] theorem num_found (s : State) (key : Nat) : s.found.num key = s.chip.num key := rfl
@[simp] theorem served_found (s : State) : served s.found = served s.chip := rfl

theorem Chip.emit_out_of_nil {c : Chip} (o : Output) (h : c.out = []) : (c.emit o).out = [o] := by
  rw [Chip.emit_out, h]; rfl

/-- A dictionary operation where services run answers its result. -/
theorem serve_of_served {f : Keeper → Chip → Nat × List Byte × Chip} {s : State} {code : Nat} {b : List Byte} {c : Chip}
    (hs : served s.chip = true) (hf : f s.keeper s.found = (code, b, c)) :
    serve f s = .next { s with chip := c.emit (.result code b) } :=
  onChip_eq_next (by simp only [served_found, hs, hf, if_true])

/-! ## Writes (R53, R59, R73) -/

theorem execWrite_of_refused {s : State} (org : Origin) {ix : BitVec 16} {sub ty : BitVec 8} {data : List Byte} {code : Nat}
    (h : Refuses s (mkKey ix.toNat sub.toNat) (.typed ty.toNat) data code) :
    ∃ t, execWrite org ix sub ty data s = .next t ∧ t.chip.out = [.result code []] ∧ t.chip.dict = s.chip.dict ∧
      t.chip.mode = s.chip.mode ∧ KeepsObjects writeKeys s.chip t.chip := by
  obtain ⟨d, hd, hfacts⟩ := writeOne_refused (org := org) h
  exact ⟨{ s with chip := d }, onChip_eq_next hd, hfacts⟩

/-- A heartbeat that its checks accept is processed as it is taken (R73). -/
theorem writeOne_heartbeat {s : State} {org : Origin} {way : Way} {data : List Byte} {v : Val}
    (h : Accepts s Key.Hb.HEARTBEAT way data v) :
    writeOne s.keeper s.found org Key.Hb.HEARTBEAT way data = (beat s.keeper s.found org).emit (.result Rc.OK []) := by
  obtain ⟨hs, c, hj⟩ := h
  have hc : s.found = c := by
    rw [← judgeOne_chip_of_single s.keeper s.found way data (by decide : isJoint Key.Hb.HEARTBEAT = false), hj]
  simp [writeOne, hs, hj, takeWrite, ← hc]

/-- A heartbeat shows its source, and in an operating mode the deadline is HB_TIMEOUT epochs on (R73, R90). -/
theorem beat_facts (k : Keeper) (c : Chip) (org : Origin) (hruns : modeRuns c.mode = true) :
    (beat k c org).modes.deadline = some (k.epoch + c.num Key.Hb.HB_TIMEOUT) ∧
      (beat k c org).num Key.Hb.HB_LAST_EPOCH = wireEpoch k.epoch ∧
      (beat k c org).num Key.Hb.HB_LAST_KIND = originKind org ∧ (beat k c org).num Key.Hb.HB_LAST_ADDR = originAddr org ∧
      KeepsObjects [Key.Hb.HB_LAST_EPOCH, Key.Hb.HB_LAST_KIND, Key.Hb.HB_LAST_ADDR] c (beat k c org) := by
  have hput : (beat k c org).od = (((c.put Key.Hb.HB_LAST_EPOCH (wireEpoch k.epoch)).put Key.Hb.HB_LAST_KIND
      (originKind org)).put Key.Hb.HB_LAST_ADDR (originAddr org)).od := rfl
  refine ⟨?_, ?_, ?_, ?_, ?_⟩
  · simp (disch := decide) [beat, hruns]
  · rw [Chip.num_of_od hput]; simp (disch := decide)
  · rw [Chip.num_of_od hput]; simp (disch := decide)
  · rw [Chip.num_of_od hput]; simp
  · exact (((KeepsObjects.of_od rfl).put _ (by simp)).put _ (by simp)).put _ (by simp)

theorem execHeartbeat_of_accepted {s : State} {org : Origin} {value : BitVec 32} {v : Val}
    (h : Accepts s Key.Hb.HEARTBEAT .sdo (numBytes Key.Hb.HEARTBEAT value.toNat) v) :
    execHeartbeat org value s = .next { s with chip := (beat s.keeper s.found org).emit (.result Rc.OK []) } :=
  onChip_eq_next (writeOne_heartbeat h)

/-! ## Snapshots (R57, R58) -/

/-- What the module holds of a slot armed with entries: they, and which of their units are ashed (R57). -/
def snapAsked (c : Chip) (entries : List (BitVec 16 × BitVec 8)) : SnapX :=
  { entries, ashed := entries.map fun e => keyAshed c (entryKey e) }

/-- A slot armed for an epoch still to come (R57). -/
def snapArmed (c : Chip) (org : Origin) (target n : Nat) (entries : List (BitVec 16 × BitVec 8)) : Chip :=
  (((({ c with dict := { c.dict with snaps := c.dict.snaps.set n (snapAsked c entries) } } : Chip).put
    (Key.Snap.SNAP_STATE n) 1).put (Key.Snap.SNAP_EPOCH n) target).put (Key.Snap.SNAP_COUNT n) entries.length).put
    (Key.Snap.SNAP_OWNER n) (originAddr org)

theorem snapArmed_facts (c : Chip) (org : Origin) (target n : Nat) (entries : List (BitVec 16 × BitVec 8)) :
    (snapArmed c org target n entries).out = c.out ∧
      (snapArmed c org target n entries).num (Key.Snap.SNAP_STATE n) = 1 ∧
      (snapArmed c org target n entries).num (Key.Snap.SNAP_EPOCH n) = target ∧
      (snapArmed c org target n entries).num (Key.Snap.SNAP_COUNT n) = entries.length ∧
      (snapArmed c org target n entries).num (Key.Snap.SNAP_OWNER n) = originAddr org := by
  simp (disch := exact key_ne_of_sub (by decide)) [snapArmed]

/-- A sound SNAPSHOT of an epoch still to come takes the first free slot. -/
theorem opSnapshot_of_future {k : Keeper} {c : Chip} (org : Origin) {target n : Nat}
    {entries : List (BitVec 16 × BitVec 8)} (hcheck : snapCheck entries = Rc.OK) (hzero : target ≠ 0)
    (hnear : target ≤ wireEpoch (k.servable.getD 0) + 60000) (hcopy : serveCopy k target = .error Rc.EPOCH_FUTURE)
    (hslot : (List.range 8).find? (fun n => c.num (Key.Snap.SNAP_STATE n) = 0) = some n) :
    opSnapshot k c org target entries =
      (Rc.OK, leBytes 1 n ++ leBytes 6 target, snapArmed c org target n entries) := by
  unfold opSnapshot
  simp only [hcheck, hzero, if_false, Nat.not_lt.2 hnear, hcopy, hslot, ne_eq, not_true_eq_false]
  rfl

theorem execSnapshot_of_future {s : State} (org : Origin) {target n : Nat} {entries : List (BitVec 16 × BitVec 8)}
    (hs : served s.chip = true) (hcheck : snapCheck entries = Rc.OK) (hzero : target ≠ 0)
    (hnear : target ≤ wireEpoch (s.keeper.servable.getD 0) + 60000)
    (hcopy : serveCopy s.keeper target = .error Rc.EPOCH_FUTURE)
    (hslot : (List.range 8).find? (fun n => s.chip.num (Key.Snap.SNAP_STATE n) = 0) = some n) :
    execSnapshot org target entries s = .next { s with chip :=
      ((snapArmed s.found org target n entries).emit (.result Rc.OK (leBytes 1 n ++ leBytes 6 target))) } :=
  serve_of_served hs (opSnapshot_of_future org hcheck hzero hnear hcopy hslot)

/-- A slot that captures a copy holds the records of its entries, and no other object changes (R57). -/
theorem snapCapture_facts (k : Keeper) (c : Chip) (n : Nat) (x : Copy) :
    (snapCapture k c n x).num (Key.Snap.SNAP_STATE n) = 2 ∧
      (snapCapture k c n x).blob (Key.Snap.SNAP_DATA n) =
        ((nth c.dict.snaps n {}).entries.zip (nth c.dict.snaps n {}).ashed).flatMap
          (fun e => snapRecord c x e.1 e.2) ∧
      KeepsObjects [Key.Snap.SNAP_STATE n, Key.Snap.SNAP_DATA n] c (snapCapture k c n x) := by
  refine ⟨?_, Chip.blob_putBlob_same .., ((KeepsObjects.of_od rfl).put _ (by simp)).putBlob _ (by simp)⟩
  unfold snapCapture
  simp (disch := exact key_ne_of_sub (by decide))

theorem execSnapshotCapture_of_armed {s : State} {n : Fin 8} {x : Copy}
    (harmed : s.chip.num (Key.Snap.SNAP_STATE n) = 1)
    (hcopy : serveCopy s.keeper (s.chip.num (Key.Snap.SNAP_EPOCH n)) = .ok x) :
    execSnapshotCapture n s = .next { s with chip := snapCapture s.keeper s.found n x } := by
  refine onChip_eq_next ?_
  simp only [snapDue, num_found, harmed, hcopy, ne_eq, not_true_eq_false, if_false]

theorem snapFree_facts (c : Chip) (n : Nat) :
    (snapFree c n).num (Key.Snap.SNAP_STATE n) = 0 ∧ (snapFree c n).num (Key.Snap.SNAP_EPOCH n) = 0 ∧
      (snapFree c n).num (Key.Snap.SNAP_COUNT n) = 0 ∧ (snapFree c n).num (Key.Snap.SNAP_OWNER n) = 0 ∧
      (snapFree c n).blob (Key.Snap.SNAP_DATA n) = [] := by
  simp (disch := exact key_ne_of_sub (by decide)) [snapFree]

/-- A captured slot is free 60 s later (R58). -/
theorem execSnapshotExpiry_of_over {s : State} {n : Fin 8} (hheld : s.chip.num (Key.Snap.SNAP_STATE n) = 2)
    (hover : (nth s.chip.dict.snaps n {}).taken + 60000 ≤ s.keeper.epoch) :
    execSnapshotExpiry n s = .next { s with chip := snapFree s.found n } :=
  onChip_eq_next (if_pos (by simp [hheld, State.found, hover]))

/-! ## Cords (R66–R71) -/

@[simp] theorem cordX_cordSet (c : Chip) {n : Nat} (x : CordX) (h : n < c.dict.cords.length) :
    cordX (cordSet c n x) n = x := by
  simp [cordX, cordSet, nth, h]
@[simp] theorem cordX_put (c : Chip) (n key v : Nat) : cordX (c.put key v) n = cordX c n := rfl

/-- A slot that ends shows its final state and its result, and no other object changes. -/
theorem cordEnd_facts (c : Chip) (n st result : Nat) :
    (cordEnd c n st result).out = c.out ∧ (cordEnd c n st result).num (Key.Cord.CORD_STATE n) = st ∧
      (cordEnd c n st result).num (Key.Cord.CORD_RESULT n) = result ∧
      KeepsObjects [Key.Cord.CORD_STATE n, Key.Cord.CORD_RESULT n] c (cordEnd c n st result) := by
  refine ⟨rfl, ?_, Chip.num_put_same .., ((KeepsObjects.of_od rfl).put _ (by simp)).put _ (by simp)⟩
  unfold cordEnd
  simp (disch := exact key_ne_of_sub (by decide))

/-- CORD_OPEN in an operating mode opens the slot it picks, in its next generation (R67). -/
theorem opCordOpen_of_picked {k : Keeper} {c : Chip} (org : Origin) {n : Nat} (hruns : modeRuns c.mode = true)
    (hpick : cordPick c = some n) :
    ∃ d : Chip, opCordOpen k c org = (Rc.OK, leBytes 2 (cordHandle d n), d) ∧ d.out = c.out ∧
      d.num (Key.Cord.CORD_STATE n) = 1 ∧ d.num (Key.Cord.CORD_GEN n) = (c.num (Key.Cord.CORD_GEN n) + 1) % 256 ∧
      d.num (Key.Cord.CORD_COUNT n) = 0 ∧ d.num (Key.Cord.CORD_FAIL_MEMBER n) = 0xFF := by
  unfold opCordOpen
  simp only [cordsServed, hruns, Bool.not_true, Bool.false_eq_true, if_false, hpick]
  refine ⟨_, rfl, ?_⟩
  simp only [List.foldl_cons, List.foldl_nil]
  simp (disch := exact key_ne_of_sub (by decide))
  exact ⟨rfl, rfl⟩

theorem execCordOpen_of_picked {s : State} (org : Origin) {n : Nat} (hs : served s.chip = true)
    (hruns : modeRuns s.chip.mode = true) (hpick : cordPick s.found = some n) :
    ∃ t, execCordOpen org s = .next t ∧ t.chip.num (Key.Cord.CORD_STATE n) = 1 ∧
      t.chip.num (Key.Cord.CORD_GEN n) = (s.chip.num (Key.Cord.CORD_GEN n) + 1) % 256 ∧
      t.chip.num (Key.Cord.CORD_COUNT n) = 0 ∧ t.chip.num (Key.Cord.CORD_FAIL_MEMBER n) = 0xFF ∧
      t.chip.out = [.result Rc.OK (leBytes 2 (cordHandle t.chip n))] := by
  obtain ⟨d, hd, hout, hstate, hgen, hcount, hfail⟩ := opCordOpen_of_picked (k := s.keeper) (c := s.found) org hruns hpick
  exact ⟨_, serve_of_served hs hd, hstate, hgen, hcount, hfail, Chip.emit_out_of_nil _ hout⟩

/-- The open cord `n` with a member at its next place (R68). -/
def cordJoined (c : Chip) (n key : Nat) (v : Val) : Chip :=
  let x := cordX c n
  (cordSet c n { x with next := x.next + 1, members := x.members ++ [⟨x.next, key, v⟩] }).put (Key.Cord.CORD_COUNT n)
    (x.members.length + 1)

theorem cordJoined_members (c : Chip) {n : Nat} (key : Nat) (v : Val) (h : n < c.dict.cords.length) :
    (cordX (cordJoined c n key v) n).members = (cordX c n).members ++ [⟨(cordX c n).next, key, v⟩] := by
  rw [cordJoined, cordX_put, cordX_cordSet _ _ h]

/-- CORD_ADD of a sound member keeps it at the next place of the open cord (R68). -/
theorem opCordAdd_of_checked {k : Keeper} {c : Chip} {od : OD} {handle key n : Nat} {way : Way} {data : List Byte} {v : Val}
    (hcord : cordOf c handle = some n) (hopen : c.num (Key.Cord.CORD_STATE n) = 1) (hroom : (cordX c n).next < 64)
    (hcheck : checkOwn k c od key way true data = .ok v) :
    opCordAdd k c od handle key way data = (Rc.OK, leBytes 1 (cordX c n).next, cordJoined c n key v) := by
  unfold opCordAdd
  simp [hcord, hopen, Nat.not_le.2 hroom, hcheck, cordJoined]

theorem execCordAdd_of_checked {s : State} (org : Origin) {h ix : BitVec 16} {sub ty : BitVec 8} {data : List Byte}
    {n : Nat} {v : Val} (hs : served s.chip = true) (hcord : cordOf s.found h.toNat = some n)
    (hlt : n < s.chip.dict.cords.length) (hopen : s.chip.num (Key.Cord.CORD_STATE n) = 1)
    (hroom : (cordX s.chip n).next < 64)
    (hcheck : checkOwn s.keeper s.found (prospect s.found) (mkKey ix.toNat sub.toNat) (.typed ty.toNat) true data = .ok v) :
    ∃ t, execCordAdd org h ix sub ty data s = .next t ∧
      t.chip.out = [.result Rc.OK (leBytes 1 (cordX s.chip n).next)] ∧
      (cordX t.chip n).members = (cordX s.chip n).members ++ [⟨(cordX s.chip n).next, mkKey ix.toNat sub.toNat, v⟩] ∧
      t.chip.num (Key.Cord.CORD_COUNT n) = (cordX s.chip n).members.length + 1 ∧
      KeepsObjects [Key.Cord.CORD_COUNT n] s.chip t.chip :=
  ⟨_, serve_of_served hs (opCordAdd_of_checked hcord hopen hroom hcheck), rfl, cordJoined_members s.found _ v hlt,
    Chip.num_put_same .., (KeepsObjects.of_od rfl).put _ (List.mem_singleton.2 rfl)⟩

/-- CORD_COMMIT of a cord that is not poisoned, for an edge whose set is still open, fixes its epoch (R69). -/
theorem opCordCommit_of_open {k : Keeper} {c : Chip} {handle e n : Nat} (hruns : modeRuns c.mode = true)
    (hcord : cordOf c handle = some n) (hopen : c.num (Key.Cord.CORD_STATE n) = 1) (hsound : (cordX c n).poison = none)
    (hlow : openEdge k ≤ e) (hhigh : e ≤ k.servable.getD 0 + 60000) :
    ∃ d : Chip, opCordCommit k c handle e = (Rc.OK, leBytes 6 e, d) ∧ d.out = c.out ∧
      d.num (Key.Cord.CORD_STATE n) = 2 ∧ d.num (Key.Cord.CORD_COMMIT_EPOCH n) = wireEpoch e ∧
      KeepsObjects [Key.Cord.CORD_STATE n, Key.Cord.CORD_COMMIT_EPOCH n] c d := by
  have hzero : e ≠ 0 := by unfold openEdge at hlow; split at hlow <;> omega
  unfold opCordCommit
  simp only [cordsServed, hruns, hcord, hopen, hsound, hzero, Nat.not_lt.2 hlow, Nat.not_lt.2 hhigh, Bool.not_true,
    Bool.false_eq_true, if_false, ne_eq, not_true_eq_false]
  refine ⟨_, rfl, rfl, ?_, Chip.num_put_same .., ((KeepsObjects.of_od rfl).put _ (by simp)).put _ (by simp)⟩
  simp (disch := exact key_ne_of_sub (by decide))

theorem execCordCommit_of_open {s : State} {h : BitVec 16} {e n : Nat} (hs : served s.chip = true)
    (hruns : modeRuns s.chip.mode = true) (hcord : cordOf s.found h.toNat = some n)
    (hopen : s.chip.num (Key.Cord.CORD_STATE n) = 1) (hsound : (cordX s.chip n).poison = none)
    (hlow : openEdge s.keeper ≤ e) (hhigh : e ≤ s.keeper.servable.getD 0 + 60000) :
    ∃ t, execCordCommit h e s = .next t ∧ t.chip.num (Key.Cord.CORD_STATE n) = 2 ∧
      t.chip.num (Key.Cord.CORD_COMMIT_EPOCH n) = wireEpoch e ∧ t.chip.out = [.result Rc.OK (leBytes 6 e)] ∧
      KeepsObjects [Key.Cord.CORD_STATE n, Key.Cord.CORD_COMMIT_EPOCH n] s.chip t.chip := by
  obtain ⟨d, hd, hout, hstate, hepoch, hkeep⟩ :=
    opCordCommit_of_open (k := s.keeper) (c := s.found) hruns hcord hopen hsound hlow hhigh
  exact ⟨_, serve_of_served hs hd, hstate, hepoch, Chip.emit_out_of_nil _ hout, hkeep⟩

/-- CORD_ABORT ends a cord that is open or committed (R71). -/
theorem opCordAbort_of_live {c : Chip} {handle n : Nat} (hcord : cordOf c handle = some n)
    (hlive : c.num (Key.Cord.CORD_STATE n) = 1 ∨ c.num (Key.Cord.CORD_STATE n) = 2) :
    opCordAbort c handle = (Rc.OK, cordEnd c n 6 Rc.OK) := by
  unfold opCordAbort
  simp only [hcord, hlive, if_true]

theorem execCordAbort_of_live {s : State} {h : BitVec 16} {n : Nat} (hs : served s.chip = true)
    (hcord : cordOf s.found h.toNat = some n)
    (hlive : s.chip.num (Key.Cord.CORD_STATE n) = 1 ∨ s.chip.num (Key.Cord.CORD_STATE n) = 2) :
    execCordAbort h s = .next { s with chip := (cordEnd s.found n 6 Rc.OK).emit (.result Rc.OK []) } :=
  serve_of_served hs (by rw [opCordAbort_of_live hcord hlive])

/-- A cord left open for 10 s ends (R71). -/
theorem execCordExpired_of_over {s : State} {n : Fin 32} (hopen : s.chip.num (Key.Cord.CORD_STATE n) = 1)
    (hover : (cordX s.chip n).opened + 10000 ≤ s.keeper.epoch) :
    execCordExpired n s = .next { s with chip := cordEnd s.found n 6 Rc.CORD_EXPIRED } := by
  have hx : cordX s.found n = cordX s.chip n := rfl
  exact onChip_eq_next (if_pos (by simp [hopen, hx, hover]))

/-! ## The SDO server (R61, R64, R65) -/

/-- An expedited upload answers 1 to 4 bytes and shows the copy they are of (R64). -/
theorem sdoUpload_of_short {k : Keeper} {c : Chip} {key : Nat} {o : ObjInfo} {x : Copy} (hinfo : objInfo key = some o)
    (hacc : o.acc ≠ .wo) (hty : o.ty ≠ .domain) (hcopy : serveCopy k 0 = .ok x) (hkey : key ≠ Key.Epoch.SDO_READ_EPOCH)
    (hlow : 1 ≤ (valBytes o.ty (odGet x.od key)).length) (hhigh : (valBytes o.ty (odGet x.od key)).length ≤ 4) :
    sdoUpload k c key = (sdoSend k (sdoSet c .idle)
      (leBytes 1 (0x43 + 4 * (4 - (valBytes o.ty (odGet x.od key)).length)) ++ sdoName key ++
        valBytes o.ty (odGet x.od key))).put Key.Epoch.SDO_READ_EPOCH (wireEpoch x.epoch) := by
  unfold sdoUpload
  simp only [hinfo, hcopy, hacc, hty, hkey, hlow, hhigh, if_false, decide_true, Bool.and_self, if_true, sdoUploaded]

/-- A DOMAIN is moved by DOMAIN_SEG alone (R61). -/
theorem sdoUpload_of_domain {k : Keeper} {c : Chip} {key : Nat} {o : ObjInfo} {x : Copy} (hinfo : objInfo key = some o)
    (hacc : o.acc ≠ .wo) (hty : o.ty = .domain) (hcopy : serveCopy k 0 = .ok x) :
    sdoUpload k c key = sdoAbort k (sdoSet c .idle) key (sdoAbortCode Rc.TYPE_MISMATCH key) := by
  unfold sdoUpload
  simp only [hinfo, hcopy, hacc, hty, if_false, if_true]

theorem execSdoUploadInitiate_of_served {s : State} (ix : BitVec 16) (sub : BitVec 8) (hs : sdoServed s.found = true) :
    execSdoUploadInitiate ix sub s =
      .next { s with chip := sdoUpload s.keeper s.found (mkKey ix.toNat sub.toNat) } :=
  onChip_eq_next (if_pos hs)

/-- A segment of an upload that is not its last carries seven bytes and turns the toggle. -/
theorem sdoUploadSeg_of_more {k : Keeper} {c : Chip} {tog : Bool} {key copy last : Nat} {rest : List Byte}
    (hup : c.dict.sdo = .up key rest tog copy last) (hmore : 7 < rest.length) :
    sdoUploadSeg k c tog = sdoSet (sdoSend k c (leBytes 1 (if tog then 0x10 else 0) ++ rest.take 7))
      (.up key (rest.drop 7) (!tog) copy k.epoch) := by
  have htake : (rest.take 7).length = 7 := by rw [List.length_take]; omega
  have hdrop : rest.drop 7 ≠ [] := by rw [Ne, List.drop_eq_nil_iff]; omega
  unfold sdoUploadSeg
  simp only [hup, hdrop, htake, if_false, ne_eq, not_true_eq_false, Nat.sub_self, Nat.mul_zero, Nat.add_zero]

theorem execSdoUploadSegment_of_served {s : State} (tog : Bool) (hs : sdoServed s.found = true) :
    execSdoUploadSegment tog s = .next { s with chip := sdoUploadSeg s.keeper s.found tog } :=
  onChip_eq_next (if_pos hs)

theorem sdoDownload_of_segmented {k : Keeper} {c : Chip} {key : Nat} {o : ObjInfo} (size : Option Nat)
    (hcheck : checkAccess (sdoSet c .idle) key false = .ok o) (hty : o.ty ≠ .domain) :
    sdoDownload k c key none size =
      sdoSend k (sdoSet c (.down key [] size false k.epoch)) (leBytes 1 0x60 ++ sdoName key) := by
  unfold sdoDownload
  simp only [hcheck, hty, if_false]
  rfl

/-- An expedited download of an accepted value is one write (R65). -/
theorem sdoDownload_of_accepted {k : Keeper} {c d : Chip} {key : Nat} {o : ObjInfo} {b : List Byte} {v : Val}
    (size : Option Nat) (hcheck : checkAccess (sdoSet c .idle) key false = .ok o) (hty : o.ty ≠ .domain)
    (hjudge : judgeOne k (sdoSet c .idle) key .sdo b = (Rc.OK, v, d)) :
    sdoDownload k c key (some b) size = sdoSend k (takeWrite k d .sdo key v) (leBytes 1 0x60 ++ sdoName key) := by
  unfold sdoDownload
  simp only [hcheck, hty, if_false, sdoWrite, hjudge, if_true]

theorem execSdoDownloadInitiate_of_served {s : State} (ix : BitVec 16) (sub : BitVec 8) (expedited : Option (List Byte))
    (size : Option Nat) (hs : sdoServed s.found = true) :
    execSdoDownloadInitiate ix sub expedited size s =
      .next { s with chip := sdoDownload s.keeper s.found (mkKey ix.toNat sub.toNat) expedited size } :=
  onChip_eq_next (if_pos hs)

theorem sdoDownloadSeg_of_more {k : Keeper} {c : Chip} {tog : Bool} {key last : Nat} {got : List Byte} (data : List Byte)
    {size : Option Nat} (hdown : c.dict.sdo = .down key got size tog last) :
    sdoDownloadSeg k c tog data false = sdoSend k (sdoSet c (.down key (got ++ data) size (!tog) k.epoch))
      (leBytes 1 (0x20 + if tog then 0x10 else 0)) := by
  unfold sdoDownloadSeg
  simp only [hdown, ne_eq, not_true_eq_false, if_false, Bool.not_false, if_true]

theorem execSdoDownloadSegment_of_served {s : State} (tog : Bool) (data : List Byte) (last : Bool)
    (hs : sdoServed s.found = true) :
    execSdoDownloadSegment tog data last s = .next { s with chip := sdoDownloadSeg s.keeper s.found tog data last } :=
  onChip_eq_next (if_pos hs)

/-- A transfer that waits for more than 1,000 ms is aborted (R65). -/
theorem execSdoSegmentTimeout_of_late {s : State} {key copy last : Nat} {rest : List Byte} {tog : Bool}
    (hup : s.chip.dict.sdo = .up key rest tog copy last) (hlate : last + 1000 < s.keeper.epoch) :
    execSdoSegmentTimeout s = .next { s with chip :=
      (sdoSend s.keeper (sdoSet s.found .idle) (leBytes 1 0x80 ++ sdoName key ++ leBytes 4 0x05040000)) } := by
  have hup : s.found.dict.sdo = .up key rest tog copy last := hup
  refine onChip_eq_next ?_
  unfold sdoTimeout
  simp only [hup, hlate, if_true]
  rfl

/-! ## JOP datagrams (R49–R55, R464) -/

/-- The chip once a datagram is counted and its operations queued (R464). -/
def jopQueued (c : Chip) (n : Nat) : Chip := (c.bump Key.Jop.JOP_DATAGRAMS).put Key.Load.JOP_QUEUED n

/-- A sound datagram for this module that finds room is served. -/
theorem jopTake_of_sound {k : Keeper} {c : Chip} {addr : BitVec 32} {port : BitVec 16} {ahead : Nat} {data : List Byte}
    {h : JopHead} {ops : List JopOp} (hhead : jopHead data = some h) (hroom : ahead + h.count ≤ 2000)
    (hops : parseOps h.count (data.drop 16) = some ops) (hsound : jopRefused h (some ops) false = false)
    (htarget : h.target = 0) {resp : List Byte} {d : Chip}
    (hserve : jopServe k (jopQueued c (ahead + h.count)) addr port h ops = (some resp, d)) :
    jopTake k c addr port ahead false data = (.answer resp, d) := by
  unfold jopQueued at hserve
  unfold jopTake
  simp only [hhead, Nat.not_lt.2 hroom, if_false, hops, hsound, htarget, Bool.false_eq_true, Option.getD_some,
    decide_true, Bool.false_or, Bool.true_or, if_true, hserve]

/-- The response to a datagram whose operations have run (R54). -/
def jopAnswer (k : Keeper) (h : JopHead) (r : Chip × List JopOp) : List Byte :=
  jopResponse (fabNumber r.1) h.seq (serviceEpoch k h.epoch) false r.2

/-- A datagram that its source has not sent before is executed and answered (R53–R55). -/
theorem jopServe_of_new {k : Keeper} {c : Chip} {addr : BitVec 32} {port : BitVec 16} {h : JopHead} (ops : List JopOp)
    (hnew : c.dict.kept.find? (fun q => decide (q.addr = addr ∧ q.port = port ∧ q.seq = h.seq)) = none)
    (hloud : bitOf h.flags 6 = false) :
    let r := runOps k c (.jop addr port) h.epoch ops
    jopServe k c addr port h ops =
      (some (jopAnswer k h r), keptPut r.1 ⟨addr, port, h.seq, some (jopAnswer k h r)⟩) := by
  unfold jopServe
  simp only [hnew, hloud, Bool.false_and, Bool.false_eq_true, if_false]
  rfl

/-- A repeat is counted and answered again, and nothing of it is executed (R55). -/
theorem jopServe_of_repeat {k : Keeper} {c : Chip} {addr : BitVec 32} {port : BitVec 16} {h : JopHead} (ops : List JopOp)
    {e : Kept}
    (hkept : c.dict.kept.find? (fun q => decide (q.addr = addr ∧ q.port = port ∧ q.seq = h.seq)) = some e) :
    jopServe k c addr port h ops = (e.resp, (keptPut c e).bump Key.Jop.JOP_REPEATS) := by
  unfold jopServe
  simp only [hkept]

@[simp] theorem keptPut_od (c : Chip) (e : Kept) : (keptPut c e).od = c.od := by
  simp only [keptPut]

/-- Of the objects a repeat changes only the counters and the queue's length. -/
theorem jopRepeated_facts (c : Chip) (n : Nat) (e : Kept) :
    ((keptPut (jopQueued c n) e).bump Key.Jop.JOP_REPEATS).num Key.Jop.JOP_REPEATS =
        (c.num Key.Jop.JOP_REPEATS + 1) % 0x100000000 ∧
      KeepsObjects [Key.Jop.JOP_DATAGRAMS, Key.Load.JOP_QUEUED, Key.Jop.JOP_REPEATS] c
        ((keptPut (jopQueued c n) e).bump Key.Jop.JOP_REPEATS) := by
  have hqueued : KeepsObjects [Key.Jop.JOP_DATAGRAMS, Key.Load.JOP_QUEUED, Key.Jop.JOP_REPEATS] c (jopQueued c n) :=
    ((KeepsObjects.of_od rfl).bump _ (by simp)).put _ (by simp)
  have hkept : KeepsObjects [] (jopQueued c n) (keptPut (jopQueued c n) e) := KeepsObjects.of_od (keptPut_od _ _)
  refine ⟨?_, (hqueued.trans (hkept.mono (by simp))).bump _ (by simp)⟩
  rw [Chip.num_bump_same, Chip.num_of_od (keptPut_od _ _)]
  simp (disch := decide) [jopQueued]

theorem execJopDatagram_of_answered {s : State} {addr : BitVec 32} {port : BitVec 16} {ahead : Nat} {data resp : List Byte}
    {d : Chip} (hs : served s.chip = true)
    (htake : jopTake s.keeper s.found addr port ahead false data = (.answer resp, d)) :
    execJopDatagram addr port ahead data s = .next { s with chip := d.emit (.jop addr port resp) } := by
  refine onChip_eq_next ((if_pos hs).trans ?_)
  unfold jopEntry
  simp only [htake]

/-! ## Commands that apply at once (R203, R205, R228, R247) -/

theorem commandNow_of_accepted {k : Keeper} {c d : Chip} {key n : Nat} {v : Val} (take : Chip → Chip)
    (hs : served c = true) (hjudge : judgeOne k c key .sdo (numBytes key n) = (Rc.OK, v, d)) :
    commandNow k c key n take = take (d.put key n) := by
  unfold commandNow
  simp only [hs, hjudge, Bool.not_true, Bool.false_eq_true, if_false, if_true]

theorem commandNow_of_refused {k : Keeper} {c d : Chip} {key n code : Nat} {v : Val} (take : Chip → Chip)
    (hs : served c = true) (hcode : code ≠ Rc.OK)
    (hjudge : judgeOne k c key .sdo (numBytes key n) = (code, v, d)) :
    commandNow k c key n take = d.emit (.result code []) := by
  unfold commandNow
  simp only [hs, hjudge, Bool.not_true, Bool.false_eq_true, if_false, hcode]

/-! ## The valve drive (R197, R202, R207, R210, R213, R222) -/

theorem execValveCommand_answers (ch : Fin 48) (value : F32) (s : State) :
    execValveCommand ch value s = .next { s with chip :=
      (commandNow s.keeper s.found (Key.Valve.COMMAND ch) value.toNat fun c => valveAct s.keeper c ch value.toNat) } := rfl

theorem execPeakTimeExpiry_of_due {s : State} {ch : Fin 48} {a : Nat} (hpeak : (vcOf s.found ch).peakAt = some a)
    (hdue : a + 1000 * s.found.num (Key.Valve.PEAK_TIME_MAX ch) ≤ nowUs s.keeper s.found) :
    execPeakTimeExpiry ch s = .next { s with chip :=
      (vcSettle s.keeper (vcSet s.found ch { vcOf s.found ch with peakOver := true }) ch) } := by
  refine onChip_eq_next ?_
  simp only [hpeak, hdue, if_true]

theorem execOverlapWinExpiry_of_due {s : State} {ch : Fin 48} {a : Nat} (htry : (vcOf s.found ch).tryAt = some a)
    (hdue : a + 1000 * s.found.num (Key.Bank.OVERLAP_WIN (ch / 4)) ≤ nowUs s.keeper s.found) :
    execOverlapWinExpiry ch s = .next { s with chip := vcRefuse s.keeper s.found ch false } := by
  refine onChip_eq_next ?_
  simp only [htry, hdue, if_true]

theorem execLowSideHardCut_of_driven {s : State} (ch : Fin 48) (hdrives : s.found.modes.drives = true) :
    execLowSideHardCut ch s = .next { s with chip :=
      (raise s.keeper (vcSet s.found ch { vcOf s.found ch with cut := true }) 0x0702 (unitValve ch)) } :=
  onChip_eq_next (if_neg (by simp [hdrives]))

/-- The chip once a bank's switch has opened for a fault, before the event is raised (R197). -/
def bankOpened (k : Keeper) (c : Chip) (b code : Nat) : Chip :=
  ({ c with valve := { c.valve with trips := c.valve.trips.set b (some (nowUs k c, code)) } } : Chip).put
    (Key.Bank.BANK_STATE b) 3

theorem execBankSwitchTrip_of_driven {s : State} (b : Fin 12) (hdrives : s.found.modes.drives = true)
    (hash : s.found.num (Key.Bank.BANK_STATE b) ≠ 4) :
    execBankSwitchTrip b s = .next { s with chip :=
      (raise s.keeper (bankOpened s.keeper s.found b 0x0707) 0x0707 (unitBank b)) } := by
  refine onChip_eq_next ((if_neg (by simp [hdrives])).trans ?_)
  exact if_neg hash

/-- The objects of the fault handler and the health condition stand on pages 0x23 and 0x47. -/
theorem not_event_of_page {ix sub : Nat} (hlow : 0x2400 ≤ ix) (hhigh : ix < 0x4700) (hsub : sub < 256) :
    ix * 256 + sub ∉ eventKeys := by
  have hpages : ∀ key ∈ eventKeys, key < 0x240000 ∨ 0x470000 ≤ key := by decide
  intro hmem
  have := hpages _ hmem
  omega

/-- A bank whose switch opened for a fault recloses 10 ms later (R222). -/
theorem execBankReclose_of_due {s : State} {b : Fin 12} {a code : Nat} (htrip : nth s.found.valve.trips b none = some (a, code))
    (hopen : s.found.num (Key.Bank.BANK_STATE b) = 3) (hdue : a + 10000 ≤ nowUs s.keeper s.found) :
    execBankReclose b s = .next { s with chip := (bankShow
      (({ s.found with valve := { s.found.valve with trips := s.found.valve.trips.set b none } } : Chip).put
        (Key.Bank.BANK_STATE b) 0) b) } := by
  refine onChip_eq_next ?_
  simp only [htrip, hopen, hdue, decide_true, Bool.and_self, if_true]

/-! ## Load switches (R226–R240) -/

theorem execLoadSwitchCommand_answers (ch : Fin 48) (value : F32) (s : State) :
    execLoadSwitchCommand ch value s = .next { s with chip :=
      (commandNow s.keeper s.found (Key.Ls.COMMAND ch) value.toNat fun c => lsAct s.keeper c ch value.toNat true) } := rfl

/-- A channel that is off has nothing to trip (R239). -/
theorem lsTrip_of_off (k : Keeper) {c : Chip} {n : Nat} (kind : TripKind) (injected : Bool) (hoff : (lsOf c n).on = false) :
    lsTrip k c n kind injected = c := by
  unfold lsTrip
  simp only [hoff, Bool.not_false, Bool.true_or, if_true]

theorem execInrushWindowEnd_of_over {s : State} {ch : Fin 48} (hinrush : s.found.num (Key.Ls.STATE ch) = 1)
    (hover : (lsOf s.found ch).onAt + 1000 * s.found.num (Key.Ls.INRUSH_MS ch) ≤ nowUs s.keeper s.found) :
    execInrushWindowEnd ch s = .next { s with chip := s.found.put (Key.Ls.STATE ch) 2 } :=
  onChip_eq_next (if_pos (by simp only [hinrush, hover, decide_true, Bool.and_self]))

theorem execLsRetry_of_ready {s : State} {ch : Fin 48} (hready : retryReady s.keeper s.found ch = true) :
    let c := lsHeldDuty (lsSwitchOn s.keeper (lsSet s.found ch { lsOf s.found ch with
      attempts := (lsOf s.found ch).attempts ++ [nowUs s.keeper s.found] }) ch) ch
    execLsRetry ch s = .next { s with chip :=
      (if c.num (Key.Ls.STATE ch) = 4 then c else c.put (Key.Ls.STATE ch) 1) } :=
  onChip_eq_next (if_neg (by rw [hready]; decide))

theorem execJunctionLatchSet_of_driven {s : State} (ch : Fin 48) (hdrives : s.found.modes.drives = true) :
    execJunctionLatchSet ch s = .next { s with chip := latchSet s.keeper s.found ch false } :=
  onChip_eq_next (if_pos hdrives)

theorem execJunctionLatchClear_of_cool {s : State} {ch : Fin 48}
    (hcool : armedFor s.keeper s.found Key.InjLs.INJ_LS_THERMAL ch = false) :
    execJunctionLatchClear ch s = .next { s with chip :=
      ((lsSet s.found ch { lsOf s.found ch with latch := false }).putBits (Key.Ls.FLAGS ch) 0x80 false) } :=
  onChip_eq_next (if_neg (by rw [hcool]; decide))

/-- A section whose own curve stays below its limit takes its new θ, and no section trips (R240). -/
theorem execWireCurveUpdate_of_below {s : State} {sec : Fin 6} {spacing : Fin 101} {samples : List (List F32)}
    (hdrives : s.found.modes.drives = true) :
    let n := sec.val
    let now := fun i => (nth samples i []).map BitVec.toNat
    let sum := (List.range 8).foldl (fun a i => fAdd fmt64 a (meanSquare (now i))) 0
    let c := (List.range 8).foldl (fun c i => wireStep s.keeper c (8 * n + i) spacing (now i)) s.found
    let theta := thetaStep (secOf c n).theta sum 400 10
    armedAt c Key.InjLs.INJ_SECTION_TRIP n = false → fLe fmt64 one64 theta = false →
    execWireCurveUpdate sec spacing samples s = .next { s with chip :=
      (disarm (secSet c n { secOf c n with theta }) Key.InjLs.INJ_SECTION_TRIP n) } := by
  intro n now sum c theta hinj hbelow
  refine onChip_eq_next ((if_neg (by rw [hdrives]; decide)).trans (if_neg ?_))
  show ¬(_ && _ && (armedAt c Key.InjLs.INJ_SECTION_TRIP n || fLe fmt64 one64 theta)) = true
  rw [hinj, hbelow, Bool.or_false, Bool.and_false]
  decide

theorem execSectionRestore_of_next {s : State} {sec : Fin 6} {m : Nat}
    (hrestoring : s.found.num (Key.Sec.SEC_STATE sec) = 2)
    (hdue : (secOf s.found sec).nextAt ≤ nowUs s.keeper s.found) :
    let c := s.found.putBits (Key.Sec.SEC_FLAGS sec) 2 false
    restoreNext c sec (secOf c sec).next = some m →
    let c := lsHeldDuty (lsSwitchOn s.keeper c m) m
    let c := if c.num (Key.Ls.STATE m) = 3 then c.put (Key.Ls.STATE m) 1 else c
    execSectionRestore sec s = .next { s with chip :=
      (secSet c sec { secOf c sec with next := m + 1, nextAt := nowUs s.keeper s.found + 10000 }) } := by
  intro c hnext
  refine onChip_eq_next ?_
  have hone : ¬(2 = 1) := by decide
  simp only [hrestoring, hdue, hone, if_false, decide_true, Bool.and_self, Bool.or_true, Bool.not_true,
    Bool.false_eq_true]
  simp only [c] at hnext
  simp only [hnext, c]

/-! ## Lamps and the supply of a section (R236) -/

/-- The compensated duty of a lamp (R236). -/
def lampDuty (c : Chip) (n : Nat) : Nat :=
  let r := fDiv fmt32 (c.num (Key.Ls.V_REF n)) (c.num (Key.Sec.V_SEC (n / 8)))
  fMul fmt32 (lsOf c n).run (fMul fmt32 r r)

/-- A lamp that is on, at its compensated duty or at full duty where that exceeds it (R236). -/
def lampLit (c : Chip) (n : Nat) : Chip :=
  let beyond := !fLe fmt32 (lampDuty c n) (fNat fmt32 1)
  (lsSet c n { lsOf c n with limited := (lsOf c n).limited || beyond }).put (Key.Ls.DUTY n)
    (if beyond then fNat fmt32 1 else lampDuty c n)

theorem lampLit_facts (c : Chip) (n : Nat) :
    (lampLit c n).num (Key.Ls.DUTY n) =
        (if fLe fmt32 (lampDuty c n) (fNat fmt32 1) then lampDuty c n else fNat fmt32 1) ∧
      KeepsObjects [Key.Ls.DUTY n] c (lampLit c n) := by
  refine ⟨(Chip.num_put_same ..).trans ?_, (KeepsObjects.of_od rfl).put _ (List.mem_singleton.2 rfl)⟩
  cases fLe fmt32 (lampDuty c n) (fNat fmt32 1) <;> rfl

/-- A lamp's period in a state of its own takes the COMMAND; a lamp that is on then has its compensated duty. -/
theorem execLampPeriodStart_of_live {s : State} {ch : Fin 48} (hdrives : s.found.modes.drives = true)
    (hlamp : s.found.num (Key.Ls.OUT_KIND ch) = 1) (hstate : s.found.num (Key.Ls.STATE ch) < 4) :
    execLampPeriodStart ch s = .next { s with chip :=
      (if (lsOf (lsTake s.keeper s.found ch) ch).on = true then lampLit (lsTake s.keeper s.found ch) ch
      else lsTake s.keeper s.found ch) } := by
  have hheld : s.found.num (Key.Ls.STATE ch) ≠ 4 := Nat.ne_of_lt hstate
  refine onChip_eq_next ?_
  simp only [hdrives, hlamp, hstate, hheld, decide_true, Bool.and_self, if_true, decide_false, Bool.false_and, Bool.or_false,
    Bool.not_true, Bool.false_or, if_false]
  by_cases hon : (lsOf (lsTake s.keeper s.found ch) ch).on = true
  · rw [if_pos hon, if_neg (by rw [hon]; decide)]
    rfl
  · rw [if_neg hon, if_pos (by simpa using hon)]

/-- The chip whose section has a supply in range, filtered (R236). -/
def secFiltered (c : Chip) (n v : Nat) : Chip :=
  let d := ((disarm (c.put (Key.Sec.V_MS n) v) Key.InjLs.INJ_SECTION_SUPPLY n).putBits (Key.Sec.SEC_FLAGS n) 4 false).putBits
    (Key.Sec.SEC_FLAGS n) 8 false
  d.put (Key.Sec.V_SEC n) (fAdd fmt32 (d.num (Key.Sec.V_SEC n)) (fMul fmt32 (ratio 198013 10000000)
    (fSub fmt32 v (d.num (Key.Sec.V_SEC n)))))

@[simp] theorem disarm_od (c : Chip) (key n : Nat) : (disarm c key n).od = c.od := rfl
@[simp] theorem disarm_num (c : Chip) (key n k : Nat) : (disarm c key n).num k = c.num k := Chip.num_of_od (disarm_od ..) k

theorem secFiltered_facts (c : Chip) (n v : Nat) :
    (secFiltered c n v).num (Key.Sec.V_MS n) = v ∧
      (secFiltered c n v).num (Key.Sec.V_SEC n) = fAdd fmt32 (c.num (Key.Sec.V_SEC n)) (fMul fmt32 (ratio 198013 10000000)
        (fSub fmt32 v (c.num (Key.Sec.V_SEC n)))) ∧
      KeepsObjects [Key.Sec.V_MS n, Key.Sec.V_SEC n, Key.Sec.SEC_FLAGS n] c (secFiltered c n v) := by
  refine ⟨?_, ?_, ?_⟩
  · simp (disch := exact key_ne_of_sub (by decide)) [secFiltered]
  · simp (disch := exact key_ne_of_sub (by decide)) [secFiltered]
  · have hshown : KeepsObjects [Key.Sec.V_MS n, Key.Sec.V_SEC n, Key.Sec.SEC_FLAGS n] c
        (disarm (c.put (Key.Sec.V_MS n) v) Key.InjLs.INJ_SECTION_SUPPLY n) :=
      ((KeepsObjects.of_od rfl).put _ (by simp)).trans (KeepsObjects.of_od (disarm_od ..))
    exact ((hshown.putBits _ _ (by simp)).putBits _ _ (by simp)).put _ (by simp)

theorem execSectionVoltageFilter_of_sound {s : State} {sec : Fin 6} {v : F32} (hdrives : s.found.modes.drives = true)
    (harmed : armedAt s.found Key.InjLs.INJ_SECTION_SUPPLY sec = false) (hlow : fLt fmt32 v.toNat (fNat fmt32 9) = false)
    (hhigh : fLt fmt32 (fNat fmt32 36) v.toNat = false) (hloaded : (secOf s.found sec).loaded = true) :
    execSectionVoltageFilter sec v s = .next { s with chip :=
      (closeHandling (secFiltered s.found sec v.toNat) 0x0808 (unitSec sec)) } := by
  refine onChip_eq_next ((if_neg (by rw [hdrives]; decide)).trans ?_)
  have hloaded' : (secOf (((disarm (s.found.put (Key.Sec.V_MS sec) v.toNat) Key.InjLs.INJ_SECTION_SUPPLY sec).putBits
      (Key.Sec.SEC_FLAGS sec) 4 false).putBits (Key.Sec.SEC_FLAGS sec) 8 false) sec).loaded = true := hloaded
  simp only [harmed, hlow, hhigh, hloaded', Bool.or_self, Bool.false_eq_true, if_false, Bool.not_true, Bool.false_and]
  rfl

theorem execOpenLoadDetect_of_on {s : State} {ch : Fin 48} (hon : (lsOf s.found ch).on = true)
    (hopen : s.found.num (Key.Ls.OPEN_MA ch) ≠ 0) :
    execOpenLoadDetect ch s = .next { s with chip := openLoad s.keeper s.found ch false } :=
  onChip_eq_next (if_pos (by rw [hon, decide_eq_true hopen]; decide))

/-! ## Isolated inputs and outputs (R243–R248) -/

/-- A pin at or above the threshold of its input type is on, one at 5 V or below is off (Table 8.4). -/
theorem dioThreshold_of_high {c : Chip} {n : Nat} {mV : Int}
    (h : (if c.num (Key.Dio.IN_TYPE n) = 3 then 11000 else 15000) ≤ mV) : dioThreshold c n mV = (true, c) := if_pos h

theorem dioThreshold_of_low {c : Chip} {n : Nat} {mV : Int} (h : mV ≤ 5000) : dioThreshold c n mV = (false, c) := by
  have hlow : ¬(if c.num (Key.Dio.IN_TYPE n) = 3 then 11000 else 15000) ≤ mV := by split <;> omega
  exact (if_neg hlow).trans (if_pos h)

theorem execDioInputEdge_of_level {s : State} {ch : Fin 128} {pin : PinSample} {level : Bool}
    (hpower : dioPowered s.found = true) (hlevel : dioThreshold s.found ch pin.mV = (level, s.found)) :
    execDioInputEdge ch pin false s =
      .next { s with chip := dioLevel s.keeper s.found ch level (s.keeper.epoch * 1000 + pin.atUs) } := by
  refine onChip_eq_next ((if_neg (by rw [hpower]; decide)).trans ?_)
  simp only [Bool.false_eq_true, if_false, hlevel]

theorem execDoCmd_answers (ch : Fin 128) (value : Bool) (s : State) :
    execDoCmd ch value s = .next { s with chip :=
      (commandNow s.keeper s.found (Key.Dio.DO_CMD ch) (if value then 1 else 0) fun c => dioAct s.keeper c ch value) } := rfl

theorem execDioGroupOvercurrent_of_powered {s : State} {g : Fin 8} (hpower : dioPowered s.found = true)
    (hash : keyAshed s.found (Key.Grp.GROUP_STATE g) = false) :
    execDioGroupOvercurrent g s = .next { s with chip := grpOverload s.keeper s.found g false } :=
  onChip_eq_next (if_neg (by rw [hpower, hash]; decide))

theorem execDioOverloadRetry_of_channel {s : State} {ch : Fin 128} {a : Nat}
    (hretry : (dioOf s.found ch).retryAt = some a) (hdue : a ≤ nowUs s.keeper s.found) :
    execDioOverloadRetry (.inl ch) s = .next { s with chip := dioRetry s.keeper s.found ch } := by
  refine onChip_eq_next ?_
  simp only [hretry, hdue, if_true]

theorem execDioOverloadRetry_of_group {s : State} {g : Fin 8} {a : Nat}
    (hretry : (grpOf s.found g).retryAt = some a) (hdue : a ≤ nowUs s.keeper s.found) :
    execDioOverloadRetry (.inr g) s = .next { s with chip := ((grpChans g).foldl
      (fun c n => if (dioOf c n).retryAt.isNone then dioRetry s.keeper c n else c)
      ((grpSet s.found g { grpOf s.found g with retryAt := none }).putBits (Key.Grp.GROUP_FLAGS g) 4 false)) } := by
  refine onChip_eq_next ?_
  simp only [hretry, hdue, if_true]

@[simp] theorem dioSet_num (c : Chip) (n : Nat) (x : DioX) (key : Nat) : (dioSet c n x).num key = c.num key := rfl

/-- A new level changes of the store the channel's STATE, its count and the epoch of its edge (R245). -/
theorem dioLevel_keeps (k : Keeper) (c : Chip) (n : Nat) (level : Bool) (at_ : Nat) :
    KeepsObjects [Key.Dio.STATE n, Key.Dio.COUNT n, Key.Dio.EDGE_EPOCH n] c (dioLevel k c n level at_) := by
  have hstate : KeepsObjects [Key.Dio.STATE n, Key.Dio.COUNT n, Key.Dio.EDGE_EPOCH n] c
      ((dioSet c n { dioOf c n with level }).putFlag (Key.Dio.STATE n) (level != c.flag (Key.Dio.INVERT n))) :=
    KeepsObjects.putFlag _ (KeepsObjects.of_od rfl) (by simp)
  unfold dioLevel
  dsimp only
  split
  · exact hstate
  · split
    · exact KeepsObjects.bump _ (hstate.put _ (by simp)) (by simp)
    · exact hstate.put _ (by simp)

@[simp] theorem dioLevel_flt (k : Keeper) (c : Chip) (n : Nat) (level : Bool) (at_ : Nat) :
    (dioLevel k c n level at_).flt = c.flt := by
  unfold dioLevel
  dsimp only
  split
  · rfl
  · split <;> rfl

theorem dioLevel_num (k : Keeper) (c : Chip) {n key : Nat} (level : Bool) (at_ : Nat)
    (hkey : key ∉ [Key.Dio.STATE n, Key.Dio.COUNT n, Key.Dio.EDGE_EPOCH n]) :
    (dioLevel k c n level at_).num key = c.num key := by
  simp only [Chip.num, dioLevel_keeps k c n level at_ key hkey]

theorem dioLevel_num_state (k : Keeper) (c : Chip) (n : Nat) (level : Bool) (at_ : Nat) :
    (dioLevel k c n level at_).num (Key.Dio.STATE n) = if (level != c.flag (Key.Dio.INVERT n)) then 1 else 0 := by
  have hcount : Key.Dio.STATE n ≠ Key.Dio.COUNT n := key_ne_of_sub (by decide)
  have hepoch : Key.Dio.STATE n ≠ Key.Dio.EDGE_EPOCH n := key_ne_of_sub (by decide)
  unfold dioLevel
  dsimp only
  split
  · exact Chip.num_putFlag_same ..
  · split
    next hon =>
      rw [Chip.num_bump_ne _ _ hcount, dioSet_num, Chip.num_put_ne _ _ hepoch, Chip.num_putFlag_same, if_pos hon]
    next hoff => rw [Chip.num_put_ne _ _ hepoch, Chip.num_putFlag_same, if_neg hoff]

/-- STATE shows the level after INVERT (R245). -/
theorem dioLevel_state (k : Keeper) (c : Chip) (n : Nat) (level : Bool) (at_ : Nat) :
    (dioLevel k c n level at_).flag (Key.Dio.STATE n) = (level != c.flag (Key.Dio.INVERT n)) := by
  rw [Chip.flag_eq, dioLevel_num_state]
  cases level != c.flag (Key.Dio.INVERT n) <;> rfl

/-- A mismatch of an output whose overload flags are clear is judged on the pin's other level (R242, R246). -/
def dioMismatched (k : Keeper) (c : Chip) (n : Nat) : Chip :=
  (dioLevel k c n (!(dioOf c n).on) (nowUs k c)).putBits (Key.Dio.FLAGS n) 2 true

/-- The event of a mismatch is taken; FLAGS shows it, and STATE the level of the pin. -/
theorem dioMismatched_taken (k : Keeper) {c : Chip} {ch : Fin 128} (hfree : HandlerFree c 0x080C (unitDio ch)) :
    let d := raise k (dioMismatched k c ch) 0x080C (unitDio ch)
    Taken c d 0x080C (unitDio ch) false ∧ d.num (Key.Dio.FLAGS ch) = c.num (Key.Dio.FLAGS ch) ||| 2 ∧
      d.flag (Key.Dio.STATE ch) = ((!(dioOf c ch).on) != c.flag (Key.Dio.INVERT ch)) ∧
      KeepsObjects (Key.Dio.FLAGS ch :: Key.Dio.STATE ch :: Key.Dio.COUNT ch :: Key.Dio.EDGE_EPOCH ch :: eventKeys)
        c d := by
  dsimp only
  have hpage (sub : Nat) (hsub : sub < 256) : (0x3600 + ch.val) * 256 + sub ∉ eventKeys :=
    not_event_of_page (by omega) (by omega) hsub
  have hkeep : KeepsObjects [Key.Dio.FLAGS ch, Key.Dio.STATE ch, Key.Dio.COUNT ch, Key.Dio.EDGE_EPOCH ch] c
      (dioMismatched k c ch) :=
    KeepsObjects.putBits _ _ ((dioLevel_keeps k c ch _ _).mono fun _ hx => List.mem_cons_of_mem _ hx) (by simp)
  have hflt : (dioMismatched k c ch).flt = c.flt := dioLevel_flt ..
  have hown : ∀ key ∈ eventKeys, key ∉ [Key.Dio.FLAGS ch, Key.Dio.STATE ch, Key.Dio.COUNT ch, Key.Dio.EDGE_EPOCH ch] := by
    intro key hkey hmem
    simp only [List.mem_cons, List.not_mem_nil, or_false] at hmem
    rcases hmem with rfl | rfl | rfl | rfl <;> exact hpage _ (by decide) hkey
  obtain ⟨htaken, -, hall⟩ := raise_taken_keep k c (dioMismatched k c ch) 0x080C (unitDio ch) false _ hfree
    ⟨by rw [hflt], by unfold handlingOf; rw [hflt]⟩ hkeep hown
  refine ⟨htaken, ?_, ?_, hall⟩
  · rw [raise_num _ _ _ _ _ (hpage _ (by decide)), dioMismatched, Chip.num_putBits_same, if_pos rfl, dioLevel_num]
    simp
  · rw [Chip.flag_eq, raise_num _ _ _ _ _ (hpage _ (by decide)), dioMismatched,
      Chip.num_putBits_ne _ _ _ (key_ne_of_sub (by decide)), ← Chip.flag_eq, dioLevel_state]

theorem execDioMismatchDetect_of_clear {s : State} {ch : Fin 128} (hout : isOutput s.found ch = true)
    (hclear : s.found.num (Key.Dio.FLAGS ch) &&& 3 = 0) :
    execDioMismatchDetect ch s = .next { s with chip :=
      (raise s.keeper (dioMismatched s.keeper s.found ch) 0x080C (unitDio ch)) } := by
  have hdir : isOutput (dioLevel s.keeper s.found ch (!(dioOf s.found ch).on) (nowUs s.keeper s.found)) ch = true := by
    unfold isOutput
    rw [dioLevel_num]
    · exact hout
    · simp
  have hflags : (dioLevel s.keeper s.found ch (!(dioOf s.found ch).on) (nowUs s.keeper s.found)).num (Key.Dio.FLAGS ch) =
      s.found.num (Key.Dio.FLAGS ch) := dioLevel_num _ _ _ _ (by simp)
  refine onChip_eq_next ?_
  simp only [hout, if_true]
  exact if_neg (by rw [hdir, hflags, hclear]; decide)

/-! ## The barrier (R248) -/

theorem execBarrierFrame_of_bad {s : State} (g : Fin 8) (hdrives : s.found.modes.drives = true) :
    execBarrierFrame g false s = .next { s with chip := s.found.bump (Key.Grp.BARRIER_ERRORS g) } :=
  onChip_eq_next ((if_neg (by rw [hdrives]; decide)).trans (if_pos rfl))

theorem execBarrierFrame_of_marker {s : State} {g : Fin 8} (hdrives : s.found.modes.drives = true)
    (hnew : (grpOf s.found g).marker ≠ (grpOf s.found g).seen)
    (harmed : armedFor s.keeper s.found Key.InjLs.INJ_DIO_SILENCE g = false) (hloud : grpSilent s.found g = false) :
    execBarrierFrame g true s = .next { s with chip := ((grpChans g).foldl
      (fun c n => dioSet c n { dioOf c n with heldOn := (dioOf c n).on })
      (grpSet s.found g { grpOf s.found g with
        seen := (grpOf s.found g).marker, advance := nowUs s.keeper s.found, back := true })) } := by
  have hloud' (x : GrpX) : grpSilent (grpSet s.found g x) g = false := hloud
  refine onChip_eq_next ((if_neg (by rw [hdrives]; decide)).trans ((if_neg (by decide)).trans ?_))
  simp only [hnew, harmed, hloud, hloud', decide_false, Bool.or_self, Bool.false_and, Bool.false_eq_true, if_false]

/-- A group that hears no advancing epoch for its timeout takes its safe values (R248). -/
theorem execGroupSilence_of_over {s : State} {g : Fin 8} (hdrives : s.found.modes.drives = true)
    (hloud : s.found.num (Key.Grp.GROUP_STATE g) = 0)
    (hover : (grpOf s.found g).advance + 1000 * s.found.num (Key.Grp.SILENCE_TIMEOUT g) ≤
      nowUs s.keeper s.found + s.found.gnss.stretch / 1000000) :
    let c := ((((disarm (grpSet s.found g { grpOf s.found g with back := false }) Key.InjLs.INJ_DIO_SILENCE g).put
      (Key.Grp.GROUP_STATE g) 1).putBits (Key.Grp.GROUP_FLAGS g) 8 true).bump (Key.Grp.SILENCES g))
    execGroupSilence g s = .next { s with chip := (raise s.keeper ((grpChans g).foldl (fun c n =>
        if isOutput c n && decide (c.num (Key.Dio.CH_STATE n) ≠ 3) && decide (c.num (Key.Dio.CH_STATE n) ≠ 4) then
          dioSafe s.keeper c n (dioOf c n).heldOn else c) c) 0x080D (unitGrp g)
      (s.found.flt.armed.any fun a => decide (a.key = Key.InjLs.INJ_DIO_SILENCE) && decide (a.value = g.val))) } :=
  onChip_eq_next (if_neg (by
    rw [hdrives, decide_eq_false (not_not_intro hloud), decide_eq_false (Nat.not_lt.2 hover)]
    decide))

end Sys2Proof.Machine

/-! ## The statements -/

namespace Sys2Proof.Proofs.ObjectDictionary

open Sys2Proof Sys2Proof.Machine

/-- Settles O18, by induction on the operations: each reads back from its bytes and leaves those of the others. -/
theorem jopOperationsRoundTrip : Obligations.JopOperationsRoundTrip := by
  intro ops
  induction ops with
  | nil => exact fun _ => rfl
  | cons o t ih =>
    intro h
    rw [List.length_cons, List.flatMap_cons, parseOps_opBytes_append _ _ (h o (List.mem_cons_self ..)),
      ih fun x hx => h x (List.mem_cons_of_mem _ hx), Option.map_some]

/-- Settles O56: the highest sub-index is the last of a row, so it is present, and a row that lists a sub-index ends at
or below it. -/
theorem highestSubIndexIsShown : Obligations.HighestSubIndexIsShown := by
  intro ix sub hsub hpresent
  obtain ⟨r, hr⟩ := indexRow_of_present hsub hpresent
  obtain ⟨h, hhigh, ⟨x, hx, hlast⟩, hall⟩ := highestSub_of_row hr
  obtain ⟨hsub1, hsubs1, hfit⟩ := subsFit_of_mem_indexRows hx
  have hinfo : objInfo (mkKey ix 0) = some ⟨.u8, .ro, .num h, .any⟩ := by rw [objInfo_zero, hhigh]; rfl
  have hdflt : objDefault (mkKey ix 0) = .num h := by rw [objDefault, hinfo]
  have hlt : h < 256 := by omega
  refine ⟨h, hdflt, hlt, ⟨_, hinfo, rfl, rfl, rfl⟩, ?_, fun j hj hpresent => ?_⟩
  · exact (objInfo_isSome_iff hlt (by omega)).2 ⟨x, hx, by omega, by omega⟩
  · by_cases hne : j = 0
    · omega
    · obtain ⟨y, hy, -, hy2⟩ := (objInfo_isSome_iff hj hne).1 hpresent
      have := hall y hy
      omega

/-- Settles O30: a refused write is answered, and only the record of the last admission changes. -/
theorem refusedWritesAreAnswered : Obligations.RefusedWritesAreAnswered :=
  fun _ org _ _ _ _ _ h => execWrite_of_refused org h

/-- Settles O13: an armed slot, a captured one and a freed one show what was put into them. -/
theorem snapshotsComplete : Obligations.SnapshotsComplete := by
  refine ⟨fun s org target n entries hs hcheck hzero hnear hcopy hslot => ?_, fun s n x harmed hcopy => ?_,
    fun s n hheld hover => ?_⟩
  · obtain ⟨hout, hfacts⟩ := snapArmed_facts s.found org target n entries
    exact ⟨_, execSnapshot_of_future org hs hcheck hzero hnear hcopy hslot, Chip.emit_out_of_nil _ hout, hfacts⟩
  · exact ⟨_, execSnapshotCapture_of_armed harmed hcopy, snapCapture_facts s.keeper s.found n x⟩
  · exact ⟨_, execSnapshotExpiry_of_over hheld hover, snapFree_facts s.found n⟩

/-- Settles O14: one lemma for each cord operation, under the conditions that let it pass. -/
theorem cordsComplete : Obligations.CordsComplete := by
  refine ⟨fun s org n hs hruns hpick => ?_, fun s org h ix sub ty data n v hs hcord hlt hopen hroom hcheck => ?_,
    fun s h e n hs hruns hcord hopen hsound hlow hhigh => ?_, fun s h n hs hcord hlive => ?_, fun s n hopen hover => ?_⟩
  · exact execCordOpen_of_picked org hs hruns hpick
  · exact execCordAdd_of_checked org hs hcord hlt hopen hroom hcheck
  · exact execCordCommit_of_open hs hruns hcord hopen hsound hlow hhigh
  · obtain ⟨hout, hstate, hresult, hkeep⟩ := cordEnd_facts s.found n 6 Rc.OK
    exact ⟨_, execCordAbort_of_live hs hcord hlive, hstate, hresult, Chip.emit_out_of_nil _ hout, hkeep⟩
  · obtain ⟨-, hfacts⟩ := cordEnd_facts s.found n 6 Rc.CORD_EXPIRED
    exact ⟨_, execCordExpired_of_over hopen hover, hfacts⟩

/-- Settles O29: an accepted HEARTBEAT is processed at once, whatever its value. -/
theorem heartbeatRestartsSupervision : Obligations.HeartbeatRestartsSupervision := by
  intro s org value v hruns h
  obtain ⟨hdeadline, hepoch, hkind, haddr, hkeep⟩ := beat_facts s.keeper s.found org hruns
  exact ⟨_, execHeartbeat_of_accepted h, rfl, hdeadline, hepoch, hkind, haddr, rfl, hkeep⟩

/-- Settles O16: one lemma for each request of the server, under the conditions that let it pass. -/
theorem sdoServerCompletes : Obligations.SdoServerCompletes := by
  refine ⟨fun s ix sub o x hs hinfo hacc hty hcopy hkey hlow hhigh => ?_,
    fun s ix sub o x hs hinfo hacc hty hcopy => ?_, fun s tog key copy last rest hs hup hmore => ?_,
    fun s ix sub o size hs hcheck hty => ?_, fun s ix sub o b v c hs hcheck hty hjudge => ?_,
    fun s tog key last got data size hs hdown => ?_, fun s key copy last rest tog hup hlate => ?_⟩
  · exact ⟨_, (execSdoUploadInitiate_of_served ix sub hs).trans
      (next_chip_congr (sdoUpload_of_short hinfo hacc hty hcopy hkey hlow hhigh)), Chip.num_put_same .., rfl⟩
  · exact (execSdoUploadInitiate_of_served ix sub hs).trans (next_chip_congr (sdoUpload_of_domain hinfo hacc hty hcopy))
  · exact ⟨_, (execSdoUploadSegment_of_served tog hs).trans (next_chip_congr (sdoUploadSeg_of_more hup hmore)), rfl, rfl⟩
  · exact (execSdoDownloadInitiate_of_served ix sub none size hs).trans
      (next_chip_congr (sdoDownload_of_segmented size hcheck hty))
  · exact (execSdoDownloadInitiate_of_served ix sub (some b) none hs).trans
      (next_chip_congr (sdoDownload_of_accepted none hcheck hty hjudge))
  · exact (execSdoDownloadSegment_of_served tog data false hs).trans (next_chip_congr (sdoDownloadSeg_of_more data hdown))
  · exact execSdoSegmentTimeout_of_late hup hlate

/-- Settles O17: a datagram is served either by executing it or by the response kept for it. -/
theorem jopDatagramsAreAnswered : Obligations.JopDatagramsAreAnswered := by
  refine ⟨fun s addr port ahead data h ops hs hhead hroom hops hsound htarget hloud hnew => ?_,
    fun s addr port ahead data resp h ops e hs hhead hroom hops hsound htarget hkept hresp => ?_⟩
  · intro c r resp
    have hserve := jopServe_of_new (k := s.keeper) (c := jopQueued s.found (ahead + h.count)) ops hnew hloud
    exact execJopDatagram_of_answered hs (jopTake_of_sound hhead hroom hops hsound htarget hserve)
  · have hserve := jopServe_of_repeat (k := s.keeper) (c := jopQueued s.found (ahead + h.count)) ops hkept
    rw [hresp] at hserve
    obtain ⟨hnum, hkeep⟩ := jopRepeated_facts s.found (ahead + h.count) e
    exact ⟨_, execJopDatagram_of_answered hs (jopTake_of_sound hhead hroom hops hsound htarget hserve), rfl, hnum, hkeep⟩

/-- Settles O38: one lemma for each row, under the conditions that let it act. -/
theorem valveCommandsComplete : Obligations.ValveCommandsComplete := by
  refine ⟨fun s ch value v c hs hjudge => ?_, fun s ch value code v c hs hcode hjudge => ?_, fun s currents hdrives => ?_,
    fun s ch a hpeak hdue => ?_, fun s ch a htry hdue => ?_, fun s b clampJ hquench => ?_, fun s ch hdrives hfree => ?_,
    fun s b hdrives hash hfree => ?_, fun s b a code htrip hopen hdue => ?_⟩
  · exact (execValveCommand_answers ch value s).trans (next_chip_congr (commandNow_of_accepted _ hs hjudge))
  · exact (execValveCommand_answers ch value s).trans (next_chip_congr (commandNow_of_refused _ hs hcode hjudge))
  · show execShaperTick currents s = _
    exact onChip_eq_next (if_neg (by rw [hdrives]; decide))
  · exact execPeakTimeExpiry_of_due hpeak hdue
  · exact execOverlapWinExpiry_of_due htry hdue
  · show execQuenchComplete b clampJ s = _
    exact onChip_eq_next (if_neg (not_not_intro hquench))
  · obtain ⟨htaken, hkeep⟩ := raise_taken_same s.keeper s.found
      (vcSet s.found ch { vcOf s.found ch with cut := true }) 0x0702 (unitValve ch) false hfree rfl rfl
    exact ⟨_, execLowSideHardCut_of_driven ch hdrives, htaken, raise_valve .., hkeep⟩
  · obtain ⟨htaken, hstate, hkeep⟩ := raise_taken_put s.keeper s.found (bankOpened s.keeper s.found b 0x0707)
      0x0707 (unitBank b) false (Key.Bank.BANK_STATE b) 3 hfree rfl rfl (not_event_of_page (by omega) (by omega) (by decide))
    exact ⟨_, execBankSwitchTrip_of_driven b hdrives hash, htaken, hstate,
      congrArg ValveS.trips (raise_valve ..), hkeep⟩
  · exact execBankReclose_of_due htrip hopen hdue

/-- Settles O39: one lemma for each row, under the conditions that let it act. -/
theorem loadSwitchCommandsComplete : Obligations.LoadSwitchCommandsComplete := by
  refine ⟨fun s ch value v c hs hjudge => ?_, fun s ch value code v c hs hcode hjudge => ?_, fun s ch hon => rfl,
    fun s ch hoff => ?_, fun s ch hinrush hover => ?_, fun s ch hready => ?_, fun s ch hdrives => ?_, fun s ch hcool => ?_,
    fun s sec spacing samples hdrives => ?_, fun s sec m hrestoring hdue => ?_, fun s ch hdrives hlamp hstate => ?_,
    fun s sec v hdrives harmed hlow hhigh hloaded => ?_, fun s ch hon hopen => ?_⟩
  · exact (execLoadSwitchCommand_answers ch value s).trans (next_chip_congr (commandNow_of_accepted _ hs hjudge))
  · exact (execLoadSwitchCommand_answers ch value s).trans (next_chip_congr (commandNow_of_refused _ hs hcode hjudge))
  · show execHardShortCutoff ch s = _
    exact onChip_eq_next (lsTrip_of_off s.keeper .short false hoff)
  · exact execInrushWindowEnd_of_over hinrush hover
  · exact execLsRetry_of_ready hready
  · exact execJunctionLatchSet_of_driven ch hdrives
  · exact execJunctionLatchClear_of_cool hcool
  · exact execWireCurveUpdate_of_below hdrives
  · exact execSectionRestore_of_next hrestoring hdue
  · intro c r d
    refine ⟨fun hoff => ?_, fun hon => ?_⟩
    · exact (execLampPeriodStart_of_live hdrives hlamp hstate).trans
        (next_chip_congr (if_neg (by rw [hoff]; decide)))
    · exact ⟨_, (execLampPeriodStart_of_live hdrives hlamp hstate).trans (next_chip_congr (if_pos hon)),
        lampLit_facts c ch⟩
  · obtain ⟨hshown, hfiltered, hkeep⟩ := secFiltered_facts s.found sec v.toNat
    exact ⟨_, execSectionVoltageFilter_of_sound hdrives harmed hlow hhigh hloaded,
      (Chip.num_of_od (closeHandling_od ..) _).trans hshown, (Chip.num_of_od (closeHandling_od ..) _).trans hfiltered,
      hkeep.trans (KeepsObjects.of_od (closeHandling_od ..))⟩
  · exact execOpenLoadDetect_of_on hon hopen

/-- Settles O40: one lemma for each row, under the conditions that let it act. -/
theorem isolatedIoCommandsComplete : Obligations.IsolatedIoCommandsComplete := by
  refine ⟨fun s ch mV t hpower => ⟨fun hhigh => ?_, fun hlow => ?_⟩, fun s ch value v c hs hjudge => ?_,
    fun s ch value code v c hs hcode hjudge => ?_, fun s ch hout hon => rfl, fun s g hpower hash => ?_,
    fun s ch a hretry hdue => ?_, fun s g a hretry hdue => ?_, fun s ch hout hclear hfree => ?_, fun s g hdrives => ?_,
    fun s g hdrives hnew harmed hloud => ?_, fun s g hdrives hloud hover => ?_⟩
  · exact execDioInputEdge_of_level hpower (dioThreshold_of_high hhigh)
  · exact execDioInputEdge_of_level hpower (dioThreshold_of_low hlow)
  · exact (execDoCmd_answers ch value s).trans (next_chip_congr (commandNow_of_accepted _ hs hjudge))
  · exact (execDoCmd_answers ch value s).trans (next_chip_congr (commandNow_of_refused _ hs hcode hjudge))
  · exact execDioGroupOvercurrent_of_powered hpower hash
  · exact execDioOverloadRetry_of_channel hretry hdue
  · exact execDioOverloadRetry_of_group hretry hdue
  · obtain ⟨htaken, hfacts⟩ := dioMismatched_taken s.keeper hfree
    exact ⟨_, execDioMismatchDetect_of_clear hout hclear, htaken, hfacts⟩
  · exact ⟨_, execBarrierFrame_of_bad g hdrives, Chip.num_bump_same ..,
      (KeepsObjects.of_od rfl).bump _ (List.mem_singleton.2 rfl)⟩
  · exact execBarrierFrame_of_marker hdrives hnew harmed hloud
  · exact execGroupSilence_of_over hdrives hloud hover

end Sys2Proof.Proofs.ObjectDictionary
end

section
/-! PROOFS. The statements of the operating modes: KINDLING's steps (R87–R89), the heartbeat (R90), the order of what an
edge decides (R94), wake events and the key (R98, R99). -/

namespace Sys2Proof.Machine

/-! ## The mode at an edge (R94, R95) -/

/-- SAFE is entered whatever its causes, from KINDLING too. -/
@[simp] theorem enterSafe_mode (k : Keeper) (c : Chip) (l : List SafeDue) : (enterSafe k c l).mode = .safe :=
  setMode_mode ..

/-- BANKED is entered: neither the restart nor the safe values of the outputs touch the mode. -/
@[simp] theorem enterBanked_mode (k : Keeper) (c : Chip) : (enterBanked k c).mode = .banked := by
  unfold enterBanked
  dsimp only
  split
  · rw [outputsSafe_mode, Chip.put_mode, coreRestart_mode, setMode_mode]
  · rw [Chip.put_mode, coreRestart_mode, setMode_mode]

theorem modeEdge_of_bankDue {k : Keeper} {c : Chip} (req : Option Nat) (hbank : bankDueAt k c = true) :
    modeEdge k c req = enterBanked k c := if_pos hbank

theorem modeEdge_of_safeDue {k : Keeper} {c : Chip} (req : Option Nat) (hbank : bankDueAt k c = false)
    (hdue : safeDueAt k c ≠ []) (hsafe : c.mode ≠ .safe) : modeEdge k c req = enterSafe k c (safeDueAt k c) :=
  (if_neg (by rw [hbank]; decide)).trans (if_pos (by simp [hdue, hsafe]))

/-! ## KINDLING's steps (R87–R89) -/

/-- The chip once the work of a KINDLING step is done and the step's detectors have reported. -/
def kindlingWorked (k : Keeper) (c : Chip) (f : KindlingFinding) (step : Nat) : Chip :=
  stepFault k (stepWork k c f step) f

/-- K9 leaves the handover to the next edge (R89). -/
def handoverDue (c : Chip) : Chip :=
  { c.put Key.Kindling.KINDLING_STEP 10 with modes := { c.modes with exitDue := true } }

/-- What follows the end of a step: K0 looks for a wake source, K9 awaits its edge, any other step begins the next. -/
def kindlingNext (k : Keeper) (c : Chip) (step : Nat) : Chip :=
  if step = 0 then k0End k c else if step = 9 then handoverDue c else stepBegin k c (step + 1)

theorem handoverDue_od (c : Chip) : (handoverDue c).od = (c.put Key.Kindling.KINDLING_STEP 10).od := rfl

theorem kindlingNext_of_inner (k : Keeper) (c : Chip) {n : Nat} (hfirst : n ≠ 0) (hlast : n ≠ 9) :
    kindlingNext k c n = stepBegin k c (n + 1) := (if_neg hfirst).trans (if_neg hlast)

theorem kindlingNext_of_last (k : Keeper) (c : Chip) : kindlingNext k c 9 = handoverDue c := rfl

theorem stepFault_of_none (k : Keeper) (c : Chip) {f : KindlingFinding} (h : f.fault = none) : stepFault k c f = c := by
  unfold stepFault; rw [h]

/-- K9 does no work of its own. -/
theorem kindlingWorked_of_last (k : Keeper) (c : Chip) {f : KindlingFinding} (hfault : f.fault = none) :
    kindlingWorked k c f 9 = c := stepFault_of_none k c hfault

/-- A step that nothing held does its work; it ends unless that work, or a detector, reports a lasting fault (R88). -/
theorem kindlingStepEnd_of_running (k : Keeper) {c : Chip} (f : KindlingFinding) {n : Nat} (hmode : c.mode = .kindling)
    (hexit : c.modes.exitDue = false) (hbank : c.modes.bankDue = none) (hsound : kindlingFailing c = false)
    (hstep : c.num Key.Kindling.KINDLING_STEP = n) :
    kindlingStepEnd k c f =
      if kindlingFailing (kindlingWorked k c f n) = true then kindlingWorked k c f n
      else kindlingNext k (kindlingWorked k c f n) n := by
  subst hstep
  exact if_neg (by simp [hmode, hexit, hbank, hsound])

theorem kindlingStepEnd_of_inner {k : Keeper} {c : Chip} {f : KindlingFinding} {n : Nat} (hmode : c.mode = .kindling)
    (hexit : c.modes.exitDue = false) (hbank : c.modes.bankDue = none) (hsound : kindlingFailing c = false)
    (hstep : c.num Key.Kindling.KINDLING_STEP = n) (hfirst : n ≠ 0) (hlast : n ≠ 9)
    (hworked : kindlingFailing (kindlingWorked k c f n) = false) :
    kindlingStepEnd k c f = stepBegin k (kindlingWorked k c f n) (n + 1) := by
  rw [kindlingStepEnd_of_running k f hmode hexit hbank hsound hstep, if_neg (by rw [hworked]; decide),
    kindlingNext_of_inner _ _ hfirst hlast]

/-- K9 ends with the handover due where no detector reports a fault (R89). -/
theorem kindlingStepEnd_of_last {k : Keeper} {c : Chip} {f : KindlingFinding} (hmode : c.mode = .kindling)
    (hexit : c.modes.exitDue = false) (hbank : c.modes.bankDue = none) (hsound : kindlingFailing c = false)
    (hstep : c.num Key.Kindling.KINDLING_STEP = 9) (hfault : f.fault = none) :
    kindlingStepEnd k c f = handoverDue c := by
  rw [kindlingStepEnd_of_running k f hmode hexit hbank hsound hstep, kindlingWorked_of_last k c hfault,
    if_neg (by rw [hsound]; decide), kindlingNext_of_last]

theorem execKindlingStepEnd_answers (f : KindlingFinding) (s : State) :
    execKindlingStepEnd f s = .next { s with chip := kindlingStepEnd s.keeper s.found f } := rfl

/-! ## The heartbeat (R90) -/

theorem heartbeatMiss_of_late {k : Keeper} {c : Chip} {d : Nat} (hruns : modeRuns c.mode = true)
    (hdeadline : c.modes.deadline = some d) (hlate : d ≤ k.epoch) :
    heartbeatMiss k c = { c.bump Key.Hb.HB_MISSES with modes := { c.modes with
      safeDue := c.modes.safeDue ++ [⟨k.epoch + 1, 1, 0, false⟩], deadline := none } } :=
  if_pos (by simp [hruns, hdeadline, hlate])

/-! ## Wake events and the key (R98, R99) -/

theorem wakeHold_of_banked {c : Chip} (source : Nat) (h : c.mode = .banked) :
    wakeHold c source = { c with modes := { c.modes with held := heldWith c.modes.held source } } := if_pos h

@[simp] theorem wakeHold_od (c : Chip) (source : Nat) : (wakeHold c source).od = c.od := by
  unfold wakeHold; split <;> rfl

@[simp] theorem wakeHold_key (c : Chip) (source : Nat) : (wakeHold c source).modes.key = c.modes.key := by
  unfold wakeHold; split <;> rfl

/-- The key is active, and a wake that was remote no longer counts as such (R99). -/
def keyOn (c : Chip) : Chip := { c with modes := { c.modes with key := true } }.putFlag Key.Wake.REMOTE_WAKE false

theorem keyChange_of_press (k : Keeper) {c : Chip} (hoff : c.mode ≠ .off) (hkey : c.modes.key = false) :
    keyChange k c true = wakeHold (keyOn c) 1 := (if_neg (by simp [hoff, hkey])).trans (if_pos rfl)

theorem keyChange_of_release (k : Keeper) {c : Chip} (hoff : c.mode ≠ .off) (hkey : c.modes.key = true) :
    keyChange k c false = { c with modes := { c.modes with
      key := false, keyOff := k.epoch, held := c.modes.held.filter (· ≠ 1) } } :=
  (if_neg (by simp [hoff, hkey])).trans (if_neg (by decide))

theorem execKeyInputChange_answers (active : Bool) (s : State) :
    execKeyInputChange active s = .next { s with chip := keyChange s.keeper s.found active } := rfl

theorem keyDelayExpiry_of_due {k : Keeper} {c : Chip} (hruns : modeRuns c.mode = true ∨ c.mode = .safe)
    (hkey : c.modes.key = false) (hdue : keyDelayFrom c + c.num Key.Wake.KEY_OFF_DELAY ≤ k.epoch) :
    keyDelayExpiry k c = bankDecide k c := if_pos (by simp [hruns, hkey, hdue])

theorem can0Wake_of_banked {c : Chip} (hbanked : c.mode = .banked)
    (henabled : bitOf (c.num Key.Wake.WAKE_ENABLE) 1 = true) :
    can0Wake c = { c with modes := { c.modes with can0 := true, held := heldWith c.modes.held 2 } } := calc
  _ = wakeHold { c with modes := { c.modes with can0 := true } } 2 :=
    (if_neg (by rw [hbanked]; decide)).trans (if_pos henabled)
  _ = _ := wakeHold_of_banked 2 hbanked

theorem execCan0WakePattern_answers (s : State) :
    execCan0WakePattern s = .next { s with chip := can0Wake s.found } := rfl

theorem timerWake_of_due {k : Keeper} {c : Chip} (hbanked : c.mode = .banked)
    (henabled : bitOf (c.num Key.Wake.WAKE_ENABLE) 2 = true) (hset : c.num Key.Wake.WAKE_TIMER ≠ 0)
    (hsecond : k.epoch % 1000 = 0)
    (hdue : c.num Key.Wake.BANKED_EPOCH + 1000 * c.num Key.Wake.WAKE_TIMER ≤ k.epoch) :
    timerWake k c = { c with modes := { c.modes with held := heldWith c.modes.held 3 } } := calc
  _ = wakeHold c 3 := if_pos (by simp [henabled, hset, hsecond, hdue])
  _ = _ := wakeHold_of_banked 3 hbanked

/-- 30 s below RESUME in a thermal SAFE decide the restart for the next edge (R83, R429). -/
theorem thermalResume_of_cool {k : Keeper} {c : Chip} {a : Nat} (hcool : c.pwr.coolAt = some a)
    (hstage : c.num Key.Therm.THERMAL_STAGE = 3) (hsafe : thermalSafe c = true) (hdue : a + 30000 ≤ k.epoch + 1) :
    thermalResume k c = { c with modes := { c.modes with resumeDue := some (k.epoch + 1) } } := by
  unfold thermalResume
  rw [hcool]
  exact if_pos (by simp [hstage, hsafe, hdue])

end Sys2Proof.Machine

/-! ## The statements -/

namespace Sys2Proof.Proofs.OperatingModes

open Sys2Proof Sys2Proof.Machine

/-- Settles O24: an edge looks for BANKED first and for SAFE next, and entering either sets the mode. -/
theorem modePriorityAtAnEdge : Obligations.ModePriorityAtAnEdge := by
  refine ⟨fun k c req hbank => ?_, fun k c req hbank hdue hsafe => ?_⟩
  · rw [modeEdge_of_bankDue req hbank, enterBanked_mode]
  · rw [modeEdge_of_safeDue req hbank hdue hsafe, enterSafe_mode]

/-- Settles O21: a step whose work brings no lasting fault begins the next; K9 has no work and leaves the handover
due. -/
theorem kindlingStepsAdvance : Obligations.KindlingStepsAdvance := by
  refine ⟨fun s f n hmode hexit hbank hsound hstep hfirst hlast hworked => ?_,
    fun s f hmode hexit hbank hsound hstep hfault => ?_⟩
  · exact (execKindlingStepEnd_answers f s).trans (next_chip_congr
      (kindlingStepEnd_of_inner hmode hexit hbank hsound hstep hfirst hlast hworked))
  · have hod : (handoverDue s.found).od = (s.found.put Key.Kindling.KINDLING_STEP 10).od := handoverDue_od ..
    have hend : kindlingStepEnd s.keeper s.found f = handoverDue s.found :=
      kindlingStepEnd_of_last hmode hexit hbank hsound hstep hfault
    refine ⟨_, (execKindlingStepEnd_answers f s).trans (next_chip_congr hend), ?_, rfl, hmode, ?_⟩
    · exact (Chip.num_of_od hod _).trans (Chip.num_put_same ..)
    · exact (KeepsObjects.put 10 (KeepsObjects.of_od rfl) (List.mem_singleton.2 rfl)).trans (KeepsObjects.of_od hod)

/-- Settles O22: past the deadline the miss is counted and SAFE decided, and no more. -/
theorem heartbeatMissDecidesSafe : Obligations.HeartbeatMissDecidesSafe := by
  intro s d hruns hdeadline hlate
  exact ⟨_, onChip_eq_next (heartbeatMiss_of_late hruns hdeadline hlate), Chip.num_bump_same .., rfl, rfl,
    (KeepsObjects.of_od rfl).bump 1 (List.mem_singleton.2 rfl)⟩

/-- Settles O23: one lemma for each command, under the conditions that let it act. -/
theorem wakeCommandsComplete : Obligations.WakeCommandsComplete := by
  refine ⟨fun s hoff hkey => ?_, fun s hoff hkey => ?_, fun s hruns hkey hdue => ?_, fun s hbanked henabled => ?_,
    fun s hbanked henabled hset hsecond hdue => ?_, fun s a hcool hstage hsafe hdue => ?_⟩
  · have hod : (wakeHold (keyOn s.found) 1).od = (keyOn s.found).od := wakeHold_od ..
    have hpress : keyChange s.keeper s.found true = wakeHold (keyOn s.found) 1 := keyChange_of_press s.keeper hoff hkey
    refine ⟨_, (execKeyInputChange_answers true s).trans (next_chip_congr hpress), wakeHold_key .., ?_,
      fun hbanked => ?_, ?_⟩
    · exact (Chip.num_of_od hod _).trans (Chip.num_putFlag_same ..)
    · exact congrArg (·.modes.held) (wakeHold_of_banked (c := keyOn s.found) 1 hbanked)
    · have hkeep : KeepsObjects [Key.Wake.REMOTE_WAKE] s.chip (keyOn s.found) :=
        KeepsObjects.putFlag false (KeepsObjects.of_od rfl) (List.mem_singleton.2 rfl)
      exact hkeep.trans (KeepsObjects.of_od hod)
  · exact ⟨_, (execKeyInputChange_answers false s).trans
      (next_chip_congr (keyChange_of_release s.keeper hoff hkey)), rfl, rfl, rfl⟩
  · exact onChip_eq_next (keyDelayExpiry_of_due hruns hkey hdue)
  · exact (execCan0WakePattern_answers s).trans (next_chip_congr (can0Wake_of_banked hbanked henabled))
  · exact onChip_eq_next (timerWake_of_due hbanked henabled hset hsecond hdue)
  · exact onChip_eq_next (thermalResume_of_cool hcool hstage hsafe hdue)

end Sys2Proof.Proofs.OperatingModes
end

section
/-! PROOFS. The statements of the control engine: the law of a relay cell (R114) and the lowest input of a node (R116,
R146). -/

namespace Sys2Proof.Machine

/-! ## The order of values -/

theorem fLt_iff {f : Fmt} {a b : Nat} :
    fLt f a b = true ↔ fIsNan f a = false ∧ fIsNan f b = false ∧ fOrd f a < fOrd f b := by
  simp [fLt, and_assoc]

theorem fLt_irrefl (f : Fmt) (a : Nat) : fLt f a a = false := by simp [fLt]

theorem fLt_asymm {f : Fmt} {a b : Nat} (h : fLt f a b = true) : fLt f b a = false := by
  obtain ⟨-, -, hab⟩ := fLt_iff.1 h
  refine Bool.eq_false_iff.2 fun hlt => ?_
  obtain ⟨-, -, hba⟩ := fLt_iff.1 hlt
  omega

/-- A number that is not below `b` is above everything below `b`. -/
theorem fLt_of_fLt_of_not_fLt {f : Fmt} {a b c : Nat} (hc : fIsNan f c = false) (hab : fLt f a b = true)
    (hcb : fLt f c b = false) : fLt f a c = true := by
  obtain ⟨ha, hb, hlt⟩ := fLt_iff.1 hab
  have hle : ¬ fOrd f c < fOrd f b := fun hlt => Bool.eq_false_iff.1 hcb (fLt_iff.2 ⟨hc, hb, hlt⟩)
  exact fLt_iff.2 ⟨ha, hc, by omega⟩

/-! ## The relay law (R114, Table 4.3) -/

/-- The error of a cell, with the sign of its DIR. -/
def relayError (s : CellSample) : Nat := if s.dir then clSub s.sp s.pv else fOpp fmt32 (clSub s.sp s.pv)

/-- The state a relay cell enters on its enable. -/
def relayEntry (s : CellSample) : Nat :=
  if fLt fmt32 s.bandOut (relayError s) then 4
  else if fLt fmt32 (relayError s) (fOpp fmt32 s.bandOut) then 5 else 2

/-- The state that a relay cell computes from the state `base`. -/
def relayState (s : CellSample) (base : Nat) : Nat :=
  let inBand := fLe fmt32 (fAbs fmt32 (relayError s)) s.bandIn
  if base = 4 then (if fLt fmt32 (relayError s) (fOpp fmt32 s.bandOut) then 5 else if inBand then 2 else 4)
  else if base = 5 then (if fLt fmt32 s.bandOut (relayError s) then 4 else if inBand then 2 else 5)
  else relayEntry s

/-- The output of a relay cell in a state. -/
def relayOut (s : CellSample) (st : Nat) : Nat := if st = 4 then s.outMax else if st = 5 then s.outMin else s.rest

/-- The states of a relay cell that computes: ACT_UP, ACT_DOWN and HOLD. -/
def IsRelayState (st : Nat) : Prop := st = 4 ∨ st = 5 ∨ st = 2

theorem isRelayState_up : IsRelayState 4 := .inl rfl

theorem isRelayState_down : IsRelayState 5 := .inr (.inl rfl)

theorem isRelayState_hold : IsRelayState 2 := .inr (.inr rfl)

theorem IsRelayState.ite {p : Prop} [Decidable p] {a b : Nat} (ha : IsRelayState a) (hb : IsRelayState b) :
    IsRelayState (if p then a else b) := by
  split
  case isTrue => exact ha
  case isFalse => exact hb

theorem isRelayState_relayEntry (s : CellSample) : IsRelayState (relayEntry s) :=
  .ite isRelayState_up (.ite isRelayState_down isRelayState_hold)

@[simp] theorem relayState_enable (s : CellSample) : relayState s 1 = relayEntry s := rfl

/-- A relay cell stays among its three states, whatever state it computes from. -/
theorem isRelayState_relayState (s : CellSample) (base : Nat) : IsRelayState (relayState s base) :=
  .ite (.ite isRelayState_down (.ite isRelayState_hold isRelayState_up))
    (.ite (.ite isRelayState_up (.ite isRelayState_hold isRelayState_down)) (isRelayState_relayEntry s))

/-- A relay cell whose inputs are numbers and whose error is finite computes; its integrator stays. -/
theorem computeRelay_of_finite {s : CellSample} (base i : Nat) (hsp : fIsNan fmt32 s.sp = false)
    (hpv : fIsNan fmt32 s.pv = false) (hff : fIsNan fmt32 s.ff = false) (hfin : fFinite fmt32 (relayError s) = true) :
    computeRelay s base i =
      some ⟨relayState s base, i, relayOut s (relayState s base), relayError s, s.pv, false⟩ := by
  have hnum : ¬ (fIsNan fmt32 s.sp || fIsNan fmt32 s.pv || fIsNan fmt32 s.ff) = true := by simp [hsp, hpv, hff]
  have herr : ¬ (!fFinite fmt32 (relayError s)) = true := by simp [hfin]
  exact (if_neg hnum).trans (if_neg herr)

/-- KP, KI and the limits of the integrator are ignored. -/
theorem computeRelay_ignores_gains (s : CellSample) (base i kp kit iMin iMax : Nat) :
    computeRelay { s with kp := kp, kit := kit, iMin := iMin, iMax := iMax } base i = computeRelay s base i := rfl

/-! ## The lowest input (R116, R146) -/

/-- The winner's value and position among inputs: not withdrawn, no other below it, every one before it above it. -/
structure IsLowest (ins : List (Nat × Bool)) (v k : Nat) : Prop where
  at_win : ins[k]? = some (v, false)
  not_below : ∀ j w : Nat, ins[j]? = some (w, false) → fLt fmt32 w v = false
  before : ∀ j w : Nat, ins[j]? = some (w, false) → j < k → fLt fmt32 v w = true

/-- What the best so far tells of the inputs that were seen: none while every one is withdrawn. -/
def BestOf (ins : List (Nat × Bool)) : Option (Nat × Nat) → Prop
  | none => ∀ x ∈ ins, x.2 = true
  | some (v, k) => IsLowest ins v k

/-- The best after the input at position `j`. -/
def better (x : Nat × Bool) (j : Nat) (best : Option (Nat × Nat)) : Option (Nat × Nat) :=
  if x.2 then best
  else match best with
    | none => some (x.1, j)
    | some (b, _) => if fLt fmt32 x.1 b then some (x.1, j) else best

theorem pickLowest_nil (j : Nat) (best : Option (Nat × Nat)) : pickLowest [] j best = best := rfl

theorem pickLowest_cons (x : Nat × Bool) (t : List (Nat × Bool)) (j : Nat) (best : Option (Nat × Nat)) :
    pickLowest (x :: t) j best = pickLowest t (j + 1) (better x j best) := rfl

/-- Position `j` of a list with one input more is a position of the list or the last. -/
theorem getElem?_concat_cases {α : Type} {pre : List α} {x y : α} {j : Nat} (h : (pre ++ [x])[j]? = some y) :
    pre[j]? = some y ∨ j = pre.length ∧ y = x := by
  rw [List.getElem?_append] at h
  split at h
  case isTrue => exact .inl h
  case isFalse hj =>
    rw [List.getElem?_singleton] at h
    split at h
    case isTrue hlast => exact .inr ⟨by omega, (Option.some.inj h).symm⟩
    case isFalse => cases h

theorem IsLowest.win_lt {ins : List (Nat × Bool)} {v k : Nat} (h : IsLowest ins v k) : k < ins.length :=
  (List.getElem?_eq_some_iff.1 h.at_win).1

/-- An input that is withdrawn, or not below the best so far, does not win, not even as the equal of the best. -/
theorem IsLowest.concat_of_not_below {pre : List (Nat × Bool)} {b k : Nat} {x : Nat × Bool} (h : IsLowest pre b k)
    (hx : x.2 = false → fLt fmt32 x.1 b = false) : IsLowest (pre ++ [x]) b k where
  at_win := (List.getElem?_append_left h.win_lt).trans h.at_win
  not_below j w hj := by
    obtain hj | ⟨-, rfl⟩ := getElem?_concat_cases hj
    · exact h.not_below j w hj
    · exact hx rfl
  before j w hj hlt := by
    obtain hj | ⟨hlast, -⟩ := getElem?_concat_cases hj
    · exact h.before j w hj hlt
    · have hk : k < pre.length := h.win_lt
      omega

/-- An input that is below every one before it wins. -/
theorem IsLowest.concat_of_below {pre : List (Nat × Bool)} {v : Nat}
    (hv : ∀ j w : Nat, pre[j]? = some (w, false) → fLt fmt32 v w = true) :
    IsLowest (pre ++ [(v, false)]) v pre.length where
  at_win := List.getElem?_concat_length
  not_below j w hj := by
    obtain hj | ⟨-, ⟨⟩⟩ := getElem?_concat_cases hj
    · exact fLt_asymm (hv j w hj)
    · exact fLt_irrefl fmt32 v
  before j w hj hlt := by
    obtain hj | ⟨hlast, -⟩ := getElem?_concat_cases hj
    · exact hv j w hj
    · omega

/-- Reading one input more keeps the best so far the best. -/
theorem BestOf.concat {pre : List (Nat × Bool)} {best : Option (Nat × Nat)} (h : BestOf pre best)
    (hnum : ∀ x ∈ pre, fIsNan fmt32 x.1 = false) (x : Nat × Bool) :
    BestOf (pre ++ [x]) (better x pre.length best) := by
  obtain ⟨v, out⟩ := x
  cases out with
  | true =>
    cases best with
    | none =>
      intro x hx
      obtain hx | hx := List.mem_append.1 hx
      · exact h x hx
      · cases List.mem_singleton.1 hx; rfl
    | some b => exact IsLowest.concat_of_not_below h Bool.noConfusion
  | false =>
    cases best with
    | none =>
      refine IsLowest.concat_of_below fun j w hj => ?_
      cases h _ (List.mem_of_getElem? hj)
    | some b =>
      obtain ⟨b, k⟩ := b
      have hlow : IsLowest pre b k := h
      cases hv : fLt fmt32 v b with
      | true =>
        have hnew : IsLowest (pre ++ [(v, false)]) v pre.length := .concat_of_below fun j w hj =>
          fLt_of_fLt_of_not_fLt (hnum _ (List.mem_of_getElem? hj)) hv (hlow.not_below j w hj)
        simpa [better, BestOf, hv] using hnew
      | false => simpa [better, BestOf, hv] using hlow.concat_of_not_below (x := (v, false)) fun _ => hv

/-- The pick goes on from the best of the inputs that were seen to the best of all. -/
theorem bestOf_pickLowest {pre t : List (Nat × Bool)} {best : Option (Nat × Nat)}
    (hnum : ∀ x ∈ pre ++ t, fIsNan fmt32 x.1 = false) (h : BestOf pre best) :
    BestOf (pre ++ t) (pickLowest t pre.length best) := by
  induction t generalizing pre best with
  | nil => rwa [List.append_nil, pickLowest_nil]
  | cons x t ih =>
    have hpre : ∀ y ∈ pre, fIsNan fmt32 y.1 = false := fun y hy => hnum y (List.mem_append_left _ hy)
    rw [List.append_cons] at hnum ⊢
    have hnext := ih hnum (h.concat hpre x)
    rwa [List.length_append, List.length_singleton] at hnext

/-- Among numbers of which one is not withdrawn, the pick is the lowest input. -/
theorem isLowest_pickLowest {ins : List (Nat × Bool)} (hnum : ∀ x ∈ ins, fIsNan fmt32 x.1 = false)
    (hin : ∃ x ∈ ins, x.2 = false) : ∃ v k, pickLowest ins 0 none = some (v, k) ∧ IsLowest ins v k := by
  have hbest : BestOf ins (pickLowest ins 0 none) := bestOf_pickLowest (pre := []) hnum (by simp [BestOf])
  obtain ⟨x, hx, hdrives⟩ := hin
  cases hp : pickLowest ins 0 none with
  | none =>
    rw [hp] at hbest
    exact absurd (hbest x hx) (by simp [hdrives])
  | some b =>
    rw [hp] at hbest
    exact ⟨b.1, b.2, rfl, hbest⟩

theorem computeNode_of_nan {ins : List (Nat × Bool)} (outMin outMax : Nat)
    (hnan : (ins.any fun v => fIsNan fmt32 v.1) = true) : computeNode ins outMin outMax = none := if_pos hnan

theorem computeNode_of_pick {ins : List (Nat × Bool)} {v k : Nat} (outMin outMax : Nat)
    (hnum : (ins.any fun v => fIsNan fmt32 v.1) = false) (hpick : pickLowest ins 0 none = some (v, k)) :
    computeNode ins outMin outMax =
      some ⟨clClamp v outMin outMax, k, !fEq fmt32 (clClamp v outMin outMax) v⟩ := by
  simp [computeNode, hnum, hpick]

end Sys2Proof.Machine

/-! ## The statements -/

namespace Sys2Proof.Proofs.ControlEngine

open Sys2Proof Sys2Proof.Machine

/-- Settles O33: the relay law, by the state that a cell computes and its entry on an enable. -/
theorem relayCellsFollowTheirLaw : Obligations.RelayCellsFollowTheirLaw := by
  intro s base i hsp hpv hff e hfin
  have hcompute := computeRelay_of_finite base i hsp hpv hff hfin
  refine ⟨_, hcompute, ?_, rfl, rfl, fun kp kit iMin iMax => ?_, fun henable => ?_⟩
  · obtain hst | hst | hst := isRelayState_relayState s base
    · exact .inl ⟨hst, congrArg (relayOut s) hst⟩
    · exact .inr (.inl ⟨hst, congrArg (relayOut s) hst⟩)
    · exact .inr (.inr ⟨hst, congrArg (relayOut s) hst⟩)
  · exact (computeRelay_ignores_gains s base i kp kit iMin iMax).trans hcompute
  · subst henable
    exact relayState_enable s

/-- Settles O34: the best of the inputs that were read stays the best with one input more. -/
theorem nodesPickTheLowestInput : Obligations.NodesPickTheLowestInput := by
  refine fun ins outMin outMax => ⟨computeNode_of_nan outMin outMax, fun hnum hin => ?_⟩
  obtain ⟨v, k, hpick, hlow⟩ := isLowest_pickLowest (ins := ins) (by simpa using hnum) (by simpa using hin)
  exact ⟨_, v, computeNode_of_pick outMin outMax hnum hpick, hlow.at_win,
    fun j w hj => ⟨hlow.not_below j w hj, hlow.before j w hj⟩, rfl, rfl⟩

end Sys2Proof.Proofs.ControlEngine
end

section
/-! PROOFS. The statement of the crop commands: the slope cap (R164), yield records in transit and deferred (R169, R171),
and CAN-mapped messages (R154). -/

namespace Sys2Proof.Machine

/-! ## Slope cap (R164) -/

/-- The slope cycle of this edge: its epoch, its cap and the epoch that the cap is from. -/
def slopeCycleOf (k : Keeper) (c : Chip) : Nat × Nat × Nat :=
  let g := c.num
  let tilt := c.flag Key.Hdg.HDG_VALID
  (k.epoch,
    if tilt then slopeCap (g Key.Speed.SLOPE_V0) (g Key.Speed.SLOPE_V1) (g Key.Speed.SLOPE_A0) (g Key.Speed.SLOPE_A1)
      (fAbs fmt32 (g Key.Hdg.TILT)) else g Key.Speed.SLOPE_V1,
    if tilt then g Key.Hdg.HDG_EPOCH else wireEpoch k.epoch)

theorem execSlopeCapCycle_of_due {s : State} (hedge : s.keeper.epoch % 50 = 0) (htiles : tilesRun s.found = true)
    (hoff : s.found.mode ≠ .off) (hbank : s.found.mode ≠ .banked)
    (hkindling : s.found.mode = .kindling → 5 ≤ s.found.num Key.Kindling.KINDLING_STEP) :
    execSlopeCapCycle s = .next { s with chip := { s.found with
      crop := { s.found.crop with slope := some (slopeCycleOf s.keeper s.found) } } } := by
  have hbegun : (decide (s.found.mode = .kindling) && decide (s.found.num Key.Kindling.KINDLING_STEP < 5)) = false :=
    Bool.and_eq_false_imp.2 fun h => decide_eq_false (Nat.not_lt.2 (hkindling (of_decide_eq_true h)))
  refine onChip_eq_next (if_neg ?_)
  simp only [hbegun, hedge, htiles, hoff, hbank]
  decide

theorem execSlopeCapComplete_of_cycle {s : State} {e cap ep : Nat} (h : s.found.crop.slope = some (e, cap, ep)) :
    execSlopeCapComplete s = .next { s with chip := { s.found with
      crop := { s.found.crop with slope := none }
      dict := { s.found.dict with tile := s.found.dict.tile ++
        [⟨openEdge s.keeper, .tile, Key.Speed.SLOPE_CAP, .num cap⟩] ++
        [⟨openEdge s.keeper, .tile, Key.Speed.SLOPE_EPOCH, .num ep⟩] } } } :=
  onChip_eq_next (by rw [h]; rfl)

/-! ## Yield records (R169, R171) -/

@[simp] theorem mapShow_crop (c : Chip) : (mapShow c).crop = c.crop := rfl

theorem recordDirect_iff {c : Chip} : recordDirect c = true ↔ c.num Key.WrHold.UFS_WRITE = 0 ∧
    armedAt c Key.InjFs.INJ_MAP_DEFERRED 1 = false ∧ c.crop.mram = [] ∧ c.crop.held = [] := by
  simp [recordDirect, and_assoc]

theorem recordToMram_iff {c : Chip} : recordToMram c = true ↔ c.num Key.WrHold.MRAM_WRITE = 0 ∧ c.crop.held = [] := by
  simp [recordToMram]

theorem recordRoom_of_direct {c : Chip} (h : recordDirect c = true) : recordRoom c = true := by
  rw [recordRoom, h, Bool.true_or]

theorem recordRoom_of_mram {c : Chip} (hmram : recordToMram c = true) (hroom : c.crop.mram.length < 32768) :
    recordRoom c = true := by
  simp [recordRoom, hmram, hroom]

theorem queueRecord_of_direct (k : Keeper) {c : Chip} (r : List Byte) (h : recordDirect c = true) :
    queueRecord k c r = mapShow (ufsAppend c (c.num Key.Map.MAP_NUMBER) r) := if_pos h

/-- A record that is deferred into MRAM goes to the end of its buffer; the event of the deferral is none of the map's. -/
theorem queueRecord_crop_of_mram (k : Keeper) {c : Chip} (r : List Byte) (hdirect : recordDirect c = false)
    (hmram : recordToMram c = true) :
    (queueRecord k c r).crop = { c.crop with mram := c.crop.mram ++ [(c.num Key.Map.MAP_NUMBER, r)] } := by
  have hdisarmed : recordToMram (disarm c Key.InjFs.INJ_MAP_DEFERRED 1) = true := hmram
  simp [queueRecord, hdirect, hdisarmed, disarm_crop]

/-- The oldest record in transit is queued at the edge e + D, where the area that must take it has room. -/
theorem execYieldRecordComplete_of_due {s : State} {x : Transit} {rest : List Transit}
    (htransit : s.found.crop.transit = x :: rest) (hdue : x.stop + transportDelay s.found ≤ s.keeper.epoch)
    (hroom : recordRoom s.found = true) :
    execYieldRecordComplete s = .next { s with chip :=
      (queueRecord s.keeper { s.found with crop := { s.found.crop with transit := rest } } (yieldBytes x)) } := by
  refine onChip_eq_next ?_
  rw [htransit]
  exact if_neg (by simp [hroom, hdue])

theorem execDeferredRecordFlush_of_permitted {s : State} (hoff : s.found.mode ≠ .off) (hbank : s.found.mode ≠ .banked)
    (hufs : s.found.num Key.WrHold.UFS_WRITE = 0) :
    let c := (s.found.crop.mram ++ s.found.crop.held).foldl (fun c r => ufsAppend c r.1 r.2) s.found
    execDeferredRecordFlush s =
      .next { s with chip := mapShow { c with crop := { c.crop with mram := [], held := [] } } } :=
  onChip_eq_next ((if_neg (by simp [hoff, hbank])).trans (if_pos hufs))

/-! ## CAN-mapped messages (R152–R154) -/

/-- The raw value of a slot's CAN_CMD. -/
def mapRawOf (c : Chip) (n : Nat) : Nat :=
  rawOf (c.num (Key.Slot.CAN_CMD n)) (c.num (Key.Slot.CAN_OFFSET n)) (c.num (Key.Slot.CAN_SCALE n))
    (c.num (Key.Slot.CAN_BITS n))

/-- The frame of a slot that carries the raw value of its CAN_CMD. -/
def mapFrame (k : Keeper) (c : Chip) (n : Nat) : TxFrame :=
  { id := c.num (Key.Slot.CAN_ID n) % 0x20000000 / 256 * 256, ext := true
    data := mapBytes (c.num (Key.Slot.CAN_FILL n)) (c.num (Key.Slot.CAN_START n)) (c.num (Key.Slot.CAN_BITS n))
      (mapRawOf c n) (c.num (Key.Slot.CAN_LEN n))
    born := nowUs k c, life := c.num (Key.Slot.CAN_PERIOD n), kind := .mapped n (mapRawOf c n) k.epoch }

/-- The chip that has noted a slot's composition at this edge. -/
def mapComposed (k : Keeper) (c : Chip) (n : Nat) : Chip :=
  { c with crop := { c.crop with
    composed := c.crop.composed.filter (fun q => decide (q.1 ≠ n)) ++ [(n, mapRawOf c n, k.epoch)] } }

/-- A slot whose target is live sends its CAN_CMD, where no injection drops the frame. -/
theorem execCanMapCompose_of_live {s : State} {slot : Fin 30} (hup : up s.found 8 = true)
    (hcomposite : isComposite slot = false) (hport : s.found.num (Key.Slot.CAN_PORT slot) < 12)
    (hperiod : s.keeper.epoch % max (s.found.num (Key.Slot.CAN_PERIOD slot)) 1 = 0)
    (hnew : s.found.crop.composed.find? (fun q => decide (q.1 = slot.val)) = none)
    (hlive : safeApplied s.found (Key.Slot.CAN_CMD slot) = false)
    (hdrop : armedAt s.found Key.InjFs.INJ_CANMAP_DROP (slot + 1) = false) :
    execCanMapCompose slot s = .next { s with chip :=
      (txEnter s.keeper (mapComposed s.keeper s.found slot) (s.found.num (Key.Slot.CAN_PORT slot))
        (mapFrame s.keeper s.found slot)) } := by
  refine onChip_eq_next ?_
  have hkept : armedAt (mapComposed s.keeper s.found slot) Key.InjFs.INJ_CANMAP_DROP (slot + 1) = false := hdrop
  simp only [hup, hcomposite, hperiod, hnew, hlive, Nat.not_le.2 hport]
  exact if_neg (ne_true_of_eq_false hkept)

end Sys2Proof.Machine

/-! ## The statement -/

namespace Sys2Proof.Proofs.MachineFunctions

open Sys2Proof Sys2Proof.Machine

/-- Settles O35: one lemma for each command, under the conditions that let it act; a completed record is queued by where
it must go. -/
theorem cropCommandsComplete : Obligations.CropCommandsComplete := by
  refine ⟨fun s hedge htiles hoff hbank hkindling => execSlopeCapCycle_of_due hedge htiles hoff hbank hkindling,
    fun s e cap ep hslope => execSlopeCapComplete_of_cycle hslope,
    fun s x rest htransit hdue hufs harmed hmram hheld => ?_,
    fun s x rest htransit hdue hufs hmram harmed hheld hroom => ?_,
    fun s hoff hbank hufs => execDeferredRecordFlush_of_permitted hoff hbank hufs,
    fun s slot hup hcomposite hport hperiod hnew hlive hdrop =>
      execCanMapCompose_of_live hup hcomposite hport hperiod hnew hlive hdrop⟩
  · have hdirect : recordDirect s.found = true := recordDirect_iff.2 ⟨hufs, harmed, hmram, hheld⟩
    exact (execYieldRecordComplete_of_due htransit hdue (recordRoom_of_direct hdirect)).trans
      (next_chip_congr (queueRecord_of_direct _ _ hdirect))
  · have hdefer : recordDirect s.found = false :=
      Bool.eq_false_iff.2 fun hdirect => hufs (recordDirect_iff.1 hdirect).1
    have hbuffer : recordToMram s.found = true := recordToMram_iff.2 ⟨hmram, hheld⟩
    exact ⟨_, execYieldRecordComplete_of_due htransit hdue (recordRoom_of_mram hbuffer hroom),
      queueRecord_crop_of_mram _ _ hdefer hbuffer⟩

end Sys2Proof.Proofs.MachineFunctions
end

section
/-! PROOFS. The statements of the valve drive: the instructions of the current-shaper programs (R207–R209, R213). -/

namespace Sys2Proof.Machine

/-! ## Objects and channels -/

theorem KeepsObjects.num_eq {l : List Nat} {c d : Chip} {key : Nat} (h : KeepsObjects l c d) (hk : key ∉ l) :
    d.num key = c.num key := congrArg Val.toNum (h key hk)

theorem valveKey_not_event (ch : Fin 48) {sub : Nat} (hsub : sub < 256) : (0x3400 + ch.val) * 256 + sub ∉ eventKeys :=
  not_event_of_page (by omega) (by omega) hsub

theorem vcNext_num_step (c : Chip) (n : Nat) : (vcNext c n).num (Key.Valve.STEP n) = (vcOf c n).step + 1 :=
  (vcNext_num ..).trans (if_pos rfl)

theorem vcNext_num_ne (c : Chip) {n key : Nat} (h : key ≠ Key.Valve.STEP n) : (vcNext c n).num key = c.num key :=
  (vcNext_num ..).trans (if_neg h)

/-- Objects of different sub-indices are different, whatever their indices. -/
theorem key_ne_of_subs {ix jx a b : Nat} (h : a % 256 ≠ b % 256) : ix * 256 + a ≠ jx * 256 + b := by omega

theorem vcOf_raise (k : Keeper) (c : Chip) (n code unit : Nat) (inj : Bool) :
    vcOf (raise k c code unit inj) n = vcOf c n := by
  unfold vcOf; rw [raise_valve]

theorem lt_vcSet {c : Chip} {n m : Nat} (x : VcX) (hlt : n < c.valve.chans.length) :
    n < (vcSet c m x).valve.chans.length := (vcSet_length c m x).symm ▸ hlt

/-- A channel's own state is no object. -/
theorem vcSet_keeps (l : List Nat) (c : Chip) (n : Nat) (x : VcX) : KeepsObjects l c (vcSet c n x) :=
  KeepsObjects.of_od (vcSet_od ..)

/-! ## A channel whose program runs (R208) -/

/-- Only a channel that stands in the list has a program. -/
theorem progRuns_lt {c : Chip} {n : Nat} (hruns : progRuns c n = true) : n < c.valve.chans.length := by
  refine Nat.lt_of_not_le fun hout => ?_
  have hnone : vcOf c n = {} := by
    unfold vcOf nth
    rw [List.getD_eq_getElem?_getD, List.getElem?_eq_none hout, Option.getD_none]
  have hidle : (vcOf c n).prog.isSome = false := by rw [hnone]; rfl
  unfold progRuns at hruns
  rw [hidle, Bool.false_and] at hruns
  exact Bool.false_ne_true hruns

/-- An instruction of a running program leaves the chip that its operation answers. -/
theorem execOp_of_running (op : Keeper → Chip → Nat → Chip × Bool) {s : State} {ch : Fin 48}
    (hruns : progRuns s.found ch = true) :
    execOp ch op s = .next { s with chip := (op s.keeper s.found ch).1 } := onChip_eq_next (if_pos hruns)

section
variable {s : State} {ch : Fin 48} (v : BitVec 12) (hruns : progRuns s.found ch = true)
include hruns

theorem exec_seti_of_running :
    exec (.seti ch v) s = .next { s with chip := (opSeti s.keeper s.found ch v.toNat).1 } :=
  execOp_of_running (fun k c n => opSeti k c n v.toNat) hruns

theorem exec_ramp_of_running : exec (.ramp ch v) s = .next { s with chip := (opRamp s.found ch v.toNat).1 } :=
  execOp_of_running (fun _ c n => opRamp c n v.toNat) hruns

theorem exec_wait_of_running :
    exec (.wait ch v) s = .next { s with chip := (opWait s.keeper s.found ch v.toNat).1 } :=
  execOp_of_running (fun k c n => opWait k c n v.toNat) hruns

theorem exec_dither_of_running :
    exec (.dither ch v) s = .next { s with chip := (opDither s.keeper s.found ch v.toNat).1 } :=
  execOp_of_running (fun k c n => opDither k c n v.toNat) hruns

theorem exec_loop_of_running : exec (.loop ch v) s = .next { s with chip := (opLoop s.found ch v.toNat).1 } :=
  execOp_of_running (fun _ c n => opLoop c n v.toNat) hruns

theorem exec_mark_of_running :
    exec (.mark ch v) s = .next { s with chip := (opMark s.keeper s.found ch v.toNat).1 } :=
  execOp_of_running (fun k c n => opMark k c n v.toNat) hruns

theorem exec_peakwin_of_running :
    exec (.peakwin ch v) s = .next { s with chip := (opPeakwin s.keeper s.found ch v.toNat).1 } :=
  execOp_of_running (fun k c n => opPeakwin k c n v.toNat) hruns

theorem exec_quench_of_running :
    exec (.quench ch v) s = .next { s with chip := (opQuench s.keeper s.found ch v.toNat).1 } :=
  execOp_of_running (fun k c n => opQuench k c n v.toNat) hruns

theorem exec_endProgram_of_running :
    exec (.endProgram ch) s = .next { s with chip := (opEnd s.keeper s.found ch).1 } :=
  execOp_of_running opEnd hruns

end

/-! ## Settling a target (R199, R202, R216) -/

theorem thermalCeiling_vcSet (c : Chip) (n m : Nat) (x : VcX) :
    thermalCeiling (vcSet c n x) m = thermalCeiling c m := by
  unfold thermalCeiling; rfl

/-- The objects that settling a target may change. -/
abbrev settledKeys (n : Nat) : List Nat :=
  [Key.Valve.TARGET n, Key.Bank.BANK_STATE (n / 4), Key.Bank.BANK_DEMAND (n / 4), Key.VGroup.GROUP_DEMAND (n / 4 / 4)]

theorem valveKey_not_settled (ch : Fin 48) {sub : Nat} (hsub : sub < 256) (hne : sub ≠ 0x21) :
    (0x3400 + ch.val) * 256 + sub ∉ settledKeys ch := by
  simp only [settledKeys, List.mem_cons, List.not_mem_nil, or_false, Key.Valve.TARGET, Key.Bank.BANK_STATE,
    Key.Bank.BANK_DEMAND, Key.VGroup.GROUP_DEMAND]
  omega

theorem settledKeys_not_event (ch : Fin 48) : ∀ key ∈ settledKeys ch, key ∉ eventKeys := by
  intro key hkey
  simp only [settledKeys, List.mem_cons, List.not_mem_nil, or_false] at hkey
  rcases hkey with rfl | rfl | rfl | rfl <;> exact not_event_of_page (by omega) (by omega) (by decide)

/-- Settling a target writes one object of the channel, its TARGET. -/
theorem vcSettle_num_valve (k : Keeper) (c : Chip) (ch : Fin 48) {sub : Nat} (hsub : sub < 256) (hne : sub ≠ 0x21) :
    (vcSettle k c ch).num ((0x3400 + ch.val) * 256 + sub) = c.num ((0x3400 + ch.val) * 256 + sub) :=
  (vcSettle_keeps k c ch).num_eq (valveKey_not_settled ch hsub hne)

/-- TARGET shows the channel's target under its limits; of the channel only its peak time may have changed by then. -/
theorem vcSettle_num_target (k : Keeper) (c : Chip) (ch : Fin 48) :
    ∃ p o, (vcSettle k c ch).num (Key.Valve.TARGET ch) =
      (limitTarget (vcSet c ch { vcOf c ch with peakAt := p, peakOver := o }) ch).1 := by
  have hbank : Key.Valve.TARGET ch ∉
      [Key.Bank.BANK_STATE (ch / 4), Key.Bank.BANK_DEMAND (ch / 4), Key.VGroup.GROUP_DEMAND (ch / 4 / 4)] := by
    simp only [List.mem_cons, List.not_mem_nil, or_false, not_or]
    exact ⟨key_ne_of_subs (by decide), key_ne_of_subs (by decide), key_ne_of_subs (by decide)⟩
  unfold vcSettle
  dsimp only
  split <;> exact ⟨_, _, ((bankShow_keeps _ _).num_eq hbank).trans (Chip.num_put_same ..)⟩

/-- No limit bears on a target that does not follow COMMAND where it lies within PEAK_MAX and HOLD_MAX and the winding
is cool. -/
theorem limitTarget_of_free {c : Chip} {n : Nat} (hfollow : (vcOf c n).follow = false)
    (hclamp : fClamp fmt32 0 (c.num (Key.Valve.PEAK_MAX n)) (vcOf c n).req = (vcOf c n).req)
    (hhold : fLt fmt32 (c.num (Key.Valve.HOLD_MAX n)) (vcOf c n).req = false) (hcool : thermalCeiling c n = none) :
    limitTarget c n = ((vcOf c n).req, 0) := by
  simp [limitTarget, limitWith, hclamp, hhold, hcool, hfollow]

theorem vcSettle_target_of_free (k : Keeper) {c : Chip} {ch : Fin 48} (hlt : ch.val < c.valve.chans.length)
    (hfollow : (vcOf c ch).follow = false)
    (hclamp : fClamp fmt32 0 (c.num (Key.Valve.PEAK_MAX ch)) (vcOf c ch).req = (vcOf c ch).req)
    (hhold : fLt fmt32 (c.num (Key.Valve.HOLD_MAX ch)) (vcOf c ch).req = false) (hcool : thermalCeiling c ch = none) :
    (vcSettle k c ch).num (Key.Valve.TARGET ch) = (vcOf c ch).req := by
  obtain ⟨p, o, htarget⟩ := vcSettle_num_target k c ch
  have hown := vcOf_vcSet c { vcOf c ch with peakAt := p, peakOver := o } hlt
  rw [htarget, limitTarget_of_free (by rw [hown, hfollow]) (by rw [hown, vcSet_num, hclamp])
    (by rw [hown, vcSet_num, hhold]) (by rw [thermalCeiling_vcSet, hcool]), hown]

/-- An object of a channel other than its TARGET keeps what it held when the channel asks for a target. -/
theorem vcAsk_num_valve (k : Keeper) (c : Chip) (ch : Fin 48) (req : Nat) (follow : Bool) {sub : Nat} (hsub : sub < 256)
    (hne : sub ≠ 0x21) :
    (vcAsk k c ch req follow).num ((0x3400 + ch.val) * 256 + sub) = c.num ((0x3400 + ch.val) * 256 + sub) :=
  vcSettle_num_valve k _ ch hsub hne

theorem vcAsk_target_of_free (k : Keeper) {c : Chip} {ch : Fin 48} {req : Nat} (hlt : ch.val < c.valve.chans.length)
    (hclamp : fClamp fmt32 0 (c.num (Key.Valve.PEAK_MAX ch)) req = req)
    (hhold : fLt fmt32 (c.num (Key.Valve.HOLD_MAX ch)) req = false) (hcool : thermalCeiling c ch = none) :
    (vcAsk k c ch req false).num (Key.Valve.TARGET ch) = req := by
  have hown := vcOf_vcSet c { vcOf c ch with req, follow := false, ramp := none } hlt
  unfold vcAsk
  rw [vcSettle_target_of_free k (lt_vcSet _ hlt) (by rw [hown]) (by rw [hown, vcSet_num, hclamp])
    (by rw [hown, vcSet_num, hhold]) (by rw [thermalCeiling_vcSet, hcool]), hown]

/-- A bank whose switch can open for a quench can still once its demand is shown. -/
theorem bankCanQuench_bankShow {c : Chip} {b : Nat} (h : c.num (Key.Bank.BANK_STATE b) ≤ 2) :
    bankCanQuench (bankShow c b) b = true := by
  have hdemand : Key.Bank.BANK_STATE b ≠ Key.Bank.BANK_DEMAND b := key_ne_of_subs (by decide)
  have hgroup : Key.Bank.BANK_STATE b ≠ Key.VGroup.GROUP_DEMAND (b / 4) := key_ne_of_subs (by decide)
  unfold bankCanQuench bankShow
  dsimp only
  rw [Chip.num_put_ne _ _ hgroup, Chip.num_put_ne _ _ hdemand, decide_eq_true_eq]
  split
  · rw [Chip.num_put_same]; split <;> decide
  · exact h

/-! ## SETI (R209, R213) -/

/-- The channel as a SETI that is granted leaves it: the instant and the target that PEAKWIN measures from, where it
raises the target; no first try and no RAMP waits any more. -/
def setiMeasured (k : Keeper) (c : Chip) (n target : Nat) : VcX :=
  let x := vcOf c n
  let x := if fLt fmt32 (c.num (Key.Valve.TARGET n)) target then
    { x with raisedAt := nowUs k c, raisedTo := target, peakHit := none } else x
  { x with tryAt := none, rampUs := none }

theorem setiMeasured_step (k : Keeper) (c : Chip) (n target : Nat) :
    (setiMeasured k c n target).step = (vcOf c n).step := by
  unfold setiMeasured; dsimp only; split <;> rfl

theorem setiDone_of_ramp {k : Keeper} {c : Chip} {n target d : Nat} {follow : Bool} (hramp : rampOf c n = some d) :
    setiDone k c n target follow = vcSet c n { setiMeasured k c n target with
      ramp := some ⟨c.num (Key.Valve.TARGET n), target, nowUs k c, d, follow⟩ } := by
  unfold setiDone; rw [hramp]; rfl

theorem setiDone_of_none {k : Keeper} {c : Chip} {n target : Nat} {follow : Bool} (hramp : rampOf c n = none) :
    setiDone k c n target follow =
      vcNext (vcAsk k (vcSet c n (setiMeasured k c n target)) n target follow) n := by
  unfold setiDone; rw [hramp]; rfl

/-- A channel that was WAITING is ON again. -/
def setiShown (c : Chip) (n : Nat) : Chip :=
  c.put (Key.Valve.STATE n) (if c.num (Key.Valve.STATE n) = 3 then 1 else c.num (Key.Valve.STATE n))

/-- A SETI that does not fit notes its first try; a channel that was ON waits. -/
def setiWaits (k : Keeper) (c : Chip) (n : Nat) : Chip :=
  let d := vcSet c n { vcOf c n with tryAt := some ((vcOf c n).tryAt.getD (nowUs k c)) }
  if d.num (Key.Valve.STATE n) = 1 then d.put (Key.Valve.STATE n) 3 else d

theorem setiTarget_of_current {c : Chip} {n v : Nat} (h : v ≤ 3000) : (setiTarget c n v).2 = false := by
  unfold setiTarget; rw [if_neg (by omega)]

section
variable {k : Keeper} {c : Chip} {n v : Nat}

theorem opSeti_of_granted (hramp : (vcOf c n).ramp = none) (hloud : armedAt c Key.InjValve.INJ_OVERLAP n = false)
    (hgrant : (setiTarget c n v).2 = true ∨ fLt fmt32 (c.num (Key.Valve.TARGET n)) (setiTarget c n v).1 = false ∨
      targetFits c n (setiTarget c n v).1 = true) :
    (opSeti k c n v).1 = setiShown (setiDone k c n (setiTarget c n v).1 (setiTarget c n v).2) n := by
  unfold opSeti
  simp only [hramp, hloud, Bool.false_eq_true, if_false]
  rw [if_pos (by simpa [or_assoc] using hgrant)]
  rfl

/-- What a SETI that raises the target and does not fit leads to, by OVERLAP_WIN. -/
theorem opSeti_of_unfit (hramp : (vcOf c n).ramp = none) (hloud : armedAt c Key.InjValve.INJ_OVERLAP n = false)
    (hfollow : (setiTarget c n v).2 = false)
    (hraises : fLt fmt32 (c.num (Key.Valve.TARGET n)) (setiTarget c n v).1 = true)
    (hunfit : targetFits c n (setiTarget c n v).1 = false) :
    (opSeti k c n v).1 =
      if c.num (Key.Bank.OVERLAP_WIN (n / 4)) = 0 then vcRefuse k c n false else setiWaits k c n := by
  unfold opSeti
  simp only [setiWaits, hramp, hloud, hfollow, hraises, hunfit, Bool.false_eq_true, if_false, Bool.not_true,
    Bool.or_self]
  rw [apply_ite Prod.fst]

theorem opSeti_of_within {r : RampX} (hramp : (vcOf c n).ramp = some r) (hbefore : nowUs k c < r.t0 + r.dur) :
    (opSeti k c n v).1 = vcSettle k (vcSet c n { vcOf c n with
      req := fLerp fmt32 r.start r.stop (nowUs k c - r.t0) r.dur, follow := false }) n := by
  unfold opSeti
  simp only [hramp, if_neg (Nat.not_le.2 hbefore)]

theorem opSeti_of_end {r : RampX} (hramp : (vcOf c n).ramp = some r) (hover : r.t0 + r.dur ≤ nowUs k c) :
    (opSeti k c n v).1 = vcNext (vcAsk k c n (if r.follow then (vcOf c n).cmd else r.stop) r.follow) n := by
  unfold opSeti
  simp only [hramp, if_pos hover]

end

/-- A SETI without a ramp shows its target where no limit bears on it, and the program goes on. -/
theorem setiDone_of_free (k : Keeper) {c : Chip} {ch : Fin 48} {target : Nat} (hlt : ch.val < c.valve.chans.length)
    (hramp : rampOf c ch = none) (hclamp : fClamp fmt32 0 (c.num (Key.Valve.PEAK_MAX ch)) target = target)
    (hhold : fLt fmt32 (c.num (Key.Valve.HOLD_MAX ch)) target = false) (hcool : thermalCeiling c ch = none) :
    let d := setiShown (setiDone k c ch target false) ch
    d.num (Key.Valve.TARGET ch) = target ∧ d.num (Key.Valve.STEP ch) = (vcOf c ch).step + 1 := by
  have hlt' : ch.val < (vcSet c ch (setiMeasured k c ch target)).valve.chans.length := by simpa using hlt
  obtain ⟨p, o, f, hask⟩ := vcAsk_of k (vcSet c ch (setiMeasured k c ch target)) target false hlt'
  unfold setiShown
  rw [setiDone_of_none hramp]
  refine ⟨?_, ?_⟩
  · rw [Chip.num_put_ne _ _ (key_ne_of_sub (by decide)), vcNext_num_ne _ (key_ne_of_sub (by decide))]
    exact vcAsk_target_of_free k hlt' hclamp hhold hcool
  · rw [Chip.num_put_ne _ _ (key_ne_of_sub (by decide)), vcNext_num_step, hask, vcOf_vcSet _ _ hlt, setiMeasured_step]

theorem setiWaits_facts (k : Keeper) {c : Chip} {n : Nat} (hlt : n < c.valve.chans.length) :
    (vcOf (setiWaits k c n) n).tryAt = some ((vcOf c n).tryAt.getD (nowUs k c)) ∧
      (setiWaits k c n).num (Key.Valve.STATE n) =
        (if c.num (Key.Valve.STATE n) = 1 then 3 else c.num (Key.Valve.STATE n)) ∧
      KeepsObjects [Key.Valve.STATE n] c (setiWaits k c n) := by
  unfold setiWaits
  dsimp only
  rw [vcSet_num]
  split
  · exact ⟨by rw [vcOf_put, vcOf_vcSet _ _ hlt], Chip.num_put_same .., (KeepsObjects.of_od rfl).put _ (by simp)⟩
  · exact ⟨by rw [vcOf_vcSet _ _ hlt], rfl, KeepsObjects.of_od rfl⟩

/-- A SETI behind a RAMP begins its ramp from the present target. -/
theorem setiDone_of_ramp_facts (k : Keeper) {c : Chip} {n target d : Nat} (follow : Bool)
    (hlt : n < c.valve.chans.length) (hramp : rampOf c n = some d) :
    (vcOf (setiShown (setiDone k c n target follow) n) n).ramp =
        some ⟨c.num (Key.Valve.TARGET n), target, nowUs k c, d, follow⟩ ∧
      KeepsObjects [Key.Valve.STATE n] c (setiShown (setiDone k c n target follow) n) := by
  rw [setiDone_of_ramp hramp]
  exact ⟨by rw [setiShown, vcOf_put, vcOf_vcSet _ _ hlt], (KeepsObjects.of_od rfl).put _ (by simp)⟩

/-- At the end of a ramp its target is asked for, and the program goes on. -/
theorem rampEnd_facts (k : Keeper) {c : Chip} {n : Nat} (req : Nat) (follow : Bool) (hlt : n < c.valve.chans.length) :
    let d := vcNext (vcAsk k c n req follow) n
    d.num (Key.Valve.STEP n) = (vcOf c n).step + 1 ∧ (vcOf d n).ramp = none ∧ (vcOf d n).follow = follow ∧
      (vcOf d n).req = req := by
  obtain ⟨p, o, f, hask⟩ := vcAsk_of k c req follow hlt
  dsimp only
  rw [vcNext_num_step, vcNext_of _ (by simpa using hlt), hask]
  exact ⟨rfl, rfl, rfl, rfl⟩

/-! ## RAMP, DITHER and WAIT (R209) -/

/-- A step that only notes something in the channel's own state shows the next step, and nothing else. -/
theorem vcNext_vcSet_facts (c : Chip) {n : Nat} (x : VcX) (hlt : n < c.valve.chans.length) :
    let d := vcNext (vcSet c n x) n
    vcOf d n = { x with step := x.step + 1 } ∧ d.num (Key.Valve.STEP n) = x.step + 1 ∧
      KeepsObjects [Key.Valve.STEP n] c d := by
  have hown := vcOf_vcSet c x hlt
  refine ⟨?_, ?_, (KeepsObjects.of_od rfl).trans (vcNext_keeps _ _)⟩
  · rw [vcNext_of _ (lt_vcSet _ hlt), hown]
  · rw [vcNext_num_step, hown]

/-- The channel with a DITHER's square wave noted. -/
def ditherNoted (k : Keeper) (c : Chip) (n v : Nat) : VcX :=
  { vcOf c n with ditherA := v / 64, ditherN := v % 64, ditherT := nowUs k c }

/-- A DITHER settles the target with its square wave. -/
def dithered (k : Keeper) (c : Chip) (n v : Nat) : Chip := vcSettle k (vcSet c n (ditherNoted k c n v)) n

theorem dithered_facts (k : Keeper) {c : Chip} {n : Nat} (v : Nat) (hlt : n < c.valve.chans.length) :
    let d := vcNext (dithered k c n v) n
    (vcOf d n).ditherA = v / 64 ∧ (vcOf d n).ditherN = v % 64 ∧ (vcOf d n).ditherT = nowUs k c ∧
      d.num (Key.Valve.STEP n) = (vcOf c n).step + 1 ∧
      KeepsObjects (Key.Valve.STEP n :: settledKeys n) c d := by
  obtain ⟨p, o, f, hsettle⟩ := vcSettle_of k (vcSet c n (ditherNoted k c n v)) (n := n) (lt_vcSet _ hlt)
  have hown : vcOf (dithered k c n v) n =
      { ditherNoted k c n v with peakAt := p, peakOver := o, epFlags := f } := by
    rw [dithered, hsettle, vcOf_vcSet _ _ hlt]
  have hkeep : KeepsObjects (settledKeys n) c (dithered k c n v) := (vcSet_keeps _ _ _ _).trans (vcSettle_keeps _ _ _)
  dsimp only
  rw [vcNext_num_step, vcNext_of _ (by simpa [dithered] using hlt), hown]
  exact ⟨rfl, rfl, rfl, rfl, (hkeep.mono fun _ => List.mem_cons_of_mem _).trans
    ((vcNext_keeps _ _).mono fun _ hx => List.mem_cons.2 (.inl (List.mem_singleton.1 hx)))⟩

section
variable {k : Keeper} {c : Chip} {n v : Nat}

theorem opWait_of_new (hwait : (vcOf c n).waitEnd = none) :
    (opWait k c n v).1 = vcSet c n { vcOf c n with
      waitEnd := some (nowUs k c + waitUnit (v / 1024) * (v % 1024)) } := by
  unfold opWait
  simp only [hwait]

theorem opWait_of_before {e : Nat} (hwait : (vcOf c n).waitEnd = some e) (hbefore : nowUs k c < e) :
    (opWait k c n v).1 = c := by
  unfold opWait
  simp only [hwait, if_neg (Nat.not_le.2 hbefore)]

theorem opWait_of_over {e : Nat} (hwait : (vcOf c n).waitEnd = some e) (hover : e ≤ nowUs k c) :
    (opWait k c n v).1 = vcNext (vcSet c n { vcOf c n with waitEnd := none }) n := by
  unfold opWait
  simp only [hwait, if_pos hover]

end

/-! ## LOOP, MARK and END (R209) -/

/-- The jumps that the LOOP at the present step has left. -/
def loopLeft (x : VcX) : Option Nat := (x.loops.find? fun l => decide (l.1 = x.step)).map (·.2)

/-- The counters of the other LOOPs. -/
def loopRest (x : VcX) : List (Nat × Nat) := x.loops.filter fun l => decide (l.1 ≠ x.step)

/-- The program jumps to a step, with the counters of its LOOPs. -/
def vcJump (c : Chip) (n step : Nat) (loops : List (Nat × Nat)) : Chip :=
  (vcSet c n { vcOf c n with loops, step }).put (Key.Valve.STEP n) step

theorem vcJump_facts {c : Chip} {n : Nat} (step : Nat) (loops : List (Nat × Nat)) (hlt : n < c.valve.chans.length) :
    let d := vcJump c n step loops
    (vcOf d n).step = step ∧ d.num (Key.Valve.STEP n) = step ∧ (vcOf d n).loops = loops ∧
      KeepsObjects [Key.Valve.STEP n] c d := by
  dsimp only
  rw [vcJump, vcOf_put, vcOf_vcSet _ _ hlt]
  exact ⟨rfl, Chip.num_put_same .., rfl, (KeepsObjects.of_od rfl).put _ (by simp)⟩

/-- A LOOP that is used up falls through and forgets its counter. -/
def loopPassed (c : Chip) (n : Nat) : Chip := vcNext (vcSet c n { vcOf c n with loops := loopRest (vcOf c n) }) n

theorem loopPassed_facts {c : Chip} {n : Nat} (hlt : n < c.valve.chans.length) :
    (loopPassed c n).num (Key.Valve.STEP n) = (vcOf c n).step + 1 ∧
      (vcOf (loopPassed c n) n).loops = loopRest (vcOf c n) ∧ KeepsObjects [Key.Valve.STEP n] c (loopPassed c n) := by
  obtain ⟨hown, hstep, hkeep⟩ := vcNext_vcSet_facts c { vcOf c n with loops := loopRest (vcOf c n) } hlt
  exact ⟨hstep, congrArg VcX.loops hown, hkeep⟩

theorem ne_step_of_mem_loopRest {x : VcX} {l : Nat × Nat} (h : l ∈ loopRest x) : l.1 ≠ x.step :=
  of_decide_eq_true (List.mem_filter.1 h).2

/-- A LOOP that jumps keeps one counter of its own, of the jumps that are left. -/
theorem loopJump_facts {c : Chip} {n : Nat} (step left : Nat) (hlt : n < c.valve.chans.length) :
    let d := vcJump c n step (loopRest (vcOf c n) ++ [((vcOf c n).step, left)])
    (vcOf d n).step = step ∧ d.num (Key.Valve.STEP n) = step ∧ ((vcOf c n).step, left) ∈ (vcOf d n).loops ∧
      (∀ l ∈ (vcOf d n).loops, l.1 = (vcOf c n).step → l.2 = left) ∧ KeepsObjects [Key.Valve.STEP n] c d := by
  obtain ⟨hown, hstep, hloops, hkeep⟩ := vcJump_facts step (loopRest (vcOf c n) ++ [((vcOf c n).step, left)]) hlt
  refine ⟨hown, hstep, ?_, ?_, hkeep⟩ <;> rw [hloops]
  · exact List.mem_append_right _ (List.mem_singleton.2 rfl)
  · intro l hl hat
    rcases List.mem_append.1 hl with hrest | hnew
    · exact absurd hat (ne_step_of_mem_loopRest hrest)
    · rw [List.mem_singleton.1 hnew]

section
variable {c : Chip} {n v : Nat}

theorem opLoop_of_endless (hcount : v % 64 = 0) : (opLoop c n v).1 = vcJump c n (v / 64) (vcOf c n).loops := by
  unfold opLoop; dsimp only; rw [if_pos hcount]; rfl

/-- A counted LOOP falls through and forgets its counter where no jump is left, else it jumps. -/
theorem opLoop_of_counted (hcount : v % 64 ≠ 0) :
    (opLoop c n v).1 =
      if (loopLeft (vcOf c n)).getD (v % 64) = 0 then loopPassed c n
      else vcJump c n (v / 64)
        (loopRest (vcOf c n) ++ [((vcOf c n).step, (loopLeft (vcOf c n)).getD (v % 64) - 1)]) := by
  unfold opLoop
  dsimp only
  rw [if_neg hcount]
  exact apply_ite Prod.fst ..

theorem opLoop_of_left {left : Nat} (hcount : v % 64 ≠ 0) (hleft : (loopLeft (vcOf c n)).getD (v % 64) = left + 1) :
    (opLoop c n v).1 = vcJump c n (v / 64) (loopRest (vcOf c n) ++ [((vcOf c n).step, left)]) := by
  rw [opLoop_of_counted hcount, hleft, if_neg (Nat.succ_ne_zero left), Nat.add_sub_cancel]

theorem opLoop_of_used (hcount : v % 64 ≠ 0) (hused : loopLeft (vcOf c n) = some 0) :
    (opLoop c n v).1 = loopPassed c n := by
  rw [opLoop_of_counted hcount, hused]; rfl

end

theorem opMark_facts (k : Keeper) (c : Chip) (n v : Nat) :
    let d := (opMark k c n v).1
    d.num (Key.Valve.LAST_MARK n) = v % 256 ∧ d.num (Key.Valve.MARK_EPOCH n) = wireEpoch k.epoch ∧
      d.num (Key.Valve.STEP n) = (vcOf c n).step + 1 ∧
      KeepsObjects [Key.Valve.LAST_MARK n, Key.Valve.MARK_EPOCH n, Key.Valve.STEP n] c d := by
  unfold opMark
  refine ⟨?_, ?_, vcNext_num_step .., ?_⟩
  · rw [vcNext_num_ne _ (key_ne_of_sub (by decide)), Chip.num_put_ne _ _ (key_ne_of_sub (by decide)), Chip.num_put_same]
  · rw [vcNext_num_ne _ (key_ne_of_sub (by decide)), Chip.num_put_same]
  · exact (((KeepsObjects.of_od rfl).put _ (by simp)).put _ (by simp)).trans ((vcNext_keeps _ _).mono (by simp))

theorem opEnd_answers (k : Keeper) (c : Chip) (n : Nat) :
    (opEnd k c n).1 = if c.num (Key.Valve.STATE n) = 5 then (vcZero k c n).put (Key.Valve.STATE n) 0
      else (vcAbandon c n).put (Key.Valve.STATE n) 2 := by
  unfold opEnd
  exact apply_ite Prod.fst ..

/-- A held channel keeps its target, with its program gone. -/
theorem vcHeld_facts {c : Chip} {n : Nat} (hlt : n < c.valve.chans.length) :
    let d := (vcAbandon c n).put (Key.Valve.STATE n) 2
    d.num (Key.Valve.STATE n) = 2 ∧ d.num (Key.Valve.STEP n) = 0xFF ∧ (vcOf d n).prog = none ∧
      (vcOf d n).req = (vcOf c n).req ∧ KeepsObjects [Key.Valve.STATE n, Key.Valve.STEP n] c d := by
  obtain ⟨hprog, hreq⟩ := vcAbandon_of c hlt
  refine ⟨Chip.num_put_same .., ?_, hprog, hreq, ((vcAbandon_keeps c n).mono (by simp)).put _ (by simp)⟩
  rw [Chip.num_put_ne _ _ (key_ne_of_sub (by decide))]
  exact Chip.num_put_same ..

theorem vcAbandon_length (c : Chip) (n : Nat) : (vcAbandon c n).valve.chans.length = c.valve.chans.length :=
  vcSet_length ..

/-- A channel brought to IDLE has no program and no target, and follows no COMMAND. -/
theorem vcIdle_facts (k : Keeper) {c : Chip} {ch : Fin 48} (hlt : ch.val < c.valve.chans.length) :
    let d := (vcZero k c ch).put (Key.Valve.STATE ch) 0
    d.num (Key.Valve.STATE ch) = 0 ∧ d.num (Key.Valve.STEP ch) = 0xFF ∧ (vcOf d ch).prog = none ∧
      (vcOf d ch).req = 0 ∧ (vcOf d ch).follow = false := by
  have hlt' : ch.val < (vcAbandon c ch).valve.chans.length := (vcAbandon_length c ch).symm ▸ hlt
  obtain ⟨p, o, f, hask⟩ := vcAsk_of k (n := ch)
    (vcSet (vcAbandon c ch) ch { vcOf (vcAbandon c ch) ch with ditherA := 0, held := false }) 0 false (lt_vcSet _ hlt')
  have hstep : (vcZero k c ch).num (Key.Valve.STEP ch) = 0xFF :=
    (vcAsk_num_valve k _ ch 0 false (by decide) (by decide)).trans (Chip.num_put_same ..)
  dsimp only
  rw [Chip.num_put_same, Chip.num_put_ne _ _ (key_ne_of_sub (by decide)), hstep, vcOf_put, vcZero, hask,
    vcOf_vcSet _ _ hlt']
  exact ⟨rfl, rfl, (vcAbandon_of c hlt).1, rfl, rfl⟩

/-! ## PEAKWIN (R209) -/

/-- The time to a peak is shown, and the program goes on. -/
def peakShown (c : Chip) (n t : Nat) : Chip := vcNext (c.put (Key.Valve.TTP_US n) t) n

/-- An early peak is flagged. -/
def peakEarly (c : Chip) (n t : Nat) : Chip := (peakShown c n t).putBits (Key.Valve.FLAGS n) 1 true

/-- A late or missing peak shows the end of its window, and is flagged. -/
def peakLate (c : Chip) (n t : Nat) : Chip :=
  vcNext (disarm ((c.put (Key.Valve.TTP_US n) t).putBits (Key.Valve.FLAGS n) 2 true) Key.InjValve.INJ_TTP n) n

section
variable {k : Keeper} {c : Chip} {n v : Nat}

/-- What PEAKWIN does with a peak that has been reached, by its window. -/
theorem opPeakwin_of_peak {p : Nat} (hloud : armedAt c Key.InjValve.INJ_TTP n = false)
    (hpeak : peakTime k c n = some p) (hhigh : p ≤ 250 * (v % 64)) :
    (opPeakwin k c n v).1 =
      if p < 250 * (v / 64) then raise k (peakEarly c n p) 0x0704 (unitValve n) else peakShown c n p := by
  unfold opPeakwin
  simp only [hloud, hpeak, if_neg (Nat.not_lt.2 hhigh), Bool.false_eq_true, if_false]
  rfl

theorem opPeakwin_of_late (hloud : armedAt c Key.InjValve.INJ_TTP n = false)
    (hlate : (∃ p, peakTime k c n = some p ∧ 250 * (v % 64) < p) ∨
      (peakTime k c n = none ∧ 250 * (v % 64) ≤ nowUs k c - (vcOf c n).raisedAt)) :
    (opPeakwin k c n v).1 = raise k (peakLate c n (250 * (v % 64))) 0x0704 (unitValve n) := by
  unfold opPeakwin
  rcases hlate with ⟨p, hpeak, hover⟩ | ⟨hpeak, hover⟩
  · simp only [hloud, hpeak, if_pos hover, Bool.false_eq_true, if_false]
    rfl
  · simp only [hloud, hpeak, if_pos hover, Bool.false_eq_true, if_false]
    rfl

theorem opPeakwin_of_awaited (hloud : armedAt c Key.InjValve.INJ_TTP n = false) (hpeak : peakTime k c n = none)
    (hbefore : nowUs k c - (vcOf c n).raisedAt < 250 * (v % 64)) : (opPeakwin k c n v).1 = c := by
  unfold opPeakwin
  simp only [hloud, hpeak, if_neg (Nat.not_le.2 hbefore), Bool.false_eq_true, if_false]

end

theorem peakShown_facts (c : Chip) (n t : Nat) :
    (peakShown c n t).num (Key.Valve.TTP_US n) = t ∧
      (peakShown c n t).num (Key.Valve.STEP n) = (vcOf c n).step + 1 ∧
      KeepsObjects [Key.Valve.TTP_US n, Key.Valve.STEP n] c (peakShown c n t) := by
  refine ⟨?_, vcNext_num_step .., ?_⟩
  · rw [peakShown, vcNext_num_ne _ (key_ne_of_sub (by decide)), Chip.num_put_same]
  · exact ((KeepsObjects.of_od rfl).put _ (by simp)).trans ((vcNext_keeps _ _).mono (by simp))

/-- PEAKWIN has passed with a time shown and a flag set. -/
def PeakFlagged (c d : Chip) (n t flag : Nat) : Prop :=
  d.num (Key.Valve.TTP_US n) = t ∧ d.num (Key.Valve.STEP n) = (vcOf c n).step + 1 ∧
    d.num (Key.Valve.FLAGS n) = c.num (Key.Valve.FLAGS n) ||| flag ∧
    KeepsObjects [Key.Valve.TTP_US n, Key.Valve.STEP n, Key.Valve.FLAGS n] c d

theorem peakEarly_flagged (c : Chip) (n t : Nat) : PeakFlagged c (peakEarly c n t) n t 1 := by
  obtain ⟨htime, hstep, hkeep⟩ := peakShown_facts c n t
  have hflags : (peakShown c n t).num (Key.Valve.FLAGS n) = c.num (Key.Valve.FLAGS n) := hkeep.num_eq (by simp)
  refine ⟨?_, ?_, ?_, (hkeep.mono (by simp)).putBits _ _ (by simp)⟩
  · rw [peakEarly, Chip.num_putBits_ne _ _ _ (key_ne_of_sub (by decide)), htime]
  · rw [peakEarly, Chip.num_putBits_ne _ _ _ (key_ne_of_sub (by decide)), hstep]
  · rw [peakEarly, Chip.num_putBits_same, hflags, if_pos rfl]

theorem peakLate_flagged (c : Chip) (n t : Nat) : PeakFlagged c (peakLate c n t) n t 2 := by
  refine ⟨?_, vcNext_num_step .., ?_, ?_⟩
  · rw [peakLate, vcNext_num_ne _ (key_ne_of_sub (by decide)), disarm_num,
      Chip.num_putBits_ne _ _ _ (key_ne_of_sub (by decide)), Chip.num_put_same]
  · rw [peakLate, vcNext_num_ne _ (key_ne_of_sub (by decide)), disarm_num, Chip.num_putBits_same, if_pos rfl,
      Chip.num_put_ne _ _ (key_ne_of_sub (by decide))]
  · have hput : KeepsObjects [Key.Valve.TTP_US n, Key.Valve.STEP n, Key.Valve.FLAGS n] c
        ((c.put (Key.Valve.TTP_US n) t).putBits (Key.Valve.FLAGS n) 2 true) :=
      ((KeepsObjects.of_od rfl).put _ (by simp)).putBits _ _ (by simp)
    exact (hput.trans (KeepsObjects.of_od (disarm_od ..))).trans ((vcNext_keeps _ _).mono (by simp))

theorem disarm_valve (c : Chip) (key m : Nat) : (disarm c key m).valve = c.valve := rfl

theorem peakEarly_handler (c : Chip) (n t code unit : Nat) :
    (peakEarly c n t).flt.cur = c.flt.cur ∧ handlingOf (peakEarly c n t) code unit = handlingOf c code unit := by
  have hflt : (peakEarly c n t).flt = c.flt := vcNext_flt _ n
  unfold handlingOf
  rw [hflt]
  exact ⟨rfl, rfl⟩

theorem peakLate_handler (c : Chip) (n t code unit : Nat) :
    (peakLate c n t).flt.cur = c.flt.cur ∧ handlingOf (peakLate c n t) code unit = handlingOf c code unit := by
  have hflt : (peakLate c n t).flt = (disarm c Key.InjValve.INJ_TTP n).flt := vcNext_flt _ n
  unfold handlingOf
  rw [hflt]
  exact ⟨rfl, rfl⟩

/-- VALVE_TTP is taken beside what PEAKWIN shows. -/
theorem PeakFlagged.raised (k : Keeper) {c d : Chip} {ch : Fin 48} {t flag : Nat} (h : PeakFlagged c d ch t flag)
    (hfree : HandlerFree c 0x0704 (unitValve ch))
    (hhandler : d.flt.cur = c.flt.cur ∧ handlingOf d 0x0704 (unitValve ch) = handlingOf c 0x0704 (unitValve ch)) :
    let e := raise k d 0x0704 (unitValve ch)
    Taken c e 0x0704 (unitValve ch) false ∧ e.num (Key.Valve.TTP_US ch) = t ∧
      e.num (Key.Valve.STEP ch) = (vcOf c ch).step + 1 ∧
      e.num (Key.Valve.FLAGS ch) = c.num (Key.Valve.FLAGS ch) ||| flag ∧
      KeepsObjects ([Key.Valve.TTP_US ch, Key.Valve.STEP ch, Key.Valve.FLAGS ch] ++ eventKeys) c e := by
  obtain ⟨htime, hstep, hflags, hkeep⟩ := h
  have hown : ∀ key ∈ eventKeys, key ∉ [Key.Valve.TTP_US ch, Key.Valve.STEP ch, Key.Valve.FLAGS ch] := by
    intro key hkey hmem
    simp only [List.mem_cons, List.not_mem_nil, or_false] at hmem
    rcases hmem with rfl | rfl | rfl <;> exact valveKey_not_event ch (by decide) hkey
  obtain ⟨htaken, -, hall⟩ := raise_taken_keep k c d 0x0704 (unitValve ch) false _ hfree hhandler hkeep hown
  exact ⟨htaken, (raise_num _ _ _ _ _ (valveKey_not_event ch (by decide))).trans htime,
    (raise_num _ _ _ _ _ (valveKey_not_event ch (by decide))).trans hstep,
    (raise_num _ _ _ _ _ (valveKey_not_event ch (by decide))).trans hflags, hall⟩

/-! ## QUENCH (R207, R209) -/

/-- A QUENCH begins: its timeout is noted and the target is 0. -/
def quenchAsked (k : Keeper) (c : Chip) (n v : Nat) : Chip :=
  vcAsk k (vcSet c n { vcOf c n with quenchEnd := some (nowUs k c + 100 * v) }) n 0 false

/-- The chip with a deferred quench flagged and counted, before its event is raised. -/
def quenchFlagged (k : Keeper) (c : Chip) (n v : Nat) : Chip :=
  ((disarm (quenchAsked k c n v) Key.InjValve.INJ_QUENCH_DEFER n).putBits (Key.Valve.FLAGS n) 8 true).bump
    (Key.Valve.QUENCH_DEFERS n)

section
variable {k : Keeper} {c : Chip} {n v : Nat}

theorem opQuench_of_alone (hnew : (vcOf c n).quenchEnd = none)
    (hloud : armedAt c Key.InjValve.INJ_QUENCH_DEFER n = false)
    (halone : ((bankChans (n / 4)).any fun m => decide (m ≠ n) && energised c m) = false)
    (hbank : bankCanQuench (quenchAsked k c n v) (n / 4) = true) :
    (opQuench k c n v).1 = quenchStart (quenchAsked k c n v) (n / 4) := by
  unfold opQuench
  simp only [hnew]
  exact if_neg (by rw [hloud, halone, ← quenchAsked, hbank]; decide)

theorem opQuench_of_others (hnew : (vcOf c n).quenchEnd = none)
    (hloud : armedAt c Key.InjValve.INJ_QUENCH_DEFER n = false)
    (hothers : ((bankChans (n / 4)).any fun m => decide (m ≠ n) && energised c m) = true) :
    (opQuench k c n v).1 = raise k (quenchFlagged k c n v) 0x070A (unitValve n) := by
  unfold opQuench
  simp only [hnew]
  exact (if_pos (by rw [hothers]; simp)).trans (by rw [hloud]; rfl)

theorem opQuench_of_held {e : Nat} (hquench : (vcOf c n).quenchEnd = some e) (hbefore : nowUs k c < e)
    (hcurrent : fLt fmt32 (vcOf c n).current (ratio 1 20) = false) : (opQuench k c n v).1 = c := by
  unfold opQuench
  simp only [hquench, hcurrent, Bool.or_false, decide_eq_true_eq, if_neg (Nat.not_le.2 hbefore)]

theorem opQuench_of_over {e : Nat} (hquench : (vcOf c n).quenchEnd = some e)
    (hover : e ≤ nowUs k c ∨ fLt fmt32 (vcOf c n).current (ratio 1 20) = true) :
    (opQuench k c n v).1 = vcNext (vcSet c n { vcOf c n with quenchEnd := none }) n := by
  unfold opQuench
  simp only [hquench]
  rw [if_pos (by simpa using hover)]

end

theorem quenchAsked_of (k : Keeper) {c : Chip} {n : Nat} (v : Nat) (hlt : n < c.valve.chans.length) :
    (vcOf (quenchAsked k c n v) n).req = 0 ∧
      (vcOf (quenchAsked k c n v) n).quenchEnd = some (nowUs k c + 100 * v) := by
  obtain ⟨p, o, f, hask⟩ := vcAsk_of k (vcSet c n { vcOf c n with quenchEnd := some (nowUs k c + 100 * v) }) (n := n)
    0 false (lt_vcSet _ hlt)
  rw [quenchAsked, hask, vcOf_vcSet _ _ hlt]
  exact ⟨rfl, rfl⟩

theorem quenchAsked_keeps (k : Keeper) (c : Chip) (n v : Nat) :
    KeepsObjects (settledKeys n) c (quenchAsked k c n v) :=
  (vcSet_keeps _ _ _ _).trans (vcAsk_keeps _ _ _ _ _)

/-- A bank whose switch can open for a quench can still once the channel's target is 0. -/
theorem bankCanQuench_quenchAsked (k : Keeper) {c : Chip} {ch : Fin 48} (v : Nat)
    (hbank : c.num (Key.Bank.BANK_STATE (ch / 4)) ≤ 2) : bankCanQuench (quenchAsked k c ch v) (ch / 4) = true := by
  unfold quenchAsked vcAsk vcSettle
  dsimp only
  refine bankCanQuench_bankShow ?_
  rwa [Chip.num_put_ne _ _ (key_ne_of_subs (by decide))]

theorem quenchAsked_num_valve (k : Keeper) (c : Chip) (ch : Fin 48) (v : Nat) {sub : Nat} (hsub : sub < 256)
    (hne : sub ≠ 0x21) :
    (quenchAsked k c ch v).num ((0x3400 + ch.val) * 256 + sub) = c.num ((0x3400 + ch.val) * 256 + sub) :=
  vcAsk_num_valve k _ ch 0 false hsub hne

@[simp] theorem vcOf_quenchStart (c : Chip) (b n : Nat) : vcOf (quenchStart c b) n = vcOf c n := rfl

/-- A quench of a bank that no other channel holds energised opens its switch; the channel's step waits. -/
theorem quenchStart_facts (k : Keeper) {c : Chip} {ch : Fin 48} (v : Nat) (hlt : ch.val < c.valve.chans.length) :
    let d := quenchStart (quenchAsked k c ch v) (ch / 4)
    d.num (Key.Bank.BANK_STATE (ch / 4)) = 2 ∧
      d.num (Key.Bank.QUENCHES (ch / 4)) = (c.num (Key.Bank.QUENCHES (ch / 4)) + 1) % 0x100000000 ∧
      (vcOf d ch).req = 0 ∧ (vcOf d ch).quenchEnd = some (nowUs k c + 100 * v) ∧
      d.num (Key.Valve.STEP ch) = c.num (Key.Valve.STEP ch) := by
  have hown := quenchAsked_of k v hlt
  have hcount : (quenchAsked k c ch v).num (Key.Bank.QUENCHES (ch / 4)) = c.num (Key.Bank.QUENCHES (ch / 4)) := by
    refine (quenchAsked_keeps k c ch v).num_eq ?_
    simp only [List.mem_cons, List.not_mem_nil, or_false, not_or]
    exact ⟨key_ne_of_subs (by decide), key_ne_of_subs (by decide),
      key_ne_of_subs (by decide), key_ne_of_subs (by decide)⟩
  dsimp only
  rw [vcOf_quenchStart]
  refine ⟨?_, ?_, hown.1, hown.2, ?_⟩
  · rw [quenchStart, Chip.num_bump_ne _ _ (key_ne_of_subs (by decide)), Chip.num_put_same]
  · rw [quenchStart, Chip.num_bump_same, Chip.num_put_ne _ _ (key_ne_of_subs (by decide)), hcount]
  · rw [quenchStart, Chip.num_bump_ne _ _ (key_ne_of_subs (by decide)),
      Chip.num_put_ne _ _ (key_ne_of_subs (by decide))]
    exact quenchAsked_num_valve k c ch v (by decide) (by decide)

theorem quenchFlagged_keeps (k : Keeper) (c : Chip) (n v : Nat) :
    KeepsObjects (settledKeys n ++ [Key.Valve.FLAGS n, Key.Valve.QUENCH_DEFERS n]) c (quenchFlagged k c n v) := by
  have hasked := (quenchAsked_keeps k c n v).mono fun _ =>
    List.mem_append_left [Key.Valve.FLAGS n, Key.Valve.QUENCH_DEFERS n]
  exact ((hasked.trans (KeepsObjects.of_od (disarm_od ..))).putBits _ _ (by simp)).bump _ (by simp)

theorem vcOf_quenchFlagged (k : Keeper) (c : Chip) (n v : Nat) :
    vcOf (quenchFlagged k c n v) n = vcOf (quenchAsked k c n v) n := by
  unfold quenchFlagged vcOf
  rw [Chip.bump_valve, Chip.putBits_valve, disarm_valve]

theorem quenchFlagged_handler (k : Keeper) (c : Chip) (n v code unit : Nat) :
    (quenchFlagged k c n v).flt.cur = c.flt.cur ∧
      handlingOf (quenchFlagged k c n v) code unit = handlingOf c code unit := by
  have hasked : (quenchAsked k c n v).flt = c.flt := vcAsk_flt ..
  unfold handlingOf quenchFlagged
  simp [disarm, hasked]

/-- A quench deferred is flagged, counted and raised; the channel's target is 0 all the same. -/
theorem quenchFlagged_raised (k : Keeper) {c : Chip} {ch : Fin 48} (v : Nat) (hlt : ch.val < c.valve.chans.length)
    (hfree : HandlerFree c 0x070A (unitValve ch)) :
    let d := raise k (quenchFlagged k c ch v) 0x070A (unitValve ch)
    Taken c d 0x070A (unitValve ch) false ∧
      d.num (Key.Valve.FLAGS ch) = c.num (Key.Valve.FLAGS ch) ||| 8 ∧
      d.num (Key.Valve.QUENCH_DEFERS ch) = (c.num (Key.Valve.QUENCH_DEFERS ch) + 1) % 0x100000000 ∧
      (vcOf d ch).req = 0 ∧ (vcOf d ch).quenchEnd = some (nowUs k c + 100 * v) := by
  have hown : ∀ key ∈ eventKeys, key ∉ settledKeys ch ++ [Key.Valve.FLAGS ch, Key.Valve.QUENCH_DEFERS ch] := by
    intro key hkey hmem
    rcases List.mem_append.1 hmem with hsettled | hown
    · exact settledKeys_not_event ch key hsettled hkey
    · simp only [List.mem_cons, List.not_mem_nil, or_false] at hown
      rcases hown with rfl | rfl <;> exact valveKey_not_event ch (by decide) hkey
  obtain ⟨htaken, -, -⟩ := raise_taken_keep k c (quenchFlagged k c ch v) 0x070A (unitValve ch) false _ hfree
    (quenchFlagged_handler ..) (quenchFlagged_keeps k c ch v) hown
  refine ⟨htaken, ?_, ?_, ?_⟩
  · rw [raise_num _ _ _ _ _ (valveKey_not_event ch (by decide)), quenchFlagged,
      Chip.num_bump_ne _ _ (key_ne_of_sub (by decide)), Chip.num_putBits_same, if_pos rfl, disarm_num,
      quenchAsked_num_valve k c ch v (by decide) (by decide)]
  · rw [raise_num _ _ _ _ _ (valveKey_not_event ch (by decide)), quenchFlagged, Chip.num_bump_same,
      Chip.num_putBits_ne _ _ _ (key_ne_of_sub (by decide)), disarm_num,
      quenchAsked_num_valve k c ch v (by decide) (by decide)]
  · rw [vcOf_raise, vcOf_quenchFlagged]
    exact quenchAsked_of k v hlt

end Sys2Proof.Machine

/-! ## The statements -/

namespace Sys2Proof.Proofs.ValveDrive

open Sys2Proof Sys2Proof.Machine

/-- Settles O57: each instruction by the branch of its operation that the clause supposes. -/
theorem shaperTargetInstructionsComplete : Obligations.ShaperTargetInstructionsComplete := by
  intro s ch v hruns _
  have hlt := progRuns_lt hruns
  have hseti := exec_seti_of_running v hruns
  refine ⟨fun hramp hloud hsteady hcurrent hgrant hclamp hhold hcool => ?_,
    fun hramp hloud hfollow hraises hunfit hwin => ?_, fun hramp hloud hfollow hraises hunfit hwin => ?_,
    fun d hramp hloud hdur hgrant => ?_, fun r hramp hbefore => ?_,
    fun r hramp hover => ?_, ?_, ?_⟩
  · have hop := opSeti_of_granted (k := s.keeper) hramp hloud (.inr hgrant)
    rw [setiTarget_of_current hcurrent] at hop
    exact ⟨_, hseti.trans (next_chip_congr hop), setiDone_of_free s.keeper hlt hsteady hclamp hhold hcool⟩
  · exact ⟨_, hseti.trans (next_chip_congr ((opSeti_of_unfit hramp hloud hfollow hraises hunfit).trans (if_neg hwin))),
      setiWaits_facts s.keeper hlt⟩
  · exact hseti.trans (next_chip_congr ((opSeti_of_unfit hramp hloud hfollow hraises hunfit).trans (if_pos hwin)))
  · exact ⟨_, hseti.trans (next_chip_congr (opSeti_of_granted hramp hloud hgrant)),
      setiDone_of_ramp_facts s.keeper _ hlt hdur⟩
  · exact hseti.trans (next_chip_congr (opSeti_of_within hramp hbefore))
  · exact ⟨_, hseti.trans (next_chip_congr (opSeti_of_end hramp hover)), rampEnd_facts s.keeper _ _ hlt⟩
  · obtain ⟨hown, hstep, hkeep⟩ :=
      vcNext_vcSet_facts s.found { vcOf s.found ch with rampUs := some (100 * v.toNat) } hlt
    exact ⟨_, exec_ramp_of_running v hruns, congrArg VcX.rampUs hown, hstep, hkeep⟩
  · exact ⟨_, exec_dither_of_running v hruns, dithered_facts s.keeper v.toNat hlt⟩

/-- Settles O58: each instruction by the branch of its operation that the clause supposes; the branches of PEAKWIN share
what is flagged and raised. -/
theorem shaperTimedInstructionsComplete : Obligations.ShaperTimedInstructionsComplete := by
  intro s ch v hruns _
  have hlt := progRuns_lt hruns
  have hwaits := exec_wait_of_running v hruns
  have hpeaks := exec_peakwin_of_running v hruns
  have hquenches := exec_quench_of_running v hruns
  refine ⟨fun hwait => ?_, fun e hwait hbefore => ?_, fun e hwait hover => ?_, fun p hloud hpeak hlow hhigh => ?_,
    fun p hloud hpeak hearly hhigh hfree => ?_, fun hloud hlate hfree => ?_, fun hloud hpeak hbefore => ?_,
    fun hnew hloud halone hbank => ?_, fun hnew hloud hothers hfree => ?_, fun e hquench hbefore hcurrent => ?_,
    fun e hquench hover => ?_⟩
  · exact ⟨_, hwaits.trans (next_chip_congr (opWait_of_new hwait)), congrArg VcX.waitEnd (vcOf_vcSet _ _ hlt),
      vcSet_keeps _ _ _ _⟩
  · exact hwaits.trans (next_chip_congr (opWait_of_before hwait hbefore))
  · obtain ⟨hown, hstep, hkeep⟩ := vcNext_vcSet_facts s.found { vcOf s.found ch with waitEnd := none } hlt
    exact ⟨_, hwaits.trans (next_chip_congr (opWait_of_over hwait hover)), congrArg VcX.waitEnd hown, hstep, hkeep⟩
  · have hop := (opPeakwin_of_peak hloud hpeak hhigh).trans (if_neg (Nat.not_lt.2 hlow))
    exact ⟨_, hpeaks.trans (next_chip_congr hop), peakShown_facts ..⟩
  · have hop := (opPeakwin_of_peak hloud hpeak hhigh).trans (if_pos hearly)
    refine ⟨_, hpeaks.trans (next_chip_congr hop), ?_⟩
    dsimp only
    exact (peakEarly_flagged s.found ch p).raised s.keeper hfree (peakEarly_handler ..)
  · refine ⟨_, hpeaks.trans (next_chip_congr (opPeakwin_of_late hloud hlate)), ?_⟩
    dsimp only
    exact (peakLate_flagged s.found ch _).raised s.keeper hfree (peakLate_handler ..)
  · exact hpeaks.trans (next_chip_congr (opPeakwin_of_awaited hloud hpeak hbefore))
  · have hcan := bankCanQuench_quenchAsked s.keeper v.toNat hbank
    exact ⟨_, hquenches.trans (next_chip_congr (opQuench_of_alone hnew hloud halone hcan)),
      quenchStart_facts s.keeper v.toNat hlt⟩
  · refine ⟨_, hquenches.trans (next_chip_congr (opQuench_of_others hnew hloud hothers)), ?_⟩
    dsimp only
    exact quenchFlagged_raised s.keeper v.toNat hlt hfree
  · exact hquenches.trans (next_chip_congr (opQuench_of_held hquench hbefore hcurrent))
  · obtain ⟨hown, hstep, hkeep⟩ := vcNext_vcSet_facts s.found { vcOf s.found ch with quenchEnd := none } hlt
    exact ⟨_, hquenches.trans (next_chip_congr (opQuench_of_over hquench hover)), congrArg VcX.quenchEnd hown, hstep,
      hkeep⟩

/-- Settles O59: a LOOP by its count and what is left of it; END by the channel's state. -/
theorem shaperControlInstructionsComplete : Obligations.ShaperControlInstructionsComplete := by
  intro s ch v hruns _
  have hlt := progRuns_lt hruns
  have hloop := exec_loop_of_running v hruns
  have hend := exec_endProgram_of_running hruns
  refine ⟨fun hcount => ?_, fun left hcount hleft => ?_, fun hcount hused => ?_,
    ⟨_, exec_mark_of_running v hruns, opMark_facts ..⟩, fun hstate => ?_, fun hstate => ?_⟩
  · exact ⟨_, hloop.trans (next_chip_congr (opLoop_of_endless hcount)), vcJump_facts _ _ hlt⟩
  · exact ⟨_, hloop.trans (next_chip_congr (opLoop_of_left hcount hleft)), loopJump_facts _ left hlt⟩
  · obtain ⟨hstep, hloops, hkeep⟩ := loopPassed_facts hlt
    exact ⟨_, hloop.trans (next_chip_congr (opLoop_of_used hcount hused)), hstep,
      fun l hl => ne_step_of_mem_loopRest (hloops ▸ hl), hkeep⟩
  · exact ⟨_, hend.trans (next_chip_congr ((opEnd_answers ..).trans (if_neg hstate))), vcHeld_facts hlt⟩
  · exact ⟨_, hend.trans (next_chip_congr ((opEnd_answers ..).trans (if_pos hstate))), vcIdle_facts s.keeper hlt⟩

/-- Settles O37: one lemma for each row of Table 7.3, under the conditions that let it act. -/
theorem shaperInstructionsComplete : Obligations.ShaperInstructionsComplete := by
  refine ⟨fun s ch v hruns hramp hloud => ?_, fun s ch v hruns => exec_ramp_of_running v hruns,
    fun s ch v hruns hwait => ?_, fun s ch v e hruns hwait hover => ?_,
    fun s ch v hruns => exec_dither_of_running v hruns, fun s ch v hruns hcount => ?_, fun s ch v hruns hcount => ?_,
    fun s ch v hruns => ⟨_, exec_mark_of_running v hruns, opMark_facts ..⟩,
    fun s ch v hruns hloud p hpeak hlow hhigh => ?_, fun s ch v hruns hnew hloud halone => ?_, fun s ch hruns => ?_⟩
  · exact fun hgrant => (exec_seti_of_running v hruns).trans (next_chip_congr (opSeti_of_granted hramp hloud hgrant))
  · exact (exec_wait_of_running v hruns).trans (next_chip_congr (opWait_of_new hwait))
  · exact (exec_wait_of_running v hruns).trans (next_chip_congr (opWait_of_over hwait hover))
  · exact (exec_loop_of_running v hruns).trans (next_chip_congr (opLoop_of_endless hcount))
  · exact (exec_loop_of_running v hruns).trans (next_chip_congr (opLoop_of_counted hcount))
  · have hop := (opPeakwin_of_peak hloud hpeak hhigh).trans (if_neg (Nat.not_lt.2 hlow))
    exact ⟨_, (exec_peakwin_of_running v hruns).trans (next_chip_congr hop), peakShown_facts ..⟩
  · exact fun hbank =>
      (exec_quench_of_running v hruns).trans (next_chip_congr (opQuench_of_alone hnew hloud halone hbank))
  · exact (exec_endProgram_of_running hruns).trans (next_chip_congr (opEnd_answers ..))

end Sys2Proof.Proofs.ValveDrive
end

section
/-! PROOFS. The statement of time: clock corrections (R269), the loss of time solutions (R271), and the time pulses with
their objects (R275). -/

namespace Sys2Proof.Machine

/-! ## Corrections and the loss of solutions (R269, R271) -/

/-- While the last valid time solution is younger than LOSS_MS, a correction is taken, held within its bounds. -/
theorem execClockCorrectionUpdate_of_fresh {s : State} {a : Nat} (ppt : Int) (hvalid : s.found.gnss.lastValid = some a)
    (hfresh : s.keeper.epoch < a + s.found.num Key.Time.LOSS_MS) (hoff : s.found.mode ≠ .off) :
    execClockCorrectionUpdate ppt s = .next { s with chip := { s.found with gnss := { s.found.gnss with
      corr := max (-2000000) (min 2000000 ppt) } } } := by
  refine onChip_eq_next ?_
  rw [hvalid]
  exact if_neg (by simp only [hoff, decide_eq_true hfresh]; decide)

theorem execTimeSolutionLoss_of_on {s : State} (hoff : s.found.mode ≠ .off) :
    execTimeSolutionLoss s = .next { s with chip := timeLoss s.keeper s.found } :=
  onChip_eq_next (if_neg hoff)

/-! ## Pulses (R275) -/

/-- The chip whose output `n` now gives the pulse of edge `e`, its objects not yet written. -/
def pulseLed (k : Keeper) (c : Chip) (n e : Nat) : Chip :=
  { c with gnss := { c.gnss with pps := c.gnss.pps.set n { high := true, edge := e, lead := nowUs k c } } }

/-- The chip that also shows the pulse with its epoch and the time state, and drives the pin. -/
def pulseShown (k : Keeper) (c : Chip) (n e : Nat) : Chip :=
  (((pulseLed k c n e).put (Key.Pps.PPS_EPOCH n) (wireEpoch e)).put (Key.Pps.PPS_STATE n)
    (c.num Key.Time.TIME_STATE)).emit (.pps n (pulseLevel c n true))

/-- An enabled output at rest gives the pulse that is due, 500 ms or more after its last one. -/
theorem execPpsLeadingEdge_of_rested {s : State} {p : Fin 2} {e : Nat}
    (hlow : (nth s.found.gnss.pps p {}).high = false) (hrest : (nth s.found.gnss.pps p {}).next ≤ nowUs s.keeper s.found)
    (hoff : s.found.mode ≠ .off) (hbank : s.found.mode ≠ .banked) (hpulses : s.found.gnss.pulses = true)
    (henabled : s.found.flag (Key.Pps.PPS_ENABLE p) = true) (hdue : pulseEdge s.keeper s.found = some e)
    (hapart : (nth s.found.gnss.pps p {}).edge + 500 ≤ e) :
    execPpsLeadingEdge p s = .next { s with chip := pulseShown s.keeper s.found p e } := by
  refine onChip_eq_next ((if_neg ?_).trans ?_)
  · simp only [hlow, hoff, hbank, hpulses, henabled, Nat.not_lt.2 hrest]
    decide
  · rw [hdue]
    exact if_neg (by simp [Nat.not_lt.2 hapart])

/-- The objects of the output show its pulse, and no other object changes. -/
theorem pulseShown_facts (k : Keeper) (c : Chip) (n e : Nat) :
    (pulseShown k c n e).num (Key.Pps.PPS_EPOCH n) = wireEpoch e ∧
      (pulseShown k c n e).num (Key.Pps.PPS_STATE n) = c.num Key.Time.TIME_STATE ∧
      KeepsObjects [Key.Pps.PPS_EPOCH n, Key.Pps.PPS_STATE n] c (pulseShown k c n e) := by
  refine ⟨?_, Chip.num_put_same .., ?_⟩
  · rw [pulseShown, Chip.num_emit, Chip.num_put_ne _ _ (key_ne_of_sub (by decide)), Chip.num_put_same]
  · have hput : KeepsObjects [Key.Pps.PPS_EPOCH n, Key.Pps.PPS_STATE n] c
        ((pulseLed k c n e).put (Key.Pps.PPS_EPOCH n) (wireEpoch e)) := (KeepsObjects.of_od rfl).put _ (by simp)
    exact (hput.put _ (by simp)).trans (KeepsObjects.of_od (Chip.emit_od ..))

/-- A pulse that has lasted PPS_WIDTH falls, and the output rests for 100 ms. -/
theorem execPpsTrailingEdge_of_over {s : State} {p : Fin 2} (hhigh : (nth s.found.gnss.pps p {}).high = true)
    (hover : (nth s.found.gnss.pps p {}).lead + 1000 * s.found.num (Key.Pps.PPS_WIDTH p) ≤ nowUs s.keeper s.found) :
    execPpsTrailingEdge p s = .next { s with chip := (({ s.found with gnss := { s.found.gnss with
      pps := s.found.gnss.pps.set p { nth s.found.gnss.pps p {} with
        high := false, next := nowUs s.keeper s.found + 100000 } } } : Chip).emit
          (.pps p (pulseLevel s.found p false))) } :=
  onChip_eq_next (if_pos (by simp only [hhigh, decide_eq_true hover, Bool.true_or, Bool.true_and]))

end Sys2Proof.Machine

/-! ## The statement -/

namespace Sys2Proof.Proofs.GnssAndTime

open Sys2Proof Sys2Proof.Machine

/-- Settles O42: one lemma for each command, under the conditions that let it act. -/
theorem timeCommandsComplete : Obligations.TimeCommandsComplete := by
  refine ⟨fun s ppt a hvalid hfresh hoff => execClockCorrectionUpdate_of_fresh ppt hvalid hfresh hoff,
    fun s hoff => execTimeSolutionLoss_of_on hoff,
    fun s p e hlow hrest hoff hbank hpulses henabled hdue hapart => ?_,
    fun s p hhigh hover => execPpsTrailingEdge_of_over hhigh hover⟩
  obtain ⟨hepoch, hstate, hkeep⟩ := pulseShown_facts s.keeper s.found p e
  exact ⟨_, execPpsLeadingEdge_of_rested hlow hrest hoff hbank hpulses henabled hdue hapart, hepoch, hstate, rfl, rfl,
    hkeep⟩

end Sys2Proof.Proofs.GnssAndTime
end

section
/-! PROOFS. The statement of vision values: their bound and their rounding error (R293). -/

namespace Sys2Proof.Machine

/-- No shift takes a component past 16 bits: it saturates. -/
theorem visValue_le (shift x : Nat) : visValue shift x ≤ 65535 := Nat.min_le_right ..

@[simp] theorem visValue_zero (x : Nat) : visValue 0 x = min x 65535 := rfl

/-- A shift divides, after half of the divisor has been added. -/
theorem visValue_succ (h x : Nat) : visValue (h + 1) x = min ((x + 2 ^ h) / 2 ^ (h + 1)) 65535 := by
  rw [visValue, if_neg h.succ_ne_zero, Nat.add_sub_cancel, Nat.shiftRight_eq_div_pow]

/-- Division by 2·d after adding d lands within d of the dividend. -/
theorem roundedDiv_error (x : Nat) {d : Nat} (hd : 0 < d) :
    (x + d) / (d * 2) * (d * 2) ≤ x + d ∧ x ≤ (x + d) / (d * 2) * (d * 2) + d := by
  have hlow := Nat.div_mul_le_self (x + d) (d * 2)
  have hhigh : x + d < (x + d) / (d * 2) * (d * 2) + d * 2 := Nat.lt_div_mul_add (by omega)
  omega

/-- Below saturation a shifted value is within half of the shift's unit. -/
theorem visValue_succ_error {h x : Nat} (hsat : visValue (h + 1) x < 65535) :
    visValue (h + 1) x * 2 ^ (h + 1) ≤ x + 2 ^ h ∧ x ≤ visValue (h + 1) x * 2 ^ (h + 1) + 2 ^ h := by
  have hval : visValue (h + 1) x = (x + 2 ^ h) / 2 ^ (h + 1) := by
    rw [visValue_succ] at hsat ⊢
    omega
  rw [hval, Nat.pow_succ]
  exact roundedDiv_error x (Nat.two_pow_pos h)

end Sys2Proof.Machine

/-! ## The statement -/

namespace Sys2Proof.Proofs.VisionValues

open Sys2Proof Sys2Proof.Machine

/-- Settles O43: a component that is not shifted rounds nothing, and a shifted one is rounded by half of its unit. -/
theorem visionValuesAreWithinTheirError : Obligations.VisionValuesAreWithinTheirError := by
  refine fun shift x => ⟨visValue_le shift x, ?_, ?_⟩
  · rintro rfl hx
    rw [visValue_zero, Nat.min_eq_left hx]
  · rintro h rfl hsat
    exact visValue_succ_error hsat

end Sys2Proof.Proofs.VisionValues
end

section
/-! PROOFS. The statements of the CAN and Ethernet ports: reception, transmission, claims, bus-off and time references
(R328, R334, R339–R345), and the answers, intervals and services of Ethernet (R348–R351). -/

namespace Sys2Proof.Machine

/-! ## A CAN port's own state and objects -/

theorem canKey_not_event (p : Fin 12) {sub : Nat} (hsub : sub < 256) : (0x4401 + 16 * p.val) * 256 + sub ∉ eventKeys :=
  not_event_of_page (by omega) (by omega) hsub

@[simp] theorem canSet_od (c : Chip) (p : Nat) (x : CanX) : (canSet c p x).od = c.od := rfl

theorem canOf_congr {c d : Chip} (h : d.cans = c.cans) (p : Nat) : canOf d p = canOf c p := by
  unfold canOf; rw [h]

theorem canFlush_of_no_submits (k : Keeper) {c : Chip} {p : Nat} (h : (canOf c p).submits = []) : canFlush k c p = c :=
  if_pos h

/-! ## Reception (R328, R334) -/

/-- A port on its bus does not re-integrate, so no older settings hold for it (R333). -/
theorem canOld_of_onBus {c : Chip} {p : Nat} (hbus : canOnBus c p = true) (sof : Nat) : canOld c p sof = none := by
  have hstate : c.num (Key.Can.CAN_STATE p) ≠ 1 := by
    intro hintegrating
    simp [canOnBus, hintegrating] at hbus
  unfold canOld
  split
  · exact if_neg (by simp [hstate])
  · rfl

/-- A frame that nothing recognises goes to the filters and signals, once its good reception is counted. -/
theorem canReceive_of_other {k : Keeper} {c : Chip} {p : Nat} {f : CanFrame} (sof : Nat) (hbus : canOnBus c p = true)
    (hfd : f.fdf = true → c.flag (Key.Can.FD_ENABLE p) = true) (hother : canKnown c p f = .other) :
    canReceive k c p f sof = canAccept k (recGood k c p) p f sof false := by
  have hformat : (f.fdf && !c.flag (Key.Can.FD_ENABLE p)) = false := by
    cases hf : f.fdf
    · rfl
    · rw [hfd hf]; rfl
  unfold canReceive
  rw [canOld_of_onBus hbus, hbus, hother]
  refine (if_neg (by decide)).trans (if_neg ?_)
  rw [Option.map_none, Option.getD_none, hformat]
  decide

theorem execCanFrameReceived_of_illFormed {f : CanFrame} (p : Fin 12) (sof : Nat) (s : State)
    (hframe : canFrameOk f = false) : execCanFrameReceived p f sof s = .fault .illFormed :=
  if_neg (by rw [hframe]; decide)

theorem execCanFrameReceived_of_other {s : State} {p : Fin 12} {f : CanFrame} (sof : Nat) (hframe : canFrameOk f = true)
    (hbus : canOnBus s.found p = true) (hfd : f.fdf = true → s.found.flag (Key.Can.FD_ENABLE p) = true)
    (hother : canKnown s.found p f = .other) :
    execCanFrameReceived p f sof s = .next { s with chip :=
      (canAccept s.keeper (recGood s.keeper s.found p) p f sof false) } :=
  (if_pos hframe).trans (onChip_eq_next (canReceive_of_other sof hbus hfd hother))

/-! ## Transmission (R339, R340, R344) -/

/-- A frame has had its lifetime. -/
def lifetimeOver (k : Keeper) (c : Chip) (f : TxFrame) : Bool := decide (f.born + 1000 * f.life ≤ nowUs k c)

section
variable {s : State} {p : Fin 12} {f : TxFrame} (hsubmits : (canOf s.found p).submits = [])
include hsubmits

/-- The frame in offer is sent. -/
theorem execCanFrameTransmitted_of_sent (sof : Nat) (hoffer : txOffered s.keeper s.found p = some f) :
    execCanFrameTransmitted p (.sent sof none) s =
      .next { s with chip := txSent s.keeper s.found p f sof none } :=
  onChip_eq_next (by simp only [canFlush_of_no_submits _ hsubmits, hoffer])

/-- An error that leaves TEC within 255 counts and adds 8 to it. -/
theorem execCanFrameTransmitted_of_error (hoffer : txOffered s.keeper s.found p = some f)
    (htec : s.found.num (Key.Can.TEC p) + 8 ≤ 255) :
    execCanFrameTransmitted p .error s = .next { s with chip := (canJudge s.keeper
      ((s.found.bump (Key.Can.ERR_FRAMES p)).put (Key.Can.TEC p) (s.found.num (Key.Can.TEC p) + 8)) p false) } := by
  have hbump : (s.found.bump (Key.Can.ERR_FRAMES p)).num (Key.Can.TEC p) = s.found.num (Key.Can.TEC p) :=
    Chip.num_bump_ne _ _ (key_ne_of_sub (by decide))
  refine onChip_eq_next ?_
  simp only [canFlush_of_no_submits _ hsubmits, hoffer, hbump]
  exact if_neg (Nat.not_lt.2 htec)

/-- The frames whose lifetime is over leave the queue and the time buffer, and are dropped. -/
theorem execCanFrameLifetimeExpiry_of_no_submits :
    let x := canOf s.found p
    let beyond := lifetimeOver s.keeper s.found
    execCanFrameLifetimeExpiry p s = .next { s with chip := ((x.queue.filter beyond ++ x.time.filter beyond).foldl
      (fun c f => txDrop s.keeper c p f true false) (canPut s.found p { x with
        queue := x.queue.filter (fun f => !beyond f), time := x.time.filter (fun f => !beyond f) })) } :=
  onChip_eq_next (by simp only [canFlush_of_no_submits _ hsubmits]; rfl)

end

/-! ## Claims (R343) -/

theorem execAddressClaimReceived_of_onBus {s : State} {p : Fin 12} (name : BitVec 64) (a : Byte)
    (hbus : canOnBus s.found p = true) :
    execAddressClaimReceived p name a s =
      .next { s with chip := claimHeard s.keeper s.found p name.toNat a.toNat false } :=
  onChip_eq_next (if_pos hbus)

/-- The chip whose port has its claimed address. -/
def claimSettled (c : Chip) (p : Nat) : Chip :=
  closeHandling ((c.put (Key.Can.CLAIM_STATE p) 2).put (Key.Can.ADDRESS p) (canOf c p).claimAddr) 0x0C04 (unitCan p)

theorem execClaimSettleExpiry_of_over {s : State} {p : Fin 12} {a : Nat}
    (hstate : s.found.num (Key.Can.CLAIM_STATE p) = 1) (hsent : (canOf s.found p).claimAt = some a)
    (hbus : canOnBus s.found p = true) (hover : a + 250000 ≤ nowUs s.keeper s.found) :
    execClaimSettleExpiry p s = .next { s with chip := claimSettled s.found p } := by
  refine onChip_eq_next ?_
  simp only [hstate, hsent]
  exact if_pos (by simp [hbus, hover])

theorem claimSettled_facts (c : Chip) (p : Nat) :
    (claimSettled c p).num (Key.Can.CLAIM_STATE p) = 2 ∧
      (claimSettled c p).num (Key.Can.ADDRESS p) = (canOf c p).claimAddr ∧
      KeepsObjects [Key.Can.CLAIM_STATE p, Key.Can.ADDRESS p] c (claimSettled c p) := by
  have hod : (claimSettled c p).od =
      ((c.put (Key.Can.CLAIM_STATE p) 2).put (Key.Can.ADDRESS p) (canOf c p).claimAddr).od := closeHandling_od ..
  have hput : KeepsObjects [Key.Can.CLAIM_STATE p, Key.Can.ADDRESS p] c (c.put (Key.Can.CLAIM_STATE p) 2) :=
    (KeepsObjects.of_od rfl).put _ (by simp)
  refine ⟨?_, ?_, (hput.put _ (by simp)).trans (KeepsObjects.of_od hod)⟩
  · rw [Chip.num_of_od hod, Chip.num_put_ne _ _ (key_ne_of_sub (by decide)), Chip.num_put_same]
  · rw [Chip.num_of_od hod, Chip.num_put_same]

/-! ## Bus-off and recovery (R344) -/

/-- The objects that the error counters and the state of a port show. -/
abbrev errKeys (p : Nat) : List Nat := [Key.Can.CAN_STATE p, Key.Can.TEC p, Key.Can.REC p]

/-- The chip that shows a port's state and error counters. -/
def errPut (c : Chip) (p st tec rec_ : Nat) : Chip :=
  ((c.put (Key.Can.CAN_STATE p) st).put (Key.Can.TEC p) tec).put (Key.Can.REC p) rec_

theorem errPut_facts (c : Chip) (p st tec rec_ : Nat) :
    (errPut c p st tec rec_).num (Key.Can.CAN_STATE p) = st ∧ (errPut c p st tec rec_).num (Key.Can.TEC p) = tec ∧
      (errPut c p st tec rec_).num (Key.Can.REC p) = rec_ ∧ KeepsObjects (errKeys p) c (errPut c p st tec rec_) := by
  have hstate : KeepsObjects (errKeys p) c (c.put (Key.Can.CAN_STATE p) st) :=
    (KeepsObjects.of_od rfl).put _ (by simp)
  refine ⟨?_, ?_, Chip.num_put_same .., (hstate.put _ (by simp)).put _ (by simp)⟩
  · rw [errPut, Chip.num_put_ne _ _ (key_ne_of_sub (by decide)), Chip.num_put_ne _ _ (key_ne_of_sub (by decide)),
      Chip.num_put_same]
  · rw [errPut, Chip.num_put_ne _ _ (key_ne_of_sub (by decide)), Chip.num_put_same]

theorem execBusOff_of_onBus {s : State} {p : Fin 12} (tec rec_ : Nat) (hbus : canOnBus s.found p = true) :
    execBusOff p tec rec_ s = .next { s with chip := canBusOff s.keeper s.found p tec rec_ false } :=
  onChip_eq_next (if_pos hbus)

/-- The chip that shows bus-off with the counters within their bounds, and counts it. -/
def busOffShown (c : Chip) (p tec rec_ : Nat) : Chip :=
  (errPut c p 4 (min tec 256) (min rec_ 255)).bump (Key.Can.BUS_OFFS p)

/-- Bus-off shows its state and the counters within their bounds, counts, and its event is taken. -/
theorem canBusOff_facts (k : Keeper) {c : Chip} (p : Fin 12) (tec rec_ : Nat) (inj : Bool)
    (hfree : HandlerFree c 0x0C01 (unitCan p)) :
    Taken c (canBusOff k c p tec rec_ inj) 0x0C01 (unitCan p) inj ∧
      (canBusOff k c p tec rec_ inj).num (Key.Can.CAN_STATE p) = 4 ∧
      (canBusOff k c p tec rec_ inj).num (Key.Can.TEC p) = min tec 256 ∧
      (canBusOff k c p tec rec_ inj).num (Key.Can.REC p) = min rec_ 255 ∧
      (canBusOff k c p tec rec_ inj).num (Key.Can.BUS_OFFS p) = (c.num (Key.Can.BUS_OFFS p) + 1) % 0x100000000 ∧
      KeepsObjects ([Key.Can.CAN_STATE p, Key.Can.TEC p, Key.Can.REC p, Key.Can.BUS_OFFS p] ++ eventKeys) c
        (canBusOff k c p tec rec_ inj) := by
  obtain ⟨hstate, htec, hrec, hkeep⟩ := errPut_facts c p 4 (min tec 256) (min rec_ 255)
  have hbumped : KeepsObjects [Key.Can.CAN_STATE p, Key.Can.TEC p, Key.Can.REC p, Key.Can.BUS_OFFS p] c
      (busOffShown c p tec rec_) :=
    (hkeep.mono fun _ h => List.mem_append_left [Key.Can.BUS_OFFS p] h).bump _ (by simp)
  have hevent : ∀ x ∈ eventKeys,
      x ∉ [Key.Can.CAN_STATE p, Key.Can.TEC p, Key.Can.REC p, Key.Can.BUS_OFFS p] := by
    intro x hx hmem
    simp only [List.mem_cons, List.not_mem_nil, or_false] at hmem
    rcases hmem with rfl | rfl | rfl | rfl <;> exact canKey_not_event p (by decide) hx
  obtain ⟨htaken, hother, hkept⟩ :=
    raise_taken_keep k c (busOffShown c p tec rec_) 0x0C01 (unitCan p) inj _ hfree ⟨rfl, rfl⟩ hbumped hevent
  have hnum : ∀ {sub : Nat}, sub < 256 → (canBusOff k c p tec rec_ inj).num ((0x4401 + 16 * p.val) * 256 + sub) =
      (busOffShown c p tec rec_).num ((0x4401 + 16 * p.val) * 256 + sub) :=
    fun hsub => congrArg Val.toNum (hother _ (canKey_not_event p hsub))
  refine ⟨htaken, ?_, ?_, ?_, ?_, hkept⟩
  · rw [hnum (by decide), busOffShown, Chip.num_bump_ne _ _ (key_ne_of_sub (by decide)), hstate]
  · rw [hnum (by decide), busOffShown, Chip.num_bump_ne _ _ (key_ne_of_sub (by decide)), htec]
  · rw [hnum (by decide), busOffShown, Chip.num_bump_ne _ _ (key_ne_of_sub (by decide)), hrec]
  · rw [hnum (by decide), busOffShown, Chip.num_bump_same, hkeep.num_eq (key := Key.Can.BUS_OFFS p) (by simp)]

theorem canRestart_facts (c : Chip) (p st : Nat) :
    (canRestart c p st).num (Key.Can.CAN_STATE p) = st ∧ (canRestart c p st).num (Key.Can.TEC p) = 0 ∧
      (canRestart c p st).num (Key.Can.REC p) = 0 ∧ (canRestart c p st).cans = c.cans ∧
      KeepsObjects (errKeys p) c (canRestart c p st) := by
  have hod : (canRestart c p st).od = (errPut c p st 0 0).od := closeHandling_od ..
  obtain ⟨hstate, htec, hrec, hkeep⟩ := errPut_facts c p st 0 0
  exact ⟨(Chip.num_of_od hod _).trans hstate, (Chip.num_of_od hod _).trans htec, (Chip.num_of_od hod _).trans hrec, rfl,
    hkeep.trans (KeepsObjects.of_od hod)⟩

/-- The chip whose port has dropped the reference messages still in its buffer. -/
def timeDropped (k : Keeper) (c : Chip) (p : Nat) : Chip :=
  (canOf c p).time.foldl (fun c _ => raise k (c.bump (Key.Can.TX_DROPPED p)) 0x0C03 (unitCan p)) c

theorem timeDropped_keeps (k : Keeper) (c : Chip) (p : Nat) :
    KeepsObjects (Key.Can.TX_DROPPED p :: eventKeys) c (timeDropped k c p) :=
  foldl_chip_preserves (KeepsObjects (Key.Can.TX_DROPPED p :: eventKeys) c) _
    (fun _ _ h => (h.bump _ (List.mem_cons_self ..)).raise k _ _ _ fun _ hx => List.mem_cons_of_mem _ hx) _ _
    (KeepsObjects.of_od rfl)

/-- The chip whose port has no reference message in its buffer or behind it. -/
def timeCleared (c : Chip) (p : Nat) : Chip :=
  canSet c p { canOf c p with time := [], lastMsg := none, sofFirst := none }

/-- A cleared buffer reads as empty, whether or not the port stands in the list. -/
theorem timeCleared_time (c : Chip) (p : Nat) : (canOf (timeCleared c p) p).time = [] := by
  unfold timeCleared canOf canSet nth
  rw [List.getD_eq_getElem?_getD, List.getElem?_set_self']
  cases c.cans[p]? <;> rfl

/-- The chip whose port is back on its bus, its time buffer empty. -/
def busRecovered (k : Keeper) (c : Chip) (p : Nat) : Chip := canRestart (timeCleared (timeDropped k c p) p) p 2

theorem busRecovered_facts (k : Keeper) (c : Chip) (p : Nat) :
    (busRecovered k c p).num (Key.Can.CAN_STATE p) = 2 ∧ (busRecovered k c p).num (Key.Can.TEC p) = 0 ∧
      (busRecovered k c p).num (Key.Can.REC p) = 0 ∧ (canOf (busRecovered k c p) p).time = [] ∧
      KeepsObjects ([Key.Can.CAN_STATE p, Key.Can.TEC p, Key.Can.REC p, Key.Can.TX_DROPPED p] ++ eventKeys) c
        (busRecovered k c p) := by
  obtain ⟨hstate, htec, hrec, hcans, hkeep⟩ := canRestart_facts (timeCleared (timeDropped k c p) p) p 2
  have hdropped := (timeDropped_keeps k c p).mono fun _ h => List.mem_append_right (errKeys p) h
  refine ⟨hstate, htec, hrec, ?_, ?_⟩
  · rw [busRecovered, canOf_congr hcans, timeCleared_time]
  · exact (hdropped.trans (KeepsObjects.of_od (canSet_od ..))).trans
      (hkeep.mono fun _ h => List.mem_append_left (Key.Can.TX_DROPPED p :: eventKeys) h)

/-- Recovery of a port that claims no address. -/
theorem execRecoveryComplete_of_unclaimed {s : State} {p : Fin 12} (hstate : s.found.num (Key.Can.CAN_STATE p) = 5)
    (hactive : canActive s.found p = true) (hclaim : s.found.flag (Key.Can.CLAIM_ENABLE p) = false) :
    execRecoveryComplete p s = .next { s with chip := busRecovered s.keeper s.found p } := by
  obtain ⟨-, -, -, -, hkeep⟩ := busRecovered_facts s.keeper s.found p
  have hkept : Key.Can.CLAIM_ENABLE p ∉
      [Key.Can.CAN_STATE p, Key.Can.TEC p, Key.Can.REC p, Key.Can.TX_DROPPED p] ++ eventKeys := by
    rw [List.mem_append, not_or]
    exact ⟨by simp, canKey_not_event p (by decide)⟩
  have hunclaimed : (busRecovered s.keeper s.found p).flag (Key.Can.CLAIM_ENABLE p) = false := by
    rw [Chip.flag_eq, hkeep.num_eq hkept, ← Chip.flag_eq, hclaim]
  exact onChip_eq_next ((if_neg (by simp [hstate, hactive])).trans (if_neg (ne_true_of_eq_false hunclaimed)))

/-! ## Time reference messages (R345, R346) -/

/-- The frames of a port's next reference message: one FD frame, or two frames that halve its bytes. -/
def timeFrames (k : Keeper) (c : Chip) (p : Nat) : List TxFrame :=
  let bytes := timeMessage c p ((c.num (Key.CanX.TIME_SEQ p) + 1) % 256) (canOf c p).lastMsg
  let id := c.num (Key.CanX.TIME_ID p) % 0x20000000
  let frame := fun (id : Nat) (data : List Byte) (fd first last : Bool) =>
    ({ id, ext := decide (0x80000000 ≤ c.num (Key.CanX.TIME_ID p)), fdf := fd, data, born := nowUs k c
       life := c.num (Key.CanX.TIME_PERIOD p), kind := .time first last } : TxFrame)
  if c.flag (Key.Can.FD_ENABLE p) then [frame id bytes true true true]
  else [frame id (bytes.take 8) false true false, frame (id + 1) (bytes.drop 8) false false true]

/-- The chip whose port has its next reference message in its time buffer. -/
def timeQueued (k : Keeper) (c : Chip) (p : Nat) : Chip :=
  canSet (c.put (Key.CanX.TIME_SEQ p) ((c.num (Key.CanX.TIME_SEQ p) + 1) % 256)) p
    { canOf c p with time := timeFrames k c p, sofFirst := none }

theorem timeQueued_facts (k : Keeper) (c : Chip) (p : Nat) :
    (timeQueued k c p).num (Key.CanX.TIME_SEQ p) = (c.num (Key.CanX.TIME_SEQ p) + 1) % 256 ∧
      KeepsObjects [Key.CanX.TIME_SEQ p] c (timeQueued k c p) := by
  have hput : KeepsObjects [Key.CanX.TIME_SEQ p] c
      (c.put (Key.CanX.TIME_SEQ p) ((c.num (Key.CanX.TIME_SEQ p) + 1) % 256)) :=
    (KeepsObjects.of_od rfl).put _ (by simp)
  exact ⟨(Chip.num_of_od (canSet_od ..) _).trans (Chip.num_put_same ..),
    hput.trans (KeepsObjects.of_od (canSet_od ..))⟩

/-- At an edge of its period a port whose time buffer is empty queues its next reference message. -/
theorem execTimeReferenceMessage_of_due {s : State} {p : Fin 12} (hactive : canActive s.found p = true)
    (henabled : s.found.flag (Key.CanX.TIME_ENABLE p) = true)
    (hdue : s.keeper.epoch % max (s.found.num (Key.CanX.TIME_PERIOD p)) 1 = 0) (hempty : (canOf s.found p).time = []) :
    execTimeReferenceMessage p s = .next { s with chip := timeQueued s.keeper s.found p } := by
  refine onChip_eq_next ((if_neg ?_).trans ?_)
  · rw [hactive, henabled, hdue]; decide
  · rw [hempty]; rfl

/-! ## Ethernet frames (R348, R350) -/

theorem execEthFrameDiscarded_of_up {s : State} {p : Fin 12} (hup : ethUp s.found p = true) :
    execEthFrameDiscarded p s = .next { s with chip := ethDiscard s.found p } := onChip_eq_next (if_pos hup)

theorem ethDiscard_facts (c : Chip) (p : Nat) :
    (ethDiscard c p).num (Key.Eth.RX_FRAMES p) = (c.num (Key.Eth.RX_FRAMES p) + 1) % 0x100000000 ∧
      (ethDiscard c p).num (Key.Eth.RX_DISCARDS p) = (c.num (Key.Eth.RX_DISCARDS p) + 1) % 0x100000000 ∧
      KeepsObjects [Key.Eth.RX_FRAMES p, Key.Eth.RX_DISCARDS p] c (ethDiscard c p) := by
  have hrx : KeepsObjects [Key.Eth.RX_FRAMES p, Key.Eth.RX_DISCARDS p] c (ethRx c p) :=
    (KeepsObjects.of_od rfl).bump _ (by simp)
  refine ⟨?_, ?_, hrx.bump _ (by simp)⟩
  · rw [ethDiscard, Chip.num_bump_ne _ _ (key_ne_of_sub (by decide)), ethRx, Chip.num_bump_same]
  · rw [ethDiscard, Chip.num_bump_same, ethRx, Chip.num_bump_ne _ _ (key_ne_of_sub (by decide))]

theorem execArpRequest_of_own {s : State} {p : Fin 12} {a : BitVec 32} (hup : ethUp s.found p = true)
    (hip : hasIp p = true) (haddr : s.found.num (Key.Eth.IP_ADDR p) = a.toNat) :
    execArpRequest p a s = .next { s with chip :=
      ((ethRx s.found p).emit (.arp p a.toNat)).bump (Key.Eth.TX_FRAMES p) } :=
  onChip_eq_next ((if_neg (by rw [hup]; decide)).trans (if_pos (by simp [hip, haddr])))

theorem execIcmpEchoRequest_of_own {s : State} {p : Fin 12} (src : BitVec 32) {dst : BitVec 32} (data : List Byte)
    (hup : ethUp s.found p = true) (hip : hasIp p = true)
    (haddr : s.found.num (Key.Eth.IP_ADDR p) = dst.toNat ∨ dst.toNat = 0xFFFFFFFF)
    (hecho : s.found.flag Key.Jop.ICMP_ECHO = true) :
    execIcmpEchoRequest p src dst data s = .next { s with chip :=
      ((ethRx s.found p).emit (.echo p src.toNat data)).bump (Key.Eth.TX_FRAMES p) } :=
  onChip_eq_next ((if_neg (by rw [hup]; decide)).trans (if_pos (by
    simpa only [hip, hecho, Bool.true_and, Bool.and_true, Bool.or_eq_true, decide_eq_true_eq] using haddr)))

/-- A change of an Ethernet port's link is noted, and touches no fabric link. -/
theorem execEthLinkChange_of_ethernet (s : State) {p : Fin 14} (hport : p.val < 12) (b : Bool) :
    execEthLinkChange p b s = .next { s with chip :=
      { s.found with eth := { s.found.eth with phy := s.found.eth.phy.set p b } } } :=
  onChip_eq_next (if_neg (by simp [Nat.not_le.2 hport]))

/-! ## IEEE 802.1AS (R351) -/

/-- The chip whose port has sent Sync and its Follow_Up. -/
def syncSent (k : Keeper) (c : Chip) (p : Nat) : Chip :=
  ({ c.emit (.sync p (gptpNs k c (1000 * c.us)).toNat) with
    eth := { c.eth with sync := c.eth.sync.set p (some (nowUs k c)) } } : Chip).bump (Key.Eth.TX_FRAMES p) 2

theorem syncSent_facts (k : Keeper) (c : Chip) (p : Nat) :
    (syncSent k c p).num (Key.Eth.TX_FRAMES p) = (c.num (Key.Eth.TX_FRAMES p) + 2) % 0x100000000 ∧
      KeepsObjects [Key.Eth.TX_FRAMES p] c (syncSent k c p) := by
  have hsent : KeepsObjects [Key.Eth.TX_FRAMES p] c ({ c.emit (.sync p (gptpNs k c (1000 * c.us)).toNat) with
      eth := { c.eth with sync := c.eth.sync.set p (some (nowUs k c)) } } : Chip) := KeepsObjects.of_od rfl
  exact ⟨Chip.num_bump_same .., hsent.bump _ (by simp)⟩

/-- While Announce is not due, Sync leaves on its own interval. -/
theorem execGptpSync_of_sync_due {s : State} {p : Fin 12} (hup : ethUp s.found p = true)
    (henabled : s.found.flag (Key.Eth.GPTP_ENABLE p) = true)
    (hann : intervalOver (nowUs s.keeper s.found) (nth s.found.eth.ann p none)
      (logInterval s.found Key.Gptp.LOG_ANNOUNCE) = false)
    (hsync : intervalOver (nowUs s.keeper s.found) (nth s.found.eth.sync p none)
      (logInterval s.found Key.Gptp.LOG_SYNC) = true) :
    execGptpSync p s = .next { s with chip := syncSent s.keeper s.found p } := by
  refine onChip_eq_next ((if_neg (by rw [hup, henabled]; decide)).trans ?_)
  simp only [hann, hsync, Bool.false_eq_true, if_false, if_true]
  rfl

theorem execGptpPeerDelayRequest_of_enabled {s : State} {p : Fin 12} (rxNs : Nat) (hup : ethUp s.found p = true)
    (henabled : s.found.flag (Key.Eth.GPTP_ENABLE p) = true) :
    execGptpPeerDelayRequest p rxNs s = .next { s with chip := ((ethRx s.found p).emit (.peerDelay p
      (gptpNs s.keeper s.found ((rxNs : Int) - 1000000 * s.keeper.epoch)).toNat
      (gptpNs s.keeper s.found (1000 * s.found.us)).toNat)).bump (Key.Eth.TX_FRAMES p) 2 } :=
  onChip_eq_next (if_neg (by rw [hup, henabled]; decide))

theorem execForeignAnnounce_of_up {s : State} {p : Fin 12} (hup : ethUp s.found p = true) :
    execForeignAnnounce p s = .next { s with chip := (ethRx s.found p).bump Key.Gptp.FOREIGN_ANNOUNCE } :=
  onChip_eq_next (if_pos hup)

theorem foreignAnnounce_facts (c : Chip) (p : Nat) :
    ((ethRx c p).bump Key.Gptp.FOREIGN_ANNOUNCE).num Key.Gptp.FOREIGN_ANNOUNCE =
        (c.num Key.Gptp.FOREIGN_ANNOUNCE + 1) % 0x100000000 ∧
      KeepsObjects [Key.Eth.RX_FRAMES p, Key.Gptp.FOREIGN_ANNOUNCE] c ((ethRx c p).bump Key.Gptp.FOREIGN_ANNOUNCE) := by
  have hrx : KeepsObjects [Key.Eth.RX_FRAMES p, Key.Gptp.FOREIGN_ANNOUNCE] c (ethRx c p) :=
    (KeepsObjects.of_od rfl).bump _ (by simp)
  have hne : Key.Gptp.FOREIGN_ANNOUNCE ≠ Key.Eth.RX_FRAMES p := key_ne_of_subs (ix := 0x4510) (a := 6) (by decide)
  exact ⟨by rw [Chip.num_bump_same, ethRx, Chip.num_bump_ne _ _ hne], hrx.bump _ (by simp)⟩

/-! ## UDP services (R348, R351, Table 12.5) -/

theorem execUdpDatagram_of_eq {s : State} {d : UdpIn} {c : Chip} (h : udpReceive s.keeper s.found d = c) :
    execUdpDatagram d s = .next { s with chip := c } := onChip_eq_next h

/-- A regular datagram for the port's own address is not discarded. -/
theorem udp_not_discarded {c : Chip} {d : UdpIn} (hregular : d.irregular = false) (hip : hasIp d.port = true)
    (haddr : d.dst.toNat = c.num (Key.Eth.IP_ADDR d.port)) :
    ¬(d.irregular || !hasIp d.port ||
      (d.dst.toNat ≠ c.num (Key.Eth.IP_ADDR d.port) && d.dst.toNat ≠ 0xFFFFFFFF)) = true := by
  simp [hregular, hip, haddr]

/-- No service has a port below 47600. -/
theorem udpReceive_of_no_service (k : Keeper) {c : Chip} {d : UdpIn} (hup : ethUp c d.port = true)
    (hregular : d.irregular = false) (hip : hasIp d.port = true)
    (haddr : d.dst.toNat = c.num (Key.Eth.IP_ADDR d.port)) (hservice : d.dstPort.toNat < 47600) :
    udpReceive k c d = (ethRx c d.port).bump Key.Jop.UDP_NO_SERVICE := by
  have hother : ∀ (own : Bool) (n : Nat), 47600 ≤ n → ¬(own && decide (d.dstPort.toNat = n)) = true := by
    intro own n hn
    rw [decide_eq_false (by omega), Bool.and_false]
    exact Bool.false_ne_true
  refine (if_neg (by rw [hup]; decide)).trans ((if_neg (udp_not_discarded hregular hip haddr)).trans ?_)
  exact (if_neg (hother _ _ (by decide))).trans ((if_neg (hother _ _ (by decide))).trans
    (if_neg (hother _ _ (by omega))))

/-- Port 47601 of ETH11 is the RTCM service. -/
theorem udpReceive_of_rtcm (k : Keeper) {c : Chip} {d : UdpIn} (hup : ethUp c 11 = true) (hport : d.port = 11)
    (hregular : d.irregular = false) (haddr : d.dst.toNat = c.num (Key.Eth.IP_ADDR 11))
    (hservice : d.dstPort.toNat = 47601) : udpReceive k c d = rtcmBytes k (ethRx c 11) true d.data := by
  have hval : d.port.val = 11 := by rw [hport]; rfl
  rw [← hval] at hup haddr
  refine (if_neg (by rw [hup]; decide)).trans
    ((if_neg (udp_not_discarded hregular (by rw [hval]; decide) haddr)).trans ?_)
  rw [hval, hservice]
  rfl

end Sys2Proof.Machine

/-! ## The statements -/

namespace Sys2Proof.Proofs.CanAndEthernet

open Sys2Proof Sys2Proof.Machine

/-- Settles O46: one lemma for each command of a CAN port, under the conditions that let it act. -/
theorem canCommandsComplete : Obligations.CanCommandsComplete := by
  refine ⟨fun s p f sof hframe => execCanFrameReceived_of_illFormed p sof s hframe,
    fun s p f sof hframe hbus hfd hother => execCanFrameReceived_of_other sof hframe hbus hfd hother,
    fun s p f sof hsubmits hoffer => execCanFrameTransmitted_of_sent hsubmits sof hoffer,
    fun s p f hsubmits hoffer htec => execCanFrameTransmitted_of_error hsubmits hoffer htec,
    fun s p hsubmits => execCanFrameLifetimeExpiry_of_no_submits hsubmits,
    fun s p name a hbus => execAddressClaimReceived_of_onBus name a hbus,
    fun s p a hstate hsent hbus hover =>
      ⟨_, execClaimSettleExpiry_of_over hstate hsent hbus hover, claimSettled_facts ..⟩,
    fun s p tec rec_ hbus hfree => ⟨_, execBusOff_of_onBus tec rec_ hbus, canBusOff_facts s.keeper p tec rec_ false hfree⟩,
    fun s p hstate hactive hclaim =>
      ⟨_, execRecoveryComplete_of_unclaimed hstate hactive hclaim, busRecovered_facts ..⟩,
    fun s p hactive henabled hdue hempty =>
      ⟨_, execTimeReferenceMessage_of_due hactive henabled hdue hempty, timeQueued_facts ..⟩⟩

/-- Settles O47: one lemma for each command of an Ethernet port that is up. -/
theorem ethernetCommandsComplete : Obligations.EthernetCommandsComplete := by
  refine ⟨fun s p hup => ⟨_, execEthFrameDiscarded_of_up hup, ethDiscard_facts ..⟩,
    fun s p a hup hip haddr => execArpRequest_of_own hup hip haddr,
    fun s p src dst data hup hip haddr hecho => execIcmpEchoRequest_of_own src data hup hip haddr hecho,
    fun s p hup henabled hann hsync =>
      ⟨_, execGptpSync_of_sync_due hup henabled hann hsync, rfl, rfl, syncSent_facts ..⟩,
    fun s p rxNs hup henabled => execGptpPeerDelayRequest_of_enabled rxNs hup henabled,
    fun s p hup => ⟨_, execForeignAnnounce_of_up hup, foreignAnnounce_facts ..⟩,
    fun s p hport b => execEthLinkChange_of_ethernet s hport b,
    fun s d hup hregular hip haddr hservice =>
      execUdpDatagram_of_eq (udpReceive_of_no_service s.keeper hup hregular hip haddr hservice),
    fun s d hup hport hregular haddr hservice =>
      execUdpDatagram_of_eq (udpReceive_of_rtcm s.keeper hup hport hregular haddr hservice)⟩
end Sys2Proof.Proofs.CanAndEthernet
end

section
/-! PROOFS. The statement of the module fabric: HELLOs and their links (R356–R358), held numbers and the end of settling
(R359, R360), and the frames that are relayed, served or sent on to their source (R361, R362). -/

namespace Sys2Proof.Machine

/-! ## The fabric's own state -/

@[simp] theorem fabLink_fabLinkSet (c : Chip) {f : Nat} (l : FabLink) (h : f < c.fab.links.length) :
    fabLink (fabLinkSet c f l) f = l := by
  simp [fabLink, fabLinkSet, nth, h]

/-- A module record, taken or not, leaves the links as they are. -/
@[simp] theorem recTake_links (now self : Nat) (fab : FabS) (r : HelloRec) (fix : Option Bool) :
    (recTake now self fab r fix).links = fab.links := by
  unfold recTake
  split
  · split <;> rfl
  · split
    · rfl
    · dsimp only
      split <;> rfl

/-! ## HELLO (R357) -/

/-- The chip that has sent its HELLO on a port. -/
def helloTo (k : Keeper) (c : Chip) (f : Nat) : Chip := c.emit (.fab f 1 (fabNumber c) 0 15 0 0 (helloBytes k c f))

/-- A port that is not ashed sends its HELLO. -/
theorem hello_of_sound_port (k : Keeper) {c : Chip} {f : Nat} (hport : unitAshed c (unitFab f) = false) :
    (if unitAshed c (unitFab f) then c else helloTo k c f) = helloTo k c f := if_neg (by rw [hport]; decide)

/-- The chip that notes that its HELLOs leave now. -/
def helloDue (k : Keeper) (c : Chip) : Chip := { c with fab := { c.fab with helloAt := some (nowUs k c) } }

/-- When the interval is over and neither port is ashed, a HELLO leaves on FAB0, then on FAB1. -/
theorem execHelloSend_of_due {s : State} (hon : fabOn s.found = true)
    (hdue : intervalOver (nowUs s.keeper s.found) s.found.fab.helloAt 10000 = true)
    (hport0 : unitAshed s.found (unitFab 0) = false) (hport1 : unitAshed s.found (unitFab 1) = false) :
    execHelloSend s = .next { s with chip := helloTo s.keeper (helloTo s.keeper (helloDue s.keeper s.found) 0) 1 } := by
  have hfirst := hello_of_sound_port s.keeper (c := helloDue s.keeper s.found) hport0
  have hsecond := hello_of_sound_port s.keeper (c := helloTo s.keeper (helloDue s.keeper s.found) 0) hport1
  refine onChip_eq_next ((if_neg (by rw [hon, hdue]; decide)).trans (Eq.trans ?_ hsecond))
  exact congrArg (fun c => if unitAshed c (unitFab 1) then c else helloTo s.keeper c 1) hfirst

/-- How many good HELLOs in a row a received one makes. -/
def helloCount (c : Chip) (f : Nat) (h : Hello) : Nat :=
  if (fabLink c f).peer = h.identity ∧ (fabLink c f).good ≠ 0 then (fabLink c f).good + 1 else 1

theorem helloCount_of_new_peer {c : Chip} {f : Nat} {h : Hello} (hpeer : (fabLink c f).peer ≠ h.identity) :
    helloCount c f h = 1 := if_neg fun hsame => hpeer hsame.1

/-- The chip that has noted on a port's link the `good`th good HELLO of a peer. -/
def helloNoted (k : Keeper) (c : Chip) (f : Nat) (h : Hello) (good : Nat) : Chip :=
  fabLinkSet c f { peer := h.identity, good, last := some (nowUs k c), t3 := h.t3, t4 := h.t4 }

/-- The chip that has taken the records a HELLO carries; that of the sender itself shows its fix. -/
def recordsTaken (k : Keeper) (c : Chip) (h : Hello) : Chip :=
  { c with fab := h.records.foldl (fun fab r =>
      recTake (nowUs k c) (fabSelf c) fab r (if r.identity = h.identity then some (h.fix % 2 = 1) else none)) c.fab }

theorem fabLink_recordsTaken (k : Keeper) (c : Chip) (h : Hello) (f : Nat) :
    fabLink (recordsTaken k c h) f = fabLink c f := by
  have hlinks : (recordsTaken k c h).fab.links = c.fab.links :=
    List.foldlRecOn (motive := fun fab : FabS => fab.links = c.fab.links) h.records _ rfl
      fun _ hfab _ _ => (recTake_links ..).trans hfab
  rw [fabLink, hlinks, fabLink]

/-- The chip whose link becomes UP where it is not and three good HELLOs in a row have come. -/
def linkRaised (k : Keeper) (c : Chip) (f good : Nat) : Chip :=
  if 3 ≤ good && !fabUpLink c f then
    closeHandling ((c.put (Key.FLink.FLINK_STATE f) 1).put (Key.FLink.FLINK_EPOCH f) (wireEpoch k.epoch)) 0x0D01
      (unitFab f)
  else c

theorem linkRaised_of_few (k : Keeper) (c : Chip) (f : Nat) {good : Nat} (hfew : good < 3) :
    linkRaised k c f good = c :=
  if_neg (by rw [decide_eq_false (Nat.not_le.2 hfew)]; exact Bool.false_ne_true)

/-- A HELLO of another peer than the link's last one counts as the first good one, so a link that is not UP stays so. -/
theorem execHelloReceived_of_new_peer {s : State} {f : Fin 2} {h : Hello} (hon : fabOn s.found = true)
    (hport : unitAshed s.found (unitFab f) = false) (harmed : armedFor s.keeper s.found Key.Inj.FAB_LINK f = false)
    (hdown : s.found.num (Key.FLink.FLINK_STATE f) ≠ 1) (hpeer : (fabLink s.found f).peer ≠ h.identity) :
    execHelloReceived f h s = .next { s with chip := recordsTaken s.keeper (helloNoted s.keeper s.found f h 1) h } := by
  have hcount := helloCount_of_new_peer hpeer
  have hraised : linkRaised s.keeper
      (recordsTaken s.keeper (helloNoted s.keeper s.found f h (helloCount s.found f h)) h) f (helloCount s.found f h) =
      recordsTaken s.keeper (helloNoted s.keeper s.found f h 1) h := by
    rw [hcount]
    exact linkRaised_of_few _ _ _ (by decide)
  have hlink : fabUpLink (recordsTaken s.keeper (helloNoted s.keeper s.found f h 1) h) f = false :=
    decide_eq_false hdown
  rw [← hraised] at hlink
  exact onChip_eq_next ((if_neg (by rw [hon, hport, harmed]; decide)).trans
    ((if_pos (congrArg (!·) hlink)).trans hraised))

/-! ## Links, records and held numbers that end (R357–R359) -/

theorem execFabricLinkTimeout_of_over {s : State} {f : Fin 2} {a : Nat} (hlast : (fabLink s.found f).last = some a)
    (hover : a + 30000 ≤ nowUs s.keeper s.found) :
    execFabricLinkTimeout f s = .next { s with chip := fabLinkDown s.keeper s.found f false } :=
  onChip_eq_next (by simp only [hlast, if_pos hover])

/-- The chip on which a module is ABSENT: a number that its record carried is HELD from now on. -/
def recordLost (k : Keeper) (c : Chip) (identity : Nat) (r : FabRec) : Chip :=
  { c with fab := { c.fab with
    recs := c.fab.recs.map fun q : FabRec => if q.identity = identity then { q with present := false } else q
    held := if r.number = 0 then c.fab.held
      else c.fab.held.filter (fun h => decide (h.1 ≠ r.number)) ++ [(r.number, k.epoch)] } }

theorem execModuleRecordTimeout_of_over {s : State} {identity : Nat} {r : FabRec}
    (hrec : fabRec s.found identity = some r) (hover : r.fresh + 100000 ≤ nowUs s.keeper s.found) :
    execModuleRecordTimeout identity s = .next { s with chip := recordLost s.keeper s.found identity r } :=
  onChip_eq_next (by simp only [hrec, if_neg (Nat.not_lt.2 hover)]; rfl)

/-- The chip on which a HELD number is free again, and the record of the ABSENT module that had it is gone. -/
def numberFreed (c : Chip) (n : Nat) : Chip :=
  { c with fab := { c.fab with
    held := c.fab.held.filter (fun h => decide (h.1 ≠ n))
    recs := c.fab.recs.filter fun r => r.present || decide (r.number ≠ n) } }

theorem execNumberHoldExpiry_of_over {s : State} {m : Fin 16} {n e : Nat}
    (hheld : s.found.fab.held.find? (fun h => decide (h.1 = m.val + 1)) = some (n, e))
    (hover : e + 1000 * s.found.num Key.Fab.NUMBER_HOLD ≤ s.keeper.epoch) :
    execNumberHoldExpiry m s = .next { s with chip := numberFreed s.found (m.val + 1) } :=
  onChip_eq_next (by simp only [hheld, if_pos hover]; rfl)

/-! ## The end of SETTLING (R359, R360) -/

/-- The numbers that no PRESENT module uses and that are not HELD, lowest first. -/
def fabFree (c : Chip) : List Nat := ((List.range 16).map (· + 1)).filter fun n => !fabUsed c n

/-- How many modules that settle with this one have a lower IDENTITY. -/
def settleRank (c : Chip) : Nat :=
  ((fabPresent c).filter fun r => r.number = 0 && decide (r.identity < fabSelf c)).length

/-- The FAB_STATE and MODULE_NUMBER with which settling ends. -/
def settled (c : Chip) : Nat × Nat :=
  if fabPresent c = [] then (0, 1)
  else if c.fab.former ≠ 0 then (2, c.fab.former)
  else ((fabFree c)[settleRank c]?.map (Prod.mk 2)).getD (4, 0)

theorem settled_of_alone {c : Chip} (halone : fabPresent c = []) : settled c = (0, 1) := if_pos halone

theorem settled_of_former {c : Chip} (hpeer : fabPresent c ≠ []) (hformer : c.fab.former ≠ 0) :
    settled c = (2, c.fab.former) := (if_neg hpeer).trans (if_pos hformer)

theorem settled_of_new {c : Chip} (hpeer : fabPresent c ≠ []) (hformer : c.fab.former = 0) :
    settled c = ((fabFree c)[settleRank c]?.map (Prod.mk 2)).getD (4, 0) :=
  (if_neg hpeer).trans (if_neg fun hne => hne hformer)

theorem mem_fabFree {c : Chip} {n : Nat} : n ∈ fabFree c ↔ fabUsed c n = false ∧ 1 ≤ n ∧ n ≤ 16 := by
  simp only [fabFree, List.mem_filter, List.mem_map, List.mem_range, Bool.not_eq_true']
  constructor
  · rintro ⟨⟨i, hi, rfl⟩, hunused⟩
    exact ⟨hunused, by omega, by omega⟩
  · rintro ⟨hunused, hlow, hhigh⟩
    exact ⟨⟨n - 1, by omega, by omega⟩, hunused⟩

/-- A module that has peers and no former number is JOINED with a free number, or UNNUMBERED. -/
theorem settled_of_new_cases {c : Chip} (hpeer : fabPresent c ≠ []) (hformer : c.fab.former = 0) :
    (settled c).1 = 2 ∧ fabUsed c (settled c).2 = false ∧ 1 ≤ (settled c).2 ∧ (settled c).2 ≤ 16 ∨
      (settled c).1 = 4 ∧ (settled c).2 = 0 := by
  rw [settled_of_new hpeer hformer]
  cases hfree : (fabFree c)[settleRank c]? with
  | none => exact .inr ⟨rfl, rfl⟩
  | some n => exact .inl ⟨rfl, mem_fabFree.1 (List.mem_of_getElem? hfree)⟩

/-- The chip that shows a fabric state and a module number. -/
def fabNumbered (c : Chip) (r : Nat × Nat) : Chip := (c.put Key.Fab.FAB_STATE r.1).put Key.Fab.MODULE_NUMBER r.2

theorem fabNumbered_facts (c : Chip) (r : Nat × Nat) :
    (fabNumbered c r).num Key.Fab.FAB_STATE = r.1 ∧ (fabNumbered c r).num Key.Fab.MODULE_NUMBER = r.2 ∧
      KeepsObjects [Key.Fab.FAB_STATE, Key.Fab.MODULE_NUMBER] c (fabNumbered c r) := by
  have hstate : KeepsObjects [Key.Fab.FAB_STATE, Key.Fab.MODULE_NUMBER] c (c.put Key.Fab.FAB_STATE r.1) :=
    (KeepsObjects.of_od rfl).put _ (by simp)
  refine ⟨?_, Chip.num_put_same .., hstate.put _ (by simp)⟩
  rw [fabNumbered, Chip.num_put_ne _ _ (by decide), Chip.num_put_same]

theorem execSettlingEnd_of_over {s : State} (hon : fabOn s.found = true) (hstate : s.found.num Key.Fab.FAB_STATE = 1)
    (hover : s.found.fab.settleAt + 1000 * s.found.num Key.Fab.FAB_SETTLE ≤ nowUs s.keeper s.found) :
    execSettlingEnd s = .next { s with chip := fabNumbered s.found (settled s.found) } := by
  refine onChip_eq_next ((if_neg ?_).trans ?_)
  · rw [hon, hstate, decide_eq_false (Nat.not_lt.2 hover)]
    decide
  · unfold settled fabFree settleRank
    dsimp only
    split
    · rfl
    · split
      · rfl
      · split
        next n hfree => rw [hfree]; rfl
        next hfree => rw [hfree]; rfl

/-! ## Frames of a fabric port (R356, R361, R362) -/

theorem execOtherFabricPortFrame_of_up {s : State} (f : Fin 2) (hup : up s.found 8 = true) :
    execOtherFabricPortFrame f s = .next { s with chip := s.found.bump (Key.FLink.FLINK_DISCARDS f) } :=
  onChip_eq_next (if_pos hup)

section
variable {s : State} {f : Fin 2} {fr : FabFrame} (hon : fabOn s.found = true) (hlink : fabUpLink s.found f = true)
include hon hlink

/-- A JOP frame that comes over an UP link while the fabric runs is not dropped. -/
theorem fabFrame_not_dropped : ¬(!fabOn s.found || !fabUpLink s.found f) = true := by
  rw [hon, hlink]; decide

theorem execJopRequestFrame_of_transit (hother : fabForMe s.found fr = false) :
    execJopRequestFrame f fr s = .next { s with chip := fabRelay s.found 2 fr } :=
  onChip_eq_next ((if_neg (fabFrame_not_dropped hon hlink)).trans (if_pos (by rw [hother]; decide)))

theorem execJopResponseFrame_of_transit (hother : fabForMe s.found fr = false) :
    execJopResponseFrame f fr s = .next { s with chip := fabRelay s.found 3 fr } :=
  onChip_eq_next ((if_neg (fabFrame_not_dropped hon hlink)).trans (if_pos (by rw [hother]; decide)))

theorem execJopResponseFrame_of_own (hown : fabForMe s.found fr = true) :
    execJopResponseFrame f fr s =
      .next { s with chip := s.found.emit (.jop fr.origAddr fr.origPort fr.payload) } :=
  onChip_eq_next ((if_neg (fabFrame_not_dropped hon hlink)).trans (if_neg (by rw [hown]; decide)))

/-- A request for this module is executed as the master's own, and its answer leaves as a response to the entry. -/
theorem execJopRequestFrame_of_answer {b : List Byte} {c : Chip} (hown : fabForMe s.found fr = true)
    (htake : jopTake s.keeper s.found fr.origAddr fr.origPort 0 true fr.payload = (.answer b, c)) :
    execJopRequestFrame f fr s = .next { s with chip := (fabSend c 3 { fr with
      src := fabNumber c, dst := fr.src, hops := 15, payload := b }).getD c } := by
  refine onChip_eq_next ((if_neg (fabFrame_not_dropped hon hlink)).trans ((if_neg (by rw [hown]; decide)).trans ?_))
  rw [htake]

end

end Sys2Proof.Machine

/-! ## The statement -/

namespace Sys2Proof.Proofs.Fabric

open Sys2Proof Sys2Proof.Machine

/-- Settles O48: one lemma for each command, under the conditions that let it act. -/
theorem fabricCommandsComplete : Obligations.FabricCommandsComplete := by
  refine ⟨fun s hon hdue hport0 hport1 => ⟨_, execHelloSend_of_due hon hdue hport0 hport1, rfl, rfl, rfl⟩,
    fun s f h hon hport harmed hdown hpeer hlt => ⟨_, execHelloReceived_of_new_peer hon hport harmed hdown hpeer,
      (fabLink_recordsTaken ..).trans (fabLink_fabLinkSet _ _ hlt), rfl⟩,
    fun s f a hlast hover => execFabricLinkTimeout_of_over hlast hover,
    fun s identity r hrec hover => execModuleRecordTimeout_of_over hrec hover,
    fun s m n e hheld hover => execNumberHoldExpiry_of_over hheld hover,
    fun s hon hstate hover => ?settling,
    fun s f hup => ⟨_, execOtherFabricPortFrame_of_up f hup, Chip.num_bump_same ..,
      (KeepsObjects.of_od rfl).bump _ (List.mem_singleton_self _)⟩,
    fun s f fr hon hlink hother =>
      ⟨execJopRequestFrame_of_transit hon hlink hother, execJopResponseFrame_of_transit hon hlink hother⟩,
    fun s f fr hon hlink hown => execJopResponseFrame_of_own hon hlink hown,
    fun s f fr b c hon hlink hown htake => execJopRequestFrame_of_answer hon hlink hown htake⟩
  obtain ⟨hshown, hnumber, hkeep⟩ := fabNumbered_facts s.found (settled s.found)
  refine ⟨_, (settled s.found).1, (settled s.found).2, execSettlingEnd_of_over hon hstate hover, hshown, hnumber,
    fun halone => ?_, fun hpeer hformer => ?_, settled_of_new_cases, hkeep⟩
  · rw [settled_of_alone halone]
    exact ⟨rfl, rfl⟩
  · rw [settled_of_former hpeer hformer]
    exact ⟨rfl, rfl⟩

end Sys2Proof.Proofs.Fabric
end

section
/-! PROOFS. The statement on words: the table of commands gives its rows no bits (log entry 1). -/

namespace Sys2Proof.Machine

theorem decodeTableWord_eq_none (nbits w : Nat) : decodeTableWord nbits w = none := rfl

theorem withFetchWord_eq (s : State) (nbits w : Nat) : s.withFetchWord nbits w = s := rfl

end Sys2Proof.Machine

namespace Sys2Proof.Proofs.Words

open Sys2Proof Sys2Proof.Machine

/-- Settles O5: decoding answers none at every width, so nothing is put in front of the queue. -/
theorem noWordSpellsACommand : Obligations.NoWordSpellsACommand := by
  intro s nbits w
  exact ⟨decodeTableWord_eq_none nbits w, withFetchWord_eq s nbits w⟩

end Sys2Proof.Proofs.Words
end

section
/-! PROOFS. The statements of fault handling: recurrences of an open handling (R443), step 3 of a handling and the event
taken next (R443, R444),
and the outcomes of retries (R443, Table 8.8). -/

namespace Sys2Proof.Machine

/-! ## Recurrences (R443) -/

/-- An event of an open handling that stays transient enters its unit's budget record alone. -/
theorem raise_of_handled {k : Keeper} {c : Chip} {code unit : Nat} (inj : Bool) (hopen : handlingOf c code unit = true)
    (hperm : permNow k c code unit false = false) : raise k c code unit inj = budgetAdd k c code unit := by
  have hcore : raiseCore k c code unit inj false = budgetAdd k c code unit :=
    (if_pos (show handlingOf (budgetAdd k c code unit) code unit = true from hopen)).trans (if_neg (by rw [hperm]; decide))
  have hqueue : handlingOf (budgetAdd k c code unit) 0x1209 theModule = handlingOf c 0x1209 theModule := rfl
  unfold raise raiseWith
  rw [hcore]
  refine if_neg ?_
  rw [hperm, hqueue]
  cases handlingOf c 0x1209 theModule <;> simp

/-! ## Step 3 of a handling (R443, Table 18.2) -/

/-- The chip whose handling has passed step 3, its handler not yet given to the next event. -/
def stepThree (k : Keeper) (c : Chip) (e : Event) : Chip := classify k { c with flt := { c.flt with cur := none } } e

theorem execFaultHandlerTake_of_busy {s : State} {e : Event} (hbusy : s.found.flt.cur = some e) :
    execFaultHandlerTake s = .next { s with chip := handlerNext (stepThree s.keeper s.found e) } :=
  onChip_eq_next (by rw [hbusy]; rfl)

@[simp] theorem classify_od (k : Keeper) (c : Chip) (e : Event) : (classify k c e).od = c.od := by
  unfold classify
  dsimp only
  split
  · split <;> split <;> rfl
  · split <;> rfl

/-- Completing step 3 and taking the next event changes what shows the handler, and no other object. -/
theorem handlerNext_stepThree_keeps (k : Keeper) (c : Chip) (e : Event) :
    KeepsObjects [Key.Flt.HANDLING, Key.Flt.QUEUE_DEPTH, Key.Flt.QUEUE_PEAK] c (handlerNext (stepThree k c e)) :=
  KeepsObjects.trans (d := stepThree k c e) (KeepsObjects.of_od (classify_od ..)) (handlerNext_keeps _)

/-- A transient handling that awaits a retry stays open. -/
theorem classify_of_retried {k : Keeper} {c : Chip} {e : Event} (hperm : e.perm = false) (hclass : detClass e.code = .B) :
    classify k c e = { c with flt := { c.flt with opens := c.flt.opens ++ [e] } } :=
  (if_neg (by rw [hperm]; decide)).trans (if_pos (by rw [hclass]; rfl))

/-- A permanent handling of severity SAFE or STOP decides SAFE, and the ash of its unit, for the first open edge. -/
theorem classify_of_severe {k : Keeper} {c : Chip} {e : Event} (hperm : e.perm = true) (hsev : 3 ≤ e.sev)
    (hmode : c.mode ≠ .kindling) :
    (⟨openEdge k, 2, e.code, decide (e.sev = 4)⟩ : SafeDue) ∈ (classify k c e).modes.safeDue ∧
      (ashesUnit e.code e.unit = true →
        (⟨openEdge k, ashTarget e.code e.unit, e.code, e.injected⟩ : AshDue) ∈ (classify k c e).flt.due) := by
  by_cases hashes : ashesUnit e.code e.unit = true <;>
    simp [classify, decideSafe, hperm, hsev, hmode, hashes]

/-- A handler with no event waiting goes idle. -/
theorem handlerNext_of_none_waiting {c : Chip} (hstack : c.flt.stack = []) (hqueue : c.flt.queue = []) :
    (handlerNext c).flt.cur = none ∧ (handlerNext c).num Key.Flt.HANDLING = 0 := by
  rw [handlerNext_idle c hstack hqueue]
  exact ⟨rfl, fltShow_handling _⟩

/-- A handler with events waiting takes one as R444 says. -/
theorem execFaultHandlerTake_of_waiting {s : State} {e q : Event} {rest : List Event} (hbusy : s.found.flt.cur = some e)
    (hstack : s.found.flt.stack = []) (hqueue : s.found.flt.queue = q :: rest) :
    ∃ d f, execFaultHandlerTake s = .next { s with chip := d } ∧ d.flt.cur = some f ∧ f ∈ q :: rest ∧
      d.flt.queue.length = rest.length ∧ (∀ x ∈ d.flt.queue, x ∈ q :: rest) ∧ d.num Key.Flt.HANDLING = f.code ∧
      (q.code = 0x1209 → f = q) ∧ (q.code ≠ 0x1209 → ∀ x ∈ q :: rest, x.sev ≤ f.sev) := by
  obtain ⟨hst, hqu⟩ := classify_queues s.keeper { s.found with flt := { s.found.flt with cur := none } } e
  obtain ⟨f, r, htakes, hmem, hlen, hrest, hfull, hsev⟩ :=
    handlerNext_takes (stepThree s.keeper s.found e) q rest (hst.trans hstack) (hqu.trans hqueue)
  refine ⟨_, f, execFaultHandlerTake_of_busy hbusy, ?_⟩
  rw [htakes]
  exact ⟨rfl, hmem, hlen, hrest, fltShow_handling _, hfull, hsev⟩

/-! ## Detectors (R442, R443) -/

theorem execFaultDetected_of_on {s : State} {f : BitVec 16} {u : BitVec 32} (hoff : s.found.mode ≠ .off)
    (hbank : s.found.mode ≠ .banked) (hon : detOn f.toNat u.toNat = true) :
    execFaultDetected f u s = .next { s with chip := detect s.keeper s.found f.toNat u.toNat false } :=
  onChip_eq_next (if_neg (by simp [hoff, hbank, hon]))

/-- DRIVE_CRC counts its frame (Table 18.1). -/
theorem detect_driveCrc (k : Keeper) (c : Chip) (u : Nat) (inj : Bool) :
    detect k c 0x1202 u inj = raise k (c.bump Key.Flt.DRIVE_CRC_ERRORS) 0x1202 u inj := rfl

/-! ## Outcomes of retries (R443) -/

/-- Codes but PD_RAIL and SHORT_BAT close their handling alone. -/
theorem execRetryOutcome_of_other {s : State} {f : BitVec 16} (u : BitVec 32) (hrail : f.toNat ≠ 0x1104)
    (hshort : f.toNat ≠ 0x0805) :
    execRetryOutcome f u s = .next { s with chip := closeHandling s.found f.toNat u.toNat } :=
  onChip_eq_next ((if_neg hrail).trans (by rw [if_neg (by simp [hshort])]))

/-- A pin's short to the supply is gone, where no injection holds it (Table 8.8). -/
theorem execRetryOutcome_of_short (s : State) (u : BitVec 32) :
    execRetryOutcome 0x0805 u s = .next { s with chip := (closeHandling
      (if armedFor s.keeper s.found Key.InjLs.INJ_LS_SHORT_BAT (unitNum u.toNat) = true then s.found
        else s.found.putBits (Key.Ls.FLAGS (unitNum u.toNat)) 8 false) 0x0805 u.toNat) } := by
  refine onChip_eq_next ((if_neg (by decide)).trans ?_)
  cases armedFor s.keeper s.found Key.InjLs.INJ_LS_SHORT_BAT (unitNum u.toNat) <;> rfl

theorem execRetryOutcome_of_rail (s : State) (u : BitVec 32) :
    execRetryOutcome 0x1104 u s = .next { s with chip :=
      (if unitNum u.toNat = 13 then dioRail s.keeper (pdHolds s.keeper s.found (unitNum u.toNat))
        else pdHolds s.keeper s.found (unitNum u.toNat)) } :=
  onChip_eq_next (if_pos (by decide))

/-- A rail that failed and stands again is powered from this epoch on (R421). -/
theorem pdHolds_facts (k : Keeper) {c : Chip} {d : Nat} (hfailed : c.num (Key.Pd.PD_STATE d) = 4)
    (hsound : unitAshed c (unitPd d) = false) :
    (pdHolds k c d).num (Key.Pd.PD_STATE d) = 2 ∧ (pdHolds k c d).num (Key.Pd.PD_EPOCH d) = wireEpoch k.epoch ∧
      KeepsObjects [Key.Pd.PD_STATE d, Key.Pd.PD_EPOCH d] c (pdHolds k c d) := by
  have hholds : pdHolds k c d = closeHandling ((c.put (Key.Pd.PD_STATE d) 2).put (Key.Pd.PD_EPOCH d) (wireEpoch k.epoch))
      0x1104 (unitPd d) := if_pos (by rw [hfailed, hsound]; rfl)
  have hod : (pdHolds k c d).od = ((c.put (Key.Pd.PD_STATE d) 2).put (Key.Pd.PD_EPOCH d) (wireEpoch k.epoch)).od := by
    rw [hholds]; rfl
  refine ⟨?_, ?_, ?_⟩
  · rw [Chip.num_of_od hod, Chip.num_put_ne _ _ (key_ne_of_sub (by decide)), Chip.num_put_same]
  · rw [Chip.num_of_od hod, Chip.num_put_same]
  · exact (((KeepsObjects.of_od rfl).put _ (by simp)).put _ (by simp)).trans (KeepsObjects.of_od hod)

end Sys2Proof.Machine

/-! ## The statements -/

namespace Sys2Proof.Proofs.Faults

open Sys2Proof Sys2Proof.Machine

/-- Settles O54: step 3 leaves the waiting events as they are, and a free handler takes one of the highest severity. -/
theorem handlerTakesTheHighestSeverity : Obligations.HandlerTakesTheHighestSeverity := by
  intro s e q rest hbusy hstack hqueue
  obtain ⟨d, f, hexec, hrest⟩ := execFaultHandlerTake_of_waiting hbusy hstack hqueue
  exact ⟨_, f, hexec, hrest⟩

/-- Settles O53: one lemma for each command, under the conditions that let it act. -/
theorem faultCommandsComplete : Obligations.FaultCommandsComplete := by
  refine ⟨fun s f u hoff hbank hon => execFaultDetected_of_on hoff hbank hon,
    fun k c u hfree => detect_driveCrc k c u false ▸
      raise_taken_put k c _ 0x1202 u false Key.Flt.DRIVE_CRC_ERRORS _ hfree rfl rfl (by decide),
    fun s e hbusy hperm hclass hstack hqueue => ?retried,
    fun s e hbusy hperm hsev hmode => ?severe,
    fun s f u hrail hshort => execRetryOutcome_of_other u hrail hshort,
    fun s u harmed => (execRetryOutcome_of_short s u).trans (by rw [harmed]; rfl),
    fun s u harmed => (execRetryOutcome_of_short s u).trans (by rw [harmed]; rfl),
    fun s u hunit => (execRetryOutcome_of_rail s u).trans (by rw [if_pos hunit, hunit]),
    fun s u hfailed hsound hunit => ⟨_, (execRetryOutcome_of_rail s u).trans (by rw [if_neg hunit]),
      pdHolds_facts s.keeper hfailed hsound⟩⟩
  case retried =>
    have hstep : stepThree s.keeper s.found e = { s.found with flt := { s.found.flt with
        cur := none, opens := s.found.flt.opens ++ [e] } } := classify_of_retried hperm hclass
    obtain ⟨hidle, hshown⟩ := handlerNext_of_none_waiting (c := stepThree s.keeper s.found e)
      (hstep ▸ hstack) (hstep ▸ hqueue)
    obtain ⟨-, -, hopens⟩ := handlerNext_frame (stepThree s.keeper s.found e)
    exact ⟨_, execFaultHandlerTake_of_busy hbusy, hidle, hopens.trans (by rw [hstep]), hshown,
      handlerNext_stepThree_keeps _ _ _⟩
  case severe =>
    obtain ⟨hmodes, hdue, -⟩ := handlerNext_frame (stepThree s.keeper s.found e)
    obtain ⟨hsafe, hash⟩ := classify_of_severe (k := s.keeper)
      (c := { s.found with flt := { s.found.flt with cur := none } }) hperm hsev hmode
    exact ⟨_, execFaultHandlerTake_of_busy hbusy, hmodes ▸ hsafe, hdue ▸ hash, handlerNext_stepThree_keeps _ _ _⟩

/-- Settles O55: such an event enters the budget record and nothing else. -/
theorem recurrencesFoldIntoTheOpenHandling : Obligations.RecurrencesFoldIntoTheOpenHandling := by
  intro k c code unit injected hopen hperm
  rw [raise_of_handled injected hopen hperm]
  exact ⟨KeepsObjects.of_od rfl, rfl, rfl, rfl, rfl⟩

end Sys2Proof.Proofs.Faults
end

section
/-! PROOFS. The statement of field update: builds that are held, resume, fail or complete (R373, R374), and the trial of a
set (R376, R377). -/

namespace Sys2Proof.Machine

/-! ## Objects off the handler's indices -/

/-- The objects of the fault handler and the health condition have three indices. -/
theorem not_event_of_index {ix sub : Nat} (hix : ix ≠ 0x2300 ∧ ix ≠ 0x2302 ∧ ix ≠ 0x4720) (hsub : sub < 256) :
    ix * 256 + sub ∉ eventKeys := by
  have hindex : ∀ key ∈ eventKeys, key / 256 = 0x2300 ∨ key / 256 = 0x2302 ∨ key / 256 = 0x4720 := by decide
  intro hmem
  have := hindex _ hmem
  omega

/-! ## What a detector's report leaves alone (R442–R444) -/

/-- The objects of the fault handler. -/
def handlerKeys : List Nat :=
  [Key.Flt.EVENTS, Key.Flt.PERMANENTS, Key.Flt.QUEUE_DEPTH, Key.Flt.QUEUE_PEAK, Key.Flt.HANDLING, Key.Flt.EVENT_LOG]

theorem fltShow_handlerKeys {c d : Chip} (f : FltS) (h : KeepsObjects handlerKeys c d) :
    KeepsObjects handlerKeys c (fltShow { d with flt := f }) := fun key hkey =>
  ((fltShow_keeps { d with flt := f }).mono (by decide) key hkey).trans (h key hkey)

theorem recNote_handlerKeys {c d : Chip} (k : Keeper) (code : Nat) (inj : Bool) (h : KeepsObjects handlerKeys c d) :
    KeepsObjects handlerKeys c (recNote k d code inj) := by
  refine h.trans (KeepsObjects.of_od ?_)
  unfold recNote
  dsimp only
  split <;> rfl

theorem offer_handlerKeys {c d e : Chip} {v : Event} (h : KeepsObjects handlerKeys c d) (hoffer : offer d v = some e) :
    KeepsObjects handlerKeys c e := by
  unfold offer at hoffer
  repeat' split at hoffer
  all_goals cases hoffer
  all_goals exact fltShow_handlerKeys _ h

theorem logEvent_handlerKeys {c d : Chip} (k : Keeper) (e : Event) (q : Bool) (n : Nat) (h : KeepsObjects handlerKeys c d) :
    KeepsObjects handlerKeys c (logEvent k d e q n) := h.putBlob _ (by decide)

theorem raiseQueueFull_handlerKeys {c d : Chip} (k : Keeper) (h : KeepsObjects handlerKeys c d) :
    KeepsObjects handlerKeys c (raiseQueueFull k d) := by
  have hbudget : KeepsObjects handlerKeys c (budgetAdd k (disarm d (mkKey 0x2380 8) 1) 0x1209 theModule) :=
    h.trans (KeepsObjects.of_od rfl)
  have hlogged := fun (e : Event) (n : Nat) => logEvent_handlerKeys k e false n (recNote_handlerKeys k 0x1209
    (queueInjected d) ((hbudget.bump (key := Key.Flt.EVENTS) 1 (by decide)).bump (key := Key.Flt.PERMANENTS) 1 (by decide)))
  unfold raiseQueueFull
  dsimp only
  split
  · exact hbudget
  split
  · exact fltShow_handlerKeys _ (hlogged _ _)
  · split <;> exact fltShow_handlerKeys _ (hlogged _ _)

theorem makePermanent_handlerKeys {c d : Chip} (k : Keeper) (code unit : Nat) (h : KeepsObjects handlerKeys c d) :
    KeepsObjects handlerKeys c (makePermanent k d code unit) := by
  have hcounted : ∀ f : FltS, KeepsObjects handlerKeys c (({ d with flt := f } : Chip).bump Key.Flt.PERMANENTS) := fun f =>
    (h.trans (KeepsObjects.of_od rfl)).bump 1 (by decide)
  unfold makePermanent
  dsimp only
  split
  · split
    · exact h
    split
    · rename_i hoffer
      exact offer_handlerKeys (hcounted _) hoffer
    · exact raiseQueueFull_handlerKeys k (logEvent_handlerKeys k _ _ _ (hcounted _))
  · split
    · exact hcounted _
    · exact h.trans (KeepsObjects.of_od rfl)

/-- A report changes the objects of the handler, and not the health condition. -/
theorem raiseCore_handlerKeys (k : Keeper) (c : Chip) (code unit : Nat) (inj force : Bool) :
    KeepsObjects handlerKeys c (raiseCore k c code unit inj force) := by
  have hbudget : KeepsObjects handlerKeys c (budgetAdd k c code unit) := KeepsObjects.of_od rfl
  have hnoted := recNote_handlerKeys k code inj (hbudget.bump (key := Key.Flt.EVENTS) 1 (by decide))
  have hcounted : KeepsObjects handlerKeys c
      (if permNow k c code unit force = true then
        (recNote k ((budgetAdd k c code unit).bump Key.Flt.EVENTS) code inj).bump Key.Flt.PERMANENTS
      else recNote k ((budgetAdd k c code unit).bump Key.Flt.EVENTS) code inj) := by
    split
    · exact hnoted.bump 1 (by decide)
    · exact hnoted
  unfold raiseCore
  dsimp only
  split
  · split
    · exact makePermanent_handlerKeys k code unit hbudget
    · exact hbudget
  · split
    · rename_i hoffer
      exact logEvent_handlerKeys k _ _ _ (offer_handlerKeys hcounted hoffer)
    · exact raiseQueueFull_handlerKeys k (logEvent_handlerKeys k _ _ _ hcounted)

/-! ## Copies and builds (R373) -/

/-- ACTIVE_VERSION and INACTIVE_VERSION of every region. -/
def regionKeys : List Nat := (List.range 10).flatMap fun r => [Key.Region.ACTIVE_VERSION r, Key.Region.INACTIVE_VERSION r]

theorem mem_regionKeys {r : Nat} (hr : r < 10) :
    Key.Region.ACTIVE_VERSION r ∈ regionKeys ∧ Key.Region.INACTIVE_VERSION r ∈ regionKeys := by
  simp only [regionKeys, List.mem_flatMap, List.mem_range]
  exact ⟨⟨r, hr, by simp⟩, ⟨r, hr, by simp⟩⟩

theorem partRegions_lt {ps : List PartX} {r : Nat} (h : r ∈ partRegions ps) : r < 10 :=
  List.mem_range.1 (List.mem_filter.1 h).1

/-- Only the versions of regions, and nothing of the active set or the handler, differ. -/
def CopiesOnly (c d : Chip) : Prop := d.upd.active = c.upd.active ∧ d.flt = c.flt ∧ KeepsObjects regionKeys c d

theorem CopiesOnly.trans {c d e : Chip} (h : CopiesOnly c d) (g : CopiesOnly d e) : CopiesOnly c e :=
  ⟨g.1.trans h.1, g.2.1.trans h.2.1, h.2.2.trans g.2.2⟩

theorem setInactive_copiesOnly (c : Chip) {r : Nat} (x : RegionCopy) (hr : r < 10) : CopiesOnly c (setInactive c r x) :=
  ⟨rfl, rfl, ((KeepsObjects.of_od rfl).put _ (mem_regionKeys hr).1).put _ (mem_regionKeys hr).2⟩

theorem emptyInactive_copiesOnly (c : Chip) {r : Nat} (hr : r < 10) : CopiesOnly c (emptyInactive c r) := by
  unfold emptyInactive
  dsimp only
  split
  · exact CopiesOnly.trans ⟨rfl, rfl, KeepsObjects.of_od rfl⟩ (setInactive_copiesOnly _ _ hr)
  · exact setInactive_copiesOnly _ _ hr

/-- Rewriting the inactive copies of a build's regions leaves the active set. -/
theorem foldl_partRegions_copiesOnly {f : Chip → Nat → Chip} (h : ∀ c r, r < 10 → CopiesOnly c (f c r)) (c : Chip)
    (ps : List PartX) : CopiesOnly c ((partRegions ps).foldl f c) :=
  List.foldlRecOn (motive := CopiesOnly c) _ f ⟨rfl, rfl, fun _ _ => rfl⟩
    fun _ hd _ hr => hd.trans (h _ _ (partRegions_lt hr))

theorem buildKey_ne_stagingFree (b sub : Nat) : (0x4701 + b) * 256 + sub ≠ Key.Upd.STAGING_FREE := by
  unfold Key.Upd.STAGING_FREE
  omega

/-- The objects a build's end writes. -/
def buildKeys (b : Nat) : List Nat :=
  regionKeys ++ [Key.Build.BUILD_STATE b, Key.Build.HOLD_REASON b, Key.Upd.STAGING_FREE]

theorem buildKeys_not_event (b : Fin 4) : ∀ key ∈ eventKeys, key ∉ buildKeys b := by
  revert b
  decide

theorem buildEnd_facts (c : Chip) (b : Fin 4) (st : Nat) :
    (buildEnd c b st).num (Key.Build.BUILD_STATE b) = st ∧ (buildEnd c b st).upd.active = c.upd.active ∧
      (buildEnd c b st).flt = c.flt ∧ KeepsObjects (buildKeys b) c (buildEnd c b st) := by
  obtain ⟨hactive, hflt, hkeep⟩ := foldl_partRegions_copiesOnly (fun c r hr => emptyInactive_copiesOnly c hr) c
    (buildOf c b).parts
  refine ⟨?_, ?_, ?_, ?_⟩
  · unfold buildEnd stagingShow
    rw [Chip.num_put_ne _ _ (buildKey_ne_stagingFree b 1), Chip.num_put_ne _ _ (key_ne_of_sub (by decide)), Chip.num_put_same]
  · simp only [buildEnd, stagingShow, buildSet, Chip.put_upd, hactive]
  · simp only [buildEnd, stagingShow, buildSet, Chip.put_flt, hflt]
  · have hcopies : KeepsObjects (buildKeys b) c ((partRegions (buildOf c b).parts).foldl emptyInactive c) :=
      hkeep.mono fun _ h => List.mem_append_left _ h
    have hown : Key.Build.BUILD_STATE b ∈ buildKeys b ∧ Key.Build.HOLD_REASON b ∈ buildKeys b ∧
        Key.Upd.STAGING_FREE ∈ buildKeys b := by simp [buildKeys]
    unfold buildEnd stagingShow
    dsimp only
    refine KeepsObjects.put _ (KeepsObjects.put _ (KeepsObjects.put _ ?_ hown.1) hown.2.1) hown.2.2
    exact fun key hkey => hcopies key hkey

/-- The inactive copies of a build's regions as its parts give them. -/
def copiesBuilt (c : Chip) (ps : List PartX) : Chip :=
  (partRegions ps).foldl (fun d r => setInactive d r
    (.built (((piecesOf ps r).head?.map (·.version)).getD 0) ((piecesOf ps r).map fun p => (buildPart c p).getD []))) c

theorem copiesBuilt_active (c : Chip) (ps : List PartX) : (copiesBuilt c ps).upd.active = c.upd.active :=
  (foldl_partRegions_copiesOnly (fun _ _ hr => setInactive_copiesOnly _ _ hr) c ps).1

/-- The chip whose build is COMPLETE. -/
def buildStaged (c : Chip) (b : Nat) : Chip :=
  stagingShow (((copiesBuilt c (buildOf c b).parts).put (Key.Build.BUILD_STATE b) 3).put (Key.Build.PROGRESS b) 100)

theorem buildStaged_facts (c : Chip) (b : Nat) :
    (buildStaged c b).num (Key.Build.BUILD_STATE b) = 3 ∧ (buildStaged c b).num (Key.Build.PROGRESS b) = 100 ∧
      (buildStaged c b).upd.active = c.upd.active := by
  unfold buildStaged stagingShow
  refine ⟨?_, ?_, ?_⟩
  · rw [Chip.num_put_ne _ _ (buildKey_ne_stagingFree b 1), Chip.num_put_ne _ _ (key_ne_of_sub (by decide)), Chip.num_put_same]
  · rw [Chip.num_put_ne _ _ (buildKey_ne_stagingFree b 4), Chip.num_put_same]
  · rw [Chip.put_upd, Chip.put_upd, Chip.put_upd, copiesBuilt_active]

theorem execBuildComplete_of_good {s : State} {b : Fin 4} (hruns : buildState s.found b = 1)
    (hwrites : buildHold s.found b = 0) (harmed : armedAt s.found Key.Inj.UPD_BUILD_FAIL b = false)
    (hgood : (buildOf s.found b).parts.all (partGood s.found) = true) :
    execBuildComplete b s = .next { s with chip := buildStaged s.found b } :=
  onChip_eq_next ((if_neg (by simp [hruns, hwrites])).trans
    ((if_neg (by rw [harmed]; decide)).trans (if_neg (by rw [hgood]; decide))))

/-- A build whose module has left SERVICE. -/
theorem execBuildHeld_of_left {s : State} {b : Fin 4} (hruns : buildState s.found b = 1) (hmode : buildHold s.found b = 3) :
    execBuildHeld b s = .next { s with chip :=
      ((s.found.put (Key.Build.BUILD_STATE b) 2).put (Key.Build.HOLD_REASON b) 3) } := by
  refine onChip_eq_next ((if_pos (by rw [hruns, hmode]; rfl)).trans ((if_pos hmode).trans ?_))
  rw [hmode]

/-- The chip whose build is held for its medium. -/
def buildDenied (k : Keeper) (c : Chip) (b why : Nat) : Chip :=
  raise k ((c.put (Key.Build.BUILD_STATE b) 2).put (Key.Build.HOLD_REASON b) why) 0x0E02 (unitBuild b)

theorem execBuildHeld_of_denied {s : State} {b : Fin 4} (hruns : buildState s.found b = 1) (hbarred : buildHold s.found b ≠ 0)
    (hmode : buildHold s.found b ≠ 3) :
    execBuildHeld b s = .next { s with chip := buildDenied s.keeper s.found b (buildHold s.found b) } :=
  onChip_eq_next ((if_pos (by simp [hruns, hbarred])).trans (if_neg hmode))

/-- A build that is held with its event. -/
theorem buildDenied_facts (k : Keeper) {c : Chip} {b : Fin 4} (why : Nat) (hfree : HandlerFree c 0x0E02 (unitBuild b)) :
    Taken c (buildDenied k c b why) 0x0E02 (unitBuild b) false ∧ (buildDenied k c b why).num (Key.Build.BUILD_STATE b) = 2 ∧
      (buildDenied k c b why).num (Key.Build.HOLD_REASON b) = why ∧
      KeepsObjects ([Key.Build.BUILD_STATE b, Key.Build.HOLD_REASON b] ++ eventKeys) c (buildDenied k c b why) := by
  have hown : ∀ key ∈ eventKeys, key ∉ [Key.Build.BUILD_STATE b, Key.Build.HOLD_REASON b] := fun key hkey hmem =>
    buildKeys_not_event b key hkey (List.mem_append_right _ ((List.subset_append_left _ [Key.Upd.STAGING_FREE]) hmem))
  obtain ⟨htaken, -, hkeep⟩ := raise_taken_keep k c
    ((c.put (Key.Build.BUILD_STATE b) 2).put (Key.Build.HOLD_REASON b) why) 0x0E02 (unitBuild b) false _ hfree ⟨rfl, rfl⟩
    (((KeepsObjects.of_od rfl).put _ (by simp)).put _ (by simp)) hown
  unfold buildDenied
  refine ⟨htaken, ?_, ?_, hkeep⟩
  · rw [raise_num _ _ _ _ _ (not_event_of_index (by omega) (by decide)), Chip.num_put_ne _ _ (key_ne_of_sub (by decide)),
      Chip.num_put_same]
  · rw [raise_num _ _ _ _ _ (not_event_of_index (by omega) (by decide)), Chip.num_put_same]

theorem execBuildResume_of_permitted {s : State} {b : Fin 4} (hheld : buildState s.found b = 2)
    (hwrites : buildHold s.found b = 0) (hover : (buildOf s.found b).heldTo ≤ s.keeper.epoch) :
    execBuildResume b s = .next { s with chip :=
      ((s.found.put (Key.Build.BUILD_STATE b) 1).put (Key.Build.HOLD_REASON b) 0) } :=
  onChip_eq_next (if_pos (by simp [hheld, hwrites, hover]))

theorem execBuildWriteError_of_running {s : State} {b : Fin 4} (hruns : buildState s.found b = 1) :
    execBuildWriteError b s = .next { s with chip := buildFail s.keeper s.found b false } :=
  onChip_eq_next (if_pos hruns)

/-- A build that fails ends FAILED with its event, and the active set stays. -/
theorem buildFail_facts (k : Keeper) {c : Chip} {b : Fin 4} (inj : Bool) (hfree : HandlerFree c 0x0E01 (unitBuild b)) :
    Taken c (buildFail k c b inj) 0x0E01 (unitBuild b) inj ∧ (buildFail k c b inj).num (Key.Build.BUILD_STATE b) = 5 ∧
      (buildFail k c b inj).upd.active = c.upd.active := by
  obtain ⟨hstate, hactive, hflt, hkeep⟩ := buildEnd_facts c b 5
  obtain ⟨htaken, -, -⟩ := raise_taken_keep k c (buildEnd c b 5) 0x0E01 (unitBuild b) inj _ hfree
    ⟨by rw [hflt], by unfold handlingOf; rw [hflt]⟩ hkeep (buildKeys_not_event b)
  refine ⟨htaken, ?_, ?_⟩
  · exact (raise_num _ _ _ _ _ (not_event_of_index (by omega) (by decide))).trans hstate
  · exact (congrArg UpdS.active (raise_upd ..)).trans hactive

/-! ## The trial of a set (R376, R377) -/

theorem execHealthConfirm_of_met {s : State} (hgreen : s.found.num Key.Health.HEALTH = 1) (hdone : confirmDone s.found = true)
    (haccept : acceptOk s.found = true) (hwritten : s.found.upd.dsHeld = none)
    (hwindow : s.found.upd.trialMs ≤ s.found.num Key.Health.TRIAL_S * 1000) :
    execHealthConfirm s = .next { s with chip := { s.found.put Key.Health.HEALTH 0 with
      upd := { s.found.upd with confirmHeld := decide (s.found.num Key.WrHold.MRAM_WRITE ≠ 0) } } } :=
  onChip_eq_next (if_pos (by rw [hgreen, hdone, haccept, hwritten, decide_eq_true hwindow]; rfl))

theorem execTrialWindowEnd_of_unconfirmed {s : State} (hgreen : s.found.num Key.Health.HEALTH = 1)
    (hover : s.found.num Key.Health.TRIAL_S * 1000 ≤ s.found.upd.trialMs) (hdone : confirmDone s.found = false) :
    execTrialWindowEnd s = .next { s with chip := healthBreak s.keeper s.found 5 false } :=
  onChip_eq_next ((if_pos (by rw [hgreen, decide_eq_true hover]; rfl)).trans (by rw [hdone]; rfl))

/-- A GREEN set whose health condition breaks is FAILED, with the cause. -/
theorem healthBreak_facts (k : Keeper) {c : Chip} (cause : Nat) (inj : Bool) (hgreen : c.num Key.Health.HEALTH = 1) :
    (healthBreak k c cause inj).num Key.Health.HEALTH = 2 ∧ (healthBreak k c cause inj).num Key.Health.HEALTH_CAUSE = cause ∧
      KeepsObjects eventKeys c (healthBreak k c cause inj) := by
  have hbreak : healthBreak k c cause inj = raiseCore k ((c.put Key.Health.HEALTH 2).put Key.Health.HEALTH_CAUSE cause)
      0x0E04 theModule inj false := if_pos hgreen
  have hraise := raiseCore_handlerKeys k ((c.put Key.Health.HEALTH 2).put Key.Health.HEALTH_CAUSE cause) 0x0E04 theModule
    inj false
  refine ⟨?_, ?_, (healthBreak_only k c cause inj).2⟩
  · rw [hbreak, hraise.num_eq (by decide), Chip.num_put_ne _ _ (by decide), Chip.num_put_same]
  · rw [hbreak, hraise.num_eq (by decide), Chip.num_put_same]

end Sys2Proof.Machine

/-! ## The statement -/

namespace Sys2Proof.Proofs.Update

open Sys2Proof Sys2Proof.Machine

/-- Settles O49: one lemma for each command, under the conditions that let it act. -/
theorem updateCommandsComplete : Obligations.UpdateCommandsComplete := by
  refine ⟨fun s b hruns hwrites harmed hgood => ?complete, fun s b hruns hmode => execBuildHeld_of_left hruns hmode,
    fun s b hruns hbarred hmode hfree =>
      ⟨_, execBuildHeld_of_denied hruns hbarred hmode, buildDenied_facts s.keeper _ hfree⟩,
    fun s b hheld hwrites hover => execBuildResume_of_permitted hheld hwrites hover,
    fun s b hruns hfree => ?fails,
    fun s hgreen hdone haccept hwritten hwindow => execHealthConfirm_of_met hgreen hdone haccept hwritten hwindow,
    fun s hgreen hover hdone => ⟨_, execTrialWindowEnd_of_unconfirmed hgreen hover hdone,
      healthBreak_facts s.keeper 5 false hgreen⟩⟩
  case complete =>
    have hexec := execBuildComplete_of_good hruns hwrites harmed hgood
    have hfacts := buildStaged_facts s.found b
    generalize buildStaged s.found b = d at hexec hfacts
    exact ⟨_, hexec, hfacts⟩
  case fails =>
    have hexec := execBuildWriteError_of_running hruns
    have hfacts := buildFail_facts s.keeper false hfree
    generalize buildFail s.keeper s.found b false = d at hexec hfacts
    exact ⟨_, hexec, hfacts⟩

end Sys2Proof.Proofs.Update
end

section
/-! PROOFS. The statement of the recorder: samples of measures (R386–R388), and commits of changed records (R393). -/

namespace Sys2Proof.Machine

/-! ## Samples (R386–R388) -/

/-- What a sample asks of its measure: one source, an edge of its period, and a mode it runs in. -/
theorem measSample_not_skipped {k : Keeper} {c : Chip} {x : MeasCfg} {b : RecBody} (hdims : x.dims = 1)
    (hperiod : k.epoch % x.sampleMs = 0) (hmode : measMode x c.mode = true) (hnew : bodyLast b ≠ wireEpoch k.epoch) :
    ¬(x.dims = 0 || k.epoch % x.sampleMs ≠ 0 || !measMode x c.mode || bodyLast b = wireEpoch k.epoch) = true := by
  simp [hdims, hperiod, hmode, hnew]

/-- The extremes of a measure of one dimension after a value (R388). -/
def extremesNext (ext : List Extreme) (v epoch ms : Nat) : List Extreme :=
  (List.range 4).map fun i => match [v][i / 2]? with
    | some v => extremeNext (i % 2 = 0) (ext.getD i ⟨fmt32.nan, 0, 0⟩) v epoch ms
    | none => ext.getD i ⟨fmt32.nan, 0, 0⟩

/-- A bin that has room counts a sample with no flag and no event. -/
theorem measBinned_of_room {bins : List (Nat × Nat)} {b : Nat} (flags first last samples nans epoch ms v : Nat)
    (ext : List Extreme) (hroom : binAt (binInc bins b) b ≠ 0xFFFFFFFF) :
    measBinned (.meas flags first last samples nans ext bins) b epoch ms [v] =
      (.meas flags (if first = 0 then epoch else first) epoch (satInc samples) nans (extremesNext ext v epoch ms)
        (binInc bins b), false) := by
  simp only [measBinned, hroom, decide_false, Bool.false_and, if_false]
  rfl

/-- The source of a measure of one dimension, at the edge's copy. -/
def sourceNow (k : Keeper) (c : Chip) (m : Nat) : Nat := refValue (copyAt k c) (measOf c.recd.cfg m).srcX

section

variable {s : State} {m : Fin 256} {flags first last samples nans : Nat} {ext : List Extreme} {bins : List (Nat × Nat)}
  (hdims : (measOf s.found.recd.cfg m).dims = 1) (hperiod : s.keeper.epoch % (measOf s.found.recd.cfg m).sampleMs = 0)
  (hmode : measMode (measOf s.found.recd.cfg m) s.found.mode = true)
  (hlive : (recFind s.found.recd m).live = .meas flags first last samples nans ext bins)
  (hnew : bodyLast (recFind s.found.recd m).live ≠ wireEpoch s.keeper.epoch)
include hdims hperiod hmode hlive hnew

/-- A sample that is no number counts in NAN_SAMPLES alone. -/
theorem execMeasureSample_of_nan (hnan : fIsNan fmt32 (sourceNow s.keeper s.found m) = true) :
    execMeasureSample m s = .next { s with chip := (recStore s.found { recFind s.found.recd m with dirty := true, live :=
      (.meas (flags ||| 2) (if first = 0 then wireEpoch s.keeper.epoch else first) (wireEpoch s.keeper.epoch) samples
        (satInc nans) ext bins) }) } := by
  have hany : (sourceNow s.keeper s.found m :: []).any (fIsNan fmt32) = true := by simp [hnan]
  refine onChip_eq_next ((if_neg (measSample_not_skipped hdims hperiod hmode hnew)).trans ?_)
  simp only [hdims, Nat.reduceEqDiff, if_false]
  refine (if_pos hany).trans ?_
  rw [hlive]
  rfl

/-- A sample adds one to the bin of its value and counts. -/
theorem execMeasureSample_of_value {b : Nat} (hnum : fIsNan fmt32 (sourceNow s.keeper s.found m) = false)
    (hbin : binOf (sourceNow s.keeper s.found m) (measOf s.found.recd.cfg m).loX (measOf s.found.recd.cfg m).hiX = some b)
    (hroom : binAt (binInc bins b) b ≠ 0xFFFFFFFF) :
    execMeasureSample m s = .next { s with chip := (recStore s.found { recFind s.found.recd m with dirty := true, live :=
      (.meas flags (if first = 0 then wireEpoch s.keeper.epoch else first) (wireEpoch s.keeper.epoch) (satInc samples) nans
        (extremesNext ext (sourceNow s.keeper s.found m) (wireEpoch s.keeper.epoch) (gnssMs (copyAt s.keeper s.found)))
        (binInc bins b)) }) } := by
  have hany : ¬(sourceNow s.keeper s.found m :: []).any (fIsNan fmt32) = true := by simp [hnum]
  refine onChip_eq_next ((if_neg (measSample_not_skipped hdims hperiod hmode hnew)).trans ?_)
  simp only [hdims, Nat.reduceEqDiff, if_false]
  refine (if_neg hany).trans ?_
  have hbinned : binOf (refValue (copyAt s.keeper s.found) (measOf s.found.recd.cfg m).srcX) (measOf s.found.recd.cfg m).loX
      (measOf s.found.recd.cfg m).hiX = some b := hbin
  simp only [List.getD_cons_zero, hbinned, hlive, Option.isNone_some, Bool.or_self, Bool.false_eq_true, if_false,
    Option.getD_some, Nat.mul_zero, Nat.add_zero, measBinned_of_room _ _ _ _ _ _ _ _ _ hroom]
  rfl

end

/-! ## Commits (R393) -/

/-- A record's content begins its commit. -/
def commitBegun (e : Nat) (x : RecX) : RecX := { x with busy := some x.live, dirty := false, began := e, wants := false }

/-- A record at a commit cycle: changed, it begins its commit, none sooner than a second after its last. -/
def cycleRecord (e : Nat) (x : RecX) : RecX :=
  if !x.dirty then x
  else if x.busy.isNone && (x.seq = 0 && x.began = 0 || decide (x.began + 1000 ≤ e)) then commitBegun e x
  else { x with wants := true }

theorem cycleRecord_of_ready {e : Nat} {x : RecX} (hdirty : x.dirty = true) (hidle : x.busy = none)
    (hsecond : x.began + 1000 ≤ e) : cycleRecord e x = commitBegun e x :=
  (if_neg (by rw [hdirty]; decide)).trans (if_pos (by simp [hidle, hsecond]))

/-- The chip whose commit cycle has begun. -/
def cycleBegun (k : Keeper) (c : Chip) : Chip :=
  recShow { c.putFlag Key.Rec.COMMIT_HELD false with recd := { c.recd with
    recs := c.recd.recs.map (cycleRecord k.epoch), asked := false, lastCycle := k.epoch } }

section

variable {s : State} (hup : up s.found 2 = true)
  (hdue : s.found.recd.lastCycle + s.found.num Key.Rec.COMMIT_S * 1000 ≤ s.keeper.epoch)
include hup hdue

theorem execRecorderCommit_of_permitted (hheld : commitHeld s.keeper s.found = false) :
    execRecorderCommit s = .next { s with chip := cycleBegun s.keeper s.found } := by
  refine onChip_eq_next ?_
  unfold recCommit
  simp only [decide_eq_true hdue, hup, hheld, Bool.true_or, Bool.not_true, Bool.or_self, Bool.false_eq_true, if_false,
    if_true, Bool.and_true]
  rfl

theorem execRecorderCommit_of_held (hheld : commitHeld s.keeper s.found = true)
    (hfirst : s.found.flag Key.Rec.COMMIT_HELD = false) :
    execRecorderCommit s = .next { s with chip := (raise s.keeper (s.found.putFlag Key.Rec.COMMIT_HELD true) 0x0F02 theModule
      (decide (s.found.num Key.WrHold.MRAM_WRITE = 0))) } := by
  refine onChip_eq_next ?_
  unfold recCommit
  rw [decide_eq_true hdue, hup, hheld, hfirst]
  have hmram : (s.found.putFlag Key.Rec.COMMIT_HELD true).num Key.WrHold.MRAM_WRITE = s.found.num Key.WrHold.MRAM_WRITE :=
    Chip.num_putFlag_ne _ _ (by decide)
  exact congrArg (fun n => raise s.keeper _ 0x0F02 theModule (decide (n = 0))) hmram

end

/-! ## The end of a commit (R393) -/

theorem recWords_not_lastCommit (j : Nat) : Key.Rec.LAST_COMMIT_EPOCH ≠ Key.RecV.WORD j := by
  unfold Key.Rec.LAST_COMMIT_EPOCH Key.RecV.WORD
  omega

/-- Showing the recorder leaves the epoch of its last commit. -/
theorem recShow_lastCommit (c : Chip) : (recShow c).num Key.Rec.LAST_COMMIT_EPOCH = c.num Key.Rec.LAST_COMMIT_EPOCH := by
  have hwords (d : Chip) (w : Nat → Nat) (hd : d.num Key.Rec.LAST_COMMIT_EPOCH = c.num Key.Rec.LAST_COMMIT_EPOCH) :
      (recWordsShow d w).num Key.Rec.LAST_COMMIT_EPOCH = c.num Key.Rec.LAST_COMMIT_EPOCH :=
    recWordsShow_preserves (fun d => d.num Key.Rec.LAST_COMMIT_EPOCH = c.num Key.Rec.LAST_COMMIT_EPOCH) d w hd
      fun _ j _ h => (Chip.num_put_ne _ _ (recWords_not_lastCommit j)).trans h
  have hmeas : (measShow c).num Key.Rec.LAST_COMMIT_EPOCH = c.num Key.Rec.LAST_COMMIT_EPOCH := by
    simp (disch := decide) only [measShow, Chip.num_put_ne, Chip.num_putBlob_ne]
  unfold recShow recViewShow
  split
  · exact hwords _ _ (by simp (disch := decide) only [Chip.num_put_ne, hmeas])
  · exact hwords _ _ (by simp (disch := decide) only [Chip.num_put_ne, hmeas])

/-- The chip whose record's valid mark is written. -/
def commitMarked (k : Keeper) (c : Chip) (x : RecX) (b : RecBody) : Chip :=
  recShow ((recStore c { x with stored := b, seq := (x.seq + 2) % 0x100000000, busy := none }).put Key.Rec.LAST_COMMIT_EPOCH
    (wireEpoch k.epoch))

theorem recFind_of_find? {r : RecS} {n : Nat} {x : RecX} (h : r.recs.find? (fun y => decide (y.id = n)) = some x) :
    recFind r n = x := by
  unfold recFind
  rw [h]

section

variable {s : State} {n : Nat} {x : RecX} {b : RecBody}
  (hfound : s.found.recd.recs.find? (fun y => decide (y.id = n)) = some x)
include hfound

theorem execCommitComplete_of_busy (hbusy : x.busy = some b) :
    execCommitComplete n s = .next { s with chip := commitMarked s.keeper s.found x b } := by
  have hid := List.find?_some hfound
  have hany : s.found.recd.recs.any (fun y => y.id = n && y.busy.isSome) = true :=
    List.any_eq_true.2 ⟨x, List.mem_of_find?_eq_some hfound, by simpa [hbusy] using hid⟩
  refine onChip_eq_next ((if_pos hany).trans ?_)
  rw [recFind_of_find? hfound, recMark, hbusy]
  rfl

theorem commitMarked_find :
    (commitMarked s.keeper s.found x b).recd.recs.find? (fun y => decide (y.id = n)) =
      some { x with stored := b, seq := (x.seq + 2) % 0x100000000, busy := none } := by
  obtain rfl : x.id = n := by simpa using List.find?_some hfound
  unfold commitMarked
  rw [recShow_recd]
  exact recInsert_find _ { x with stored := b, seq := (x.seq + 2) % 0x100000000, busy := none }

end

end Sys2Proof.Machine

/-! ## The statement -/

namespace Sys2Proof.Proofs.Recorder

open Sys2Proof Sys2Proof.Machine

/-- Settles O50: one lemma for each command, under the conditions that let it act. -/
theorem recorderCommandsComplete : Obligations.RecorderCommandsComplete := by
  refine ⟨fun s m flags first last samples nans b ext bins hdims hperiod hmode hlive hnew hnum hbin hroom =>
      ⟨_, execMeasureSample_of_value hdims hperiod hmode hlive hnew hnum hbin hroom⟩,
    fun s m flags first last samples nans ext bins hdims hperiod hmode hlive hnew hnan =>
      execMeasureSample_of_nan hdims hperiod hmode hlive hnew hnan,
    fun s hup hdue hheld => ⟨_, execRecorderCommit_of_permitted hup hdue hheld, ?_⟩,
    fun s hup hdue hheld hfirst hfree => ⟨_, execRecorderCommit_of_held hup hdue hheld hfirst,
      raise_taken_put s.keeper s.found _ 0x0F02 theModule _ Key.Rec.COMMIT_HELD 1 hfree rfl rfl (by decide)⟩,
    fun s n x b hfound hbusy => ⟨_, execCommitComplete_of_busy hfound hbusy, commitMarked_find hfound, ?_⟩⟩
  · dsimp only [cycleBegun]
    rw [recShow_recd, recShow_flt]
    exact ⟨rfl, fun x hx hdirty hidle hsecond =>
      List.mem_map.2 ⟨x, hx, cycleRecord_of_ready hdirty hidle hsecond⟩, rfl⟩
  · exact (recShow_lastCommit _).trans (Chip.num_put_same ..)

end Sys2Proof.Proofs.Recorder
end

section
/-! PROOFS. The statement of the panels: rails, frames and idle rails (R400–R405), and the DXP60 (R407, R409, R411). -/

namespace Sys2Proof.Machine

/-! ## A panel's own state -/

theorem set_getD_self {α : Type} (l : List α) (i : Nat) (d : α) : l.set i (l.getD i d) = l := by
  rcases Nat.lt_or_ge i l.length with h | h
  · rw [List.getD_eq_getElem _ _ h, List.set_getElem_self]
  · exact List.set_eq_of_length_le h

/-- A panel set to what it is changes nothing. -/
@[simp] theorem panelSet_panelOf (c : Chip) (p : Nat) : panelSet c p (panelOf c p) = c := by
  unfold panelSet panelOf nth
  rw [set_getD_self]

@[simp] theorem panelOf_panelSet (c : Chip) {p : Nat} (x : PanelX) (h : p < c.face.panels.length) :
    panelOf (panelSet c p x) p = x := by
  simp [panelOf, panelSet, nth, h]

theorem panelOf_congr {c d : Chip} (h : d.face = c.face) (p : Nat) : panelOf d p = panelOf c p := by
  rw [panelOf, panelOf, h]

@[simp] theorem panelSet_od (c : Chip) (p : Nat) (x : PanelX) : (panelSet c p x).od = c.od := rfl
@[simp] theorem panelSet_flt (c : Chip) (p : Nat) (x : PanelX) : (panelSet c p x).flt = c.flt := rfl
@[simp] theorem panelSet_panels_length (c : Chip) (p : Nat) (x : PanelX) :
    (panelSet c p x).face.panels.length = c.face.panels.length := List.length_set ..

/-- The objects that show a panel. -/
def panelKeys (p : Nat) : List Nat :=
  [Key.Panel.PANEL_STATE p, Key.Panel.PIXELS_BUSY p, Key.Panel.PIXELS_PENDING p, Key.Panel.HOLD_REASON p]

theorem panelShow_facts (k : Keeper) (c : Chip) (p : Nat) :
    (panelShow k c p).num (Key.Panel.PIXELS_BUSY p) = (panelOf c p).drive.length ∧
      ((panelOf c p).present = false → (panelShow k c p).num (Key.Panel.PANEL_STATE p) = 0) ∧
      (panelShow k c p).face = c.face ∧ (panelShow k c p).flt = c.flt ∧ KeepsObjects (panelKeys p) c (panelShow k c p) := by
  unfold panelShow
  refine ⟨?_, fun habsent => ?_, by simp only [Chip.put_face], by simp only [Chip.put_flt], ?_⟩
  · rw [Chip.num_put_ne _ _ (key_ne_of_sub (by decide)), Chip.num_put_ne _ _ (key_ne_of_sub (by decide)), Chip.num_put_same]
  · rw [Chip.num_put_ne _ _ (key_ne_of_sub (by decide)), Chip.num_put_ne _ _ (key_ne_of_sub (by decide)),
      Chip.num_put_ne _ _ (key_ne_of_sub (by decide)), Chip.num_put_same, habsent]
    rfl
  · exact ((((KeepsObjects.of_od rfl).put _ (by simp [panelKeys])).put _ (by simp [panelKeys])).put _
      (by simp [panelKeys])).put _ (by simp [panelKeys])

/-! ## Rails (R400) -/

theorem execPanelRailsUp_of_rising {s : State} {p : Fin 2} (hlive : panelLive s.found p = true)
    (hrising : (panelOf s.found p).rails = 1) :
    execPanelRailsUp p s = .next { s with chip := (panelFrame s.keeper (closeHandling
      (panelSet s.found p { panelOf s.found p with rails := 2, railBad := false }) 0x1001 (unitPanel p)) p) } :=
  onChip_eq_next (if_neg (by simp [hlive, hrising]))

theorem execRailIdleExpiry_of_over {s : State} {p : Fin 2} {a : Nat} (hidle : (panelOf s.found p).idleAt = some a)
    (hup : (panelOf s.found p).rails = 2) (hpend : (panelOf s.found p).pend = []) (hdrive : (panelOf s.found p).drive = [])
    (hover : a + s.found.num Key.Face.FACE_IDLE_MS * 1000 ≤ nowUs s.keeper s.found) :
    execRailIdleExpiry p s = .next { s with chip := (panelSet s.found p { panelOf s.found p with rails := 0 }) } := by
  refine onChip_eq_next ?_
  unfold railIdle
  dsimp only
  rw [hidle]
  exact if_pos (by rw [hup, hpend, hdrive, decide_eq_true hover]; rfl)

/-! ## Frames (R405) -/

/-- With no region in progress none ends. -/
theorem regionsEnd_of_no_regions (k : Keeper) {c : Chip} {p : Nat} (h : (panelOf c p).regs = []) : regionsEnd k c p = c := by
  have hself : { panelOf c p with regs := [] } = panelOf c p := by rw [← h]
  unfold regionsEnd
  simp only [h, List.filter_nil, List.foldl_nil, hself, panelSet_panelOf]

/-- With no pixel pending none starts. -/
theorem panelStarts_of_none_pending {c : Chip} {p : Nat} (h : (panelOf c p).pend = []) : panelStarts c p = c := by
  have hself : { panelOf c p with pend := [] } = panelOf c p := by rw [← h]
  unfold panelStarts
  simp only [h, List.filter_nil, List.foldl_nil, hself, panelSet_panelOf]

/-- A waveform one code on. -/
def driveNext (d : DriveX) : DriveX := { d with codes := d.codes.drop 1 }

theorem driveNext_goes_on {d : DriveX} (h : 2 ≤ d.codes.length) : (driveNext d).codes ≠ [] := by
  intro hend
  have hlength : (d.codes.drop 1).length = 0 := by rw [show d.codes.drop 1 = [] from hend]; rfl
  rw [List.length_drop] at hlength
  omega

/-- The chip whose waveforms are one code on. -/
def panelDriven (c : Chip) (p : Nat) : Chip :=
  panelSet c p { panelOf c p with drive := (panelOf c p).drive.map driveNext }

/-- A frame in which no waveform ends and nothing waits moves every waveform on, and that is all. -/
theorem panelFrame_of_driving {k : Keeper} {c : Chip} {p : Nat} (hlive : panelLive c p = true) (hup : (panelOf c p).rails = 2)
    (hpend : (panelOf c p).pend = []) (hregs : (panelOf c p).regs = [])
    (hlong : ∀ d ∈ (panelOf c p).drive, 2 ≤ d.codes.length) (hlt : p < c.face.panels.length) :
    panelFrame k c p = panelShow k (idleFrom k (panelDriven c p) p) p := by
  have hgoes : ∀ d ∈ (panelOf c p).drive.map driveNext, d.codes ≠ [] := by
    intro d hd
    obtain ⟨e, he, rfl⟩ := List.mem_map.1 hd
    exact driveNext_goes_on (hlong e he)
  have hended : ((panelOf c p).drive.map driveNext).filter (fun d => decide (d.codes = [])) = [] :=
    List.filter_eq_nil_iff.2 fun d hd => by simpa using hgoes d hd
  have hmoved : ((panelOf c p).drive.map driveNext).filter (fun d => decide (d.codes ≠ [])) = (panelOf c p).drive.map driveNext :=
    List.filter_eq_self.2 fun d hd => by simpa using hgoes d hd
  have hregs' : regionsEnd k (panelDriven c p) p = panelDriven c p :=
    regionsEnd_of_no_regions k (by rw [panelDriven, panelOf_panelSet _ _ hlt]; exact hregs)
  have hpend' : panelStarts (panelDriven c p) p = panelDriven c p :=
    panelStarts_of_none_pending (by rw [panelDriven, panelOf_panelSet _ _ hlt]; exact hpend)
  have hframe : panelFrame k c p = panelShow k (idleFrom k (regionsEnd k
      (if faceHold k (regionsEnd k (panelDriven c p) p) p = 0 then panelStarts (regionsEnd k (panelDriven c p) p) p
        else regionsEnd k (panelDriven c p) p) p) p) p := by
    refine (if_neg (by simp [hlive, hup])).trans ?_
    simp only [show (fun d : DriveX => { d with codes := d.codes.drop 1 }) = driveNext from rfl, hended, hmoved,
      List.foldl_nil]
    rfl
  rw [hframe, hregs', hpend', ite_self, hregs']

/-- FACE_IDLE_MS changes nothing of what a panel drives and holds. -/
theorem idleFrom_facts (k : Keeper) {c : Chip} {p : Nat} (hlt : p < c.face.panels.length) :
    (panelOf (idleFrom k c p) p).drive = (panelOf c p).drive ∧ (panelOf (idleFrom k c p) p).levels = (panelOf c p).levels := by
  unfold idleFrom
  dsimp only
  split
  · rw [panelOf_panelSet _ _ hlt]
    exact ⟨rfl, rfl⟩
  · exact ⟨rfl, rfl⟩

theorem execPanelFrame_of_driving {s : State} {p : Fin 2} (hlive : panelLive s.found p = true)
    (hup : (panelOf s.found p).rails = 2) (hpend : (panelOf s.found p).pend = []) (hregs : (panelOf s.found p).regs = [])
    (hlong : ∀ d ∈ (panelOf s.found p).drive, 2 ≤ d.codes.length) (hlt : p.val < s.found.face.panels.length) :
    execPanelFrame p s = .next { s with chip := (panelShow s.keeper (idleFrom s.keeper (panelDriven s.found p) p) p) } :=
  onChip_eq_next (panelFrame_of_driving hlive hup hpend hregs hlong hlt)

theorem panelFrame_facts (k : Keeper) {c : Chip} {p : Nat} (hlt : p < c.face.panels.length) :
    (panelOf (panelShow k (idleFrom k (panelDriven c p) p) p) p).drive = (panelOf c p).drive.map driveNext ∧
      (panelOf (panelShow k (idleFrom k (panelDriven c p) p) p) p).levels = (panelOf c p).levels ∧
      (panelShow k (idleFrom k (panelDriven c p) p) p).num (Key.Panel.PIXELS_BUSY p) = (panelOf c p).drive.length := by
  obtain ⟨hbusy, -, hface, -, -⟩ := panelShow_facts k (idleFrom k (panelDriven c p) p) p
  obtain ⟨hdrive, hlevels⟩ := idleFrom_facts k (c := panelDriven c p) (p := p) (by simpa [panelDriven] using hlt)
  rw [panelOf_congr hface, hbusy, hdrive, hlevels, panelDriven, panelOf_panelSet _ _ hlt, List.length_map]
  exact ⟨rfl, rfl, rfl⟩

/-! ## The DXP60 (R407, R409, R411) -/

@[simp] theorem faceQueue_od (c : Chip) (p : Nat) (r : Nat × Nat × Nat × Nat) (l : List (Nat × Nat)) (clean : Bool) :
    (faceQueue c p r l clean).od = c.od := rfl

/-- A region queued leaves a panel present. -/
theorem faceQueue_present (c : Chip) {p : Nat} (r : Nat × Nat × Nat × Nat) (l : List (Nat × Nat)) (clean : Bool)
    (hlt : p < c.face.panels.length) : (panelOf (faceQueue c p r l clean) p).present = (panelOf c p).present := by
  unfold faceQueue
  dsimp only
  rw [panelOf_panelSet (disarm _ _ _) _ hlt]

/-- The chip with the DXP60 there. -/
def dxpSeen (c : Chip) (vcom : Nat) : Chip :=
  panelSet (c.put (Key.Panel.VCOM_MV 1) vcom) 1 { panelOf c 1 with present := true, rails := 0 }

theorem execDxp60Detected_of_absent {s : State} (v : BitVec 16) (hup : up s.found 9 = true)
    (habsent : (panelOf s.found 1).present = false) :
    execDxp60Detected v s = .next { s with chip := (panelShow s.keeper
      (closeHandling (cleanRect (dxpSeen s.found v.toNat) 1 wholePanel) 0x1004 (unitPanel 1)) 1) } :=
  onChip_eq_next (if_neg (by rw [hup, habsent]; decide))

theorem dxpShown_facts (k : Keeper) {c : Chip} (vcom : Nat) (r : Nat × Nat × Nat × Nat) (hlt : 1 < c.face.panels.length) :
    let d := panelShow k (closeHandling (cleanRect (dxpSeen c vcom) 1 r) 0x1004 (unitPanel 1)) 1
    d.num (Key.Panel.VCOM_MV 1) = vcom ∧ (panelOf d 1).present = true := by
  obtain ⟨-, -, hface, -, hkeep⟩ := panelShow_facts k (closeHandling (cleanRect (dxpSeen c vcom) 1 r) 0x1004 (unitPanel 1)) 1
  have hlt' : 1 < (dxpSeen c vcom).face.panels.length := by simpa [dxpSeen] using hlt
  refine ⟨?_, ?_⟩
  · exact (hkeep.num_eq (by decide)).trans (Chip.num_put_same ..)
  · rw [panelOf_congr hface]
    exact (faceQueue_present _ _ _ _ hlt').trans (by rw [dxpSeen, panelOf_panelSet (Chip.put _ _ _) _ hlt])

/-- The chip with the DXP60 gone. -/
def dxpGone (k : Keeper) (c : Chip) : Chip := panelShow k (panelSet c 1 { panelStop (panelOf c 1) with present := false }) 1

theorem execDxp60Lost_of_present {s : State} (hpresent : (panelOf s.found 1).present = true) :
    execDxp60Lost s = .next { s with chip := raise s.keeper (dxpGone s.keeper s.found) 0x1004 (unitPanel 1) } :=
  onChip_eq_next (if_neg (by rw [hpresent]; decide))

theorem panelKeys_not_event : ∀ key ∈ eventKeys, key ∉ panelKeys 1 := by decide

theorem dxpLost_facts (k : Keeper) {c : Chip} (hlt : 1 < c.face.panels.length) (hfree : HandlerFree c 0x1004 (unitPanel 1)) :
    let d := raise k (dxpGone k c) 0x1004 (unitPanel 1)
    Taken c d 0x1004 (unitPanel 1) false ∧ (panelOf d 1).present = false ∧ d.num (Key.Panel.PANEL_STATE 1) = 0 ∧
      KeepsObjects (panelKeys 1 ++ eventKeys) c d := by
  have hof : panelOf (panelSet c 1 { panelStop (panelOf c 1) with present := false }) 1 =
      { panelStop (panelOf c 1) with present := false } := panelOf_panelSet _ _ hlt
  obtain ⟨-, hstate, hface, hflt, hkeep⟩ := panelShow_facts k (panelSet c 1 { panelStop (panelOf c 1) with present := false }) 1
  obtain ⟨htaken, -, hkept⟩ := raise_taken_keep k c (dxpGone k c) 0x1004 (unitPanel 1) false (panelKeys 1) hfree
    ⟨congrArg FltS.cur hflt, by unfold handlingOf; rw [dxpGone, hflt]; rfl⟩ hkeep panelKeys_not_event
  refine ⟨htaken, ?_, ?_, hkept⟩
  · rw [panelOf_congr (raise_face ..), dxpGone, panelOf_congr hface, hof]
  · exact (raise_num _ _ _ _ _ (by decide)).trans (hstate (by rw [hof]))

end Sys2Proof.Machine

/-! ## The statement -/

namespace Sys2Proof.Proofs.Panel

open Sys2Proof Sys2Proof.Machine

/-- Settles O51: one lemma for each command, under the conditions that let it act. -/
theorem panelCommandsComplete : Obligations.PanelCommandsComplete := by
  refine ⟨fun s p hlive hrising => execPanelRailsUp_of_rising hlive hrising,
    fun s p hlive hup hpend hregs hlong hlt => ?frame,
    fun s p a hidle hup hpend hdrive hover => execRailIdleExpiry_of_over hidle hup hpend hdrive hover,
    fun s v hup habsent hlt => ?found,
    fun s hpresent hlt hfree => ?lost⟩
  case frame =>
    have hexec := execPanelFrame_of_driving hlive hup hpend hregs hlong hlt
    have hfacts := panelFrame_facts s.keeper hlt
    generalize panelShow s.keeper (idleFrom s.keeper (panelDriven s.found p) p) p = d at hexec hfacts
    exact ⟨_, hexec, hfacts⟩
  case found =>
    have hexec := execDxp60Detected_of_absent v hup habsent
    have hfacts := dxpShown_facts s.keeper v.toNat wholePanel hlt
    generalize panelShow s.keeper _ 1 = d at hexec hfacts
    exact ⟨_, hexec, hfacts⟩
  case lost =>
    have hexec := execDxp60Lost_of_present hpresent
    have hfacts := dxpLost_facts s.keeper hlt hfree
    generalize raise s.keeper _ 0x1004 (unitPanel 1) = d at hexec hfacts
    exact ⟨_, hexec, hfacts⟩

end Sys2Proof.Proofs.Panel
end

section
/-! PROOFS. The statement of clocks, power and temperature: windows of a PLL and the return of its domains (R415, R418), the
hearth (R413), gates (R419), housekeeping readings (R427, R428), demands and derating (R429–R432, R483), and the EMBER
readings of BANKED (R435). -/

namespace Sys2Proof.Machine

/-! ## PLLs (R415) -/

@[simp] theorem pllOf_pllSet (c : Chip) {p : Nat} (x : PllX) (h : p < c.pwr.plls.length) : pllOf (pllSet c p x) p = x := by
  simp [pllOf, pllSet, nth, h]

@[simp] theorem pllOf_put (c : Chip) (p key n : Nat) : pllOf (c.put key n) p = pllOf c p := rfl
@[simp] theorem pllSet_od (c : Chip) (p : Nat) (x : PllX) : (pllSet c p x).od = c.od := rfl

/-- The chip that shows a window's drift. -/
def driftShown (c : Chip) (p : Nat) (drift : Int) : Chip :=
  (disarm c Key.Inj.PLL_LOCK p).put (Key.Pll.LAST_DRIFT p) (fInt fmt32 drift)

/-- The chip whose PLL has passed a window and goes on acquiring. -/
def pllCounted (c : Chip) (p : Nat) (drift : Int) : Chip :=
  (pllSet (driftShown c p drift) p { pllOf c p with passes := (pllOf c p).passes + 1 }).put (Key.Pll.PLL_STATE p) 1

/-- The chip whose PLL has locked, its domains due to return 1 ms later. -/
def pllAcquired (k : Keeper) (c : Chip) (p : Nat) (drift : Int) : Chip :=
  closeHandling ((pllSet (driftShown c p drift) p ⟨(pllOf c p).passes + 1, some (nowUs k c + 1000)⟩).put
    (Key.Pll.PLL_STATE p) 2) 0x1102 (unitPll p)

/-- A window that an acquiring PLL passes counts, and the eighth in a row locks it. -/
theorem execPllWindow_of_acquiring {s : State} {p : Fin 4} {drift : Int} (hstate : s.found.num (Key.Pll.PLL_STATE p) = 1)
    (harmed : armedAt s.found Key.Inj.PLL_LOCK p = false) (hpass : drift.natAbs ≤ 500) :
    execPllWindow p drift s = .next { s with chip :=
      (if 8 ≤ (pllOf s.found p).passes + 1 then pllAcquired s.keeper s.found p drift else pllCounted s.found p drift) } := by
  refine onChip_eq_next ((if_neg (by rw [hstate]; decide)).trans ((if_neg (by rw [hstate]; decide)).trans ?_))
  simp only [harmed, hpass, decide_true, Bool.not_false, Bool.and_self, if_true]
  rfl

theorem driftShown_facts (c : Chip) (p : Nat) (drift : Int) (x : PllX) (st : Nat) :
    let d := (pllSet (driftShown c p drift) p x).put (Key.Pll.PLL_STATE p) st
    d.num (Key.Pll.LAST_DRIFT p) = fInt fmt32 drift ∧ d.num (Key.Pll.PLL_STATE p) = st ∧
      (p < c.pwr.plls.length → pllOf d p = x) ∧ KeepsObjects [Key.Pll.PLL_STATE p, Key.Pll.LAST_DRIFT p] c d := by
  refine ⟨?_, Chip.num_put_same .., fun hlt => pllOf_pllSet _ _ hlt, ?_⟩
  · rw [Chip.num_put_ne _ _ (key_ne_of_sub (by decide))]
    exact Chip.num_put_same ..
  · have hshown : KeepsObjects [Key.Pll.PLL_STATE p, Key.Pll.LAST_DRIFT p] c (driftShown c p drift) :=
      KeepsObjects.put _ (KeepsObjects.of_od (disarm_od ..)) (by simp)
    exact KeepsObjects.put _ (fun key hkey => hshown key hkey) (by simp)

/-! ## Clock domains (R418) -/

/-- What one pass of a loop brings about and every pass keeps, the loop brings about. -/
theorem foldl_establishes {α : Type} {P : Chip → Prop} {f : Chip → α → Chip} {a : α} (hkeep : ∀ c b, P c → P (f c b))
    (hhere : ∀ c, P (f c a)) (l : List α) (c : Chip) (hmem : a ∈ l) : P (l.foldl f c) := by
  induction l generalizing c with
  | nil => cases hmem
  | cons b l ih =>
    rcases List.mem_cons.1 hmem with rfl | hmem
    · exact foldl_chip_preserves P f hkeep l _ (hhere c)
    · exact ih (f c b) hmem

/-- The objects of a clock domain that its return to its primary writes. -/
def domKeys (d : Nat) : List Nat :=
  [Key.Dom.DOM_FREQ d, Key.Dom.DOM_SOURCE d, Key.Dom.DOM_ON_ALT d, Key.Dom.DOM_DIVISOR d, Key.Dom.DOM_SWITCHES d]

/-- A domain of a relocked PLL returns to it, if it ran from its alternate. -/
def domReturn (p : Nat) (c : Chip) (d : Nat) : Chip :=
  if 1 ≤ d && (domRow d).primary = p && c.flag (Key.Dom.DOM_ON_ALT d) then
    domPrimary ((if d = 6 then { c with gnss := { c.gnss with slip := true } } else c).bump (Key.Dom.DOM_SWITCHES d)) d
  else c

theorem domPrimary_onAlt (c : Chip) (d : Nat) : (domPrimary c d).flag (Key.Dom.DOM_ON_ALT d) = false := by
  unfold domPrimary
  rw [Chip.flag_eq, Chip.num_put_ne _ _ (key_ne_of_sub (by decide)), Chip.num_putFlag_same]
  rfl

theorem domPrimary_keeps (c : Chip) (d : Nat) : KeepsObjects (domKeys d) c (domPrimary c d) := by
  unfold domPrimary
  exact ((((KeepsObjects.of_od rfl).put _ (by simp [domKeys])).put _ (by simp [domKeys])).putFlag _ (by simp [domKeys])).put _
    (by simp [domKeys])

theorem domReturn_keeps (p : Nat) (c : Chip) (d : Nat) : KeepsObjects (domKeys d) c (domReturn p c d) := by
  unfold domReturn
  split
  · refine KeepsObjects.trans (KeepsObjects.bump 1 ?_ (by simp [domKeys])) (domPrimary_keeps _ d)
    split <;> exact fun _ _ => rfl
  · exact fun _ _ => rfl

/-- A domain that runs from its primary does so whatever other domains return. -/
theorem domReturn_onAlt_kept (p : Nat) (c : Chip) (d e : Nat) (h : c.flag (Key.Dom.DOM_ON_ALT d) = false) :
    (domReturn p c e).flag (Key.Dom.DOM_ON_ALT d) = false := by
  by_cases hde : d = e
  · subst hde
    have hskip : domReturn p c d = c := if_neg (by simp only [h, Bool.and_false]; decide)
    rw [hskip, h]
  · have hother : Key.Dom.DOM_ON_ALT d ∉ domKeys e := by
      simp only [domKeys, Key.Dom.DOM_FREQ, Key.Dom.DOM_SOURCE, Key.Dom.DOM_ON_ALT, Key.Dom.DOM_DIVISOR, Key.Dom.DOM_SWITCHES,
        List.mem_cons, List.not_mem_nil, or_false, not_or]
      omega
    rw [Chip.flag_eq, (domReturn_keeps p c e).num_eq hother, ← Chip.flag_eq, h]

theorem domReturn_onAlt {p d : Nat} (hpos : 1 ≤ d) (hprimary : (domRow d).primary = p) (c : Chip) :
    (domReturn p c d).flag (Key.Dom.DOM_ON_ALT d) = false := by
  cases halt : c.flag (Key.Dom.DOM_ON_ALT d)
  · exact domReturn_onAlt_kept p c d d halt
  · have hreturn : (1 ≤ d && (domRow d).primary = p && c.flag (Key.Dom.DOM_ON_ALT d)) = true := by
      rw [decide_eq_true hpos, decide_eq_true hprimary, halt]
      rfl
    unfold domReturn
    rw [if_pos hreturn]
    exact domPrimary_onAlt _ d

theorem execPllReturn_of_due {s : State} {p : Fin 4} {a : Nat} (hreturn : (pllOf s.found p).returnAt = some a)
    (hdue : a ≤ nowUs s.keeper s.found) (hlocked : pllLocked s.found p = true) :
    execPllReturn p s = .next { s with chip :=
      ((List.range 9).foldl (domReturn p) (pllSet s.found p { pllOf s.found p with returnAt := none })) } := by
  refine onChip_eq_next ?_
  unfold pllReturn
  rw [hreturn]
  refine (if_neg (by simp [hdue, hlocked])).trans ?_
  rfl

theorem domains_returned {p d : Nat} (hpos : 1 ≤ d) (hlt : d < 9) (hprimary : (domRow d).primary = p) (c : Chip) :
    ((List.range 9).foldl (domReturn p) c).flag (Key.Dom.DOM_ON_ALT d) = false :=
  foldl_establishes (P := fun c => c.flag (Key.Dom.DOM_ON_ALT d) = false) (fun c e => domReturn_onAlt_kept p c d e)
    (domReturn_onAlt hpos hprimary) _ c (List.mem_range.2 hlt)

/-! ## The hearth (R413) -/

/-- The chip that shows a hearth measurement beyond its limit. -/
def hearthBeyond (c : Chip) (ppb : Nat) : Chip :=
  { c.put Key.Time.HEARTH_PPB ppb with pwr := { c.pwr with beyond := c.pwr.beyond + 1, within := 0 } }

/-- The chip whose hearth drifts. -/
def hearthDrifts (c : Chip) (ppb : Nat) : Chip :=
  ((hearthBeyond c ppb).put Key.Hearth.HEARTH_STATE 2).bump Key.Hearth.HEARTH_DRIFTS

theorem execHearthPpbMeasurement_of_tenth {s : State} {ppb : F32} (hup : up s.found 8 = true)
    (hlocked : s.found.num Key.Time.TIME_STATE = timeLocked)
    (harmed : armedFor s.keeper s.found Key.Inj.HEARTH_DRIFT 1 = false)
    (hfar : fLt fmt32 (fNat fmt32 (s.found.num Key.Hearth.DRIFT_LIMIT)) (fAbs fmt32 ppb.toNat) = true)
    (hnine : 9 ≤ s.found.pwr.beyond) (hstate : s.found.num Key.Hearth.HEARTH_STATE = 1) :
    execHearthPpbMeasurement ppb s = .next { s with chip := raise s.keeper (hearthDrifts s.found ppb.toNat) 0x1101 theModule } := by
  have hten : 10 ≤ s.found.pwr.beyond + 1 := by omega
  have hshown (key : Nat) (hne : key ≠ Key.Time.HEARTH_PPB) :
      (s.found.put Key.Time.HEARTH_PPB ppb.toNat).num key = s.found.num key := Chip.num_put_ne _ _ hne
  have hlimit : fLt fmt32 (fNat fmt32 ((s.found.put Key.Time.HEARTH_PPB ppb.toNat).num Key.Hearth.DRIFT_LIMIT))
      (fAbs fmt32 ppb.toNat) = true := by rw [hshown _ (by decide), hfar]
  refine onChip_eq_next ((if_neg (by rw [hup, hlocked]; decide)).trans ?_)
  simp only [harmed, Bool.false_eq_true, if_false, hlimit, if_true]
  refine (if_pos ?_).trans rfl
  rw [Bool.and_eq_true]
  exact ⟨decide_eq_true hten, decide_eq_true ((hshown _ (by decide)).trans hstate)⟩

theorem hearthDrifts_facts (k : Keeper) {c : Chip} (ppb : Nat) (hfree : HandlerFree c 0x1101 theModule) :
    let d := raise k (hearthDrifts c ppb) 0x1101 theModule
    Taken c d 0x1101 theModule false ∧ d.num Key.Time.HEARTH_PPB = ppb ∧ d.num Key.Hearth.HEARTH_STATE = 2 ∧
      d.num Key.Hearth.HEARTH_DRIFTS = (c.num Key.Hearth.HEARTH_DRIFTS + 1) % 0x100000000 ∧
      KeepsObjects ([Key.Time.HEARTH_PPB, Key.Hearth.HEARTH_STATE, Key.Hearth.HEARTH_DRIFTS] ++ eventKeys) c d := by
  have hshown (key : Nat) : (hearthBeyond c ppb).num key = (c.put Key.Time.HEARTH_PPB ppb).num key := rfl
  have hkeep : KeepsObjects [Key.Time.HEARTH_PPB, Key.Hearth.HEARTH_STATE, Key.Hearth.HEARTH_DRIFTS] c (hearthDrifts c ppb) := by
    refine KeepsObjects.bump _ (KeepsObjects.put _ ?_ (by decide)) (by decide)
    exact fun key hkey => KeepsObjects.put ppb (KeepsObjects.of_od rfl) (List.mem_cons_self ..) key hkey
  obtain ⟨htaken, -, hkept⟩ := raise_taken_keep k c (hearthDrifts c ppb) 0x1101 theModule false _ hfree ⟨rfl, rfl⟩ hkeep (by decide)
  refine ⟨htaken, ?_, ?_, ?_, hkept⟩
  · rw [raise_num _ _ _ _ _ (by decide), hearthDrifts, Chip.num_bump_ne _ _ (by decide), Chip.num_put_ne _ _ (by decide),
      hshown, Chip.num_put_same]
  · rw [raise_num _ _ _ _ _ (by decide), hearthDrifts, Chip.num_bump_ne _ _ (by decide), Chip.num_put_same]
  · rw [raise_num _ _ _ _ _ (by decide), hearthDrifts, Chip.num_bump_same, Chip.num_put_ne _ _ (by decide), hshown,
      Chip.num_put_ne _ _ (by decide)]

/-! ## Gates, housekeeping and derating (R419, R427–R432) -/

theorem execGateClosed_of_closing {s : State} {n : Fin 21} (hclosing : s.found.num (Key.Gate.GATE_STATE n) = 2) :
    execGateClosed n s = .next { s with chip := s.found.put (Key.Gate.GATE_STATE n) 0 } :=
  onChip_eq_next (if_pos hclosing)

theorem execHousekeepingSlot_of_up {s : State} {slot : Fin 128} (r : HkReading) (hup : up s.found 3 = true)
    (hsound : unitAshed s.found (unitDie 18) = false) :
    execHousekeepingSlot slot r s = .next { s with chip := { s.found with pwr := { s.found.pwr with
      due := s.found.pwr.due ++ [(openEdge s.keeper, slot.val, slotSource s.keeper slot, r)] } } } :=
  onChip_eq_next (if_neg (by rw [hup, hsound]; decide))

theorem execDerateStep_of_warm {s : State} (hstage : 2 ≤ s.found.num Key.Therm.THERMAL_STAGE) (hup : up s.found 2 = true)
    (hstep : s.found.pwr.stepAt + s.found.num Key.Therm.DERATE_STEP_S * 1000 ≤ s.keeper.epoch)
    (hwarm : (thermals s.found).any (fun i => atLeast s.found i (Key.Sensor.WARN i)) = true) :
    execDerateStep s = .next { s with chip :=
      (demandUp s.keeper { s.found with pwr := { s.found.pwr with stepAt := s.keeper.epoch } }) } := by
  have hstage0 : s.found.num Key.Therm.THERMAL_STAGE ≠ 0 := by omega
  have hstage1 : s.found.num Key.Therm.THERMAL_STAGE ≠ 1 := by omega
  refine onChip_eq_next ((if_neg ?_).trans ((if_neg ?_).trans (if_pos hwarm)))
  · rw [decide_eq_false hstage0, decide_eq_false (Nat.not_lt.2 hstep), hup]
    decide
  · rw [decide_eq_false hstage1, Bool.false_and, Bool.false_and, Bool.false_and]
    decide

/-! ## BANKED (R435) -/

/-- A reading that EMBER takes of a sensor. -/
def emberOne (k : Keeper) (c : Chip) (i : Nat) (r : HkReading) : Chip :=
  match (if unitAshed c (unitSensor i) then some (4, 0) else hkTemp c i r) with
  | some (0, t) => governs (((c.put (Key.Sensor.TEMP i) t).put (Key.Sensor.TEMP_EPOCH i) (wireEpoch k.epoch)).put
      (Key.Sensor.SENSE_STATUS i) 0) i (some t)
  | some (st, _) => governs (c.put (Key.Sensor.SENSE_STATUS i) st) i none
  | none => c

theorem execEmberSensorRead_of_banked {s : State} (h m : HkReading) (hbank : s.found.mode = .banked) :
    ∃ d, d = emberOne s.keeper (emberOne s.keeper s.found 40 h) 41 m ∧
      execEmberSensorRead h m s = .next { s with chip := d.put Key.WrHold.MRAM_WRITE d.pwr.mram } :=
  ⟨_, rfl, onChip_eq_next ((if_neg (by simp [hbank])).trans rfl)⟩

theorem governs_keeps (c : Chip) (i : Nat) (t : Option Nat) : KeepsObjects [Key.WrHold.EPOCH_RESERVE] c (governs c i t) := by
  unfold governs
  split
  · exact KeepsObjects.of_od rfl
  split
  · dsimp only
    split
    · split
      · exact KeepsObjects.putFlag _ (fun _ _ => rfl) (by simp)
      · split
        · exact KeepsObjects.putFlag _ (fun _ _ => rfl) (by simp)
        · exact fun _ _ => rfl
    · exact fun _ _ => rfl
  · exact fun _ _ => rfl

theorem governs_hearth (c : Chip) (t : Option Nat) : governs c 40 t = c := rfl

/-- The objects an EMBER reading writes. -/
def emberReadKeys (i : Nat) : List Nat :=
  [Key.Sensor.TEMP i, Key.Sensor.TEMP_EPOCH i, Key.Sensor.SENSE_STATUS i, Key.WrHold.EPOCH_RESERVE]

theorem emberOne_keeps (k : Keeper) (c : Chip) (i : Nat) (r : HkReading) : KeepsObjects (emberReadKeys i) c (emberOne k c i r) := by
  have hgoverns (d : Chip) (t : Option Nat) : KeepsObjects (emberReadKeys i) d (governs d i t) :=
    (governs_keeps d i t).mono (by simp [emberReadKeys])
  unfold emberOne
  split
  · exact KeepsObjects.trans (KeepsObjects.put _ (KeepsObjects.put _ (KeepsObjects.put _ (fun _ _ => rfl) (by simp [emberReadKeys]))
      (by simp [emberReadKeys])) (by simp [emberReadKeys])) (hgoverns _ _)
  · exact KeepsObjects.trans (KeepsObjects.put _ (fun _ _ => rfl) (by simp [emberReadKeys])) (hgoverns _ _)
  · exact fun _ _ => rfl

/-- A valid reading of the hearth's sensor stands at once. -/
theorem emberOne_hearth (k : Keeper) {c : Chip} {r : HkReading} {v : Nat} (hsound : unitAshed c (unitSensor 40) = false)
    (hread : hkTemp c 40 r = some (0, v)) :
    (emberOne k c 40 r).num (Key.Sensor.TEMP 40) = v ∧ (emberOne k c 40 r).num (Key.Sensor.SENSE_STATUS 40) = 0 := by
  have hone : emberOne k c 40 r = ((c.put (Key.Sensor.TEMP 40) v).put (Key.Sensor.TEMP_EPOCH 40) (wireEpoch k.epoch)).put
      (Key.Sensor.SENSE_STATUS 40) 0 := by
    unfold emberOne
    simp only [hsound, Bool.false_eq_true, if_false, hread]
    rfl
  rw [hone, Chip.num_put_ne _ _ (key_ne_of_sub (by decide)), Chip.num_put_ne _ _ (key_ne_of_sub (by decide)),
    Chip.num_put_same, Chip.num_put_same]
  exact ⟨rfl, rfl⟩

theorem emberRead_facts (k : Keeper) {c : Chip} {h : HkReading} {v : Nat} (m : HkReading)
    (hsound : unitAshed c (unitSensor 40) = false) (hread : hkTemp c 40 h = some (0, v)) {d : Chip}
    (hd : d = emberOne k (emberOne k c 40 h) 41 m) :
    (d.put Key.WrHold.MRAM_WRITE d.pwr.mram).num (Key.Sensor.TEMP 40) = v ∧
      (d.put Key.WrHold.MRAM_WRITE d.pwr.mram).num (Key.Sensor.SENSE_STATUS 40) = 0 ∧
      (d.put Key.WrHold.MRAM_WRITE d.pwr.mram).num Key.WrHold.MRAM_WRITE = d.pwr.mram := by
  obtain ⟨htemp, hstatus⟩ := emberOne_hearth k hsound hread
  have hkeep := emberOne_keeps k (emberOne k c 40 h) 41 m
  rw [← hd] at hkeep
  refine ⟨?_, ?_, Chip.num_put_same ..⟩
  · rw [Chip.num_put_ne _ _ (by decide), hkeep.num_eq (by decide), htemp]
  · rw [Chip.num_put_ne _ _ (by decide), hkeep.num_eq (by decide), hstatus]

/-! ## The demand of an FN (R483) -/

theorem execFnDemandEvaluation_answers (s : State) :
    execFnDemandEvaluation s = .next { s with chip := fnEval s.keeper s.found Config.isFN } := onChip_answers ..

theorem fnEval_of_not_fn (k : Keeper) (c : Chip) : fnEval k c false = c := rfl

theorem fnEval_of_excess {k : Keeper} {c : Chip} (hup : up c 3 = true) (hsecond : k.epoch % 1000 = 0) (hfirst : c.pwr.fnAt = none)
    (hroom : c.num Key.Diss.FN_DEMAND < 6) (hover : fLt fmt32 (fnLimit c) (c.num Key.Diss.DISS_W) = true) :
    fnEval k c true = pwrDerate k { ((c.put Key.Diss.FN_LIMIT_W (fnLimit c)).put Key.Diss.FN_DEMAND
      (c.num Key.Diss.FN_DEMAND + 1)) with pwr := { c.pwr with fnAt := some k.epoch } } false := by
  have hlimit (key : Nat) (hne : key ≠ Key.Diss.FN_LIMIT_W) :
      (c.put Key.Diss.FN_LIMIT_W (fnLimit c)).num key = c.num key := Chip.num_put_ne _ _ hne
  unfold fnEval
  refine (if_neg (by simp [hup, hsecond])).trans ?_
  simp only [Chip.put_pwr, hfirst, hlimit _ (show Key.Diss.FN_DEMAND ≠ Key.Diss.FN_LIMIT_W by decide),
    hlimit _ (show Key.Diss.DISS_W ≠ Key.Diss.FN_LIMIT_W by decide), hover, hroom, Bool.and_self, if_true]

end Sys2Proof.Machine

/-! ## The statement -/

namespace Sys2Proof.Proofs.Power

open Sys2Proof Sys2Proof.Machine

/-- Settles O52: one lemma for each command, under the conditions that let it act. -/
theorem powerCommandsComplete : Obligations.PowerCommandsComplete := by
  refine ⟨fun s p x hstate harmed hpass hlt => ?window,
    fun s p a hreturn hdue hlocked => ⟨_, execPllReturn_of_due hreturn hdue hlocked,
      fun d hpos hlt hprimary => domains_returned hpos hlt hprimary _⟩,
    fun s ppb hup hlocked harmed hfar hnine hstate hfree => ?hearth,
    fun s n hclosing => execGateClosed_of_closing hclosing,
    fun s slot r hup hsound => execHousekeepingSlot_of_up r hup hsound,
    fun s hstage hup hstep hwarm => ⟨_, rfl, execDerateStep_of_warm hstage hup hstep hwarm⟩,
    fun s h m v hbank hsound hread => ?ember,
    execFnDemandEvaluation_answers, fnEval_of_not_fn,
    fun k c hup hsecond hfirst hroom hover => fnEval_of_excess hup hsecond hfirst hroom hover⟩
  case window =>
    have hexec := execPllWindow_of_acquiring hstate harmed hpass
    by_cases heighth : 8 ≤ (pllOf s.found p).passes + 1
    · rw [if_pos heighth] at hexec
      obtain ⟨hdrift, hlock, hof, hkeep⟩ := driftShown_facts s.found p x
        ⟨(pllOf s.found p).passes + 1, some (nowUs s.keeper s.found + 1000)⟩ 2
      exact ⟨_, hexec, hdrift, fun hfew => absurd heighth (by omega), fun _ => ⟨hlock, congrArg PllX.returnAt (hof hlt)⟩, hkeep⟩
    · rw [if_neg heighth] at hexec
      obtain ⟨hdrift, hacquiring, hof, hkeep⟩ := driftShown_facts s.found p x
        { pllOf s.found p with passes := (pllOf s.found p).passes + 1 } 1
      exact ⟨_, hexec, hdrift, fun _ => ⟨hacquiring, congrArg PllX.passes (hof hlt)⟩, fun hmany => absurd hmany (by omega), hkeep⟩
  case hearth =>
    have hexec := execHearthPpbMeasurement_of_tenth hup hlocked harmed hfar hnine hstate
    have hfacts := hearthDrifts_facts s.keeper ppb.toNat hfree
    generalize raise s.keeper _ 0x1101 theModule = d at hexec hfacts
    exact ⟨_, hexec, hfacts⟩
  case ember =>
    obtain ⟨d, hd, hexec⟩ := execEmberSensorRead_of_banked h m hbank
    exact ⟨_, hexec, emberRead_facts s.keeper m hsound hread hd⟩

end Sys2Proof.Proofs.Power
end

section
/-! PROOFS. The statement of the GNSS receiver: antennas (R259), measurement edges and channels (R257, R260), raw sets and
navigation words (R261, R262), solutions (R263–R265, R270) and bursts (R277), and corrections (R266–R268). -/

namespace Sys2Proof.Machine

/-! ## Antennas (R259) -/

theorem execAntennaBiasOpen_of_up {s : State} {a : Fin 2} (hup : up s.found 8 = true) :
    execAntennaBiasOpen a s = .next { s with chip := antOpen s.keeper s.found a false } := onChip_eq_next (if_pos hup)

theorem execAntennaBiasShort_of_up {s : State} {a : Fin 2} (hup : up s.found 8 = true) :
    execAntennaBiasShort a s = .next { s with chip := antShort s.keeper s.found a false } := onChip_eq_next (if_pos hup)

/-- An antenna that reads open holds again when its bias current is back. -/
theorem execAntennaBiasRetry_of_open {s : State} {a : Fin 2} (hopen : antStatus s.found a = 1) :
    execAntennaBiasRetry a true s = .next { s with chip := setAntStatus s.found a 0 } := by
  refine onChip_eq_next ?_
  dsimp only
  rw [hopen]
  rfl

/-! ## Measurement edges and raw sets (R257, R260, R261) -/

/-- The chip whose channels are given out and whose latched sets begin. -/
def edgeMeasured (k : Keeper) (c : Chip) : Chip :=
  { c with gnss := { c.gnss with
    raw := if isMeasEdge k c 100 then some (k.epoch, gnssMs c) else c.gnss.raw
    sol := if isMeasEdge k c 50 then some k.epoch else c.gnss.sol } }

theorem execMeasurementEdge_of_up {s : State} (rise : F32) (signals : List GnssSignal) (hup : up s.found 8 = true) :
    execMeasurementEdge rise signals s = .next { s with chip := (edgeMeasured s.keeper
      (trackSignals (noiseEdge s.keeper s.found rise.toNat)
        (64 * ((List.range 16).filter fun b => !unitAshed s.found (unitGnb b)).length) signals)) } :=
  onChip_eq_next (if_neg (by rw [hup]; decide))

/-- The tracked signals alone enter a raw set. -/
def rawUsed (c : Chip) (records : List RawRec) : List RawRec :=
  records.filter fun r => c.gnss.tracks.any fun t =>
    decide (t.ant.val = r.ant) && decide (t.signal.val = r.signal) && decide (t.sv = r.sv)

theorem execRawSetComplete_of_latched {s : State} (records : List RawRec) {edge ms : Nat}
    (hraw : s.found.gnss.raw = some (edge, ms)) :
    execRawSetComplete records s = .next { s with chip := (tileWrite s.keeper
      { s.found with gnss := { s.found.gnss with raw := none, slip := false } } Key.Raw.RAW_DATA
      (.blob (leBytes 6 edge ++ leBytes 6 ms ++ leBytes 2 (rawUsed s.found records).length ++ leBytes 2 0 ++
        (rawUsed s.found records).flatMap (rawBytes s.found)))) } := by
  refine onChip_eq_next ?_
  rw [hraw]
  rfl

/-! ## Navigation words (R262) -/

/-- The record of a word in NAV_DATA. -/
def navRecord (k : Keeper) (w : NavWord) (check : Nat) : List Byte :=
  leBytes 6 k.epoch ++ leBytes 1 w.signal.val ++ leBytes 1 w.sv ++ leBytes 1 w.ant.val ++ leBytes 1 check ++
    leBytes 2 w.bits ++ bitBytes (wordBits w.data w.bits)

/-- The chip that has kept and counted a word that fails its check. -/
def navFailed (k : Keeper) (c : Chip) (w : NavWord) : Chip :=
  ({ disarm c Key.Inj.NAV_CHECK w.signal.val with gnss := { c.gnss with navs := min (c.gnss.navs + 1) 4096 } }.putBlob
    Key.Raw.NAV_DATA (c.blob Key.Raw.NAV_DATA ++ navRecord k w 1)).bump Key.Raw.NAV_FAILS

theorem execNavWordDecoded_of_failing {s : State} {w : NavWord} (hup : up s.found 8 = true)
    (henabled : bitOf (s.found.num Key.Gnss.SIG_ENABLE) w.signal.val = true)
    (harmed : armedAt s.found Key.Inj.NAV_CHECK w.signal.val = false)
    (hfails : navCheck w.signal.val w.before (wordBits w.data w.bits) = 1) (hroom : s.found.gnss.navs < 4096) :
    execNavWordDecoded w s = .next { s with chip := raise s.keeper (navFailed s.keeper s.found w) 0x0904 theModule } := by
  have hnotfull : ¬4096 ≤ (disarm s.found Key.Inj.NAV_CHECK w.signal.val).gnss.navs := Nat.not_le.2 hroom
  refine onChip_eq_next ((if_neg (by rw [hup, henabled]; decide)).trans ?_)
  simp only [harmed, hfails, Bool.false_eq_true, if_false, if_true, hnotfull]
  rfl

theorem navFailed_facts (k : Keeper) {c : Chip} (w : NavWord) (hfree : HandlerFree c 0x0904 theModule) :
    let d := raise k (navFailed k c w) 0x0904 theModule
    Taken c d 0x0904 theModule false ∧ d.num Key.Raw.NAV_FAILS = (c.num Key.Raw.NAV_FAILS + 1) % 0x100000000 ∧
      d.blob Key.Raw.NAV_DATA = c.blob Key.Raw.NAV_DATA ++ navRecord k w 1 ∧
      KeepsObjects (Key.Raw.NAV_FAILS :: Key.Raw.NAV_DATA :: eventKeys) c d := by
  have hkeep : KeepsObjects [Key.Raw.NAV_FAILS, Key.Raw.NAV_DATA] c (navFailed k c w) :=
    KeepsObjects.bump _ (KeepsObjects.putBlob _ (fun _ _ => rfl) (by decide)) (by decide)
  obtain ⟨htaken, -, hkept⟩ := raise_taken_keep k c (navFailed k c w) 0x0904 theModule false _ hfree ⟨rfl, rfl⟩ hkeep (by decide)
  refine ⟨htaken, ?_, ?_, hkept⟩
  · rw [raise_num _ _ _ _ _ (by decide), navFailed, Chip.num_bump_same, Chip.num_putBlob_ne _ _ (by decide)]
    rfl
  · rw [raise_blob _ _ _ _ _ (by decide), navFailed, Chip.blob_bump_ne _ _ (by decide), Chip.blob_putBlob_same]

/-! ## Solutions and bursts (R263–R265, R270, R277) -/

theorem execSolutionComplete_of_awaited {s : State} {sol : Solution} (hawaited : s.found.gnss.sol = some sol.edge)
    (htiles : tilesRun s.found = true) :
    execSolutionComplete sol s = .next { s with chip := (timeDue s.keeper (headingDue s.keeper (positionDue s.keeper
      (({ s.found with gnss := { s.found.gnss with sol := none } } : Chip).put Key.Gnss.SATS_USED (min (satsUsed s.found) 255))
      sol) sol) sol) } :=
  onChip_eq_next (if_neg (by simp [hawaited, htiles]))

/-- The chip that the BANKED receiver works on: powered for the burst, its channels given to ANT0. -/
def burstTracked (k : Keeper) (c : Chip) (signals : List GnssSignal) : Chip :=
  trackSignals (if c.modes.bankDown.isNone then
    pdBurst k { c with gnss := { c.gnss with burst := some (k.epoch + 200) } } true else c) 64
    (signals.filter fun x => decide (x.ant.val = 0))

/-- The chip whose position of the burst is due. -/
def burstPosition (k : Keeper) (c : Chip) (sol : Solution) : Chip :=
  positionDue k (c.put Key.Gnss.SATS_USED (min (satsUsed c) 255)) (if 3 ≤ sol.kind.val then { sol with kind := 1 } else sol)

/-- What is due to the tiles stands at once. -/
def tilesStored (k : Keeper) (c : Chip) : Chip :=
  c.dict.tile.foldl (fun c w => tileStore k c w.key w.val) { c with dict := { c.dict with tile := [] } }

theorem execGnssBurst_of_banked {s : State} (signals : List GnssSignal) (sol : Solution) (hbank : s.found.mode = .banked) :
    execGnssBurst ⟨signals, sol⟩ s = .next { s with chip := (timeDue s.keeper (tilesStored s.keeper (burstPosition s.keeper
      (burstTracked s.keeper s.found signals) sol)) sol) } := by
  refine onChip_eq_next ?_
  rw [if_neg (not_not.2 hbank)]
  dsimp only [tilesStored, burstPosition, burstTracked]

/-! ## Corrections (R266–R268) -/

theorem execRtcmFrame_of_up {s : State} (udp : Bool) (frame : List Byte) (hup : up s.found 8 = true) :
    execRtcmFrame udp frame s = .next { s with chip := rtcmBytes s.keeper s.found udp frame } := onChip_eq_next (if_pos hup)

theorem execRtcmDatagram_of_up {s : State} (frame : List Byte) (hup : up s.found 8 = true) :
    execRtcmDatagram frame s = .next { s with chip := rtcmBytes s.keeper s.found true frame } := onChip_eq_next (if_pos hup)

theorem execCorrectionsLapse_of_old {s : State} {a : Nat} (hcorr : s.found.gnss.corrAt = some a)
    (hold : a + 1000 * s.found.num Key.Rtcm.CORR_MAX_AGE < s.keeper.epoch) :
    execCorrectionsLapse s = .next { s with chip := corrLapse s.found } := by
  refine onChip_eq_next ?_
  rw [hcorr]
  exact if_pos hold

end Sys2Proof.Machine

/-! ## The statement -/

namespace Sys2Proof.Proofs.Receiver

open Sys2Proof Sys2Proof.Machine

/-- Settles O41: one lemma for each command, under the conditions that let it act. -/
theorem receiverCommandsComplete : Obligations.ReceiverCommandsComplete := by
  refine ⟨fun s a hup _ => ⟨execAntennaBiasOpen_of_up hup, execAntennaBiasShort_of_up hup⟩,
    fun s a hopen => execAntennaBiasRetry_of_open hopen,
    fun s rise signals hup => execMeasurementEdge_of_up rise signals hup,
    fun s records edge ms hraw => execRawSetComplete_of_latched records hraw,
    fun s w hup henabled harmed hfails hroom hfree => ?word,
    fun s sol hawaited htiles => execSolutionComplete_of_awaited hawaited htiles,
    fun s signals sol hbank => ?burst,
    fun s udp frame hup => ⟨execRtcmFrame_of_up udp frame hup, execRtcmDatagram_of_up frame hup⟩,
    fun s a hcorr hold => execCorrectionsLapse_of_old hcorr hold⟩
  case word =>
    have hexec := execNavWordDecoded_of_failing hup henabled harmed hfails hroom
    have hfacts := navFailed_facts s.keeper w hfree
    generalize raise s.keeper _ 0x0904 theModule = d at hexec hfacts
    exact ⟨_, hexec, hfacts⟩
  case burst =>
    -- The intermediate chips are made opaque one by one, so that the two chains are compared link by link.
    intro powered tracked positioned stored
    refine (execGnssBurst_of_banked signals sol hbank).trans ?_
    have htracked : burstTracked s.keeper s.found signals = tracked := rfl
    rw [htracked]
    clear_value tracked
    have hpositioned : burstPosition s.keeper tracked sol = positioned := rfl
    rw [hpositioned]
    clear_value positioned
    rfl

end Sys2Proof.Proofs.Receiver
end

section
/-! PROOFS. The statement of vision: CAM0 (R284), streams (R285, R286), the memory pipe (R302), processed frames (R304, R305),
lost cameras (R287), coded pictures (R296) and held pictures (R298). -/

namespace Sys2Proof.Machine

/-! ## Frames of CAM0 (R284) -/

/-- The chip that has discarded a frame of the camera left incomplete. -/
def incompleteDropped (k : Keeper) (c : Chip) (n : Nat) : Chip :=
  if (camOf c n).recv.isSome then frameError k c n false else c

theorem execCam0FrameStart_of_runs {s : State} (ns : Nat) (hruns : camRuns s.keeper s.found 0 = true) :
    execCam0FrameStart ns s = .next { s with chip := (camSet (incompleteDropped s.keeper s.found 0) 0
      { camOf (incompleteDropped s.keeper s.found 0) 0 with
        recv := some { cam := 0, ref := 1000000 * s.keeper.epoch + ns / 10 * 10, cfg := camConfig s.keeper s.found 0 s.keeper.epoch } }) } :=
  onChip_eq_next (if_neg (by rw [hruns]; decide))

theorem execCam0FrameEnd_of_received {s : State} (format : FrameFormat) (rows : List (List Nat)) {f : FrameX}
    (hrecv : (camOf s.found 0).recv = some f) :
    execCam0FrameEnd format rows s = .next { s with chip := (frameDone s.keeper s.found { f with
      rows := rows
      broken := !(decide (rows.length = format.lines) && rows.all fun r => decide (r.length = format.width)) }) } := by
  refine onChip_eq_next ?_
  rw [hrecv]

/-! ## Packets of a stream (R285, R286) -/

/-- A packet's stream has a camera that runs and a link that is up. -/
def StreamHeard (s : State) (n : Nat) (p : RvfPacket) : Prop :=
  camRuns s.keeper s.found n = true ∧ p.streamId.toNat = s.found.num (Key.CamCfg.STREAM_ID n) ∧
    s.found.num (Key.Eth.LINK (n + 3)) = 1

/-- The frame received with the rows of one more packet. -/
def FrameX.withPacket (f : FrameX) (n : Nat) (p : RvfPacket) : FrameX :=
  { f with rows := f.rows ++ p.rows, broken := f.broken || p.gap || !formatAgrees f.cfg n p.format }

/-- The chip whose frame of the camera has the rows of one more packet. -/
def packetTaken (c : Chip) (n : Nat) (f : FrameX) (p : RvfPacket) : Chip :=
  camSet c n { camOf c n with recv := some (f.withPacket n p) }

theorem StreamHeard.not_ignored {s : State} {n : Nat} {p : RvfPacket} (h : StreamHeard s n p) :
    ¬((!camRuns s.keeper s.found n || decide (p.streamId.toNat ≠ s.found.num (Key.CamCfg.STREAM_ID n)) ||
      decide (s.found.num (Key.Eth.LINK (n + 3)) ≠ 1)) = true) := by
  obtain ⟨hruns, hstream, hlink⟩ := h
  rw [hruns, hstream, hlink]
  simp

theorem execRvfPacket_of_further {s : State} {cam : Fin 7} {p : RvfPacket} {f : FrameX} (hheard : StreamHeard s (cam.val + 1) p)
    (hfirst : p.first = none) (hrecv : (camOf s.found (cam.val + 1)).recv = some f) (hlast : p.last = false) :
    execRvfPacket cam p s = .next { s with chip :=
      (packetTaken (s.found.bump (Key.Eth.RX_FRAMES (cam.val + 1 + 3))) (cam.val + 1) f p) } := by
  have hbumped : (camOf (s.found.bump (Key.Eth.RX_FRAMES (cam.val + 1 + 3))) (cam.val + 1)).recv = some f := hrecv
  refine onChip_eq_next ((if_neg hheard.not_ignored).trans ?_)
  simp only [hfirst, hbumped, hlast, Option.isSome_some, Bool.true_or, if_true, Bool.false_eq_true, if_false]
  rfl

/-- The chip on which a packet has started a frame of its stream. -/
def streamStarted (s : State) (n : Nat) (stamp : BitVec 32) (format : FrameFormat) : Chip :=
  streamStart s.keeper (s.found.bump (Key.Eth.RX_FRAMES (n + 3))) n
    (avtpRef s.keeper (s.found.bump (Key.Eth.RX_FRAMES (n + 3))) stamp.toNat) format

theorem execRvfPacket_of_first {s : State} {cam : Fin 7} {p : RvfPacket} {stamp : BitVec 32} {f : FrameX}
    (hheard : StreamHeard s (cam.val + 1) p) (hfirst : p.first = some stamp)
    (hrecv : (camOf (streamStarted s (cam.val + 1) stamp p.format) (cam.val + 1)).recv = some f) (hlast : p.last = false) :
    execRvfPacket cam p s = .next { s with chip :=
      (packetTaken (streamStarted s (cam.val + 1) stamp p.format) (cam.val + 1) f p) } := by
  refine onChip_eq_next ((if_neg hheard.not_ignored).trans ?_)
  unfold streamStarted at hrecv
  simp only [hfirst, hrecv, hlast, Bool.false_eq_true, if_false]
  rfl

/-! ## Memory pipe and processed frames (R302–R305) -/

theorem execMemoryPipeTake_of_queued {s : State} {f : FrameX} {q : List FrameX} (hup : up s.found 9 = true)
    (hpipe : unitAshed s.found (unitPipe 1) = false) (hfree : s.found.vis.proc = none) (hqueue : s.found.vis.queue = f :: q) :
    execMemoryPipeTake s = .next { s with chip :=
      (queueShow { s.found with vis := { s.found.vis with proc := some f, queue := q } }) } := by
  refine onChip_eq_next ((if_neg (by rw [hup, hpipe]; decide)).trans ?_)
  rw [hfree, hqueue]

theorem execFrameProcessed_of_line {s : State} {f : FrameX} (hline : s.found.vis.line = some f) :
    execFrameProcessed 0 s = .next { s with chip :=
      (frameOutputs s.keeper { s.found with vis := { s.found.vis with line := none } } f) } := by
  refine onChip_eq_next ((if_pos rfl).trans ?_)
  rw [hline]

theorem execFrameProcessed_of_memory {s : State} {cam : Fin 8} {f : FrameX} (hcam : cam ≠ 0)
    (hproc : s.found.vis.proc = some f) (hmine : f.cam = cam.val) :
    execFrameProcessed cam s = .next { s with chip :=
      (frameOutputs s.keeper { s.found with vis := { s.found.vis with proc := none } } f) } := by
  refine onChip_eq_next ((if_neg (Fin.val_ne_zero_iff.2 hcam)).trans ?_)
  rw [hproc]
  exact if_pos hmine

/-! ## Lost cameras (R287) -/

/-- Ten frame periods have passed since the camera's last frame. -/
def FramesOverdue (k : Keeper) (c : Chip) (n : Nat) : Prop :=
  10 * 1000000 * ((odRat c.od (Key.CamCfg.FPS n)).2 : Int) ≤
    ((nowUs k c : Int) - (camOf c n).since) * (odRat c.od (Key.CamCfg.FPS n)).1

theorem execCameraLost_of_overdue {s : State} {cam : Fin 8} (hup : up s.found 9 = true)
    (henabled : s.found.flag (Key.CamCfg.CAM_ENABLE cam) = true)
    (hstate : s.found.num (Key.CamSt.CAM_STATE cam) = 1 ∨ s.found.num (Key.CamSt.CAM_STATE cam) = 2)
    (hformat : s.found.num (Key.CamSt.FORMAT_RESULT cam) = 0) (hlate : FramesOverdue s.keeper s.found cam) :
    ∃ inj, execCameraLost cam s = .next { s with chip :=
      (raise s.keeper (s.found.put (Key.CamSt.CAM_STATE cam) 3) 0x0A01 (unitCam cam) inj) } := by
  have hshown : (decide (s.found.num (Key.CamSt.CAM_STATE cam) = 1) || decide (s.found.num (Key.CamSt.CAM_STATE cam) = 2)) = true := by
    rwa [Bool.or_eq_true, decide_eq_true_iff, decide_eq_true_iff]
  refine ⟨_, onChip_eq_next (if_pos ?_)⟩
  rw [hup, henabled, hshown, hformat]
  exact decide_eq_true hlate

theorem cameraLost_facts (k : Keeper) {c : Chip} (cam : Fin 8) (inj : Bool) (hfree : HandlerFree c 0x0A01 (unitCam cam)) :
    let d := raise k (c.put (Key.CamSt.CAM_STATE cam) 3) 0x0A01 (unitCam cam) inj
    Taken c d 0x0A01 (unitCam cam) inj ∧ d.num (Key.CamSt.CAM_STATE cam) = 3 ∧
      KeepsObjects (Key.CamSt.CAM_STATE cam :: eventKeys) c d := by
  have hkey : ∀ cam : Fin 8, Key.CamSt.CAM_STATE cam ∉ eventKeys := by decide
  exact raise_taken_put k c (c.put (Key.CamSt.CAM_STATE cam) 3) 0x0A01 (unitCam cam) inj _ 3 hfree rfl rfl (hkey cam)

/-! ## Coded pictures (R296) -/

/-- The chip that shows a picture's quantiser, the highest where the picture is skipped, and counts the skip. -/
def codingShown (c : Chip) (n qpMax : Nat) (choice : Option (Nat × List Byte)) : Chip :=
  let c := c.put (Key.CamSt.CODE_QP n) ((choice.map (·.1)).getD qpMax)
  if choice.isNone then c.bump (Key.CamSt.CODE_SKIPS n) else c

/-- The bucket of a camera's coder as it has drained to now. -/
def bucketDrained (k : Keeper) (c : Chip) (n rate : Nat) : Nat :=
  (camOf c n).bucket - rate * (nowUs k c - (camOf c n).bucketAt) / 1000000

/-- A picture coded in time, neither sent nor recorded. -/
theorem execPictureCoded_of_kept {s : State} {cam : Fin 8} {p : CodedPicture} {e : EncX} {rest : List EncX}
    (henc : s.found.vis.enc = e :: rest) (hcam : e.cam = cam.val) (hdest : odNum e.cfg (Key.CamCfg.CODE_DEST cam) = 0)
    (hrecord : odNum e.cfg (Key.CamCfg.CODE_RECORD cam) = 0) (htime : p.inTime = true)
    (harmed : armedAt s.found Key.Inj.ENC_FAULT 1 = false) :
    ∃ x, execPictureCoded cam p s = .next { s with chip := (closeHandling (codingShown
      (camSet { disarm s.found Key.Inj.ENC_FAULT 1 with vis := { s.found.vis with enc := rest } } cam x) cam
      (odNum e.cfg (Key.CamCfg.CODE_QP_MAX cam))
      (rateChoice e.cfg cam (bucketDrained s.keeper s.found cam (odNum e.cfg (Key.CamCfg.CODE_RATE cam))) p))
      0x0A05 (unitPipe 2)) } := by
  apply Exists.intro
  refine onChip_eq_next ?_
  rw [henc]
  refine (if_neg (not_not.2 hcam)).trans ?_
  simp only [hdest, hrecord, htime, harmed, Bool.not_true, Bool.or_self, Bool.false_eq_true, if_false, if_true, ne_eq,
    not_true_eq_false]
  rfl

theorem codingShown_enc (c : Chip) (n qpMax : Nat) (choice : Option (Nat × List Byte)) :
    (codingShown c n qpMax choice).vis.enc = c.vis.enc := by
  cases choice <;> rfl

theorem codingShown_keeps (c : Chip) (n qpMax : Nat) (choice : Option (Nat × List Byte)) :
    KeepsObjects [Key.CamSt.CODE_QP n, Key.CamSt.CODE_SKIPS n] c (codingShown c n qpMax choice) := by
  have hput : KeepsObjects [Key.CamSt.CODE_QP n, Key.CamSt.CODE_SKIPS n] c
      (c.put (Key.CamSt.CODE_QP n) ((choice.map (·.1)).getD qpMax)) :=
    KeepsObjects.put _ (fun _ _ => rfl) List.mem_cons_self
  cases choice with
  | none => exact KeepsObjects.bump _ hput (List.mem_cons_of_mem _ List.mem_cons_self)
  | some q => exact hput

theorem codeSkips_ne_codeQp (n : Nat) : Key.CamSt.CODE_SKIPS n ≠ Key.CamSt.CODE_QP n := by
  unfold Key.CamSt.CODE_SKIPS Key.CamSt.CODE_QP
  omega

theorem codingShown_of_coded (c : Chip) (n qpMax : Nat) {choice : Option (Nat × List Byte)} {q : Nat} {b : List Byte}
    (hchoice : choice = some (q, b)) :
    (codingShown c n qpMax choice).num (Key.CamSt.CODE_QP n) = q ∧
      (codingShown c n qpMax choice).num (Key.CamSt.CODE_SKIPS n) = c.num (Key.CamSt.CODE_SKIPS n) := by
  subst hchoice
  exact ⟨Chip.num_put_same .., Chip.num_put_ne c q (codeSkips_ne_codeQp n)⟩

theorem codingShown_of_skipped (c : Chip) (n qpMax : Nat) {choice : Option (Nat × List Byte)} (hchoice : choice = none) :
    (codingShown c n qpMax choice).num (Key.CamSt.CODE_QP n) = qpMax ∧
      (codingShown c n qpMax choice).num (Key.CamSt.CODE_SKIPS n) = (c.num (Key.CamSt.CODE_SKIPS n) + 1) % 0x100000000 := by
  have hbump : codingShown c n qpMax choice = (c.put (Key.CamSt.CODE_QP n) qpMax).bump (Key.CamSt.CODE_SKIPS n) := by
    subst hchoice
    rfl
  rw [hbump, Chip.num_bump_ne _ _ (codeSkips_ne_codeQp n).symm, Chip.num_bump_same, Chip.num_put_same,
    Chip.num_put_ne _ _ (codeSkips_ne_codeQp n)]
  exact ⟨rfl, rfl⟩

/-! ## Held pictures (R298) -/

theorem execCodedRecordFlush_of_writable {s : State} (hoff : s.found.mode ≠ .off) (hbank : s.found.mode ≠ .banked)
    (hufs : s.found.num Key.WrHold.UFS_WRITE = 0) :
    execCodedRecordFlush s = .next { s with chip := (s.found.vis.hold.foldl (fun c p => ringWrite c p.1 p.2.1 p.2.2.2)
      (({ s.found with vis := { s.found.vis with hold := [] } } : Chip).put Key.Vis.HOLD_USED 0)) } := by
  refine onChip_eq_next (if_neg ?_)
  rw [decide_eq_false hoff, decide_eq_false hbank, hufs]
  decide

end Sys2Proof.Machine

/-! ## The statement -/

namespace Sys2Proof.Proofs.Vision

open Sys2Proof Sys2Proof.Machine

/-- Settles O44: one lemma for each command, under the conditions that let it act. -/
theorem visionCommandsComplete : Obligations.VisionCommandsComplete := by
  refine ⟨fun s ns hruns => execCam0FrameStart_of_runs ns hruns,
    fun s format rows f hrecv => execCam0FrameEnd_of_received format rows hrecv,
    fun s cam p f hruns hstream hlink hfirst hrecv hlast =>
      execRvfPacket_of_further ⟨hruns, hstream, hlink⟩ hfirst hrecv hlast,
    fun s cam p stamp f hruns hstream hlink hfirst hlast hrecv =>
      execRvfPacket_of_first ⟨hruns, hstream, hlink⟩ hfirst hrecv hlast,
    fun s f q hup hpipe hfree hqueue => execMemoryPipeTake_of_queued hup hpipe hfree hqueue,
    fun s f hline => execFrameProcessed_of_line hline,
    fun s cam f hcam hproc hmine => execFrameProcessed_of_memory hcam hproc hmine,
    fun s cam hup henabled hstate hformat hlate hfree => ?lost,
    fun s cam p e rest henc hcam hdest hrecord htime harmed => ?coded,
    fun s hoff hbank hufs => execCodedRecordFlush_of_writable hoff hbank hufs⟩
  case lost =>
    obtain ⟨inj, hexec⟩ := execCameraLost_of_overdue hup henabled hstate hformat hlate
    exact ⟨_, inj, hexec, cameraLost_facts s.keeper cam inj hfree⟩
  case coded =>
    obtain ⟨x, hexec⟩ := execPictureCoded_of_kept henc hcam hdest hrecord htime harmed
    exact ⟨_, hexec, codingShown_enc _ _ _ _, fun q b hchoice => codingShown_of_coded _ _ _ hchoice,
      fun hchoice => codingShown_of_skipped _ _ _ hchoice, codingShown_keeps _ _ _ _⟩

end Sys2Proof.Proofs.Vision
end

section
/-! PROOFS. The statement of fusion: cycles (R311), detections and LIDAR datagrams (R309, R313), lost
cycles (R312) and ego coast (R315). -/

namespace Sys2Proof.Machine

/-! ## A cycle begins (R311) -/

/-- The chip that has shed one more source where the last cycle was late. -/
def cycleShed (k : Keeper) (c : Chip) : Chip :=
  match c.fus.late, shedNext k c with
  | true, some n => shedShow { c with fus := { c.fus with shed := c.fus.shed ++ [n] } }
  | _, _ => c

/-- The chip whose injected losses of cycles are used up by one. -/
def cycleDisarmed (c : Chip) : Chip :=
  let d := disarm (disarm c Key.Inj.FUSION_CYCLE_LOST 2) Key.Inj.FUSION_CYCLE_LOST 1
  if armedAt c Key.Inj.FUSION_CYCLE_LOST 2 then arm d Key.Inj.FUSION_CYCLE_LOST 1 0 else d

/-- The chip that has raised the sources that are stale. -/
def cycleStale (k : Keeper) (c : Chip) : Chip := (List.range 16).foldl (staleRaise k) c

/-- The chip that has counted the samples of its live mapped sources. -/
def cycleSampled (k : Keeper) (c : Chip) : Chip :=
  ((List.range 16).filter fun n => (sourceAt k c n).2.2.2).foldl
    (fun c n => if c.num (Key.Src.KIND n) = 3 then c.bump (Key.Src.SAMPLES n) else c) c

/-- The chip on which a cycle begins. -/
def cycleOpened (k : Keeper) (c : Chip) : Chip := cycleSampled k (cycleStale k (cycleDisarmed (cycleShed k c)))

theorem cycleShed_cycles (k : Keeper) (c : Chip) : (cycleShed k c).fus.cycles = c.fus.cycles := by
  unfold cycleShed
  split <;> rfl

theorem cycleDisarmed_cycles (c : Chip) : (cycleDisarmed c).fus.cycles = c.fus.cycles := by
  unfold cycleDisarmed
  dsimp only
  split <;> rfl

theorem staleRaise_fus (k : Keeper) (c : Chip) (n : Nat) : (staleRaise k c n).fus = c.fus := by
  unfold staleRaise
  split
  · exact raise_fus ..
  · rfl

theorem cycleStale_cycles (k : Keeper) (c : Chip) : (cycleStale k c).fus.cycles = c.fus.cycles := by
  unfold cycleStale
  generalize List.range 16 = sources
  refine foldl_chip_preserves (fun d => d.fus.cycles = c.fus.cycles) (staleRaise k) (fun d n hd => ?_) sources c rfl
  rw [staleRaise_fus]
  exact hd

theorem cycleSampled_cycles (k : Keeper) (c : Chip) : (cycleSampled k c).fus.cycles = c.fus.cycles := by
  refine foldl_chip_preserves (fun d => d.fus.cycles = c.fus.cycles) _ (fun d n hd => ?_) _ c rfl
  split <;> exact hd

theorem cycleOpened_cycles (k : Keeper) (c : Chip) : (cycleOpened k c).fus.cycles = c.fus.cycles := by
  rw [cycleOpened, cycleSampled_cycles, cycleStale_cycles, cycleDisarmed_cycles, cycleShed_cycles]

/-- The chip with one more cycle under way. -/
def withCycle (c : Chip) (y : FusCycle) : Chip :=
  { c with fus := { c.fus with cycles := c.fus.cycles ++ [y], late := false } }

theorem execFusionCycle_of_idle {s : State} (hedge : s.keeper.epoch % 50 = 0) (hup : up s.found 9 = true)
    (htiles : tilesRun s.found = true) (hgate : gateOpen s.found 4 = true) (hash : unitAshed s.found unitFusion = false)
    (hidle : s.found.fus.cycles = []) :
    ∃ y, execFusionCycle s = .next { s with chip := (withCycle (cycleOpened s.keeper s.found) y) } ∧
      y.edge = s.keeper.epoch := by
  unfold execFusionCycle cycleOpened cycleSampled cycleStale cycleDisarmed cycleShed
  generalize List.range 16 = sources
  apply Exists.intro
  refine ⟨onChip_eq_next ((if_neg ?_).trans ?_), ?_⟩
  · rw [hedge, hup, htiles, hgate, hash, hidle]
    simp
  · rfl
  · rfl

/-! ## Samples (R309, R313) -/

theorem execTileDetectionsComplete_of_enabled {s : State} {src : Fin 16} (e : Nat) (found : List Detection)
    (hkind : s.found.num (Key.Src.KIND src) = 1) (hup : up s.found 9 = true) (htiles : tilesRun s.found = true)
    (hash : unitAshed s.found unitFusion = false) (henabled : s.found.flag (Key.Src.SRC_ENABLE src) = true)
    (hnone : nth s.found.fus.samples src none = none) (hfirst : s.found.fus.published = none) :
    execTileDetectionsComplete src e found s = .next { s with chip := { s.found.bump (Key.Src.SAMPLES src) with
      fus := { s.found.fus with samples := s.found.fus.samples.set src (some (e, found)) } } } := by
  refine onChip_eq_next ((if_neg ?_).trans ?_)
  · rw [hkind, hup, htiles, hash, henabled]
    simp
  · rw [hfirst, hnone]
    rfl

/-! ## A cycle complete or lost (R311, R312) -/

theorem shedJudge_due (c : Chip) (ms : Nat) : (shedJudge c ms).fus.due = c.fus.due := by
  unfold shedJudge
  dsimp only
  split
  · rfl
  · split
    · split <;> rfl
    · rfl

/-- The chip with a cycle's results due at an edge. -/
def withDue (c : Chip) (due : Nat × Nat) : Chip := { c with fus := { c.fus with due := c.fus.due ++ [due] } }

theorem execFusionCycleComplete_of_intime {s : State} (ego : Bool) {y : FusCycle} {rest : List FusCycle}
    (hcycles : s.found.fus.cycles = y :: rest) (hsound : y.doomed = false)
    (hintime : nowUs s.keeper s.found ≤ 1000 * y.edge + 100000) :
    ∃ c ms, execFusionCycleComplete ego s = .next { s with chip :=
      (closeHandling (shedJudge (withDue c (openEdge s.keeper, y.edge)) ms) 0x0B02 unitFusion) } := by
  apply Exists.intro
  apply Exists.intro
  refine onChip_eq_next ?_
  rw [hcycles]
  refine (if_neg ?_).trans ?_
  · rw [hsound, decide_eq_false (Nat.not_lt.2 hintime)]
    decide
  · rfl

/-- The chip whose lost cycle is gone and counted. -/
def cycleDropped (c : Chip) (rest : List FusCycle) : Chip :=
  ({ c with fus := { c.fus with cycles := rest } } : Chip).bump Key.Fus.CYCLES_LOST

theorem execFusionCycleLost_of_late {s : State} {y : FusCycle} {rest : List FusCycle} (hcycles : s.found.fus.cycles = y :: rest)
    (hlate : 1000 * y.edge + 100000 ≤ nowUs s.keeper s.found) :
    execFusionCycleLost s = .next { s with chip :=
      (raise s.keeper (cycleDropped s.found rest) 0x0B02 unitFusion y.doomed) } := by
  refine onChip_eq_next ?_
  rw [hcycles]
  exact if_neg (Nat.not_lt.2 hlate)

theorem cycleDropped_facts (k : Keeper) {c : Chip} (rest : List FusCycle) (inj : Bool) (hfree : HandlerFree c 0x0B02 unitFusion) :
    let d := raise k (cycleDropped c rest) 0x0B02 unitFusion inj
    Taken c d 0x0B02 unitFusion inj ∧ d.fus = { c.fus with cycles := rest } ∧
      d.num Key.Fus.CYCLES_LOST = (c.num Key.Fus.CYCLES_LOST + 1) % 0x100000000 ∧
      KeepsObjects (Key.Fus.CYCLES_LOST :: eventKeys) c d := by
  obtain ⟨htaken, hcount, hkept⟩ := raise_taken_put k c (cycleDropped c rest) 0x0B02 unitFusion inj Key.Fus.CYCLES_LOST _ hfree
    rfl rfl (by decide)
  exact ⟨htaken, raise_fus .., hcount, hkept⟩

/-! ## Ego coast (R315) -/

/-- Ego data have ended and the write of `w` is due. -/
def EgoEnded (w : Write) (c : Chip) : Prop := c.fus.egoLost = true ∧ w ∈ c.dict.tile

theorem EgoEnded.raise {w : Write} {c : Chip} (k : Keeper) (code unit : Nat) (inj : Bool) (h : EgoEnded w c) :
    EgoEnded w (raise k c code unit inj) := by
  rwa [EgoEnded, raise_fus, raise_dict]

theorem EgoEnded.tileWrite {w : Write} {c : Chip} (k : Keeper) (key : Nat) (v : Val) (h : EgoEnded w c) :
    EgoEnded w (tileWrite k c key v) :=
  ⟨h.1, List.mem_append_left _ h.2⟩

/-- The chip whose zone is unknown, at its occupied cap. -/
def zoneUnknown (k : Keeper) (inj : Bool) (c : Chip) (z : Nat) : Chip :=
  let c := if c.num (Key.Zone.ZONE_STATE z) ≠ 3 then raise k c 0x0B04 (unitZone z) inj else c
  tileWrite k (tileWrite k c (Key.Zone.ZONE_CAP z) (.num (c.num (Key.Zone.CAP_OCCUPIED z)))) (Key.Zone.ZONE_STATE z) (.num 3)

theorem EgoEnded.zoneUnknown {w : Write} {c : Chip} (k : Keeper) (inj : Bool) (z : Nat) (h : EgoEnded w c) :
    EgoEnded w (zoneUnknown k inj c z) := by
  unfold Machine.zoneUnknown
  dsimp only
  refine EgoEnded.tileWrite k _ _ (EgoEnded.tileWrite k _ _ ?_)
  split
  · exact h.raise ..
  · exact h

/-- The chip that has lost its ego data. -/
def egoLost (k : Keeper) (inj : Bool) (c : Chip) : Chip :=
  tileWrite k (raise k { c with fus := { c.fus with egoLost := true } } 0x0B03 theModule inj) Key.Fus.EGO_VALID (.num 0)

theorem egoLost_ended (k : Keeper) (inj : Bool) (c : Chip) :
    EgoEnded ⟨openEdge k, .tile, Key.Fus.EGO_VALID, .num 0⟩ (egoLost k inj c) := by
  refine ⟨?_, List.mem_append_right _ List.mem_cons_self⟩
  show (raise k _ 0x0B03 theModule inj).fus.egoLost = true
  rw [raise_fus]

/-- The chip that has lost its ego data, its zones unknown. -/
def egoZonesLost (k : Keeper) (inj : Bool) (c : Chip) : Chip :=
  (zonesOn c.od).foldl (zoneUnknown k inj) c

theorem EgoEnded.zonesLost {w : Write} {c : Chip} (k : Keeper) (inj : Bool) (h : EgoEnded w c) :
    EgoEnded w (egoZonesLost k inj c) :=
  foldl_chip_preserves (EgoEnded w) (Machine.zoneUnknown k inj) (fun _ z hd => hd.zoneUnknown k inj z) _ _ h

/-- The chip whose cap of proximity is that of its occupied zones, once a cycle has been published. -/
def proxCapped (k : Keeper) (c : Chip) : Chip :=
  if c.fus.published.isSome then
    tileWrite k c Key.Fus.PROX_CAP (.num (proxCap c.od fun z => c.num (Key.Zone.CAP_OCCUPIED z)))
  else c

theorem EgoEnded.proxCapped {w : Write} {c : Chip} (k : Keeper) (h : EgoEnded w c) : EgoEnded w (proxCapped k c) := by
  unfold Machine.proxCapped
  split
  · exact h.tileWrite ..
  · exact h

theorem execEgoCoastExpiry_of_expired {s : State} (hup : up s.found 9 = true) (hash : unitAshed s.found unitFusion = false)
    (hego : s.found.fus.egoLost = false) (hexpired : s.found.fus.egoAt + s.found.num Key.Fus.EGO_COAST ≤ s.keeper.epoch) :
    ∃ inj, execEgoCoastExpiry s = .next { s with chip :=
      (proxCapped s.keeper (egoZonesLost s.keeper inj (egoLost s.keeper inj s.found))) } := by
  refine ⟨_, onChip_eq_next ((if_neg ?_).trans rfl)⟩
  rw [hup, hash, hego, decide_eq_false (Nat.not_lt.2 hexpired)]
  decide

end Sys2Proof.Machine

/-! ## The statement -/

namespace Sys2Proof.Proofs.Fusion

open Sys2Proof Sys2Proof.Machine

/-- Settles O45: one lemma for each command, under the conditions that let it act. -/
theorem fusionCommandsComplete : Obligations.FusionCommandsComplete := by
  refine ⟨fun s hedge hup htiles hgate hash hidle => ?cycle,
    fun s src e found hkind hup htiles hash henabled hnone hfirst =>
      execTileDetectionsComplete_of_enabled e found hkind hup htiles hash henabled hnone hfirst,
    fun s n data => rfl,
    fun s ego y rest hcycles hsound hintime => ?complete,
    fun s y rest hcycles hlate hfree =>
      ⟨_, execFusionCycleLost_of_late hcycles hlate, cycleDropped_facts s.keeper rest y.doomed hfree⟩,
    fun s hup hash hego hexpired => ?coast⟩
  case cycle =>
    obtain ⟨y, hexec, hyedge⟩ := execFusionCycle_of_idle hedge hup htiles hgate hash hidle
    refine ⟨_, hexec, ?_, rfl⟩
    show ((cycleOpened s.keeper s.found).fus.cycles ++ [y]).map (·.edge) = [s.keeper.epoch]
    rw [cycleOpened_cycles, hidle, ← hyedge]
    rfl
  case complete =>
    obtain ⟨c, ms, hexec⟩ := execFusionCycleComplete_of_intime ego hcycles hsound hintime
    refine ⟨_, hexec, ?_⟩
    show (openEdge s.keeper, y.edge) ∈ (shedJudge (withDue c (openEdge s.keeper, y.edge)) ms).fus.due
    rw [shedJudge_due]
    exact List.mem_append_right _ List.mem_cons_self
  case coast =>
    obtain ⟨inj, hexec⟩ := execEgoCoastExpiry_of_expired hup hash hego hexpired
    exact ⟨_, hexec, ((egoLost_ended s.keeper inj s.found).zonesLost s.keeper inj).proxCapped s.keeper⟩

end Sys2Proof.Proofs.Fusion
end
